-- ==== Sys2Proof/Word.lean ====
section
/-! DEFINITION. The machine's word types and the small named alternatives that encodings and state share. -/

namespace Sys2Proof

/-- A 64-bit scalar register (R29). -/
abbrev Word := BitVec 64

/-- A byte of memory. -/
abbrev Byte := BitVec 8

/-- A context of the package: die*80 + core*2 + ctx, with core = cluster*4 + pair*2 + core (R2). -/
abbrev CtxId := Fin 320

/-- A core of the package: die*40 + logical core number (R2). -/
abbrev CoreId := Fin 160

/-- A pair of the package: core number / 2 (R2). -/
abbrev PairId := Fin 80

/-- A cluster of the package: die*10 + logical cluster (R2). -/
abbrev ClusterId := Fin 40

/-- The fourteen element formats, codes 0 to 13 (R37, R84). -/
inductive Fmt where
  | f32 | bf16 | f16 | t8 | t6 | i8 | i16 | i32 | i64 | n8 | n16 | n32 | n64 | fx48
  deriving DecidableEq, Repr

/-- The type field of a scalar instruction: an element format, or code 14, the link form (R61). -/
inductive Ty where
  | fmt (f : Fmt)
  | link
  deriving DecidableEq, Repr

/-- The five scopes, codes 0 to 4 (R62). -/
inductive Scope where
  | core | cluster | die | package | pod
  deriving DecidableEq, Repr

/-- The rounding modes: nearest even, toward zero, upward, downward (R62, R98). -/
inductive Rm where
  | ne | rz | ru | rd
  deriving DecidableEq, Repr

/-- The conditions of CMP, FCMP and VCMP (R63, R329, R335). -/
inductive Cond where
  | eq | ne | lt | le | gt | ge | un
  deriving DecidableEq, Repr

/-- The nine slots of a bundle, in commit order; the index is the bit of PRES (R56, R59). -/
inductive Slot where
  | Y | S | T | V0 | V1 | X | M | C0 | C1
  deriving DecidableEq, Repr

/-- The cell operations of a matrix pass, and the sequence (R71, R102). -/
inductive Cop where
  | fma | abd | csx | csn | seq
  deriving DecidableEq, Repr

/-- The operations of a reduction, codes 0 to 4 (R72). -/
inductive Rop where
  | add | max | min | and | or
  deriving DecidableEq, Repr

/-- The kinds of summary object that SKINIT makes (R76, R129). -/
inductive SumKind where
  | quantile | heavy | distinct
  deriving DecidableEq, Repr

/-- An 8-bit row specification: an immediate base index or the scalar that holds it (R66). -/
inductive Row8 where
  | imm (b : Fin 128)
  | reg (r : Fin 64)
  deriving DecidableEq, Repr

/-- A 7-bit row specification (R66). -/
inductive Row7 where
  | imm (b : Fin 64)
  | reg (r : Fin 64)
  deriving DecidableEq, Repr

/-- The immediate of format SI: the nine bits, or the extension word (R63). -/
inductive Imm9 where
  | short (v : BitVec 9)
  | long (v : BitVec 32)
  deriving DecidableEq, Repr

/-- The immediate of MOVI: the nineteen bits, or the extension word (R63). -/
inductive Imm19 where
  | short (v : BitVec 19)
  | long (v : BitVec 32)
  deriving DecidableEq, Repr

/-- The immediate element of slot T: the six bits, or the extension word (R69). -/
inductive Elem where
  | short (e : Fin 64)
  | long (e : Fin 512)
  deriving DecidableEq, Repr

/-- A memory operand of format SM: sA + (XB ? sB : 0) + extension word (R63). -/
structure MemArg where
  sa : Fin 64
  sb : Fin 64
  xb : Bool
  ext : Option (BitVec 32)
  deriving DecidableEq, Repr

/-- The modifier word of a V or X instruction (R67). -/
structure Modifier where
  doff : Fin 256
  aoff : Fin 256
  boff : Fin 256
  rm : Fin 4
  pen : Bool
  psel : Fin 16
  pneg : Bool
  deriving DecidableEq, Repr

/-- The identity of a context as words name it: package, die, logical core number, context (R2, R65, R72). -/
structure Ident where
  pkg : BitVec 12
  die : Fin 4
  core : Fin 64
  ctx : Bool
  deriving DecidableEq, Repr

/-- The target word of FPOST: its scope, 1 to 4, and the target context (R65). -/
structure PostTarget where
  sc : Scope
  id : Ident
  deriving DecidableEq, Repr

/-- The notification word of a copy command (R72). -/
structure NotifWord where
  group : Fin 256
  rf : Bool
  id : Ident
  deriving DecidableEq, Repr

/-- The notification fields of a C-slot word with its optional notification word (R72). -/
structure Notif where
  ui : Bool
  gv : Bool
  fv : Bool
  k : Fin 32
  word : Option NotifWord
  deriving DecidableEq, Repr

/-- The reduction word of CRED (R72). -/
structure RedWord where
  rid : Fin 1024
  rop : Rop
  lw : Fin 4
  deriving DecidableEq, Repr

/-- What one end of a link sees after training: lane map, speed code, error correction (R232, R238). -/
structure LinkView where
  lanes : BitVec 8
  speed : Fin 3
  fec : Bool
  deriving DecidableEq, Repr

/-- What a link brings in one unit: sequence number, whether its CRC was good, the 64-byte flit if one is carried,
and the far end's acknowledgement number (R231). -/
structure LinkFlit where
  seq : BitVec 12
  good : Bool
  flit : Option (BitVec 512)
  ack : Option (BitVec 12)
  deriving DecidableEq, Repr

/-- Where a soft error is found (R300). -/
inductive ErrSite where
  | context (x : CtxId)
  | line (a : Nat)
  | corrected (die : Fin 4)
  deriving DecidableEq, Repr

/-- What a debugger may write (R281, R282). -/
inductive DbgDest where
  | sreg (r : Fin 64)
  | pred (p : Fin 16)
  | view (w : Fin 64)
  | sys (n : Fin 4096)
  | row (r : Fin 512)
  deriving DecidableEq, Repr

/-- What the die's sensors report for a telemetry interval (R299). -/
structure Sensors where
  temp : BitVec 32
  amps : BitVec 32
  mw : BitVec 32
  usec : BitVec 64
  deriving DecidableEq, Repr

/-- The code of a format (R37). -/
def Fmt.code : Fmt → Nat
  | .f32 => 0 | .bf16 => 1 | .f16 => 2 | .t8 => 3 | .t6 => 4 | .i8 => 5 | .i16 => 6 | .i32 => 7
  | .i64 => 8 | .n8 => 9 | .n16 => 10 | .n32 => 11 | .n64 => 12 | .fx48 => 13

/-- The format of a code; 14 and 15 name none (R37). -/
def Fmt.ofCode : Nat → Option Fmt
  | 0 => some .f32 | 1 => some .bf16 | 2 => some .f16 | 3 => some .t8 | 4 => some .t6 | 5 => some .i8
  | 6 => some .i16 | 7 => some .i32 | 8 => some .i64 | 9 => some .n8 | 10 => some .n16 | 11 => some .n32
  | 12 => some .n64 | 13 => some .fx48 | _ => none

/-- The code of a type field (R61). -/
def Ty.code : Ty → Nat
  | .fmt f => f.code
  | .link => 14

/-- The type of a code; 15 names none (R61). -/
def Ty.ofCode : Nat → Option Ty
  | 14 => some .link
  | n => (Fmt.ofCode n).map .fmt

/-- The code of a scope (R62). -/
def Scope.code : Scope → Nat
  | .core => 0 | .cluster => 1 | .die => 2 | .package => 3 | .pod => 4

/-- The scope of a code 0 to 4 (R62). -/
def Scope.ofCode : Nat → Option Scope
  | 0 => some .core | 1 => some .cluster | 2 => some .die | 3 => some .package | 4 => some .pod | _ => none

/-- The wider of two scopes. -/
def Scope.max (a b : Scope) : Scope := if a.code < b.code then b else a

/-- The code of a rounding mode (R62). -/
def Rm.code : Rm → Nat
  | .ne => 0 | .rz => 1 | .ru => 2 | .rd => 3

/-- The rounding mode of the low two bits of a number (R62). -/
def Rm.ofCode (n : Nat) : Rm :=
  match n % 4 with
  | 0 => .ne | 1 => .rz | 2 => .ru | _ => .rd

/-- The code of a condition (R63). -/
def Cond.code : Cond → Nat
  | .eq => 0 | .ne => 1 | .lt => 2 | .le => 3 | .gt => 4 | .ge => 5 | .un => 6

/-- The condition of a code; 7 names none (R63). -/
def Cond.ofCode : Nat → Option Cond
  | 0 => some .eq | 1 => some .ne | 2 => some .lt | 3 => some .le | 4 => some .gt | 5 => some .ge
  | 6 => some .un | _ => none

/-- The index of a slot, its bit in PRES (R56). -/
def Slot.index : Slot → Nat
  | .Y => 0 | .S => 1 | .T => 2 | .V0 => 3 | .V1 => 4 | .X => 5 | .M => 6 | .C0 => 7 | .C1 => 8

/-- The slots in commit order (R59). -/
def Slot.all : List Slot := [.Y, .S, .T, .V0, .V1, .X, .M, .C0, .C1]

/-- The code of a cell operation (R71). -/
def Cop.code : Cop → Nat
  | .fma => 0 | .abd => 1 | .csx => 2 | .csn => 3 | .seq => 4

/-- The cell operation of a code; 5 to 7 name none (R71). -/
def Cop.ofCode : Nat → Option Cop
  | 0 => some .fma | 1 => some .abd | 2 => some .csx | 3 => some .csn | 4 => some .seq | _ => none

/-- What packages tell each other about a group of pod scope, whose barrier unit sits in one of them (R24, R25; log entry 68): an
arrival; bytes that a copy command adds to PEND or takes from it, with the command's context, engine and queue index; a phase that has
completed; the command whose bytes PEND could not take. -/
inductive GroupMsg where
  | arrive
  | bytes (n : Int) (x : Nat) (e : Bool) (qix : Nat)
  | phase (ph : BitVec 16)
  | refused (x : Nat) (e : Bool) (qix : Nat)
  deriving DecidableEq, Repr

/-- Where a barrier message comes from: it is the n-th on its way in this package, or another package sends it about a group of a
launch (log entry 68). -/
inductive BarrierMsg where
  | listed (n : Nat)
  | outside (pkg launch : Nat) (g : Fin 256) (m : GroupMsg)
  deriving DecidableEq, Repr

/-- The code of a reduction operation (R72). -/
def Rop.code : Rop → Nat
  | .add => 0 | .max => 1 | .min => 2 | .and => 3 | .or => 4

/-- The reduction operation of a code; 5 to 7 name none (R72). -/
def Rop.ofCode : Nat → Option Rop
  | 0 => some .add | 1 => some .max | 2 => some .min | 3 => some .and | 4 => some .or | _ => none

/-- The code of a summary kind (R76). -/
def SumKind.code : SumKind → Nat
  | .quantile => 0 | .heavy => 1 | .distinct => 2

/-- The summary kind of a code; 3 to 63 name none (R76). -/
def SumKind.ofCode : Nat → Option SumKind
  | 0 => some .quantile | 1 => some .heavy | 2 => some .distinct | _ => none

end Sys2Proof
end

