-- ==== Sys2Proof/Config.lean ====
section
/-! DEFINITION. What the spec leaves open: free values, constants without a body that no proof can see. -/

namespace Sys2Proof.Config

/-- A fresh unconstrained word, applied to State's counter of free values. -/
opaque freeWord : Nat → BitVec 64

/-- SHA-384, named and not given by the spec (R271, R293, R294). -/
opaque sha384 : List (BitVec 8) → BitVec 384

/-- The ECDSA P-384 signature (r, s) with the package's image key, named and not given (R271). -/
opaque imageSign : BitVec 384 → BitVec 768

/-- The ECDSA P-384 signature with the package's identity key, named and not given (R294). -/
opaque identitySign : BitVec 384 → BitVec 768

/-- Whether a signature verifies under the fused key, named and not given (R293). -/
opaque firmwareVerifies : List (BitVec 8) → Bool

end Sys2Proof.Config
end

