-- ==== Sys2Proof/Syntax.lean ====
section
/-! DEFINITION. The instructions: one constructor per row of the opcode table. Rows 100 to 256 are slot words of the
code stream with their operands; the other rows are the part's other indivisible steps (95_what_each_step_holds.md),
with the operands that name the unit they act on or carry what the outside world supplies; a step of one context acts, as
an instruction does, for the context State.cur. Constructors without operands stand last. -/

namespace Sys2Proof

/-- A step of the part: an instruction of the code stream or one of its other indivisible steps. -/
inductive Instr where
  /-- DOORBELL (R212). -/
  | doorbell (fn q : Nat) (v : BitVec 32)
  /-- WORKER_PLACE (R216). -/
  | workerPlace (x : CtxId)
  /-- LAUNCH_COMPLETE (R225). -/
  | launchComplete (l : Nat)
  /-- HELD_COMPLETION_WRITE (R225). -/
  | heldCompletionWrite (q : Nat)
  /-- MSIX_COALESCE_EXPIRY (R226). -/
  | msixCoalesceExpiry (q : Nat)
  /-- GRAPH_EDGE_COMPLETE (R189). -/
  | graphEdgeComplete (r e : Nat)
  /-- NODE_START (R224). -/
  | nodeStart (r n : Nat)
  /-- PREEMPT_TRIGGER (R218). -/
  | preemptTrigger (l : Nat)
  /-- IMAGE_SEAL (R269). -/
  | imageSeal (p : PairId)
  /-- HELD_RESPONSE_APPEND (R272). -/
  | heldResponseAppend (p : PairId)
  /-- LEAN_RESTORE (R267). -/
  | leanRestore (x : CtxId) (n : Nat)
  /-- RESTORE_IMAGE (R274). -/
  | restoreImage (p : PairId) (n : Nat)
  /-- COLLISION_PRIORITY_SWAP (R19). -/
  | collisionPrioritySwap (c : CoreId)
  /-- GRANULE_RETENTION_ENTRY (R44). -/
  | granuleRetentionEntry (c : CoreId) (g : Fin 64)
  /-- RETENTION_WAKE_COMPLETE (R43). -/
  | retentionWakeComplete (c : CoreId) (g : Fin 64)
  /-- TOKEN_REFILL (R227). -/
  | tokenRefill (d : Fin 4)
  /-- TOKEN_REQUEST_SERVED (R228). -/
  | tokenRequestServed (d : Fin 4)
  /-- MLD_FILL_COMPLETE (R120). -/
  | mldFillComplete (p : PairId) (om : Fin 16)
  /-- SUMMARY_OP_COMPLETE (R136). -/
  | summaryOpComplete (c : CoreId)
  /-- LOAD_LAND (R156). -/
  | loadLand (n : Nat)
  /-- MULTICAST_STORE_LAND (R163). -/
  | multicastStoreLand (d : Fin 4) (n : Nat)
  /-- TLB_WALK_COMPLETE (R197). -/
  | tlbWalkComplete (d : Fin 4) (n : Nat)
  /-- COPY_ENGINE_START (R158). -/
  | copyEngineStart (c : CoreId) (e : Bool)
  /-- COPY_DATA_LAND (R161). -/
  | copyDataLand (c : CoreId) (e : Bool)
  /-- COPY_COMPLETE (R161). -/
  | copyComplete (c : CoreId) (e : Bool)
  /-- BARRIER_ARRIVAL (R25). -/
  | barrierArrival (m : BarrierMsg)
  /-- FLAG_INCREMENT (R338). -/
  | flagIncrement (n : Nat)
  /-- WINDOW_READ (R169). -/
  | windowRead (n : Nat)
  /-- WINDOW_READ_FOR_OWNERSHIP (R169). -/
  | windowReadForOwnership (n : Nat)
  /-- WINDOW_UPGRADE (R169). -/
  | windowUpgrade (n : Nat)
  /-- WINDOW_FORWARDED_REQUEST (R169). -/
  | windowForwardedRequest (n : Nat)
  /-- WINDOW_INVALIDATION (R168). -/
  | windowInvalidation (n : Nat)
  /-- WINDOW_ACKNOWLEDGEMENT (R169). -/
  | windowAcknowledgement (n : Nat)
  /-- WINDOW_DATA (R168). -/
  | windowData (n : Nat)
  /-- WINDOW_NOT_BUSY (R169). -/
  | windowNotBusy (n : Nat)
  /-- WINDOW_WRITEBACK (R168). -/
  | windowWriteback (n : Nat)
  /-- WINDOW_HOME_ACK (R168). -/
  | windowHomeAck (n : Nat)
  /-- DIRECTORY_RECALL (R167). -/
  | directoryRecall (d : Fin 12)
  /-- REMOTE_READ (R206). -/
  | remoteRead (n : Nat)
  /-- REMOTE_WRITE (R206). -/
  | remoteWrite (n : Nat)
  /-- REMOTE_ATOMIC (R208). -/
  | remoteAtomic (n : Nat)
  /-- READ_DATA (R233). -/
  | readData (n : Nat)
  /-- ATOMIC_ANSWER (R208). -/
  | atomicAnswer (n : Nat)
  /-- ACKNOWLEDGEMENT (R234). -/
  | acknowledgement (n : Nat)
  /-- FABRIC_FORWARD (R236). -/
  | fabricForward (n : Nat)
  /-- LINK_FLIT_RECEIVE (R231). -/
  | linkFlitReceive (l : Fin 16) (f : LinkFlit)
  /-- LINK_REPLAY (R231). -/
  | linkReplay (l : Fin 16) (seq : BitVec 12)
  /-- LINK_CRC_THRESHOLD (R237). -/
  | linkCrcThreshold (l : Fin 16)
  /-- LINK_LANE_LOSS (R237). -/
  | linkLaneLoss (l : Fin 16) (lanes : BitVec 8)
  /-- LINK_REPLAY_LIMIT (R237). -/
  | linkReplayLimit (l : Fin 16)
  /-- LINK_TRAIN_COMPLETE (R238). -/
  | linkTrainComplete (l : Fin 16) (v : LinkView)
  /-- LINK_TRAIN_TIMEOUT (R238). -/
  | linkTrainTimeout (l : Fin 16)
  /-- LINK_HANDSHAKE_COMPLETE (R238). -/
  | linkHandshakeComplete (l : Fin 16) (far : Option LinkView)
  /-- LNKCTL_RETRAIN (R232). -/
  | lnkctlRetrain (l : Fin 16)
  /-- LNKCTL_BRING_UP (R232). -/
  | lnkctlBringUp (l : Fin 16)
  /-- LNKCTL_FORCE_DOWN (R232). -/
  | lnkctlForceDown (l : Fin 16)
  /-- LINK_FIFO_WORDS (R239). -/
  | linkFifoWords (n : Nat)
  /-- CHANNEL_ARRIVAL (R245). -/
  | channelArrival (n : Nat)
  /-- CHANNEL_CREDIT (R245). -/
  | channelCredit (n : Nat)
  /-- REDUCE_CONTRIBUTION (R247). -/
  | reduceContribution (n : Nat)
  /-- REDUCE_RESULT (R247). -/
  | reduceResult (n : Nat)
  /-- REDUCTION_TABLE_WRITE (R246). -/
  | reductionTableWrite (i : Fin 1024) (v : BitVec 128)
  /-- ROUTE_TABLE_WRITE (R235). -/
  | routeTableWrite (i : Nat) (v : BitVec 32)
  /-- ROUTE_ENTRY_APPLY (R235). -/
  | routeEntryApply (n : Nat)
  /-- DIDT_WRITE (R297). -/
  | didtWrite (d : Fin 4) (v : BitVec 64)
  /-- PKGID_WRITE (R296). -/
  | pkgidWrite (v : BitVec 64)
  /-- COMMCTL_START (R295). -/
  | commctlStart (v : BitVec 64)
  /-- TRCCTL_WRITE (R286). -/
  | trcctlWrite (d : Fin 4) (v : BitVec 64)
  /-- REGISTER_WRITE (R398). -/
  | registerWrite (a : Nat) (v : BitVec 64)
  /-- PEER_WRITE (R292). -/
  | peerWrite (fn : Nat) (off : Nat) (bytes : List Byte)
  /-- PEER_READ (R292). -/
  | peerRead (fn : Nat) (off : Nat)
  /-- ATTESTATION_REQUEST (R294). -/
  | attestationRequest (nonce : BitVec 256)
  /-- TELEMETRY_RECORD (R299). -/
  | telemetryRecord (d : Fin 4) (v : Sensors)
  /-- POWER_THROTTLE (R298). -/
  | powerThrottle (watts : Nat)
  /-- TRACE_SAMPLE (R285). -/
  | traceSample (d : Fin 4)
  /-- UNCORRECTABLE_ERROR (R300). -/
  | uncorrectableError (e : ErrSite)
  /-- DBG_HALT (R280). -/
  | dbgHalt (x : CtxId) (h : Bool)
  /-- DBG_STEP (R280). -/
  | dbgStep (x : CtxId)
  /-- DBG_REGISTER_WRITE (R282). -/
  | dbgRegisterWrite (x : CtxId) (r : DbgDest) (v : BitVec 4096)
  /-- DBG_LATCH_EDIT (R281). -/
  | dbgLatchEdit (x : CtxId) (n : Nat) (v : BitVec 4096)
  /-- TLBINV_ENTRY (R199). -/
  | tlbinvEntry (sa : Fin 64)
  /-- TLBINV_ASID (R199). -/
  | tlbinvAsid (sa : Fin 64)
  /-- TLBINV_ALL (R199). -/
  | tlbinvAll (sa : Fin 64)
  /-- TBA_WRITE (R251). -/
  | tbaWrite (sa : Fin 64)
  /-- ADD (R313). -/
  | add (ty : Ty) (sd sa sb : Fin 64)
  /-- ADD_IMM (R313). -/
  | addImm (ty : Ty) (sd sa : Fin 64) (imm : Imm9)
  /-- SUB (R313). -/
  | sub (ty : Ty) (sd sa sb : Fin 64)
  /-- SUB_IMM (R313). -/
  | subImm (ty : Ty) (sd sa : Fin 64) (imm : Imm9)
  /-- MUL (R313). -/
  | mul (ty : Ty) (sd sa sb : Fin 64)
  /-- MUL_IMM (R313). -/
  | mulImm (ty : Ty) (sd sa : Fin 64) (imm : Imm9)
  /-- MULH (R356). -/
  | mulh (ty : Ty) (sd sa sb : Fin 64)
  /-- DIV (R333). -/
  | div (ty : Ty) (sd sa sb : Fin 64)
  /-- REM (R333). -/
  | rem (ty : Ty) (sd sa sb : Fin 64)
  /-- MIN (R313). -/
  | min (ty : Ty) (sd sa sb : Fin 64)
  /-- MIN_IMM (R313). -/
  | minImm (ty : Ty) (sd sa : Fin 64) (imm : Imm9)
  /-- MAX (R313). -/
  | max (ty : Ty) (sd sa sb : Fin 64)
  /-- MAX_IMM (R313). -/
  | maxImm (ty : Ty) (sd sa : Fin 64) (imm : Imm9)
  /-- AND (R313). -/
  | and (ty : Ty) (sd sa sb : Fin 64)
  /-- AND_IMM (R313). -/
  | andImm (ty : Ty) (sd sa : Fin 64) (imm : Imm9)
  /-- OR (R313). -/
  | or (ty : Ty) (sd sa sb : Fin 64)
  /-- OR_IMM (R313). -/
  | orImm (ty : Ty) (sd sa : Fin 64) (imm : Imm9)
  /-- XOR (R313). -/
  | xor (ty : Ty) (sd sa sb : Fin 64)
  /-- XOR_IMM (R313). -/
  | xorImm (ty : Ty) (sd sa : Fin 64) (imm : Imm9)
  /-- SHL (R313). -/
  | shl (ty : Ty) (sd sa sb : Fin 64)
  /-- SHL_IMM (R313). -/
  | shlImm (ty : Ty) (sd sa : Fin 64) (imm : Imm9)
  /-- SHR (R313). -/
  | shr (ty : Ty) (sd sa sb : Fin 64)
  /-- SHR_IMM (R313). -/
  | shrImm (ty : Ty) (sd sa : Fin 64) (imm : Imm9)
  /-- SHRA (R313). -/
  | shra (ty : Ty) (sd sa sb : Fin 64)
  /-- SHRA_IMM (R313). -/
  | shraImm (ty : Ty) (sd sa : Fin 64) (imm : Imm9)
  /-- CMP (R329). -/
  | cmp (ty : Ty) (c : Cond) (pd : Fin 16) (sa sb : Fin 64)
  /-- SEL (R361). -/
  | sel (p : Fin 16) (sd sa sb : Fin 64)
  /-- CLZ (R328). -/
  | clz (ty : Ty) (sd sa : Fin 64)
  /-- POPC (R357). -/
  | popc (ty : Ty) (sd sa : Fin 64)
  /-- BFX (R319). -/
  | bfx (sx : Bool) (sd sa pos lenm1 : Fin 64)
  /-- BFI (R319). -/
  | bfi (sd sa pos lenm1 : Fin 64)
  /-- FADD (R334). -/
  | fadd (ty : Ty) (rm : Rm) (sd sa sb : Fin 64)
  /-- FMUL (R334). -/
  | fmul (ty : Ty) (rm : Rm) (sd sa sb : Fin 64)
  /-- FMA (R334). -/
  | fma (ty : Ty) (rm : Rm) (sd sa sb : Fin 64)
  /-- FCMP (R335). -/
  | fcmp (ty : Ty) (c : Cond) (pd : Fin 16) (sa sb : Fin 64)
  /-- FCVT (R336). -/
  | fcvt (dst src : Fmt) (rm : Rm) (sd sa : Fin 64)
  /-- MOVI (R355). -/
  | movi (sd : Fin 64) (imm : Imm19)
  /-- MOVHI (R355). -/
  | movhi (sd : Fin 64) (w : BitVec 32)
  /-- LD (R344). -/
  | ld (ty : Ty) (sc : Option Scope) (sd : Fin 64) (m : MemArg)
  /-- ST (R364). -/
  | st (ty : Ty) (sc : Option Scope) (sd : Fin 64) (m : MemArg)
  /-- ACAS (R310). -/
  | acas (ty : Ty) (sc : Scope) (sd sa sb : Fin 64) (ext : Option (BitVec 32))
  /-- FLUSH (R152). -/
  | flush (sc : Scope) (sa sb : Fin 64) (ext : Option (BitVec 32))
  /-- INVAL (R152). -/
  | inval (sc : Scope) (sa sb : Fin 64) (ext : Option (BitVec 32))
  /-- ZLINE (R152). -/
  | zline (sc : Option Scope) (sa sb : Fin 64) (ext : Option (BitVec 32))
  /-- WDECL (R164). -/
  | wdecl (wn : Fin 16) (sa sb se : Fin 64)
  /-- WDROP (R166). -/
  | wdrop (wn : Fin 16)
  /-- ATOM_ADD (R315). -/
  | atomAdd (ty : Ty) (sc : Scope) (sd sa sb : Fin 64) (ext : Option (BitVec 32))
  /-- ATOM_MAX (R315). -/
  | atomMax (ty : Ty) (sc : Scope) (sd sa sb : Fin 64) (ext : Option (BitVec 32))
  /-- ATOM_MIN (R315). -/
  | atomMin (ty : Ty) (sc : Scope) (sd sa sb : Fin 64) (ext : Option (BitVec 32))
  /-- ATOM_AND (R315). -/
  | atomAnd (ty : Ty) (sc : Scope) (sd sa sb : Fin 64) (ext : Option (BitVec 32))
  /-- ATOM_OR (R315). -/
  | atomOr (ty : Ty) (sc : Scope) (sd sa sb : Fin 64) (ext : Option (BitVec 32))
  /-- ATOM_XOR (R315). -/
  | atomXor (ty : Ty) (sc : Scope) (sd sa sb : Fin 64) (ext : Option (BitVec 32))
  /-- ATOM_SWAP (R315). -/
  | atomSwap (ty : Ty) (sc : Scope) (sd sa sb : Fin 64) (ext : Option (BitVec 32))
  /-- BR (R320). -/
  | br (pn : Bool) (p : Fin 16) (off : BitVec 20)
  /-- JMP (R343). -/
  | jmp (off : BitVec 20)
  /-- JMP_REG (R343). -/
  | jmpReg (sn : Fin 64)
  /-- CALL (R323). -/
  | call (off : BitVec 20)
  /-- CALL_REG (R323). -/
  | callReg (sn : Fin 64)
  /-- LOOP (R349). -/
  | loop (pin : Bool) (sa : Fin 64) (bodyw : BitVec 10)
  /-- TRAP (R369). -/
  | trap (code : BitVec 16)
  /-- BRK (R322). -/
  | brk (code : BitVec 16)
  /-- SYSR (R365). -/
  | sysr (sd : Fin 64) (n : Fin 4096)
  /-- SYSW (R365). -/
  | sysw (sa : Fin 64) (n : Fin 4096)
  /-- VIEWSET (R377). -/
  | viewset (vw sa : Fin 64)
  /-- MBREQ (R242). -/
  | mbreq (sa : Fin 64) (pd : Option (Fin 16))
  /-- MBTAKE (R242). -/
  | mbtake (sd : Fin 64) (pd : Option (Fin 16))
  /-- ACQ (R179). -/
  | acq (sc : Scope)
  /-- REL (R179). -/
  | rel (sc : Scope)
  /-- FENCE (R179). -/
  | fence (sc : Scope) (loads stores copies : Bool)
  /-- FPOST (R338). -/
  | fpost (k : Fin 32) (n : BitVec 16) (target : Option PostTarget)
  /-- FWAIT (R339). -/
  | fwait (k : Fin 32) (n : BitVec 16)
  /-- BARA (R317). -/
  | bara (g : Fin 256)
  /-- BARW (R318). -/
  | barw (g : Fin 256)
  /-- LIVE (R264). -/
  | live (e : Fin 256)
  /-- DEAD (R332). -/
  | dead (vw : Fin 64) (first cntm1 : Fin 512)
  /-- XSV_IMM (R389). -/
  | xsvImm (vw sn : Fin 64) (row : Row8) (el : Elem)
  /-- XSV_SCALAR (R389). -/
  | xsvScalar (vw sn : Fin 64) (row : Row8) (sm : Fin 64)
  /-- XSV_BCAST (R389). -/
  | xsvBcast (vw sn : Fin 64) (row : Row8)
  /-- XVS_IMM (R389). -/
  | xvsImm (vw sn : Fin 64) (row : Row8) (el : Elem)
  /-- XVS_SCALAR (R389). -/
  | xvsScalar (vw sn : Fin 64) (row : Row8) (sm : Fin 64)
  /-- VADD (R372). -/
  | vadd (vd va vb : Fin 64) (row : Row8) (md : Option Modifier)
  /-- VADD_S (R372). -/
  | vaddS (vd va sb : Fin 64) (row : Row8) (md : Option Modifier)
  /-- VSUB (R372). -/
  | vsub (vd va vb : Fin 64) (row : Row8) (md : Option Modifier)
  /-- VSUB_S (R372). -/
  | vsubS (vd va sb : Fin 64) (row : Row8) (md : Option Modifier)
  /-- VMUL (R372). -/
  | vmul (vd va vb : Fin 64) (row : Row8) (md : Option Modifier)
  /-- VMUL_S (R372). -/
  | vmulS (vd va sb : Fin 64) (row : Row8) (md : Option Modifier)
  /-- VMAX (R372). -/
  | vmax (vd va vb : Fin 64) (row : Row8) (md : Option Modifier)
  /-- VMAX_S (R372). -/
  | vmaxS (vd va sb : Fin 64) (row : Row8) (md : Option Modifier)
  /-- VMIN (R372). -/
  | vmin (vd va vb : Fin 64) (row : Row8) (md : Option Modifier)
  /-- VMIN_S (R372). -/
  | vminS (vd va sb : Fin 64) (row : Row8) (md : Option Modifier)
  /-- VAND (R372). -/
  | vand (vd va vb : Fin 64) (row : Row8) (md : Option Modifier)
  /-- VAND_S (R372). -/
  | vandS (vd va sb : Fin 64) (row : Row8) (md : Option Modifier)
  /-- VOR (R372). -/
  | vor (vd va vb : Fin 64) (row : Row8) (md : Option Modifier)
  /-- VOR_S (R372). -/
  | vorS (vd va sb : Fin 64) (row : Row8) (md : Option Modifier)
  /-- VXOR (R372). -/
  | vxor (vd va vb : Fin 64) (row : Row8) (md : Option Modifier)
  /-- VXOR_S (R372). -/
  | vxorS (vd va sb : Fin 64) (row : Row8) (md : Option Modifier)
  /-- VSHL (R372). -/
  | vshl (vd va vb : Fin 64) (row : Row8) (md : Option Modifier)
  /-- VSHL_S (R372). -/
  | vshlS (vd va sb : Fin 64) (row : Row8) (md : Option Modifier)
  /-- VSHR (R372). -/
  | vshr (vd va vb : Fin 64) (row : Row8) (md : Option Modifier)
  /-- VSHR_S (R372). -/
  | vshrS (vd va sb : Fin 64) (row : Row8) (md : Option Modifier)
  /-- VFMA (R372). -/
  | vfma (vd va vb : Fin 64) (row : Row8) (md : Option Modifier)
  /-- VFMA_S (R372). -/
  | vfmaS (vd va sb : Fin 64) (row : Row8) (md : Option Modifier)
  /-- VCMP (R372). -/
  | vcmp (vd va vb : Fin 64) (row : Row8) (md : Option Modifier)
  /-- VCMP_S (R372). -/
  | vcmpS (vd va sb : Fin 64) (row : Row8) (md : Option Modifier)
  /-- VCLAMP (R372). -/
  | vclamp (vd va vb : Fin 64) (row : Row8) (md : Option Modifier)
  /-- VCLAMP_S (R372). -/
  | vclampS (vd va sb : Fin 64) (row : Row8) (md : Option Modifier)
  /-- VMOV (R372). -/
  | vmov (vd va : Fin 64) (row : Row8) (md : Option Modifier)
  /-- VNEG (R372). -/
  | vneg (vd va : Fin 64) (row : Row8) (md : Option Modifier)
  /-- VABS (R372). -/
  | vabs (vd va : Fin 64) (row : Row8) (md : Option Modifier)
  /-- VCVT (R375). -/
  | vcvt (vd va : Fin 64) (row : Row8) (md : Option Modifier)
  /-- VIOTA (R378). -/
  | viota (vd : Fin 64) (row : Row8) (md : Option Modifier)
  /-- VSEL (R384). -/
  | vsel (vd va vb : Fin 64) (row : Row8) (md : Option Modifier)
  /-- VRED_ADD (R108). -/
  | vredAdd (vd va : Fin 64) (row : Row8) (md : Option Modifier)
  /-- VRED_MAX (R108). -/
  | vredMax (vd va : Fin 64) (row : Row8) (md : Option Modifier)
  /-- VRED_MIN (R108). -/
  | vredMin (vd va : Fin 64) (row : Row8) (md : Option Modifier)
  /-- VLD (R379). -/
  | vld (vd : Fin 64) (row : Row8) (sa : Fin 64) (off : BitVec 6) (md : Option Modifier)
  /-- VST (R379). -/
  | vst (vd : Fin 64) (row : Row8) (sa : Fin 64) (off : BitVec 6) (md : Option Modifier)
  /-- VLDX (R382). -/
  | vldx (vd vi sa : Fin 64) (row : Row8) (md : Option Modifier)
  /-- VSTX (R382). -/
  | vstx (vd vi sa : Fin 64) (row : Row8) (md : Option Modifier)
  /-- VRCP (R376). -/
  | vrcp (vd va : Fin 64) (row : Row8) (md : Option Modifier)
  /-- VRSQ (R376). -/
  | vrsq (vd va : Fin 64) (row : Row8) (md : Option Modifier)
  /-- VEXP2 (R376). -/
  | vexp2 (vd va : Fin 64) (row : Row8) (md : Option Modifier)
  /-- VLOG2 (R376). -/
  | vlog2 (vd va : Fin 64) (row : Row8) (md : Option Modifier)
  /-- VTANH (R376). -/
  | vtanh (vd va : Fin 64) (row : Row8) (md : Option Modifier)
  /-- SKINIT (R139). -/
  | skinit (vd : Fin 64) (kind : SumKind) (sb : Fin 64) (row : Row8) (md : Option Modifier)
  /-- SKQ (R132). -/
  | skq (vd va : Fin 64) (row : Row8) (md : Option Modifier)
  /-- SKH (R134). -/
  | skh (vd va : Fin 64) (row : Row8) (md : Option Modifier)
  /-- SKD (R135). -/
  | skd (vd va : Fin 64) (row : Row8) (md : Option Modifier)
  /-- SKMERGE (R140). -/
  | skmerge (vd va vb : Fin 64) (row : Row8) (md : Option Modifier)
  /-- SKQRY (R141). -/
  | skqry (vd va sb : Fin 64) (row : Row8) (md : Option Modifier)
  /-- SKEST (R142). -/
  | skest (vd va : Fin 64) (row : Row8) (md : Option Modifier)
  /-- SKTOP (R143). -/
  | sktop (vd va : Fin 64) (row : Row8) (md : Option Modifier)
  /-- XPERM (R111). -/
  | xperm (vd va : Fin 64) (sel : Fin 64) (row : Row7) (md : Option Modifier)
  /-- XBCAST (R111). -/
  | xbcast (vd va : Fin 64) (sel : Fin 128) (row : Row7) (md : Option Modifier)
  /-- XROT (R111). -/
  | xrot (vd va : Fin 64) (sel : Fin 128) (row : Row7) (md : Option Modifier)
  /-- MCLAIM (R119). -/
  | mclaim (om : Fin 16) (pd : Option (Fin 16))
  /-- MREL (R119). -/
  | mrel (om : Fin 16)
  /-- MLD_SP (R120). -/
  | mldSp (om : Fin 16) (sa : Fin 64) (banks : BitVec 32)
  /-- MLD_VIEW (R122). -/
  | mldView (om : Fin 16) (vw : Fin 64) (row : Row8)
  /-- MMA (R123). -/
  | mma (oma omb : Fin 16) (acc : Fin 4) (cop : Cop) (rm : Rm) (beatsm1 : Fin 128)
  /-- MST_VIEW (R127). -/
  | mstView (acc : Fin 4) (vw : Fin 64) (row : Row8)
  /-- MST_SP (R127). -/
  | mstSp (acc : Fin 4) (sa : Fin 64) (banks : BitVec 32)
  /-- MZERO (R126). -/
  | mzero (acc : Fin 4)
  /-- MSEQ (R125). -/
  | mseq (lenm1 : Fin 16) (seq : BitVec 32)
  /-- CPY (R305). -/
  | cpy (sd sa sb : Fin 64) (nt : Notif)
  /-- CPY2D (R305). -/
  | cpy2d (sd sa sb : Fin 64) (nt : Notif)
  /-- CFILL (R324). -/
  | cfill (sd sa sb : Fin 64) (nt : Notif)
  /-- CGATHER (R324). -/
  | cgather (sd sa sb : Fin 64) (nt : Notif)
  /-- CMCAST (R325). -/
  | cmcast (sd sa sb : Fin 64) (nt : Notif)
  /-- CRED (R247). -/
  | cred (sd sa sb : Fin 64) (nt : Notif) (rw : RedWord)
  /-- CHSEND (R245). -/
  | chsend (ch : Fin 256) (nt : Notif)
  /-- CHRECV (R245). -/
  | chrecv (ch : Fin 256) (nt : Notif)
  /-- ACCESS_AT_POINT_OF_COHERENCE (R153). -/
  | accessAtPointOfCoherence (n : Nat)
  /-- STORE_PERFORMED (R156). -/
  | storePerformed (n : Nat)
  /-- LINE_EVICTION_WRITE_BACK (R150). -/
  | lineEvictionWriteBack (c : ClusterId) (line : Nat)
  /-- LINK_FIFO_CREDIT (R239). -/
  | linkFifoCredit (n : Nat)
  /-- BARRIER_SIGNAL (R25). -/
  | barrierSignal (m : BarrierMsg)
  /-- ADMIT_LAUNCH (R215). -/
  | admitLaunch
  /-- WORKER_RETIRE (R341). -/
  | workerRetire
  /-- GRACE_WINDOW_EXPIRY (R219). -/
  | graceWindowExpiry
  /-- LEAN_SAVE (R265). -/
  | leanSave
  /-- DICT_ISSUE (R49). -/
  | dictIssue
  /-- REPEAT_ISSUE (R51). -/
  | repeatIssue
  /-- LITERAL_ISSUE (R50). -/
  | literalIssue
  /-- FETCH_FILL_COMPLETE (R54). -/
  | fetchFillComplete
  /-- RESULT_WRITEBACK (R23). -/
  | resultWriteback
  /-- IMPRECISE_FAULT_TAKE (R258). -/
  | impreciseFaultTake
  /-- USER_INTERRUPT_TAKE (R34). -/
  | userInterruptTake
  /-- ARRAY_BEAT (R118). -/
  | arrayBeat
  /-- MATRIX_PASS_COMPLETE (R124). -/
  | matrixPassComplete
  /-- MST_ROW_LAND (R127). -/
  | mstRowLand
  /-- LIN_WATCHDOG (R240). -/
  | linWatchdog
  /-- BOOT (R293). -/
  | boot
  /-- RET (R358). -/
  | ret
  /-- HALT (R341). -/
  | halt
  /-- RFT (R255). -/
  | rft
  /-- RFUI (R360). -/
  | rfui
  /-- WAITI (R385). -/
  | waiti
  deriving DecidableEq, Repr

end Sys2Proof
end

