-- ==== Sys2Proof/WellFormed.lean ====
section
/-! DEFINITION. Which instructions an encoding may name: the decode checks of R58 to R78 that the operand types do not
already make. The checks that look at the kernel or the context (E below LIVEN, link forms and LFTO and CHTAB outside
the communication context) are in `Instr.inPlace`; the slots an instruction may stand in are in `Instr.fits`. -/

namespace Sys2Proof

/-- i8 to n64, the codes 5 to 12. -/
def Fmt.isInt (f : Fmt) : Bool := 5 ≤ f.code && f.code ≤ 12

/-- f32, bf16 and f16, the codes 0 to 2. -/
def Fmt.isFloat (f : Fmt) : Bool := f.code ≤ 2

/-- t8 and t6 (R91). -/
def Fmt.isTap (f : Fmt) : Bool := f == .t8 || f == .t6

/-- Types 5 to 12, and 14 (R312, R328, R333, R356, R357). -/
def Ty.intOrLink : Ty → Bool
  | .fmt f => f.isInt
  | .link => true

/-- Types 5 to 13, and 14 (R312, R329). -/
def Ty.intFxOrLink : Ty → Bool
  | .fmt f => f.isInt || f == .fx48
  | .link => true

/-- Types 0 to 2 (R334, R335). -/
def Ty.isFloat : Ty → Bool
  | .fmt f => f.isFloat
  | .link => false

/-- Whether an instruction is a link form (R64). -/
def Ty.isLink (t : Ty) : Bool := t == .link

/-- A modifier word whose predicate sense is zero without predication (R67). -/
def Modifier.predOk (m : Modifier) : Bool := m.pen || !m.pneg

/-- Which fields of the modifier word an instruction uses: A's offset, B's offset, RM (R67). -/
def Modifier.ok (a b rm : Bool) : Option Modifier → Bool
  | none => true
  | some m => m.predOk && (a || m.aoff == 0) && (b || m.boff == 0) && (rm || m.rm == 0)

/-- The rules of the notification fields (R72): K zero without FV, GV only with the word, GROUP zero without GV, RF only
with FV, ID zero without RF. -/
def Notif.ok (n : Notif) : Bool :=
  (n.fv || n.k == 0) &&
  match n.word with
  | none => !n.gv
  | some w => (n.gv || w.group == 0) && (!w.rf || n.fv) && (w.rf || w.id == ⟨0, 0, 0, false⟩)

/-- The numbers that name a system register (R366). -/
def sysNamed (n : Nat) : Bool :=
  n ≤ 0x009 || (0x010 ≤ n && n ≤ 0x017) || (0x020 ≤ n && n ≤ 0x03F) || (0x040 ≤ n && n ≤ 0x04C) ||
  n == 0x080 || n == 0x081 || (0x100 ≤ n && n ≤ 0x104) || (0x110 ≤ n && n ≤ 0x114) || n == 0x118 || n == 0x119 ||
  (0x120 ≤ n && n ≤ 0x12F)

/-- The decode checks on an instruction alone (R58 to R78, R302 to R390). The steps without an encoding are well-formed
when their numbers name something. -/
def Instr.wf : Instr → Bool
  | .add ty _ _ _ | .addImm ty _ _ _ | .sub ty _ _ _ | .subImm ty _ _ _ | .min ty _ _ _ | .minImm ty _ _ _
  | .max ty _ _ _ | .maxImm ty _ _ _ => ty.intFxOrLink
  | .mul ty _ _ _ | .mulImm ty _ _ _ | .and ty _ _ _ | .andImm ty _ _ _ | .or ty _ _ _ | .orImm ty _ _ _
  | .xor ty _ _ _ | .xorImm ty _ _ _ | .shl ty _ _ _ | .shlImm ty _ _ _ | .shr ty _ _ _ | .shrImm ty _ _ _
  | .shra ty _ _ _ | .shraImm ty _ _ _ | .mulh ty _ _ _ | .div ty _ _ _ | .rem ty _ _ _ => ty.intOrLink
  | .clz ty _ _ | .popc ty _ _ => ty.intOrLink
  | .cmp ty c _ _ _ => ty.intFxOrLink && c != .un
  | .bfx _ _ _ pos l | .bfi _ _ pos l => pos.val + l.val + 1 ≤ 64
  | .fadd ty _ _ _ _ | .fmul ty _ _ _ _ | .fma ty _ _ _ _ | .fcmp ty _ _ _ _ => ty.isFloat
  | .fcvt d s _ _ _ => d != .fx48 && s != .fx48
  | .loop pin _ b => b != 0 && (!pin || b.toNat ≤ 256)
  | .sysr _ n | .sysw _ n => sysNamed n.val
  | .fence _ l s c => l || s || c
  | .fpost _ _ t => match t with
    | none => true
    | some t => t.sc != .core
  | .vadd _ _ _ _ m | .vsub _ _ _ _ m | .vmul _ _ _ _ m | .vfma _ _ _ _ m | .vcmp _ _ _ _ m => Modifier.ok true true true m
  | .vaddS _ _ _ _ m | .vsubS _ _ _ _ m | .vmulS _ _ _ _ m | .vfmaS _ _ _ _ m | .vcmpS _ _ _ _ m
  | .vcvt _ _ _ m | .vredAdd _ _ _ m | .vldx _ _ _ _ m | .vstx _ _ _ _ m => Modifier.ok true false true m
  | .vmax _ _ _ _ m | .vmin _ _ _ _ m | .vand _ _ _ _ m | .vor _ _ _ _ m | .vxor _ _ _ _ m | .vshl _ _ _ _ m
  | .vshr _ _ _ _ m | .vclamp _ _ _ _ m | .vsel _ _ _ _ m | .skmerge _ _ _ _ m => Modifier.ok true true false m
  | .vmaxS _ _ _ _ m | .vminS _ _ _ _ m | .vandS _ _ _ _ m | .vorS _ _ _ _ m | .vxorS _ _ _ _ m | .vshlS _ _ _ _ m
  | .vshrS _ _ _ _ m | .vclampS _ _ _ _ m | .vmov _ _ _ m | .vneg _ _ _ m | .vabs _ _ _ m | .vredMax _ _ _ m
  | .vredMin _ _ _ m | .vrcp _ _ _ m | .vrsq _ _ _ m | .vexp2 _ _ _ m | .vlog2 _ _ _ m | .vtanh _ _ _ m
  | .skq _ _ _ m | .skh _ _ _ m | .skd _ _ _ m | .skqry _ _ _ _ m | .skest _ _ _ m | .sktop _ _ _ m
  | .xperm _ _ _ _ m | .xbcast _ _ _ _ m | .xrot _ _ _ _ m => Modifier.ok true false false m
  | .viota _ _ m | .skinit _ _ _ _ m => Modifier.ok false false false m
  | .vld _ _ _ _ m | .vst _ _ _ _ m => Modifier.ok false false true m
  | .mseq l q => q.toNat / 2 ^ (2 * (l.val + 1)) == 0
  | .cpy _ _ _ n | .cpy2d _ _ _ n | .cfill _ _ _ n | .cmcast _ _ _ n | .cred _ _ _ n _ | .chsend _ n | .chrecv _ n => n.ok
  | .cgather _ _ b n => n.ok && b.val % 2 == 0
  | .routeTableWrite i _ => i < 3072
  | _ => true

/-- Instructions that only slot V1 takes (R76). -/
def Instr.v1Only : Instr → Bool
  | .vrcp .. | .vrsq .. | .vexp2 .. | .vlog2 .. | .vtanh .. | .skinit .. | .skq .. | .skh .. | .skd .. | .skmerge ..
  | .skqry .. | .skest .. | .sktop .. => true
  | _ => false

/-- Whether an instruction may stand in a slot of its class (R76). -/
def Instr.fits (sl : Slot) (i : Instr) : Bool := sl != .V0 || !i.v1Only

/-- Whether an instruction is a link form (R64). -/
def Instr.isLink : Instr → Bool
  | .add ty _ _ _ | .addImm ty _ _ _ | .sub ty _ _ _ | .subImm ty _ _ _ | .min ty _ _ _ | .minImm ty _ _ _
  | .max ty _ _ _ | .maxImm ty _ _ _ | .mul ty _ _ _ | .mulImm ty _ _ _ | .and ty _ _ _ | .andImm ty _ _ _
  | .or ty _ _ _ | .orImm ty _ _ _ | .xor ty _ _ _ | .xorImm ty _ _ _ | .shl ty _ _ _ | .shlImm ty _ _ _
  | .shr ty _ _ _ | .shrImm ty _ _ _ | .shra ty _ _ _ | .shraImm ty _ _ _ | .mulh ty _ _ _ | .div ty _ _ _
  | .rem ty _ _ _ | .clz ty _ _ | .popc ty _ _ | .cmp ty _ _ _ _ | .ld ty _ _ _ | .st ty _ _ _
  | .acas ty _ _ _ _ _ | .atomAdd ty _ _ _ _ _ | .atomMax ty _ _ _ _ _ | .atomMin ty _ _ _ _ _
  | .atomAnd ty _ _ _ _ _ | .atomOr ty _ _ _ _ _ | .atomXor ty _ _ _ _ _ | .atomSwap ty _ _ _ _ _ => ty.isLink
  | _ => false

/-- The decode checks that look at the context and its kernel: link forms, LFTO and CHTAB only in a communication
context (R64, R368), a live-table entry below LIVEN (R65). -/
def Instr.inPlace (comm : Bool) (liven : Nat) (i : Instr) : Bool :=
  (comm || !i.isLink) &&
  match i with
  | .sysr _ n | .sysw _ n => comm || (n.val != 0x080 && n.val != 0x081)
  | .live e => e.val < liven
  | _ => true

end Sys2Proof
end

