-- ==== Sys2Proof/Decode.lean ====
section
/-! DEFINITION. From the words of a slot to an instruction and back (R61 to R77). Every layout is a list of field widths,
highest field first; `unpack` reads a word by it and `pack` writes one. -/

namespace Sys2Proof

/-- The fields of a word, highest first. -/
def unpack : List Nat → Nat → List Nat
  | [], _ => []
  | _ :: ws, n => n / 2 ^ ws.sum :: unpack ws (n % 2 ^ ws.sum)

/-- The word that holds the given fields, highest first. -/
def pack : List Nat → List Nat → Nat
  | _ :: ws, v :: vs => v * 2 ^ ws.sum + pack ws vs
  | _, _ => 0

/-- Every field fits its width. -/
def fitsIn : List Nat → List Nat → Prop
  | [], [] => True
  | w :: ws, v :: vs => v < 2 ^ w ∧ fitsIn ws vs
  | _, _ => False

/-- A number as a register or index of n values. -/
abbrev fn (n : Nat) [NeZero n] (v : Nat) : Fin n := Fin.ofNat n v

/-- A bit of a field. -/
def bit (n : Nat) : Bool := n % 2 == 1

/-- The number of a bit. -/
def ofBit (b : Bool) : Nat := if b then 1 else 0

/-- The ROW8 field (R66); bit 6 of the scalar form is zero. -/
def Row8.ofCode (n : Nat) : Option Row8 :=
  if n < 128 then some (.imm (fn 128 n)) else if n < 192 then some (.reg (fn 64 n)) else none

/-- The code of a ROW8 field (R66). -/
def Row8.code : Row8 → Nat
  | .imm b => b.val
  | .reg r => 128 + r.val

/-- The ROW7 field (R66). -/
def Row7.ofCode (n : Nat) : Row7 := if n < 64 then .imm (fn 64 n) else .reg (fn 64 n)

/-- The code of a ROW7 field (R66). -/
def Row7.code : Row7 → Nat
  | .imm b => b.val
  | .reg r => 64 + r.val

/-- The modifier word (R67). -/
def Modifier.ofWord (w : BitVec 32) : Option Modifier :=
  match unpack [8, 8, 8, 2, 1, 4, 1] w.toNat with
  | [d, a, b, rm, pen, p, n] => some ⟨fn 256 d, fn 256 a, fn 256 b, fn 4 rm, bit pen, fn 16 p, bit n⟩
  | _ => none

/-- The word of a modifier (R67). -/
def Modifier.word (m : Modifier) : BitVec 32 :=
  BitVec.ofNat 32 (pack [8, 8, 8, 2, 1, 4, 1] [m.doff.val, m.aoff.val, m.boff.val, m.rm.val, ofBit m.pen, m.psel.val, ofBit m.pneg])

/-- The optional modifier word of a V or X slot (R67). -/
def modOf : List (BitVec 32) → Option (Option Modifier)
  | [] => some none
  | [w] => (Modifier.ofWord w).map some
  | _ => none

/-- The extension words of an optional modifier. -/
def modWords (m : Option Modifier) : List (BitVec 32) := (m.map Modifier.word).toList

/-- An optional extension word (R58). -/
def optWord : List (BitVec 32) → Option (Option (BitVec 32))
  | [] => some none
  | [w] => some (some w)
  | _ => none

/-- The scope of a scoped field: 0 to 4 (R62). -/
def scopeReq (n : Nat) : Option Scope := Scope.ofCode n

/-- The scope field of LD, ST and ZLINE, where 5 means plain (R62). -/
def scopeOpt (n : Nat) : Option (Option Scope) := if n = 5 then some none else (Scope.ofCode n).map some

/-- The code of an optional scope (R62). -/
def scopeCode : Option Scope → Nat
  | none => 5
  | some s => s.code

/-- The target word of FPOST (R65). -/
def PostTarget.ofWord (w : BitVec 32) : Option PostTarget :=
  match unpack [3, 12, 2, 6, 1, 8] w.toNat with
  | [s, p, d, c, x, z] => if z = 0 then (Scope.ofCode s).map fun sc => ⟨sc, ⟨BitVec.ofNat 12 p, fn 4 d, fn 64 c, bit x⟩⟩ else none
  | _ => none

/-- The word of an FPOST target (R65). -/
def PostTarget.word (t : PostTarget) : BitVec 32 :=
  BitVec.ofNat 32 (pack [3, 12, 2, 6, 1, 8] [t.sc.code, t.id.pkg.toNat, t.id.die.val, t.id.core.val, ofBit t.id.ctx, 0])

/-- The notification word (R72). -/
def NotifWord.ofWord (w : BitVec 32) : Option NotifWord :=
  match unpack [8, 1, 12, 2, 6, 1, 2] w.toNat with
  | [g, rf, p, d, c, x, z] => if z = 0 then some ⟨fn 256 g, bit rf, ⟨BitVec.ofNat 12 p, fn 4 d, fn 64 c, bit x⟩⟩ else none
  | _ => none

/-- The word of a notification (R72). -/
def NotifWord.word (n : NotifWord) : BitVec 32 :=
  BitVec.ofNat 32 (pack [8, 1, 12, 2, 6, 1, 2]
    [n.group.val, ofBit n.rf, n.id.pkg.toNat, n.id.die.val, n.id.core.val, ofBit n.id.ctx, 0])

/-- The notification fields with the optional word (R72). -/
def notifOf (ui gv fv k : Nat) : List (BitVec 32) → Option Notif
  | [] => some ⟨bit ui, bit gv, bit fv, fn 32 k, none⟩
  | [w] => (NotifWord.ofWord w).map fun n => ⟨bit ui, bit gv, bit fv, fn 32 k, some n⟩
  | _ => none

/-- The extension words of a notification (R72). -/
def Notif.words (n : Notif) : List (BitVec 32) := (n.word.map NotifWord.word).toList

/-- The reduction word of CRED (R72). -/
def RedWord.ofWord (w : BitVec 32) : Option RedWord :=
  match unpack [10, 3, 2, 17] w.toNat with
  | [r, o, l, z] => if z = 0 then (Rop.ofCode o).map fun op => ⟨fn 1024 r, op, fn 4 l⟩ else none
  | _ => none

/-- The word of a reduction (R72). -/
def RedWord.word (r : RedWord) : BitVec 32 := BitVec.ofNat 32 (pack [10, 3, 2, 17] [r.rid.val, r.rop.code, r.lw.val, 0])

/-- Format SR: a type, three registers, MOD zero, no extension word (R63). -/
def decSR (f : Ty → Fin 64 → Fin 64 → Fin 64 → Instr) (w : Nat) (x : List (BitVec 32)) : Option Instr :=
  match unpack [6, 1, 6, 6, 6, 4, 3] w, x with
  | [_, i, d, a, b, t, m], [] => if i = 0 ∧ m = 0 then (Ty.ofCode t).map fun ty => f ty (fn 64 d) (fn 64 a) (fn 64 b) else none
  | _, _ => none

/-- Format SI: a type, two registers and an immediate (R63). -/
def decSI (f : Ty → Fin 64 → Fin 64 → Imm9 → Instr) (w : Nat) (x : List (BitVec 32)) : Option Instr :=
  match unpack [6, 1, 6, 6, 4, 9] w, x with
  | [_, _, d, a, t, m], [] => (Ty.ofCode t).map fun ty => f ty (fn 64 d) (fn 64 a) (.short (BitVec.ofNat 9 m))
  | [_, _, d, a, t, m], [e] => if m = 0 then (Ty.ofCode t).map fun ty => f ty (fn 64 d) (fn 64 a) (.long e) else none
  | _, _ => none

/-- A member of the integer mould: format SR, or SI with bit 25 set (R63, R74). -/
def decMould (f : Ty → Fin 64 → Fin 64 → Fin 64 → Instr) (g : Ty → Fin 64 → Fin 64 → Imm9 → Instr) (w : Nat)
    (x : List (BitVec 32)) : Option Instr :=
  if bit (w / 2 ^ 25) then decSI g w x else decSR f w x

/-- Format SR with a condition and a predicate destination (R63, R329, R335). -/
def decCmp (f : Ty → Cond → Fin 16 → Fin 64 → Fin 64 → Instr) (w : Nat) (x : List (BitVec 32)) : Option Instr :=
  match unpack [6, 1, 2, 4, 6, 6, 4, 3] w, x with
  | [_, i, z, p, a, b, t, m], [] =>
    if i = 0 ∧ z = 0 then
      match Ty.ofCode t, Cond.ofCode m with
      | some ty, some c => some (f ty c (fn 16 p) (fn 64 a) (fn 64 b))
      | _, _ => none
    else none
  | _, _ => none

/-- Format SR with a rounding mode (R63, R334). -/
def decRound (f : Ty → Rm → Fin 64 → Fin 64 → Fin 64 → Instr) (w : Nat) (x : List (BitVec 32)) : Option Instr :=
  match unpack [6, 1, 6, 6, 6, 4, 1, 2] w, x with
  | [_, i, d, a, b, t, z, m], [] =>
    if i = 0 ∧ z = 0 then (Ty.ofCode t).map fun ty => f ty (Rm.ofCode m) (fn 64 d) (fn 64 a) (fn 64 b) else none
  | _, _ => none

/-- Format SR with SB zero and MOD zero: CLZ, POPC (R328, R357). -/
def decUn (f : Ty → Fin 64 → Fin 64 → Instr) (w : Nat) (x : List (BitVec 32)) : Option Instr :=
  match unpack [6, 1, 6, 6, 6, 4, 3] w, x with
  | [_, i, d, a, b, t, m], [] => if i = 0 ∧ b = 0 ∧ m = 0 then (Ty.ofCode t).map fun ty => f ty (fn 64 d) (fn 64 a) else none
  | _, _ => none

/-- SEL: the predicate in [6:3] (R361). -/
def decSel (w : Nat) (x : List (BitVec 32)) : Option Instr :=
  match unpack [6, 1, 6, 6, 6, 4, 3] w, x with
  | [_, i, d, a, b, p, m], [] => if i = 0 ∧ m = 0 then some (.sel (fn 16 p) (fn 64 d) (fn 64 a) (fn 64 b)) else none
  | _, _ => none

/-- FCVT: TY the destination type, SB[3:0] the source type (R336). -/
def decFcvt (w : Nat) (x : List (BitVec 32)) : Option Instr :=
  match unpack [6, 1, 6, 6, 2, 4, 4, 1, 2] w, x with
  | [_, i, d, a, z, s, t, y, m], [] =>
    if i = 0 ∧ z = 0 ∧ y = 0 then
      match Fmt.ofCode t, Fmt.ofCode s with
      | some dst, some src => some (.fcvt dst src (Rm.ofCode m) (fn 64 d) (fn 64 a))
      | _, _ => none
    else none
  | _, _ => none

/-- Format SF (R63). -/
def decSF (f : Bool → Fin 64 → Fin 64 → Fin 64 → Fin 64 → Option Instr) (w : Nat) (x : List (BitVec 32)) : Option Instr :=
  match unpack [6, 1, 6, 6, 6, 6, 1] w, x with
  | [_, s, d, a, p, l, z], [] => if z = 0 then f (bit s) (fn 64 d) (fn 64 a) (fn 64 p) (fn 64 l) else none
  | _, _ => none

/-- Format SW: MOVI (R63, R355). -/
def decMovi (w : Nat) (x : List (BitVec 32)) : Option Instr :=
  match unpack [6, 1, 6, 19] w, x with
  | [_, i, d, m], [] => if i = 0 then some (.movi (fn 64 d) (.short (BitVec.ofNat 19 m))) else none
  | [_, i, d, m], [e] => if i = 0 ∧ m = 0 then some (.movi (fn 64 d) (.long e)) else none
  | _, _ => none

/-- Format SW: MOVHI (R63, R355). -/
def decMovhi (w : Nat) (x : List (BitVec 32)) : Option Instr :=
  match unpack [6, 1, 6, 19] w, x with
  | [_, i, d, m], [e] => if i = 0 ∧ m = 0 then some (.movhi (fn 64 d) e) else none
  | _, _ => none

/-- Format SM of LD and ST (R63). -/
def decSM (f : Ty → Option Scope → Fin 64 → MemArg → Instr) (w : Nat) (x : List (BitVec 32)) : Option Instr :=
  match unpack [6, 1, 6, 6, 6, 4, 3] w, optWord x with
  | [_, xb, d, a, b, t, c], some e =>
    match Ty.ofCode t, scopeOpt c with
    | some ty, some sc => some (f ty sc (fn 64 d) ⟨fn 64 a, fn 64 b, bit xb, e⟩)
    | _, _ => none
  | _, _ => none

/-- Format SM of the atomics: XB zero (R63, R309, R314). -/
def decAtom (f : Ty → Scope → Fin 64 → Fin 64 → Fin 64 → Option (BitVec 32) → Instr) (w : Nat) (x : List (BitVec 32)) :
    Option Instr :=
  match unpack [6, 1, 6, 6, 6, 4, 3] w, optWord x with
  | [_, xb, d, a, b, t, c], some e =>
    match Ty.ofCode t, scopeReq c with
    | some ty, some sc => if xb = 0 then some (f ty sc (fn 64 d) (fn 64 a) (fn 64 b) e) else none
    | _, _ => none
  | _, _ => none

/-- Format SM of FLUSH and INVAL: SD, XB and TY zero (R63, R152). -/
def decLines (f : Scope → Fin 64 → Fin 64 → Option (BitVec 32) → Instr) (w : Nat) (x : List (BitVec 32)) : Option Instr :=
  match unpack [6, 1, 6, 6, 6, 4, 3] w, optWord x with
  | [_, xb, d, a, b, t, c], some e =>
    if xb = 0 ∧ d = 0 ∧ t = 0 then (scopeReq c).map fun sc => f sc (fn 64 a) (fn 64 b) e else none
  | _, _ => none

/-- Format SM of ZLINE, whose scope may be plain (R63, R152). -/
def decZline (w : Nat) (x : List (BitVec 32)) : Option Instr :=
  match unpack [6, 1, 6, 6, 6, 4, 3] w, optWord x with
  | [_, xb, d, a, b, t, c], some e =>
    if xb = 0 ∧ d = 0 ∧ t = 0 then (scopeOpt c).map fun sc => .zline sc (fn 64 a) (fn 64 b) e else none
  | _, _ => none

/-- WDECL (R63). -/
def decWdecl (w : Nat) (x : List (BitVec 32)) : Option Instr :=
  match unpack [6, 1, 6, 6, 6, 4, 3] w, x with
  | [_, i, a, b, e, n, z], [] => if i = 0 ∧ z = 0 then some (.wdecl (fn 16 n) (fn 64 a) (fn 64 b) (fn 64 e)) else none
  | _, _ => none

/-- WDROP (R63). -/
def decWdrop (w : Nat) (x : List (BitVec 32)) : Option Instr :=
  match unpack [6, 19, 4, 3] w, x with
  | [_, i, n, z], [] => if i = 0 ∧ z = 0 then some (.wdrop (fn 16 n)) else none
  | _, _ => none

/-- Format SB: BR (R63). -/
def decBr (w : Nat) (x : List (BitVec 32)) : Option Instr :=
  match unpack [6, 1, 1, 4, 20] w, x with
  | [_, g, n, p, o], [] => if g = 0 then some (.br (bit n) (fn 16 p) (BitVec.ofNat 20 o)) else none
  | _, _ => none

/-- Format SB: JMP and CALL (R63). -/
def decJmp (f : BitVec 20 → Instr) (g : Fin 64 → Instr) (w : Nat) (x : List (BitVec 32)) : Option Instr :=
  if bit (w / 2 ^ 25) then
    match unpack [6, 1, 5, 6, 14] w, x with
    | [_, _, z, n, y], [] => if z = 0 ∧ y = 0 then some (g (fn 64 n)) else none
    | _, _ => none
  else
    match unpack [6, 1, 5, 20] w, x with
    | [_, _, z, o], [] => if z = 0 then some (f (BitVec.ofNat 20 o)) else none
    | _, _ => none

/-- An instruction whose other bits are all zero: RET, HALT, RFT, RFUI, WAITI (R63, R65). -/
def decBare (i : Instr) (w : Nat) (x : List (BitVec 32)) : Option Instr :=
  match unpack [6, 26] w, x with
  | [_, z], [] => if z = 0 then some i else none
  | _, _ => none

/-- Format SL: LOOP (R63). -/
def decLoop (w : Nat) (x : List (BitVec 32)) : Option Instr :=
  match unpack [6, 1, 6, 10, 9] w, x with
  | [_, p, a, b, z], [] => if z = 0 then some (.loop (bit p) (fn 64 a) (BitVec.ofNat 10 b)) else none
  | _, _ => none

/-- TRAP and BRK (R63). -/
def decCode (f : BitVec 16 → Instr) (w : Nat) (x : List (BitVec 32)) : Option Instr :=
  match unpack [6, 10, 16] w, x with
  | [_, z, c], [] => if z = 0 then some (f (BitVec.ofNat 16 c)) else none
  | _, _ => none

/-- SYSR and SYSW (R63). -/
def decSys (f : Fin 64 → Fin 4096 → Instr) (w : Nat) (x : List (BitVec 32)) : Option Instr :=
  match unpack [6, 1, 6, 12, 7] w, x with
  | [_, i, r, n, z], [] => if i = 0 ∧ z = 0 then some (f (fn 64 r) (fn 4096 n)) else none
  | _, _ => none

/-- VIEWSET (R63). -/
def decViewset (w : Nat) (x : List (BitVec 32)) : Option Instr :=
  match unpack [6, 1, 6, 6, 13] w, x with
  | [_, i, v, a, z], [] => if i = 0 ∧ z = 0 then some (.viewset (fn 64 v) (fn 64 a)) else none
  | _, _ => none

/-- MBREQ and MBTAKE: PD is zero without NB (R63). -/
def decMb (f : Fin 64 → Option (Fin 16) → Instr) (w : Nat) (x : List (BitVec 32)) : Option Instr :=
  match unpack [6, 1, 6, 4, 15] w, x with
  | [_, nb, r, p, z], [] =>
    if z = 0 then (if bit nb then some (f (fn 64 r) (some (fn 16 p))) else if p = 0 then some (f (fn 64 r) none) else none) else none
  | _, _ => none

/-- The S slot (R74). -/
def decodeS (w : Nat) (x : List (BitVec 32)) : Option Instr :=
  match w / 2 ^ 26 with
  | 0x01 => decMould .add .addImm w x
  | 0x02 => decMould .sub .subImm w x
  | 0x03 => decMould .mul .mulImm w x
  | 0x04 => decSR .mulh w x
  | 0x05 => decSR .div w x
  | 0x06 => decSR .rem w x
  | 0x07 => decMould .min .minImm w x
  | 0x08 => decMould .max .maxImm w x
  | 0x09 => decMould .and .andImm w x
  | 0x0A => decMould .or .orImm w x
  | 0x0B => decMould .xor .xorImm w x
  | 0x0C => decMould .shl .shlImm w x
  | 0x0D => decMould .shr .shrImm w x
  | 0x0E => decMould .shra .shraImm w x
  | 0x0F => decCmp .cmp w x
  | 0x10 => decSel w x
  | 0x11 => decUn .clz w x
  | 0x12 => decUn .popc w x
  | 0x13 => decSF (fun s d a p l => some (.bfx s d a p l)) w x
  | 0x14 => decSF (fun s d a p l => if s then none else some (.bfi d a p l)) w x
  | 0x15 => decRound .fadd w x
  | 0x16 => decRound .fmul w x
  | 0x17 => decRound .fma w x
  | 0x18 => decCmp .fcmp w x
  | 0x19 => decFcvt w x
  | 0x1A => decMovi w x
  | 0x1B => decMovhi w x
  | 0x1C => decSM .ld w x
  | 0x1D => decSM .st w x
  | 0x1E => decAtom .acas w x
  | 0x1F => decLines .flush w x
  | 0x20 => decLines .inval w x
  | 0x21 => decZline w x
  | 0x22 => decWdecl w x
  | 0x23 => decWdrop w x
  | 0x28 => decAtom .atomAdd w x
  | 0x29 => decAtom .atomMax w x
  | 0x2A => decAtom .atomMin w x
  | 0x2B => decAtom .atomAnd w x
  | 0x2C => decAtom .atomOr w x
  | 0x2D => decAtom .atomXor w x
  | 0x2E => decAtom .atomSwap w x
  | 0x30 => decBr w x
  | 0x31 => decJmp .jmp .jmpReg w x
  | 0x32 => decJmp .call .callReg w x
  | 0x33 => decBare .ret w x
  | 0x34 => decLoop w x
  | 0x35 => decCode .trap w x
  | 0x36 => decCode .brk w x
  | 0x37 => decBare .halt w x
  | 0x38 => decBare .rft w x
  | 0x39 => decBare .rfui w x
  | 0x3A => decSys .sysr w x
  | 0x3B => decSys .sysw w x
  | 0x3C => decViewset w x
  | 0x3D => decMb .mbreq w x
  | 0x3E => decMb .mbtake w x
  | _ => none

/-- ACQ and REL (R65). -/
def decScope (f : Scope → Instr) (w : Nat) (x : List (BitVec 32)) : Option Instr :=
  match unpack [6, 3, 23] w, x with
  | [_, c, z], [] => if z = 0 then (scopeReq c).map f else none
  | _, _ => none

/-- FENCE: KIND's bits are loads, stores and copy commands from the lowest (R65). -/
def decFence (w : Nat) (x : List (BitVec 32)) : Option Instr :=
  match unpack [6, 3, 1, 1, 1, 20] w, x with
  | [_, c, cp, st, ld, z], [] => if z = 0 then (scopeReq c).map fun sc => .fence sc (bit ld) (bit st) (bit cp) else none
  | _, _ => none

/-- FPOST: the target word exactly when RMT is 1 (R65). -/
def decFpost (w : Nat) (x : List (BitVec 32)) : Option Instr :=
  match unpack [6, 5, 16, 1, 4] w, x with
  | [_, k, n, r, z], [] => if z = 0 ∧ r = 0 then some (.fpost (fn 32 k) (BitVec.ofNat 16 n) none) else none
  | [_, k, n, r, z], [e] =>
    if z = 0 ∧ r = 1 then (PostTarget.ofWord e).map fun t => .fpost (fn 32 k) (BitVec.ofNat 16 n) (some t) else none
  | _, _ => none

/-- FWAIT (R65). -/
def decFwait (w : Nat) (x : List (BitVec 32)) : Option Instr :=
  match unpack [6, 5, 16, 5] w, x with
  | [_, k, n, z], [] => if z = 0 then some (.fwait (fn 32 k) (BitVec.ofNat 16 n)) else none
  | _, _ => none

/-- BARA, BARW and LIVE: one 8-bit number (R65). -/
def decByte (f : Fin 256 → Instr) (w : Nat) (x : List (BitVec 32)) : Option Instr :=
  match unpack [6, 8, 18] w, x with
  | [_, g, z], [] => if z = 0 then some (f (fn 256 g)) else none
  | _, _ => none

/-- DEAD (R65). -/
def decDead (w : Nat) (x : List (BitVec 32)) : Option Instr :=
  match unpack [6, 6, 9, 9, 2] w, x with
  | [_, v, f, c, z], [] => if z = 0 then some (.dead (fn 64 v) (fn 512 f) (fn 512 c)) else none
  | _, _ => none

/-- The Y slot (R73). -/
def decodeY (w : Nat) (x : List (BitVec 32)) : Option Instr :=
  match w / 2 ^ 26 with
  | 0x01 => decScope .acq w x
  | 0x02 => decScope .rel w x
  | 0x03 => decFence w x
  | 0x04 => decFpost w x
  | 0x05 => decFwait w x
  | 0x06 => decByte .bara w x
  | 0x07 => decByte .barw w x
  | 0x08 => decByte .live w x
  | 0x09 => decDead w x
  | 0x0A => decBare .waiti w x
  | _ => none

/-- The T slot's format with an immediate element (R69). -/
def decTImm (f : Fin 64 → Fin 64 → Row8 → Elem → Instr) (w : Nat) (x : List (BitVec 32)) : Option Instr :=
  match unpack [6, 6, 6, 8, 6] w, x with
  | [_, v, s, r, e], [] => (Row8.ofCode r).map fun row => f (fn 64 v) (fn 64 s) row (.short (fn 64 e))
  | [_, v, s, r, e], [u] =>
    if e = 0 ∧ u.toNat < 512 then (Row8.ofCode r).map fun row => f (fn 64 v) (fn 64 s) row (.long (fn 512 u.toNat)) else none
  | _, _ => none

/-- The T slot's format with a scalar element (R69). -/
def decTReg (f : Fin 64 → Fin 64 → Row8 → Fin 64 → Instr) (w : Nat) (x : List (BitVec 32)) : Option Instr :=
  match unpack [6, 6, 6, 8, 6] w, x with
  | [_, v, s, r, e], [] => (Row8.ofCode r).map fun row => f (fn 64 v) (fn 64 s) row (fn 64 e)
  | _, _ => none

/-- The T slot's broadcast (R69). -/
def decTAll (w : Nat) (x : List (BitVec 32)) : Option Instr :=
  match unpack [6, 6, 6, 8, 6] w, x with
  | [_, v, s, r, e], [] => if e = 0 then (Row8.ofCode r).map fun row => .xsvBcast (fn 64 v) (fn 64 s) row else none
  | _, _ => none

/-- The T slot (R75). -/
def decodeT (w : Nat) (x : List (BitVec 32)) : Option Instr :=
  match w / 2 ^ 26 with
  | 0x01 => decTImm .xsvImm w x
  | 0x02 => decTReg .xsvScalar w x
  | 0x03 => decTAll w x
  | 0x09 => decTImm .xvsImm w x
  | 0x0A => decTReg .xvsScalar w x
  | _ => none

/-- Format VR with three fields (R68). -/
def decV3 (f : Fin 64 → Fin 64 → Fin 64 → Row8 → Option Modifier → Instr) (w : Nat) (x : List (BitVec 32)) : Option Instr :=
  match unpack [6, 6, 6, 6, 8] w, modOf x with
  | [_, d, a, b, r], some m => (Row8.ofCode r).map fun row => f (fn 64 d) (fn 64 a) (fn 64 b) row m
  | _, _ => none

/-- Format VR with VB zero (R76). -/
def decV2 (f : Fin 64 → Fin 64 → Row8 → Option Modifier → Instr) (w : Nat) (x : List (BitVec 32)) : Option Instr :=
  match unpack [6, 6, 6, 6, 8] w, modOf x with
  | [_, d, a, b, r], some m => if b = 0 then (Row8.ofCode r).map fun row => f (fn 64 d) (fn 64 a) row m else none
  | _, _ => none

/-- Format VR with VA and VB zero: VIOTA (R76). -/
def decV1 (f : Fin 64 → Row8 → Option Modifier → Instr) (w : Nat) (x : List (BitVec 32)) : Option Instr :=
  match unpack [6, 6, 6, 6, 8] w, modOf x with
  | [_, d, a, b, r], some m => if a = 0 ∧ b = 0 then (Row8.ofCode r).map fun row => f (fn 64 d) row m else none
  | _, _ => none

/-- SKINIT: VA holds the summary kind (R76). -/
def decSkinit (w : Nat) (x : List (BitVec 32)) : Option Instr :=
  match unpack [6, 6, 6, 6, 8] w, modOf x with
  | [_, d, a, b, r], some m =>
    match SumKind.ofCode a, Row8.ofCode r with
    | some k, some row => some (.skinit (fn 64 d) k (fn 64 b) row m)
    | _, _ => none
  | _, _ => none

/-- Format VM: VLD and VST (R68). -/
def decVM (f : Fin 64 → Row8 → Fin 64 → BitVec 6 → Option Modifier → Instr) (w : Nat) (x : List (BitVec 32)) : Option Instr :=
  match unpack [6, 6, 8, 6, 6] w, modOf x with
  | [_, d, r, a, o], some m => (Row8.ofCode r).map fun row => f (fn 64 d) row (fn 64 a) (BitVec.ofNat 6 o) m
  | _, _ => none

/-- The V0 and V1 slots (R76). -/
def decodeV (w : Nat) (x : List (BitVec 32)) : Option Instr :=
  match w / 2 ^ 26 with
  | 0x02 => decV3 .vadd w x
  | 0x03 => decV3 .vaddS w x
  | 0x04 => decV3 .vsub w x
  | 0x05 => decV3 .vsubS w x
  | 0x06 => decV3 .vmul w x
  | 0x07 => decV3 .vmulS w x
  | 0x08 => decV3 .vmax w x
  | 0x09 => decV3 .vmaxS w x
  | 0x0A => decV3 .vmin w x
  | 0x0B => decV3 .vminS w x
  | 0x0C => decV3 .vand w x
  | 0x0D => decV3 .vandS w x
  | 0x0E => decV3 .vor w x
  | 0x0F => decV3 .vorS w x
  | 0x10 => decV3 .vxor w x
  | 0x11 => decV3 .vxorS w x
  | 0x12 => decV3 .vshl w x
  | 0x13 => decV3 .vshlS w x
  | 0x14 => decV3 .vshr w x
  | 0x15 => decV3 .vshrS w x
  | 0x16 => decV3 .vfma w x
  | 0x17 => decV3 .vfmaS w x
  | 0x18 => decV3 .vcmp w x
  | 0x19 => decV3 .vcmpS w x
  | 0x1A => decV3 .vclamp w x
  | 0x1B => decV3 .vclampS w x
  | 0x20 => decV2 .vmov w x
  | 0x21 => decV2 .vneg w x
  | 0x22 => decV2 .vabs w x
  | 0x23 => decV2 .vcvt w x
  | 0x24 => decV1 .viota w x
  | 0x25 => decV3 .vsel w x
  | 0x28 => decV2 .vredAdd w x
  | 0x29 => decV2 .vredMax w x
  | 0x2A => decV2 .vredMin w x
  | 0x2C => decVM .vld w x
  | 0x2D => decVM .vst w x
  | 0x2E => decV3 .vldx w x
  | 0x2F => decV3 .vstx w x
  | 0x30 => decV2 .vrcp w x
  | 0x31 => decV2 .vrsq w x
  | 0x32 => decV2 .vexp2 w x
  | 0x33 => decV2 .vlog2 w x
  | 0x34 => decV2 .vtanh w x
  | 0x38 => decSkinit w x
  | 0x39 => decV2 .skq w x
  | 0x3A => decV2 .skh w x
  | 0x3B => decV2 .skd w x
  | 0x3C => decV3 .skmerge w x
  | 0x3D => decV3 .skqry w x
  | 0x3E => decV2 .skest w x
  | 0x3F => decV2 .sktop w x
  | _ => none

/-- The X slot's format (R70). -/
def decX (f : Fin 64 → Fin 64 → Fin 128 → Row7 → Option Modifier → Option Instr) (w : Nat) (x : List (BitVec 32)) :
    Option Instr :=
  match unpack [6, 6, 6, 7, 7] w, modOf x with
  | [_, d, a, s, r], some m => f (fn 64 d) (fn 64 a) (fn 128 s) (Row7.ofCode r) m
  | _, _ => none

/-- The X slot (R77); patterns 64 to 127 trap (R70). -/
def decodeX (w : Nat) (x : List (BitVec 32)) : Option Instr :=
  match w / 2 ^ 26 with
  | 0x01 => decX (fun d a s r m => if s.val < 64 then some (.xperm d a (fn 64 s.val) r m) else none) w x
  | 0x02 => decX (fun d a s r m => some (.xbcast d a s r m)) w x
  | 0x03 => decX (fun d a s r m => some (.xrot d a s r m)) w x
  | _ => none

/-- MCLAIM (R71). -/
def decMclaim (w : Nat) (x : List (BitVec 32)) : Option Instr :=
  match unpack [6, 4, 1, 4, 17] w, x with
  | [_, o, nb, p, z], [] =>
    if z = 0 then (if bit nb then some (.mclaim (fn 16 o) (some (fn 16 p))) else if p = 0 then some (.mclaim (fn 16 o) none) else none)
    else none
  | _, _ => none

/-- MREL (R71). -/
def decMrel (w : Nat) (x : List (BitVec 32)) : Option Instr :=
  match unpack [6, 4, 22] w, x with
  | [_, o, z], [] => if z = 0 then some (.mrel (fn 16 o)) else none
  | _, _ => none

/-- MLD, by its VS bit (R71). -/
def decMld (w : Nat) (x : List (BitVec 32)) : Option Instr :=
  if bit (w / 2 ^ 15) then
    match unpack [6, 4, 6, 1, 8, 7] w, x with
    | [_, o, v, _, r, z], [] => if z = 0 then (Row8.ofCode r).map fun row => .mldView (fn 16 o) (fn 64 v) row else none
    | _, _ => none
  else
    match unpack [6, 4, 6, 16] w, x with
    | [_, o, a, z], [e] => if z = 0 then some (.mldSp (fn 16 o) (fn 64 a) e) else none
    | _, _ => none

/-- MMA (R71). -/
def decMma (w : Nat) (x : List (BitVec 32)) : Option Instr :=
  match unpack [6, 4, 4, 2, 3, 2, 7, 4] w, x with
  | [_, a, b, c, o, rm, n, z], [] =>
    if z = 0 then (Cop.ofCode o).map fun op => .mma (fn 16 a) (fn 16 b) (fn 4 c) op (Rm.ofCode rm) (fn 128 n) else none
  | _, _ => none

/-- MST, by its DS bit (R71). -/
def decMst (w : Nat) (x : List (BitVec 32)) : Option Instr :=
  if bit (w / 2 ^ 23) then
    match unpack [6, 2, 1, 6, 17] w, x with
    | [_, c, _, a, z], [e] => if z = 0 then some (.mstSp (fn 4 c) (fn 64 a) e) else none
    | _, _ => none
  else
    match unpack [6, 2, 1, 6, 8, 9] w, x with
    | [_, c, _, v, r, z], [] => if z = 0 then (Row8.ofCode r).map fun row => .mstView (fn 4 c) (fn 64 v) row else none
    | _, _ => none

/-- MZERO (R71). -/
def decMzero (w : Nat) (x : List (BitVec 32)) : Option Instr :=
  match unpack [6, 2, 24] w, x with
  | [_, c, z], [] => if z = 0 then some (.mzero (fn 4 c)) else none
  | _, _ => none

/-- MSEQ (R71). -/
def decMseq (w : Nat) (x : List (BitVec 32)) : Option Instr :=
  match unpack [6, 4, 22] w, x with
  | [_, l, z], [e] => if z = 0 then some (.mseq (fn 16 l) e) else none
  | _, _ => none

/-- The M slot (R77). -/
def decodeM (w : Nat) (x : List (BitVec 32)) : Option Instr :=
  match w / 2 ^ 26 with
  | 0x01 => decMclaim w x
  | 0x02 => decMrel w x
  | 0x03 => decMld w x
  | 0x04 => decMma w x
  | 0x05 => decMst w x
  | 0x06 => decMzero w x
  | 0x07 => decMseq w x
  | _ => none

/-- A copy command with three registers (R72). -/
def decCopy (f : Fin 64 → Fin 64 → Fin 64 → Notif → Instr) (w : Nat) (x : List (BitVec 32)) : Option Instr :=
  match unpack [6, 6, 6, 6, 1, 1, 1, 5] w with
  | [_, d, a, b, ui, gv, fv, k] => (notifOf ui gv fv k x).map fun n => f (fn 64 d) (fn 64 a) (fn 64 b) n
  | _ => none

/-- CRED: the reduction word first, then the notification word (R72). -/
def decCred (w : Nat) (x : List (BitVec 32)) : Option Instr :=
  match x with
  | r :: rest =>
    match unpack [6, 6, 6, 6, 1, 1, 1, 5] w, RedWord.ofWord r with
    | [_, d, a, b, ui, gv, fv, k], some rw => (notifOf ui gv fv k rest).map fun n => .cred (fn 64 d) (fn 64 a) (fn 64 b) n rw
    | _, _ => none
  | [] => none

/-- CHSEND and CHRECV: CH in [25:18], [17:8] zero (R72). -/
def decChan (f : Fin 256 → Notif → Instr) (w : Nat) (x : List (BitVec 32)) : Option Instr :=
  match unpack [6, 8, 10, 1, 1, 1, 5] w with
  | [_, c, z, ui, gv, fv, k] => if z = 0 then (notifOf ui gv fv k x).map fun n => f (fn 256 c) n else none
  | _ => none

/-- The C0 and C1 slots (R77). -/
def decodeC (w : Nat) (x : List (BitVec 32)) : Option Instr :=
  match w / 2 ^ 26 with
  | 0x01 => decCopy .cpy w x
  | 0x02 => decCopy .cpy2d w x
  | 0x03 => decCopy .cfill w x
  | 0x04 => decCopy .cgather w x
  | 0x05 => decCopy .cmcast w x
  | 0x06 => decCred w x
  | 0x07 => decChan .chsend w x
  | 0x08 => decChan .chrecv w x
  | _ => none

/-- The instruction of a slot word with the extension words it owns, by the layouts alone. -/
def decodeClass (sl : Slot) (w : Nat) (x : List (BitVec 32)) : Option Instr :=
  match sl with
  | .Y => decodeY w x
  | .S => decodeS w x
  | .T => decodeT w x
  | .V0 => decodeV w x
  | .V1 => decodeV w x
  | .X => decodeX w x
  | .M => decodeM w x
  | .C0 => decodeC w x
  | .C1 => decodeC w x

/-- The instruction of a slot word with the extension words it owns; none where a decode check of the instruction fails
(R60, R78). -/
def decodeSlot (sl : Slot) (w : BitVec 32) (x : List (BitVec 32)) : Option Instr :=
  match decodeClass sl w.toNat x with
  | some i => if i.wf && i.fits sl then some i else none
  | none => none

/-- The words of an instruction: the slot class it stands in (V1 and C0 for the classes of two slots), its slot word and
its extension words. -/
structure Enc where
  slot : Slot
  word : Nat
  ext : List (BitVec 32)
  deriving DecidableEq, Repr

/-- Format SR. -/
def encSR (op : Nat) (ty : Ty) (d a b : Fin 64) (m : Nat) : Option Enc :=
  some ⟨.S, pack [6, 1, 6, 6, 6, 4, 3] [op, 0, d.val, a.val, b.val, ty.code, m], []⟩

/-- Format SI. -/
def encSI (op : Nat) (ty : Ty) (d a : Fin 64) : Imm9 → Option Enc
  | .short v => some ⟨.S, pack [6, 1, 6, 6, 4, 9] [op, 1, d.val, a.val, ty.code, v.toNat], []⟩
  | .long e => some ⟨.S, pack [6, 1, 6, 6, 4, 9] [op, 1, d.val, a.val, ty.code, 0], [e]⟩

/-- Format SR with a condition and a predicate. -/
def encCmp (op : Nat) (ty : Ty) (c : Cond) (p : Fin 16) (a b : Fin 64) : Option Enc :=
  some ⟨.S, pack [6, 1, 2, 4, 6, 6, 4, 3] [op, 0, 0, p.val, a.val, b.val, ty.code, c.code], []⟩

/-- Format SR with a rounding mode. -/
def encRound (op : Nat) (ty : Ty) (rm : Rm) (d a b : Fin 64) : Option Enc :=
  some ⟨.S, pack [6, 1, 6, 6, 6, 4, 1, 2] [op, 0, d.val, a.val, b.val, ty.code, 0, rm.code], []⟩

/-- Format SF. -/
def encSF (op : Nat) (s : Bool) (d a p l : Fin 64) : Option Enc :=
  some ⟨.S, pack [6, 1, 6, 6, 6, 6, 1] [op, ofBit s, d.val, a.val, p.val, l.val, 0], []⟩

/-- Format SM. -/
def encSM (op : Nat) (xb : Bool) (d a b : Fin 64) (t c : Nat) (e : Option (BitVec 32)) : Option Enc :=
  some ⟨.S, pack [6, 1, 6, 6, 6, 4, 3] [op, ofBit xb, d.val, a.val, b.val, t, c], e.toList⟩

/-- An instruction that is its opcode alone. -/
def encBare (sl : Slot) (op : Nat) : Option Enc := some ⟨sl, pack [6, 26] [op, 0], []⟩

/-- Format VR. -/
def encV (op : Nat) (d : Fin 64) (a b : Nat) (r : Row8) (m : Option Modifier) : Option Enc :=
  some ⟨.V1, pack [6, 6, 6, 6, 8] [op, d.val, a, b, r.code], modWords m⟩

/-- Format VM. -/
def encVM (op : Nat) (d : Fin 64) (r : Row8) (a : Fin 64) (o : BitVec 6) (m : Option Modifier) : Option Enc :=
  some ⟨.V1, pack [6, 6, 8, 6, 6] [op, d.val, r.code, a.val, o.toNat], modWords m⟩

/-- The X slot's format. -/
def encX (op : Nat) (d a : Fin 64) (s : Nat) (r : Row7) (m : Option Modifier) : Option Enc :=
  some ⟨.X, pack [6, 6, 6, 7, 7] [op, d.val, a.val, s, r.code], modWords m⟩

/-- The T slot's format. -/
def encT (op : Nat) (v s : Fin 64) (r : Row8) (e : Nat) (x : List (BitVec 32)) : Option Enc :=
  some ⟨.T, pack [6, 6, 6, 8, 6] [op, v.val, s.val, r.code, e], x⟩

/-- The T slot's format with an immediate element. -/
def encTImm (op : Nat) (v s : Fin 64) (r : Row8) : Elem → Option Enc
  | .short e => encT op v s r e.val []
  | .long e => encT op v s r 0 [BitVec.ofNat 32 e.val]

/-- A copy command. -/
def encCopy (op : Nat) (d a b : Fin 64) (n : Notif) (x : List (BitVec 32)) : Option Enc :=
  some ⟨.C0, pack [6, 6, 6, 6, 1, 1, 1, 5] [op, d.val, a.val, b.val, ofBit n.ui, ofBit n.gv, ofBit n.fv, n.k.val],
    x ++ n.words⟩

/-- A channel command. -/
def encChan (op : Nat) (c : Fin 256) (n : Notif) : Option Enc :=
  some ⟨.C0, pack [6, 8, 10, 1, 1, 1, 5] [op, c.val, 0, ofBit n.ui, ofBit n.gv, ofBit n.fv, n.k.val], n.words⟩

/-- The layout of MBREQ, MBTAKE. -/
def encMb (op : Nat) (r : Fin 64) : Option (Fin 16) → Option Enc
  | some p => some ⟨.S, pack [6, 1, 6, 4, 15] [op, 1, r.val, p.val, 0], []⟩
  | none => some ⟨.S, pack [6, 1, 6, 4, 15] [op, 0, r.val, 0, 0], []⟩

/-- One 8-bit number in slot Y. -/
def encByte (op : Nat) (g : Fin 256) : Option Enc := some ⟨.Y, pack [6, 8, 18] [op, g.val, 0], []⟩

/-- The words of an instruction of the code stream (R61 to R77); the other steps have none. -/
def encode : Instr → Option Enc
  | .add ty d a b => encSR 0x01 ty d a b 0
  | .addImm ty d a m => encSI 0x01 ty d a m
  | .sub ty d a b => encSR 0x02 ty d a b 0
  | .subImm ty d a m => encSI 0x02 ty d a m
  | .mul ty d a b => encSR 0x03 ty d a b 0
  | .mulImm ty d a m => encSI 0x03 ty d a m
  | .min ty d a b => encSR 0x07 ty d a b 0
  | .minImm ty d a m => encSI 0x07 ty d a m
  | .max ty d a b => encSR 0x08 ty d a b 0
  | .maxImm ty d a m => encSI 0x08 ty d a m
  | .and ty d a b => encSR 0x09 ty d a b 0
  | .andImm ty d a m => encSI 0x09 ty d a m
  | .or ty d a b => encSR 0x0a ty d a b 0
  | .orImm ty d a m => encSI 0x0a ty d a m
  | .xor ty d a b => encSR 0x0b ty d a b 0
  | .xorImm ty d a m => encSI 0x0b ty d a m
  | .shl ty d a b => encSR 0x0c ty d a b 0
  | .shlImm ty d a m => encSI 0x0c ty d a m
  | .shr ty d a b => encSR 0x0d ty d a b 0
  | .shrImm ty d a m => encSI 0x0d ty d a m
  | .shra ty d a b => encSR 0x0e ty d a b 0
  | .shraImm ty d a m => encSI 0x0e ty d a m
  | .mulh ty d a b => encSR 0x04 ty d a b 0
  | .div ty d a b => encSR 0x05 ty d a b 0
  | .rem ty d a b => encSR 0x06 ty d a b 0
  | .cmp ty c p a b => encCmp 0x0f ty c p a b
  | .fcmp ty c p a b => encCmp 0x18 ty c p a b
  | .sel p d a b => some ⟨.S, pack [6, 1, 6, 6, 6, 4, 3] [0x10, 0, d.val, a.val, b.val, p.val, 0], []⟩
  | .clz ty d a => encSR 0x11 ty d a 0 0
  | .popc ty d a => encSR 0x12 ty d a 0 0
  | .bfx s d a p l => encSF 0x13 s d a p l
  | .bfi d a p l => encSF 0x14 false d a p l
  | .fadd ty rm d a b => encRound 0x15 ty rm d a b
  | .fmul ty rm d a b => encRound 0x16 ty rm d a b
  | .fma ty rm d a b => encRound 0x17 ty rm d a b
  | .fcvt dst src rm d a => some ⟨.S, pack [6, 1, 6, 6, 2, 4, 4, 1, 2] [0x19, 0, d.val, a.val, 0, src.code, dst.code, 0, rm.code], []⟩
  | .movi d (.short v) => some ⟨.S, pack [6, 1, 6, 19] [0x1A, 0, d.val, v.toNat], []⟩
  | .movi d (.long e) => some ⟨.S, pack [6, 1, 6, 19] [0x1A, 0, d.val, 0], [e]⟩
  | .movhi d e => some ⟨.S, pack [6, 1, 6, 19] [0x1B, 0, d.val, 0], [e]⟩
  | .ld ty sc d m => encSM 0x1C m.xb d m.sa m.sb ty.code (scopeCode sc) m.ext
  | .st ty sc d m => encSM 0x1D m.xb d m.sa m.sb ty.code (scopeCode sc) m.ext
  | .acas ty sc d a b e => encSM 0x1E false d a b ty.code sc.code e
  | .flush sc a b e => encSM 0x1F false 0 a b 0 sc.code e
  | .inval sc a b e => encSM 0x20 false 0 a b 0 sc.code e
  | .zline sc a b e => encSM 0x21 false 0 a b 0 (scopeCode sc) e
  | .wdecl n a b e => some ⟨.S, pack [6, 1, 6, 6, 6, 4, 3] [0x22, 0, a.val, b.val, e.val, n.val, 0], []⟩
  | .wdrop n => some ⟨.S, pack [6, 19, 4, 3] [0x23, 0, n.val, 0], []⟩
  | .atomAdd ty sc d a b e => encSM 0x28 false d a b ty.code sc.code e
  | .atomMax ty sc d a b e => encSM 0x29 false d a b ty.code sc.code e
  | .atomMin ty sc d a b e => encSM 0x2a false d a b ty.code sc.code e
  | .atomAnd ty sc d a b e => encSM 0x2b false d a b ty.code sc.code e
  | .atomOr ty sc d a b e => encSM 0x2c false d a b ty.code sc.code e
  | .atomXor ty sc d a b e => encSM 0x2d false d a b ty.code sc.code e
  | .atomSwap ty sc d a b e => encSM 0x2e false d a b ty.code sc.code e
  | .br n p o => some ⟨.S, pack [6, 1, 1, 4, 20] [0x30, 0, ofBit n, p.val, o.toNat], []⟩
  | .jmp o => some ⟨.S, pack [6, 1, 5, 20] [0x31, 0, 0, o.toNat], []⟩
  | .jmpReg n => some ⟨.S, pack [6, 1, 5, 6, 14] [0x31, 1, 0, n.val, 0], []⟩
  | .call o => some ⟨.S, pack [6, 1, 5, 20] [0x32, 0, 0, o.toNat], []⟩
  | .callReg n => some ⟨.S, pack [6, 1, 5, 6, 14] [0x32, 1, 0, n.val, 0], []⟩
  | .ret => encBare .S 0x33
  | .loop p a b => some ⟨.S, pack [6, 1, 6, 10, 9] [0x34, ofBit p, a.val, b.toNat, 0], []⟩
  | .trap c => some ⟨.S, pack [6, 10, 16] [0x35, 0, c.toNat], []⟩
  | .brk c => some ⟨.S, pack [6, 10, 16] [0x36, 0, c.toNat], []⟩
  | .halt => encBare .S 0x37
  | .rft => encBare .S 0x38
  | .rfui => encBare .S 0x39
  | .sysr d n => some ⟨.S, pack [6, 1, 6, 12, 7] [0x3A, 0, d.val, n.val, 0], []⟩
  | .sysw a n => some ⟨.S, pack [6, 1, 6, 12, 7] [0x3B, 0, a.val, n.val, 0], []⟩
  | .viewset v a => some ⟨.S, pack [6, 1, 6, 6, 13] [0x3C, 0, v.val, a.val, 0], []⟩
  | .mbreq a p => encMb 0x3D a p
  | .mbtake d p => encMb 0x3E d p
  | .acq c => some ⟨.Y, pack [6, 3, 23] [0x01, c.code, 0], []⟩
  | .rel c => some ⟨.Y, pack [6, 3, 23] [0x02, c.code, 0], []⟩
  | .fence c l s p => some ⟨.Y, pack [6, 3, 1, 1, 1, 20] [0x03, c.code, ofBit p, ofBit s, ofBit l, 0], []⟩
  | .fpost k n none => some ⟨.Y, pack [6, 5, 16, 1, 4] [0x04, k.val, n.toNat, 0, 0], []⟩
  | .fpost k n (some t) => some ⟨.Y, pack [6, 5, 16, 1, 4] [0x04, k.val, n.toNat, 1, 0], [t.word]⟩
  | .fwait k n => some ⟨.Y, pack [6, 5, 16, 5] [0x05, k.val, n.toNat, 0], []⟩
  | .bara g => encByte 0x06 g
  | .barw g => encByte 0x07 g
  | .live g => encByte 0x08 g
  | .dead v f c => some ⟨.Y, pack [6, 6, 9, 9, 2] [0x09, v.val, f.val, c.val, 0], []⟩
  | .waiti => encBare .Y 0x0A
  | .xsvImm v s r e => encTImm 0x01 v s r e
  | .xsvScalar v s r e => encT 0x02 v s r e.val []
  | .xsvBcast v s r => encT 0x03 v s r 0 []
  | .xvsImm v s r e => encTImm 0x09 v s r e
  | .xvsScalar v s r e => encT 0x0A v s r e.val []
  | .vadd d a b r m => encV 0x02 d a.val b.val r m
  | .vaddS d a b r m => encV 0x03 d a.val b.val r m
  | .vsub d a b r m => encV 0x04 d a.val b.val r m
  | .vsubS d a b r m => encV 0x05 d a.val b.val r m
  | .vmul d a b r m => encV 0x06 d a.val b.val r m
  | .vmulS d a b r m => encV 0x07 d a.val b.val r m
  | .vmax d a b r m => encV 0x08 d a.val b.val r m
  | .vmaxS d a b r m => encV 0x09 d a.val b.val r m
  | .vmin d a b r m => encV 0x0a d a.val b.val r m
  | .vminS d a b r m => encV 0x0b d a.val b.val r m
  | .vand d a b r m => encV 0x0c d a.val b.val r m
  | .vandS d a b r m => encV 0x0d d a.val b.val r m
  | .vor d a b r m => encV 0x0e d a.val b.val r m
  | .vorS d a b r m => encV 0x0f d a.val b.val r m
  | .vxor d a b r m => encV 0x10 d a.val b.val r m
  | .vxorS d a b r m => encV 0x11 d a.val b.val r m
  | .vshl d a b r m => encV 0x12 d a.val b.val r m
  | .vshlS d a b r m => encV 0x13 d a.val b.val r m
  | .vshr d a b r m => encV 0x14 d a.val b.val r m
  | .vshrS d a b r m => encV 0x15 d a.val b.val r m
  | .vfma d a b r m => encV 0x16 d a.val b.val r m
  | .vfmaS d a b r m => encV 0x17 d a.val b.val r m
  | .vcmp d a b r m => encV 0x18 d a.val b.val r m
  | .vcmpS d a b r m => encV 0x19 d a.val b.val r m
  | .vclamp d a b r m => encV 0x1a d a.val b.val r m
  | .vclampS d a b r m => encV 0x1b d a.val b.val r m
  | .vmov d a r m => encV 0x20 d a.val 0 r m
  | .vneg d a r m => encV 0x21 d a.val 0 r m
  | .vabs d a r m => encV 0x22 d a.val 0 r m
  | .vcvt d a r m => encV 0x23 d a.val 0 r m
  | .vredAdd d a r m => encV 0x28 d a.val 0 r m
  | .vredMax d a r m => encV 0x29 d a.val 0 r m
  | .vredMin d a r m => encV 0x2a d a.val 0 r m
  | .vrcp d a r m => encV 0x30 d a.val 0 r m
  | .vrsq d a r m => encV 0x31 d a.val 0 r m
  | .vexp2 d a r m => encV 0x32 d a.val 0 r m
  | .vlog2 d a r m => encV 0x33 d a.val 0 r m
  | .vtanh d a r m => encV 0x34 d a.val 0 r m
  | .skq d a r m => encV 0x39 d a.val 0 r m
  | .skh d a r m => encV 0x3a d a.val 0 r m
  | .skd d a r m => encV 0x3b d a.val 0 r m
  | .skest d a r m => encV 0x3e d a.val 0 r m
  | .sktop d a r m => encV 0x3f d a.val 0 r m
  | .viota d r m => encV 0x24 d 0 0 r m
  | .vsel d a b r m => encV 0x25 d a.val b.val r m
  | .vld d r a o m => encVM 0x2C d r a o m
  | .vst d r a o m => encVM 0x2D d r a o m
  | .vldx d v a r m => encV 0x2E d v.val a.val r m
  | .vstx d v a r m => encV 0x2F d v.val a.val r m
  | .skinit d k b r m => encV 0x38 d k.code b.val r m
  | .skmerge d a b r m => encV 0x3C d a.val b.val r m
  | .skqry d a b r m => encV 0x3D d a.val b.val r m
  | .xperm d a s r m => encX 0x01 d a s.val r m
  | .xbcast d a s r m => encX 0x02 d a s.val r m
  | .xrot d a s r m => encX 0x03 d a s.val r m
  | .mclaim o none => some ⟨.M, pack [6, 4, 1, 4, 17] [0x01, o.val, 0, 0, 0], []⟩
  | .mclaim o (some p) => some ⟨.M, pack [6, 4, 1, 4, 17] [0x01, o.val, 1, p.val, 0], []⟩
  | .mrel o => some ⟨.M, pack [6, 4, 22] [0x02, o.val, 0], []⟩
  | .mldSp o a e => some ⟨.M, pack [6, 4, 6, 16] [0x03, o.val, a.val, 0], [e]⟩
  | .mldView o v r => some ⟨.M, pack [6, 4, 6, 1, 8, 7] [0x03, o.val, v.val, 1, r.code, 0], []⟩
  | .mma a b c o rm n => some ⟨.M, pack [6, 4, 4, 2, 3, 2, 7, 4] [0x04, a.val, b.val, c.val, o.code, rm.code, n.val, 0], []⟩
  | .mstView c v r => some ⟨.M, pack [6, 2, 1, 6, 8, 9] [0x05, c.val, 0, v.val, r.code, 0], []⟩
  | .mstSp c a e => some ⟨.M, pack [6, 2, 1, 6, 17] [0x05, c.val, 1, a.val, 0], [e]⟩
  | .mzero c => some ⟨.M, pack [6, 2, 24] [0x06, c.val, 0], []⟩
  | .mseq l e => some ⟨.M, pack [6, 4, 22] [0x07, l.val, 0], [e]⟩
  | .cpy d a b n => encCopy 0x01 d a b n []
  | .cpy2d d a b n => encCopy 0x02 d a b n []
  | .cfill d a b n => encCopy 0x03 d a b n []
  | .cgather d a b n => encCopy 0x04 d a b n []
  | .cmcast d a b n => encCopy 0x05 d a b n []
  | .cred d a b n r => encCopy 0x06 d a b n [r.word]
  | .chsend c n => encChan 0x07 c n
  | .chrecv c n => encChan 0x08 c n
  | .doorbell .. | .admitLaunch | .workerPlace .. | .workerRetire | .launchComplete .. | .heldCompletionWrite ..
  | .msixCoalesceExpiry .. | .graphEdgeComplete .. | .nodeStart .. | .preemptTrigger .. | .graceWindowExpiry
  | .imageSeal .. | .heldResponseAppend .. | .leanSave | .leanRestore .. | .restoreImage ..
  | .collisionPrioritySwap .. | .dictIssue | .repeatIssue | .literalIssue | .fetchFillComplete | .resultWriteback
  | .impreciseFaultTake | .userInterruptTake | .granuleRetentionEntry .. | .retentionWakeComplete ..
  | .tokenRefill .. | .tokenRequestServed .. | .arrayBeat | .matrixPassComplete | .mstRowLand | .mldFillComplete ..
  | .summaryOpComplete .. | .loadLand .. | .multicastStoreLand .. | .tlbWalkComplete .. | .copyEngineStart ..
  | .copyDataLand .. | .copyComplete .. | .barrierArrival .. | .flagIncrement .. | .windowRead ..
  | .windowReadForOwnership .. | .windowUpgrade .. | .windowForwardedRequest .. | .windowInvalidation ..
  | .windowAcknowledgement .. | .windowData .. | .windowNotBusy .. | .windowWriteback .. | .windowHomeAck ..
  | .directoryRecall .. | .remoteRead .. | .remoteWrite .. | .remoteAtomic .. | .readData .. | .atomicAnswer ..
  | .acknowledgement .. | .fabricForward .. | .linkFlitReceive .. | .linkReplay .. | .linkCrcThreshold ..
  | .linkLaneLoss .. | .linkReplayLimit .. | .linkTrainComplete .. | .linkTrainTimeout .. | .linkHandshakeComplete ..
  | .lnkctlRetrain .. | .lnkctlBringUp .. | .lnkctlForceDown .. | .linkFifoWords .. | .linWatchdog
  | .channelArrival .. | .channelCredit .. | .reduceContribution .. | .reduceResult .. | .reductionTableWrite ..
  | .routeTableWrite .. | .routeEntryApply .. | .didtWrite .. | .pkgidWrite .. | .commctlStart .. | .trcctlWrite ..
  | .registerWrite .. | .peerWrite .. | .peerRead .. | .attestationRequest .. | .boot | .telemetryRecord ..
  | .powerThrottle .. | .traceSample .. | .uncorrectableError .. | .dbgHalt .. | .dbgStep .. | .dbgRegisterWrite ..
  | .dbgLatchEdit .. | .tlbinvEntry .. | .tlbinvAsid .. | .tlbinvAll .. | .tbaWrite .. | .accessAtPointOfCoherence ..
  | .storePerformed .. | .lineEvictionWriteBack .. | .linkFifoCredit .. | .barrierSignal .. => none

/-- Slot classes in the order `decodeTableWord` tries them: the classes whose layouts fix the most bits first. -/
def tableSlots : List Slot := [.M, .Y, .S, .T, .V1, .X, .C0]

/-- What an instruction whose bits are w, with extension words of zeros where it requires them, is read as: the slot
class and the instruction (the opcode table does not say which class a word belongs to). -/
def decodeTable (w : Nat) : Option (Slot × List (BitVec 32) × Instr) :=
  let word := BitVec.ofNat 32 w
  tableSlots.firstM fun sl =>
    match decodeSlot sl word [] with
    | some i => some (sl, [], i)
    | none => (decodeSlot sl word [0]).map fun i => (sl, [0], i)

/-- The instruction the decoder reads from a table row's word. -/
def decodeTableWord (nbits w : Nat) : Option Instr :=
  if nbits = 32 then (decodeTable w).map fun r => r.2.2 else none

/-- The bundle header (R56): which slots are present and which slot owns each extension word. -/
structure Header where
  pres : BitVec 9
  xc : Nat
  own1 : Nat
  own2 : Nat
  deriving DecidableEq, Repr

/-- The header of a word; none where a check of R56 on the header fails. -/
def Header.ofWord (w : BitVec 32) : Option Header :=
  match unpack [13, 4, 4, 2, 9] w.toNat with
  | [z, o2, o1, xc, pres] =>
    let p := BitVec.ofNat 9 pres
    let own (o : Nat) : Bool := o < 9 && p.getLsbD o
    if z = 0 ∧ xc < 3 ∧ (xc < 2 → o2 = 0) ∧ (xc = 0 → o1 = 0) ∧ (0 < xc → own o1) ∧ (1 < xc → own o2 ∧ o1 ≤ o2) then
      some ⟨p, xc, o1, o2⟩
    else none
  | _ => none

/-- The word of a header (R56). -/
def Header.word (h : Header) : BitVec 32 :=
  BitVec.ofNat 32 (pack [13, 4, 4, 2, 9] [0, h.own2, h.own1, h.xc, h.pres.toNat])

/-- The slots present, in ascending index (R57). -/
def Header.slots (h : Header) : List Slot := Slot.all.filter fun sl => h.pres.getLsbD sl.index

/-- The length of the bundle in 32-bit words (R57). -/
def Header.length (h : Header) : Nat := 1 + h.slots.length + h.xc

/-- The extension words a slot owns, of the bundle's extension words in order (R57). -/
def Header.extOf (h : Header) (xs : List (BitVec 32)) (sl : Slot) : List (BitVec 32) :=
  (((xs.take 1).filter fun _ => 0 < h.xc && h.own1 == sl.index)) ++
  ((xs.drop 1).take 1).filter fun _ => 1 < h.xc && h.own2 == sl.index

/-- Why a bundle is not one: a fault of the stream, the header or the literal, or the lowest slot that fails (R60). -/
inductive BundleFault where
  | bundle
  | slot (s : Slot)
  deriving DecidableEq, Repr

/-- The slots of a bundle with their instructions, in commit order (R59). -/
abbrev Bundle := List (Slot × Instr)

/-- Decodes the slots in order; the lowest-indexed slot that fails names the fault (R60). `ok` is the check of the
context and its kernel. -/
def decodeSlots (h : Header) (ok : Instr → Bool) (xs : List (BitVec 32)) :
    List Slot → List (BitVec 32) → Except BundleFault Bundle
  | [], _ => .ok []
  | sl :: sls, w :: ws =>
    match decodeSlot sl w (h.extOf xs sl) with
    | some i => if ok i then (decodeSlots h ok xs sls ws).map ((sl, i) :: ·) else .error (.slot sl)
    | none => .error (.slot sl)
  | sl :: _, [] => .error (.slot sl)

/-- The bundle of a list of words that begins with its header; the words after it are not looked at (R56 to R60). -/
def decodeBundle (ok : Instr → Bool) (ws : List (BitVec 32)) : Except BundleFault (Header × Bundle) :=
  match ws with
  | [] => .error .bundle
  | hw :: rest =>
    match Header.ofWord hw with
    | none => .error .bundle
    | some h =>
      if rest.length + 1 < h.length then .error .bundle
      else
        let n := h.slots.length
        (decodeSlots h ok ((rest.drop n).take h.xc) h.slots (rest.take n)).map fun b => (h, b)

end Sys2Proof
end

