-- ==== Sys2Proof/Machine/State.lean ====
section
/-! DEFINITION. The state of one package as plain data, and the machine right after reset. Collections keyed by a number
are lists of pairs; a key that is not listed stands for the named reset value. -/

namespace Sys2Proof.Machine

/-- A collection keyed by numbers: the first pair with a key holds its value. -/
abbrev Map (α : Type) := List (Nat × α)

/-- A byte mask over a 512-byte row. -/
abbrev RowMask := BitVec 512

/-- The 4,096 bits of a register-space row (R35). -/
abbrev RowBits := BitVec 4096

/-- A row of the register space: its bytes and whether it is dead (R35, R43). -/
structure Row where
  bits : RowBits
  dead : Bool
  deriving DecidableEq, Repr

/-- A live row of zeros (R16). -/
def Row.zero : Row := ⟨0, false⟩

/-- Which bank holds a register from s48 up: the main bank, the user-interrupt shadow bank of s56 to s63 (R31), the
supervisor bank of s48 to s63 (R250). -/
inductive Bank where
  | main | shadow | sup
  deriving DecidableEq, Repr

/-- The engines that ENG of TSW names (R252). -/
inductive Eng where
  | none | c0 | c1 | mldFill | mstDrain | pass | summary | memory
  deriving DecidableEq, Repr

/-- The ENG code (R252). -/
def Eng.code : Eng → Nat
  | .none => 0 | .c0 => 1 | .c1 => 2 | .mldFill => 3 | .mstDrain => 4 | .pass => 5 | .summary => 6 | .memory => 7

/-- The attributes a page or a local map entry gives the bytes it holds (R92, R194, R204). -/
structure Attr where
  fmt : Fmt
  bl : Fin 4
  sws : Fin 8
  ap : Bool
  pkg : Nat
  rap : Bool
  deriving DecidableEq, Repr

/-- A TLB entry (R196): address space, virtual base, size, frame, attributes, permissions. -/
structure TlbEntry where
  asid : Nat
  va : Nat
  size : Nat
  frame : Nat
  attr : Attr
  r : Bool
  w : Bool
  x : Bool
  u : Bool
  pin : Bool
  deriving DecidableEq, Repr

/-- A tile object as directories name it (R167): its home, a die's directory or the package home; whether an aperture leaf
maps it; its home package; the target addresses of its 4 KiB pieces; its size. -/
structure WObj where
  home : Option (Fin 4)
  ap : Bool
  pkg : Nat
  tas : List Nat
  size : Nat
  deriving DecidableEq, Repr

/-- Where a byte lives after translation: the core's scratchpad, local memory, a peer's memory, a shared window (the
window, the virtual address of the tile object, the byte's offset in it, the object), a multicast window (the byte's offset in the
window); or a byte of the scratchpad that an access has read at issue (R155), with its value. -/
inductive Loc where
  | sp (off : Nat)
  | mem (pa : Nat)
  | peer (pkg : Nat) (ta : Nat)
  | win (wn : Fin 16) (va off : Nat) (obj : WObj)
  | mc (wn : Fin 16) (off : Nat)
  | lit (b : Byte)
  deriving DecidableEq, Repr

/-- What a precise or imprecise trap reports (R252, R253). -/
structure TrapInfo where
  cls : Nat
  cause : Nat
  code : Nat
  va : Nat
  scale : Bool
  deriving DecidableEq, Repr

/-- A pending imprecise fault: class, cause, engine, queue index, bundle address of the command, address (R258). -/
structure Imprecise where
  cls : Nat
  cause : Nat
  eng : Eng
  qix : Nat
  ba : Nat
  va : Nat
  scale : Bool
  deriving DecidableEq, Repr

/-- What a result in the exposed-pipeline latches, or an effect at the end of an issue cycle, writes (R23, R41); `scales` are scale
bytes of the fill of an operand slot that came from outside the scratchpad, by block (R121). -/
inductive Write where
  | sreg (b : Bank) (r : Fin 64) (v : Word)
  | pred (p : Fin 16) (v : Bool)
  | row (r : Nat) (mask : RowMask) (v : RowBits)
  | view (w : Fin 64) (v : Word)
  | sys (n : Nat) (v : Word)
  | spad (cells : List Host.Cell)
  | dead (rows : List Nat)
  | flagAdd (k : Fin 32) (n : Nat) (sc : Scope)
  | flagSub (k : Fin 32) (n : Nat)
  | lout (n : Fin 16) (v : Word)
  | window (wn : Fin 16)
  | mail (v : Word)
  | scales (slot : Nat) (cells : List (Nat × Byte))
  | flags
  deriving DecidableEq, Repr

/-- An entry of the exposed-pipeline latches: what is written, the core cycles left, the flags it ORs into FPFLAGS when
it lands, the slot and bundle that issued it and their core cycle (R21, R23, R41, R87). -/
structure Latch where
  w : Write
  left : Nat
  fl : BitVec 32
  slot : Slot
  ba : Nat
  born : Nat
  deriving DecidableEq, Repr

/-- An element of a vector access (R379, R382): where its bytes are and where its scale byte is, if it has one. -/
structure ElemLoc where
  bytes : List Loc
  scale : Option Loc
  deriving DecidableEq, Repr

/-- How the bytes that a load read become its result (R344, R380): a scalar register of a bank, or a row of the register
space through a page format, a view format and a rounding mode; the scale bytes of an operand slot's fill (R121); or what a debugger has put in the result's place (R281, R282). -/
inductive LoadTo where
  | scalar (ty : Ty) (b : Bank) (r : Fin 64)
  | lout (n : Fin 16)
  | row (p v : Fmt) (rm : Rm) (r : Nat)
  | scales (slot : Nat) (blocks : List Nat)
  | lit (w : Write)
  deriving DecidableEq, Repr

/-- The operation of an atomic (R310, R315). -/
inductive AtomOp where
  | add | max | min | and | or | xor | swap
  | cas (cmp : Word)
  deriving DecidableEq, Repr

/-- A block of a blocked tapered page that a store rewrites (R96): the place of its scale byte, its elements with the values the
store gives some of them, in the view's format, and whether the flags of its encoding were raised at issue (log entry 22). -/
structure TapBlock where
  scale : Loc
  cells : List (Loc × Option Word)
  told : Bool
  deriving DecidableEq, Repr

/-- What a memory operation in flight does; `zero` sets lines of aperture pages to zero (R152), each named by its first byte. -/
inductive MemKind where
  | load (d : LoadTo)
  | store (vals : List Byte)
  | zero
  | tapStore (p : Fmt) (v : Fmt) (rm : Rm) (blocks : List TapBlock)
  | atomic (op : AtomOp) (ty : Ty) (b : Word) (d : LoadTo)
  deriving DecidableEq, Repr

/-- The progress of a memory operation: not yet performed in full, with the bytes it has read so far, one for each byte that is
done; a request for its next bytes on its way through the fabric under a tag; performed, with the bytes it read; ended in a fabric
error; an atomic refused for a reason (R208). -/
inductive MemPhase where
  | waiting (got : List Byte)
  | sent (tag : Nat) (got : List Byte)
  | done (bytes : List Byte)
  | failed
  | refused (reason : Nat)
  deriving DecidableEq, Repr

/-- A memory operation of a context in flight: a pending load, a posted store, an atomic (R156, R172). `sup` tells an operation of
supervisor code, for whose result RFT waits (R255); `born` is the die cycle of its translation (R199). -/
structure MemOp where
  kind : MemKind
  sc : Option Scope
  attr : Attr
  elems : List ElemLoc
  phase : MemPhase
  ba : Nat
  slot : Slot
  sup : Bool
  born : Nat
  deriving DecidableEq, Repr

/-- A declared window (R164): base, length, tile-object bytes, widest scope, local copy region in scratchpad bytes of the
core, whether it is a multicast window, the WDECL operands, whether it has taken effect and in which die cycle (R163, R386), and
whether it is being dropped (R166). -/
structure Win where
  base : Nat
  len : Nat
  obj : Nat
  maxsc : Scope
  lc : Nat
  lclen : Nat
  mcast : Bool
  ops : Word × Word × Word
  live : Bool
  dropping : Bool
  since : Nat
  deriving DecidableEq, Repr

/-- Why a context did not issue in a cycle; the order is the fill causes of R287. -/
inductive Stall where
  | collision | bank | link | flag | barrier | claim | fill | retention | token | kiln | memory | order | fetch
  | queue | summary | mailbox | waiti | halted | landing | group | answer | lout | drain
  deriving DecidableEq, Repr

/-- What a split bundle reads its operands from when it is completed: everything its uncommitted slots could have read
at the trapped issue (R254, R255). -/
structure Snap where
  s : Vector Word 64
  p : Vector Bool 16
  vw : Vector Word 64
  sys : List (Nat × Word)
  rows : Map Row
  lin : Vector (Option Word) 16
  deriving DecidableEq, Repr

/-- What happens when a bundle has committed in full, beside a transfer: nothing, HALT's wait (R341), RFT's return (R255),
RFUI's return (R360). -/
inductive Ending where
  | plain | halt | rft | rfui
  deriving DecidableEq, Repr

/-- A bundle being issued: its address and origin (R52), the next bundle address, the body that its LOOP of count 0 skips
(R349), the repetition it is and how many there
are, its slots, the slots still to commit, the transfer taken, the trap taken when it has committed in full, the LIVE
entry it marks, what else its end does, the scratchpad banks its slots have used and those held when it was presented
(R157), the slot at which a breakpoint has stopped it (R284), the TLB entries that its own TLBINV has dropped: its later slots, whose
addresses are translated before any slot commits (R200), still use them. -/
structure Iss where
  ba : Nat
  origin : Nat
  nextBa : Nat
  skip : Option (Nat × Nat)
  rep : Nat
  reps : Nat
  slots : Bundle
  todo : Bundle
  target : Option Nat
  after : Option TrapInfo
  live : Option (Fin 256)
  ending : Ending
  banks : BitVec 32
  held : BitVec 32
  passed : Option Slot
  inv : List TlbEntry
  deriving DecidableEq, Repr

/-- The code stream in use (R46): the kernel header's fields. -/
structure Code where
  codeva : Nat
  dictva : Nat
  liveva : Nat
  codew : Nat
  entry : Nat
  dictn : Nat
  liven : Nat
  deriving DecidableEq, Repr

/-- No code stream. -/
def Code.none : Code := ⟨0, 0, 0, 0, 0, 0, 0⟩

/-- The bundle before the fetch address in the stream, which a repeat word repeats (R51): its slots and its origin. Where a
LOOP of count 0 has skipped its body (R349), `skip` is the body's range: the bundle is then the last one that the words
of the range carry, or this one where they carry none. -/
structure Prev where
  slots : Bundle
  origin : Nat
  skip : Option (Nat × Nat)
  deriving DecidableEq, Repr

/-- The fetch state: the bundle address fetched next, the bundle that a repeat word repeats (none at a start or after a
transfer, R51), the repetitions issued of the repeat word at pc (R52). -/
structure Fetch where
  pc : Nat
  last : Option Prev
  rep : Nat
  deriving DecidableEq, Repr

/-- The counters of an active loop (R288). -/
structure LoopStat where
  fill : Vector Nat 9
  iter : Nat
  bund : Nat
  froz : Nat
  deriving DecidableEq, Repr

/-- A loop that has just begun: its first iteration (R288). -/
def LoopStat.start : LoopStat := ⟨Vector.replicate 9 0, 1, 0, 0⟩

/-- A dictionary entry that a pinned loop holds in the dictionary cache (R55): its index, its physical address, its words. -/
structure HeldEntry where
  ix : Nat
  pa : Nat
  words : List (BitVec 32)
  deriving DecidableEq, Repr

/-- The loop stack: its registers (R352), which loops run pinned, the loop buffer with the code words of the pinned body by
their addresses and the dictionary entries held for them (R55), the counters of the active loops, innermost first (R288). -/
structure Loops where
  depth : Nat
  floor : Nat
  count : Vector (BitVec 32) 4
  start : Vector Word 4
  fin : Vector Word 4
  pin : Vector Bool 4
  stat : List LoopStat
  buf : List (Nat × Nat)
  ents : List HeldEntry
  deriving DecidableEq, Repr

/-- The empty loop stack (R16). -/
def Loops.empty : Loops :=
  ⟨0, 0, Vector.replicate 4 0, Vector.replicate 4 0, Vector.replicate 4 0, Vector.replicate 4 false, [], [], []⟩

/-- A matrix pass, or the one beat of MZERO, in flight (R123 to R126): accumulator, operand slots, sequence captured at
issue, rounding mode, beats, beat length, beats released, beats executed, core cycles since issue, flags gathered. -/
structure Pass where
  acc : Fin 4
  oa : Fin 16
  ob : Fin 16
  zero : Bool
  seq : List Cop
  rm : Rm
  beats : Nat
  len : Nat
  released : Nat
  executed : Nat
  age : Nat
  fl : BitVec 32
  ba : Nat
  deriving DecidableEq, Repr

/-- Where an accumulator drain puts its rows (R127): a register row each, or scratchpad bytes. -/
inductive DrainTo where
  | rows (first : Nat)
  | sp (offs : List Nat)
  deriving DecidableEq, Repr

/-- An accumulator drain in flight (R127): rows already read by their beats, core cycles since issue, rows landed, banks
held (R157), its bundle and the core cycle of issue. -/
structure Drain where
  acc : Fin 4
  dst : DrainTo
  len : Nat
  age : Nat
  read : List (BitVec 4096)
  landed : Nat
  banks : BitVec 32
  ba : Nat
  born : Nat
  deriving DecidableEq, Repr

/-- A group of a worker: its arrival phase and the phase last signalled to the context (R316, R318). -/
structure Bar where
  g : Fin 256
  ap : BitVec 16
  phase : BitVec 16
  deriving DecidableEq, Repr

/-- What a context holds (R9, R13): nothing, the worker of an admitted launch with its linear index, the communication
kernel. -/
inductive Occ where
  | free
  | worker (launch : Nat) (index : Nat)
  | comm
  deriving DecidableEq, Repr

/-- What a context is doing: nothing, issuing, waiting to retire after HALT (R341), stopped at a save point (R265),
stopped by a fatal context error (R261). -/
inductive Run where
  | idle | running | retiring | saving | fatal
  deriving DecidableEq, Repr

/-- What a trap parks (R250, R254, R255): the user's latches, fetch state, split bundle, operand latch; whether a write of TBA has
given up a split bundle, whose core cycle then ends at RFT (log entry 11). -/
structure Parked where
  lat : List Latch
  fetch : Fetch
  iss : Option Iss
  snap : Option Snap
  spent : Bool
  deriving DecidableEq, Repr

/-- Nothing parked. -/
def Parked.none : Parked := ⟨[], ⟨0, Option.none, 0⟩, Option.none, Option.none, false⟩

/-- A context (R6): its registers, its execution state, its work in flight. `placed` is the die cycle of its placement,
`pres` and `pba` the slots and the address of the bundle presented in this die cycle, `entering` whether it entered a trap in
it, `waking` whether the end of its core cycle waits for a granule in retention on which a result lands (R43), `dbgix` the latch entry
that the debug port shows (R281, log entry 45), `spkeep` what the last worker left in its scratchpad partition (R16), `inv` the die cycle
from which a TLB invalidation waits (R199). -/
structure Ctx where
  s : Vector Word 64
  sui : Vector Word 8
  ssup : Vector Word 16
  p : Vector Bool 16
  k : Vector (BitVec 16) 32
  ktag : Vector Scope 32
  vw : Vector Word 64
  ctxctl : BitVec 32
  fpflags : BitVec 32
  uivec : Word
  xpat : BitVec 32
  mpitch : BitVec 32
  mseqr : Word
  arrcfg : BitVec 32
  fxgrid : BitVec 32
  scwb : Vector Word 8
  lmap : Vector Word 32
  lfto : BitVec 32
  chtab : Word
  rsbase : BitVec 32
  rslim : BitVec 32
  spbase : Word
  splim : Word
  ptroot : Word
  tvec : Word
  tba : Word
  tcba : Word
  taddr : Word
  tsw : Word
  tlbiva : Word
  loops : Loops
  suploops : Loops
  code : Code
  supcode : Code
  fetch : Fetch
  sup : Bool
  parked : Parked
  iss : Option Iss
  snap : Option Snap
  lat : List Latch
  mops : List MemOp
  uiq : List Word
  impq : List Imprecise
  wins : Map Win
  wsaved : List (Nat × (Word × Word × Word))
  bars : List Bar
  ncol : Nat
  stall : Option Stall
  pres : BitVec 9
  pba : Option Nat
  entering : Bool
  adv : Bool
  waking : Bool
  inv : Option Nat
  cc : Nat
  occ : Occ
  run : Run
  lastLaunch : Option Nat
  spkeep : List Host.Cell
  placed : Nat
  grace : Option Nat
  savept : Option (Fin 256)
  passes : List Pass
  drains : List Drain
  busy : Nat
  tseq : Nat
  dbgctl : BitVec 32
  attached : Bool
  dstep : Bool
  dbgix : Nat
  bpaddr : Vector Word 8
  bpctl : Vector (BitVec 32) 8
  lin : Vector (List Word) 16
  lout : Vector (List Word) 16
  lcred : Vector Nat 16
  lpop : Vector Nat 16
  linwait : Nat
  deriving DecidableEq, Repr

/-- A context at power-on: MPITCH is 1, everything else zero and empty. Log entry 2 names the registers whose value the
spec does not give. -/
def Ctx.reset : Ctx where
  s := Vector.replicate 64 0
  sui := Vector.replicate 8 0
  ssup := Vector.replicate 16 0
  p := Vector.replicate 16 false
  k := Vector.replicate 32 0
  ktag := Vector.replicate 32 .core
  vw := Vector.replicate 64 0
  ctxctl := 0
  fpflags := 0
  uivec := 0
  xpat := 0
  mpitch := 1
  mseqr := 0
  arrcfg := 0
  fxgrid := 0
  scwb := Vector.replicate 8 0
  lmap := Vector.replicate 32 0
  lfto := 0
  chtab := 0
  rsbase := 0
  rslim := 0
  spbase := 0
  splim := 0
  ptroot := 0
  tvec := 0
  tba := 0
  tcba := 0
  taddr := 0
  tsw := 0
  tlbiva := 0
  loops := Loops.empty
  suploops := Loops.empty
  code := Code.none
  supcode := Code.none
  fetch := ⟨0, none, 0⟩
  sup := false
  parked := Parked.none
  iss := none
  snap := none
  lat := []
  mops := []
  uiq := []
  impq := []
  wins := []
  wsaved := []
  bars := []
  ncol := 0
  stall := none
  pres := 0
  pba := none
  entering := false
  adv := false
  waking := false
  inv := none
  cc := 0
  occ := .free
  run := .idle
  lastLaunch := none
  spkeep := []
  placed := 0
  grace := none
  savept := none
  passes := []
  drains := []
  busy := 0
  tseq := 0
  dbgctl := 0
  attached := false
  dstep := false
  dbgix := 0
  bpaddr := Vector.replicate 8 0
  bpctl := Vector.replicate 8 0
  lin := Vector.replicate 16 []
  lout := Vector.replicate 16 []
  lcred := Vector.replicate 16 32
  lpop := Vector.replicate 16 0
  linwait := 0

/-- A line of a cache with a dirty bit per byte and a zero flag (R148, R149): the address is the line's number. -/
structure Line where
  bits : BitVec 1024
  dirty : BitVec 128
  zero : Bool
  deriving DecidableEq, Repr

/-- What a copy command does (R305, R327, R330). -/
inductive CmdKind where
  | cpy | cpy2d | cfill | cgather | cmcast | cred | chsend | chrecv
  deriving DecidableEq, Repr

/-- What a copy command sees as its source (R159): taken at issue, after the context's posted stores, local memory, the cluster's
lines, the die's atomic buffer, the core's scratchpad; and the bytes of aperture pages and windows that it has read since. -/
structure SrcView where
  mem : List Host.Cell
  lines : Map Line
  abuf : Map Line
  sp : List Host.Cell
  got : List (Loc × Byte)
  deriving DecidableEq, Repr

/-- How far a copy command is: queued; running; waiting for a credit, an arrival or a reduction result; all bytes landed;
faulted. -/
inductive CmdPhase where
  | queued | running | waiting | landed | faulted
  deriving DecidableEq, Repr

/-- Where a byte of a reduction's result goes, as translated at issue (R247), or the fault that its landing finds. -/
inductive DstLoc where
  | place (l : Loc)
  | fault (cause va : Nat)
  deriving DecidableEq, Repr

/-- A command of a copy engine (R158, R305): its queue index, context, bundle address, die cycle of issue, operands as read
at issue, notifications, the translation state of its context at issue, source view. Its progress: phase; whether it
copies raw, decided once at its first piece, with the pages looked at for that so far and their attributes; elements in all and
landed; element sizes at the two ends, 0 while the page is not mapped; bytes it still counts in PEND; widest scope of its destination; banks held (R157); a request to a peer under way, with the
places it reads, or the place of a window that it asks a copy for; the piece's old bytes that have come one after another, or a
contribution's result; bytes of the piece still to be written; a channel entry's place; the channel's count at the start (R245); the places of a reduction's result, translated at issue
(R247); whether source bytes in aperture pages or windows are still to be read, and how many elements have theirs; the die cycle in
which it last translated (R199); flags. -/
structure Cmd where
  kind : CmdKind
  qix : Nat
  ctx : Nat
  ba : Nat
  came : Nat
  d : Word
  a : Word
  b : Word
  nt : Notif
  rw : Option RedWord
  sup : Bool
  ptroot : Word
  lmap : Vector Word 32
  spbase : Word
  splim : Word
  scwb : Vector Word 8
  wins : Map Win
  src : SrcView
  phase : CmdPhase
  raw : Option Bool
  scan : Nat
  keys : List Attr
  total : Nat
  done : Nat
  es : Nat
  ed : Nat
  pend : Nat
  sc : Scope
  banks : BitVec 32
  tag : Option Nat
  inbuf : List Byte
  out : Option (List (Loc × Byte))
  entry : Loc
  count : Nat
  dst : List DstLoc
  asking : List Loc
  afar : Bool
  seen : Nat
  tr : Nat
  fl : BitVec 32
  deriving DecidableEq, Repr

/-- An operation that occupies a summary unit (R136, R137): the context, beats left in core cycles, the rows it will write,
its bundle. Its writes stand in the context's latches. -/
structure SumOp where
  ctx : Nat
  left : Nat
  rows : List Nat
  ba : Nat
  deriving DecidableEq, Repr

/-- The states of a core's copy of a tile object (R168). -/
inductive WState where
  | M | O | E | S | I | IS | ISI | IM | SM | OM | MI | OI | EI | SI
  deriving DecidableEq, Repr

/-- A copy of a tile object in a core's scratchpad (R165, R168), kept for the context that declared the window: the window,
the object's virtual address, the object, its state, its frame in the scratchpad, acknowledgements expected less those
received, whether the home has told their number, whether the data has come and has not yet served the access that asked for it,
whether a write asked for it and is still to be made, the bundle address of the access that asked last (R207). -/
structure WCopy where
  ctx : Nat
  wn : Fin 16
  va : Nat
  obj : WObj
  st : WState
  frame : Nat
  acks : Int
  told : Bool
  data : Bool
  want : Bool
  ba : Nat
  deriving DecidableEq, Repr

/-- A core: register space, the die cycle of each granule's last access, granules in retention and waking, granules
gated by the marks of this die cycle (R43), scratchpad,
engines, summary unit, tags of the L1, the dictionary cache and the code lines, slots and banks used in this die cycle,
window copies, the core TLB (R196). -/
structure CoreSt where
  rows : Map Row
  gidle : Map Nat
  gret : List Nat
  gwake : Map Nat
  gnew : List Nat
  sp : List Host.Cell
  c0 : List Cmd
  c1 : List Cmd
  sumop : Option SumOp
  l1 : List Nat
  dict : List Nat
  cline : List Nat
  mask : BitVec 9
  cyc : BitVec 32
  wcopy : List WCopy
  tlb : List TlbEntry
  deriving DecidableEq, Repr

/-- A core at power-on: nothing listed, every row live and zero (log entry 2), an empty scratchpad (log entry 1). -/
def CoreSt.reset : CoreSt := ⟨[], [], [], [], [], [], [], [], none, [], [], [], 0, 0, [], []⟩

/-- A fill of an operand slot in flight (R120, R122): core-clock cycles left, banks held, the scratchpad bytes its rows
start at, the tile and its attributes. -/
structure Fill where
  left : Nat
  banks : BitVec 32
  core : Nat
  src : List Nat
  fmt : Fmt
  bl : Fin 4
  rows : List (BitVec 2048)
  scale : List Byte
  deriving DecidableEq, Repr

/-- A physical operand slot (R115, R119): 128 tile rows of 256 bytes, the scale store, format, claim, fill in flight. -/
structure OSlot where
  rows : Map (BitVec 2048)
  scale : Map Byte
  bl : Fin 4
  fmt : Fmt
  claimed : Bool
  fill : Option Fill
  deriving DecidableEq, Repr

/-- An operand slot at worker start: zero, bf16, unclaimed (R115). -/
def OSlot.reset : OSlot := ⟨[], [], 0, .bf16, false, none⟩

/-- A request that arrived for a context of a frozen pair and waits at its edge (R269); bytes name the core and engine of the CMCAST
they come from, if they come from one (R325). -/
inductive Held where
  | flag (x : Nat) (k : Fin 32) (n : Nat) (sc : Scope)
  | cells (core : Nat) (cells : List Host.Cell) (src : Option (Nat × Bool))
  | signal (x : Nat) (g : Fin 256) (phase : BitVec 16)
  deriving DecidableEq, Repr

/-- A packet of the fabric (R233): its header flit, its payload flits, the link it came through. -/
structure Packet where
  hdr : BitVec 512
  pay : List (BitVec 512)
  via : Option (Fin 16)
  deriving DecidableEq, Repr

/-- A pair that the kiln has stopped (R268, R269): the freeze cycle; what waits at its edge, in order of arrival: the requests, the
responses that came before it was sealed, and those that came later (R272); whether its release has been asked for. -/
structure Frozen where
  cycle : Nat
  held : List Held
  packets : List Packet
  late : List Packet
  release : Bool
  deriving DecidableEq, Repr

/-- The flits that the input buffer of a pair's edge holds: R275's example (log entry 66). -/
def edgeCap : Nat := 64

/-- The edge of a pair (R269, R275): outbound packets that have not been sent, the outbound credit on each virtual channel (R236: the
requests', then the responses'), the flits in its input buffer, the inbound credit that it grants. -/
structure Edge where
  outq : List Packet
  credit : Vector Nat 12
  occ : Nat
  grant : Nat
  deriving DecidableEq, Repr

/-- An edge with empty buffers at both ends (R275). -/
def Edge.reset : Edge := ⟨[], Vector.replicate 12 edgeCap, 0, edgeCap⟩

/-- A pair: operand slots, accumulators as 128 rows of 128 FP32 values, the active edge bank, the freeze, the edge. -/
structure PairSt where
  oslot : Map OSlot
  acc : Map (Map (BitVec 4096))
  bank : Bool
  bankBusy : Bool
  frozen : Option Frozen
  edge : Edge
  deriving DecidableEq, Repr

/-- A pair at power-on. -/
def PairSt.reset : PairSt := ⟨[], [], false, false, none, Edge.reset⟩

/-- A cluster: its cache (R148), its mailbox (R242), its TLB (R196). -/
structure ClusterSt where
  lines : Map Line
  mail : List Word
  tlb : List TlbEntry
  deriving DecidableEq, Repr

/-- A cluster at power-on: an empty cache, an empty mailbox. -/
def ClusterSt.reset : ClusterSt := ⟨[], [], []⟩

/-- A walk queued or running (R197): root, address, the address-space identifier, coalesced misses, the cores whose TLBs its entry
is filled into (R196). -/
structure Walk where
  root : Nat
  asid : Nat
  va : Nat
  waiting : List Nat
  cores : List Nat
  born : Nat
  deriving DecidableEq, Repr

/-- Whom a request for tokens is for (R228): an MMA of a context, a granule that wakes, a pair that the kiln releases. -/
inductive TokWho where
  | mma (x : Nat)
  | wake (core g : Nat)
  | pair (p : Nat)
  deriving DecidableEq, Repr

/-- A request for tokens (R228): tokens, the context or pair it is for, whether it has been served, the die cycle of its
arrival and its place among the requests of that cycle. -/
structure TokReq where
  n : Nat
  who : TokWho
  served : Bool
  came : Nat
  key : Nat
  deriving DecidableEq, Repr

/-- A multicast store in flight (R163): cycles left, window and launch of the members, issuing context, the engine for a piece of
a CMCAST (R325), bytes by offset in the window; or the core for whose stopped pair's credit it waits (R269), and its bytes by place in
that core's scratchpad. -/
structure McStore where
  left : Nat
  launch : Nat
  wn : Fin 16
  ctx : Nat
  eng : Option Bool
  cells : List (Nat × Byte)
  only : Option Nat
  taps : List (Fmt × Fmt × Rm × TapBlock)
  deriving DecidableEq, Repr

/-- A directory's entry for a tile object (R167, R169). The holders: in a die directory the contexts of the die, in a package home the
dies; the owner among them; whether a request is in progress; the requests queued in order (who, and whether for ownership); what a
home of another package has sent so far; the die cycle of its last use. In a die directory: whether the die holds the object in M or
E (R391), the contexts whose requests it has passed to the package home, and, while it invalidates its holders for another die, the
requester, the acknowledgements still to come and whether the die owes the data. -/
structure DirEntry where
  obj : WObj
  sharers : List Nat
  owner : Option Nat
  busy : Bool
  queue : List (Nat × Bool)
  buf : List Byte
  used : Nat
  excl : Bool
  up : List Nat
  coll : Option (Nat × Nat × Bool)
  deriving DecidableEq, Repr

/-- A walk that has ended in a fault in this die cycle (R197): address space, address, cause; a miss of the address that is presented
in the next cycle takes it. -/
structure WalkFault where
  asid : Nat
  va : Nat
  cause : Nat
  deriving DecidableEq, Repr

/-- A compute die: atomic buffer, TLB, walks and those that ended in a fault, token bucket (R227), its control register, the write of it that waits for
the next die cycle (R297), directory, multicast stores in flight, trace unit registers (R286), telemetry counters. -/
structure DieSt where
  abuf : Map Line
  tlb : List TlbEntry
  walks : List Walk
  wfaults : List WalkFault
  tokens : Nat
  refill : Nat
  reqs : List TokReq
  didt : Word
  didtNext : Option Word
  dir : List DirEntry
  mcast : List McStore
  trcbase : Word
  trclen : Word
  trcptr : Word
  trcctl : Word
  trctick : Nat
  corr : Nat
  bktw : Nat
  teln : Nat
  deriving DecidableEq, Repr

/-- A die at power-on: DIDT has LIMIT 0 and DEPTH 4 (R297), so the bucket holds 4 tokens (R227). -/
def DieSt.reset : DieSt where
  abuf := []
  tlb := []
  walks := []
  wfaults := []
  tokens := 4
  refill := 0
  reqs := []
  didt := 0x40000
  didtNext := none
  dir := []
  mcast := []
  trcbase := 0
  trclen := 0
  trcptr := 0
  trcctl := 0
  trctick := 0
  corr := 0
  bktw := 0
  teln := 0

/-- Whose request is outstanding under a tag (R234): a context's access, a copy engine's, a window home's read or write for a
context, a hub's contribution to its parent's entry, a flag increment or a channel message of a context, which nothing waits for, a link's. -/
inductive ReqWho where
  | op (x : Nat)
  | copyRead (core : Nat) (e : Bool)
  | copyWrite (core : Nat) (e : Bool)
  | winRead (obj : WObj) (x : Nat) (own : Bool)
  | home
  | hub (rid : Nat)
  | post (x : Nat)
  | none
  deriving DecidableEq, Repr

/-- A request sent and not yet answered (R234): its tag, destination, who waits, bundle address, target address. -/
structure Req where
  tag : Nat
  dpkg : Nat
  who : ReqWho
  ba : Nat
  ta : Nat
  deriving DecidableEq, Repr

/-- The states of a link (R232, R238). -/
inductive LinkState where
  | down | train | handshake | disputed | active
  deriving DecidableEq, Repr

/-- The STATE code of LNKSTAT (R232). -/
def LinkState.code : LinkState → Nat
  | .down => 0 | .train => 1 | .handshake => 2 | .disputed => 3 | .active => 4

/-- A flit in a retry buffer (R231, R237): its sequence number, the flit, its packet with its place in it, how often it has been
replayed. -/
structure RetryFlit where
  seq : BitVec 12
  flit : BitVec 512
  pkt : Packet
  ix : Nat
  reps : Nat
  deriving DecidableEq, Repr

/-- One end of a link (R231, R232, R236 to R238): state, TRIES, its view, DROP, the numbers of the flits that failed their CRC within
the last 2^20, how many flits have come since they were counted from zero, next sequence numbers, retry buffer, flits received of
the packet under way, the packets that wait on each virtual channel (the requests' six, then the responses'). -/
structure Link where
  st : LinkState
  tries : Nat
  view : LinkView
  min : Option LinkView
  drop : Nat
  crcs : List Nat
  flits : Nat
  txseq : BitVec 12
  rxseq : BitVec 12
  retry : List RetryFlit
  rx : List (BitVec 512)
  vcs : Vector (List Packet) 12
  deriving DecidableEq, Repr

/-- A link at power-on: LNKSTAT reads zero (R232). -/
def Link.reset : Link := ⟨.down, 0, ⟨0, 0, false⟩, none, 0, [], 0, 0, 0, [], [], Vector.replicate 12 []⟩

/-- A reduction entry (R246 to R248): its 128 bits, accumulator, the local ranks and the child links whose contributions the
round in progress holds, LAST of each local rank and child link, last completed result, the headers of the contributions whose
issuers wait for the round, those of the children with their links, the packets of contributions and results that have come in
part. -/
structure RedEntry where
  bits : BitVec 128
  acc : BitVec 32768
  ranks : List Nat
  kids : BitVec 16
  lastRank : Map Nat
  lastKid : Map Nat
  result : BitVec 32768
  waiters : List (BitVec 512)
  kidWait : List (Fin 16 × BitVec 512)
  parts : List Packet
  deriving DecidableEq, Repr

/-- A reduction entry before its first write (R246). -/
def RedEntry.reset : RedEntry := ⟨0, 0, [], 0, [], [], 0, [], [], []⟩

/-- The messages about tile objects (R167 to R169). -/
inductive WKind where
  | read | rfo | upgrade | fwdRead | fwdOwn | inv | ack | data | notBusy | wback | homeAck
  deriving DecidableEq, Repr

/-- Between whom a message about a tile object travels (R167): `core` a core and its die directory or another core, `die` the same
for an invalidation that the die directory itself has asked for, `pkg` a die directory and the package home. -/
inductive WLevel where
  | core | die | pkg
  deriving DecidableEq, Repr

/-- A message about a tile object: the context it comes from or is for (of a die, its first), the requester it serves, the data it
carries, the acknowledgements to expect, whether it comes from the home, whether the copy is exclusive, its level. -/
structure WMsg where
  kind : WKind
  obj : WObj
  x : Nat
  req : Nat
  data : Option (List Byte)
  acks : Nat
  fromHome : Bool
  excl : Bool
  lvl : WLevel
  deriving DecidableEq, Repr

/-- A message on its way to a barrier unit, a context or a channel (R25, R245, R317, R338). -/
inductive Msg where
  | arrival (launch : Nat) (g : Fin 256)
  | signal (x : Nat) (g : Fin 256) (phase : BitVec 16)
  | flag (x : Nat) (k : Fin 32) (n : Nat) (sc : Scope)
  | chanArrival (x : Nat) (ch : Nat)
  | chanCredit (x : Nat) (ch : Nat)
  deriving DecidableEq, Repr

/-- A task that an admitted packet or node runs (R213): its number in the order of admission, queue and ring index, its
parameters, the next index of each die, the units of its groups, whether it has failed and starts no more workers, how long it
has waited on each die. -/
structure Launch where
  id : Nat
  q : Nat
  pktidx : Nat
  user : Word
  prio : Nat
  replay : Option (Nat × Nat)
  code : Code
  views : Vector Word 64
  ptroot : Word
  tvec : Word
  args : Word
  gtab : Nat
  x : Nat
  y : Nat
  z : Nat
  part : List (Nat × Nat)
  nextIx : List Nat
  rsg : Nat
  spg : Nat
  oms : Nat
  amode : Nat
  cohort : Bool
  units : List (Nat × Nat)
  failed : Bool
  stopped : Bool
  waited : List Nat
  deriving DecidableEq, Repr

/-- A running replay of a task graph (R220 to R224). -/
structure Replay where
  id : Nat
  q : Nat
  pktidx : Nat
  user : Word
  prio : Nat
  ptroot : Word
  tvec : Word
  version : BitVec 32
  pb : Word
  nodes : Nat
  nnode : Nat
  started : List Nat
  ended : List Nat
  edges : List (Nat × Nat)
  failed : Option Nat
  deriving DecidableEq, Repr

/-- A completion entry before it is written (R225). -/
structure Completion where
  q : Nat
  user : Word
  pktidx : Nat
  status : Nat
  detail : Nat
  version : BitVec 32
  deriving DecidableEq, Repr

/-- What a lean save holds (R266), with the windows' operands (R265). -/
structure LeanRec where
  s : Vector Word 64
  sui : Vector Word 8
  p : Vector Bool 16
  k : Vector (BitVec 16) 32
  ktag : Vector Scope 32
  vw : Vector Word 64
  ctxctl : BitVec 32
  fpflags : BitVec 32
  fxgrid : BitVec 32
  scwb : Vector Word 8
  lmap : Vector Word 32
  xpat : BitVec 32
  mpitch : BitVec 32
  mseqr : Word
  uivec : Word
  fetch : Fetch
  uiq : List Word
  impq : List Imprecise
  bars : List Bar
  dead : List Nat
  rows : Map RowBits
  sp : List Host.Cell
  oslot : Map OSlot
  acc : Map (Map (BitVec 4096))
  wins : List (Nat × (Word × Word × Word))
  core : Nat
  deriving DecidableEq, Repr

/-- A freeze image (R270, R271): the pair it came from, its header, and what the streams hold: contexts, cores, arrays with the edge,
the requests and the responses captured at the edge, the held packets; the number of the free value that begins the bytes of the
sections whose layout the spec does not give. -/
structure Image where
  pair : Nat
  hdr : BitVec 4096
  ctxs : List Ctx
  cores : List CoreSt
  arr : PairSt
  held : List Held
  captured : List Packet
  packets : List Packet
  seed : Nat
  awaited : List Nat
  final : Bool
  bank : Bool
  occ : List (Nat × Nat × Nat)
  deriving DecidableEq, Repr

/-- A saved worker waiting to be restored (R216, R219): its launch and index, a lean record or the image that holds it, the
cause of the refusal for which it reruns from its start (R273), the phases noted in its barrier mailbox (R26). -/
structure SavedW where
  launch : Nat
  index : Nat
  lean : Option LeanRec
  image : Option Nat
  rerun : Option Nat
  mail : List (Fin 256 × BitVec 16)
  deriving DecidableEq, Repr

/-- What the management controller logs. -/
inductive LogEntry where
  | doorbell (fn q : Nat)
  | queueError (q : Nat)
  | doubleTrap (x : Nat) (tsw tba : Word)
  | fatal (x : Nat)
  | flagDiscard (x : Nat)
  | arrivalDiscard (g : Nat)
  | exportMiss (pkg loc : Nat) (ba ta : Nat)
  | packet (hdr : BitVec 512)
  | linkDown (l : Nat)
  | ignored (a : Nat) (v : Word)
  | peer (fn off : Nat)
  | commHeader
  | poison (a : Nat)
  deriving DecidableEq, Repr

/-- What the package sends to the host (R226, R238, R291, R292, R294). -/
inductive ToHost where
  | msix (vec : Nat)
  | unsupported
  | report (stages : List (BitVec 384)) (fusedig : List (BitVec 384)) (rev : Nat) (nonce : BitVec 256) (sig : BitVec 768)
  deriving DecidableEq, Repr

/-- How far the boot chain is (R293). -/
inductive Boot where
  | rom | recovery | done
  deriving DecidableEq, Repr

/-- The fuse map (R8, R301): per die the physical clusters with which of their pairs are intact, the GiB per stack, the
firmware, the architecture revision, the DIDT value of the board's configuration, and what the firmware writes into QTBASE,
EXPROOT and the functions' WBASE. -/
structure Fuse where
  pairs : List (List (Bool × Bool))
  gib : List Nat
  arch : Nat
  board : Word
  firmware : List Byte
  qtbase : Nat
  exproot : Word
  wbase : Map Nat
  deriving DecidableEq, Repr

/-- A full part (log entry 3): ten clusters of two intact pairs on each die, 64 GiB per stack. -/
def Fuse.full : Fuse :=
  ⟨List.replicate 4 (List.replicate 10 (true, true)), List.replicate 8 64, 1, 0x40000, [], 0, 0, []⟩

/-- A doorbell coalescing timer (R226): the queue and the die cycle at which its message is due. -/
structure Coal where
  q : Nat
  due : Nat
  deriving DecidableEq, Repr

/-- What has left this package about a group of pod scope (R24, log entry 68): the package it is for, the launch, the group, the
message. -/
structure Gone where
  pkg : Nat
  launch : Nat
  g : Fin 256
  m : GroupMsg
  deriving DecidableEq, Repr

/-- The hub, the management controller and what belongs to the package as a whole. `away` is what has left for other packages about
groups of pod scope (R24). -/
structure Hub where
  qtbase : Nat
  schedctl : BitVec 32
  lnkvec : Word
  pkgid : Nat
  telbase : Word
  tellen : Word
  exproot : Word
  wbase : Map Nat
  commkh : Word
  commpt : Word
  commtv : Word
  commarg : Word
  links : Vector Link 16
  route : Map (BitVec 32)
  routeq : List (Nat × BitVec 32)
  red : Map RedEntry
  xtlb : List TlbEntry
  launches : List Launch
  replays : List Replay
  admitted : Nat
  turn : Vector (Nat × Nat) 4
  heldc : List Completion
  coal : List Coal
  inq : List Packet
  outq : List Packet
  reqs : List Req
  nextTag : Nat
  saved : List SavedW
  images : Map Image
  nextImage : Nat
  homes : List DirEntry
  wnet : List WMsg
  msgs : List Msg
  away : List Gone
  mhz : Nat
  boot : Boot
  fuse : Fuse
  nclu : List (Nat × Nat)
  digest : List (BitVec 384)
  deriving DecidableEq, Repr

/-- The hub at reset: registers at the values the spec gives (R217, R232, R246, R286, R295, R296), the others as log
entries 2 and 3 say. -/
def Hub.reset : Hub where
  qtbase := 0
  schedctl := 0x400014
  lnkvec := 0
  pkgid := 0
  telbase := 0
  tellen := 0
  exproot := 0
  wbase := []
  commkh := 0
  commpt := 0
  commtv := 0
  commarg := 0
  links := Vector.replicate 16 Link.reset
  route := []
  routeq := []
  red := []
  xtlb := []
  launches := []
  replays := []
  admitted := 0
  turn := Vector.replicate 4 (0, 0)
  heldc := []
  coal := []
  inq := []
  outq := []
  reqs := []
  nextTag := 0
  saved := []
  images := []
  nextImage := 0
  homes := []
  wnet := []
  msgs := []
  away := []
  mhz := 2500
  boot := .rom
  fuse := Fuse.full
  nclu := []
  digest := []

/-- Why a machine stops. No step of the model raises it: every trap, fault and refusal of the hardware is a next state.
It stands for a state that could not be reached (safe). -/
inductive Fault where
  /-- Raised by no meaning (safe). -/
  | unreachable
  deriving DecidableEq, Repr

/-- Why a step has no meaning. -/
inductive Refusal where
  /-- An instruction without a meaning yet; raised by its arm of the dispatch alone (safe). -/
  | notModelled (mnemonic : String)
  deriving DecidableEq, Repr

/-- One package. `cur` is the context a context's step acts for and `slot` the slot it stands in; `todo` lists steps lined
up from outside or by a schedule, each with its context; `ring` the contexts still to move in this die cycle; `clock` the
die clock; `free` counts the free values used. These last six are the model's own. -/
structure State where
  ctxs : Map Ctx
  cores : Map CoreSt
  pairs : Map PairSt
  clusters : Map ClusterSt
  dies : Map DieSt
  hub : Hub
  mem : List Host.Cell
  zflag : List Nat
  poison : List Nat
  log : List LogEntry
  toHost : List ToHost
  clock : Nat
  cur : Nat
  slot : Slot
  todo : List (Nat × Instr)
  ring : List Nat
  free : Nat
  deriving DecidableEq, Repr

/-- The machine right after reset: nothing listed, the boot chain not yet run (R293), every register at its reset value. -/
def State.reset : State where
  ctxs := []
  cores := []
  pairs := []
  clusters := []
  dies := []
  hub := Hub.reset
  mem := []
  zflag := []
  poison := []
  log := []
  toHost := []
  clock := 0
  cur := 0
  slot := .S
  todo := []
  ring := []
  free := 0

end Sys2Proof.Machine
end

