-- ==== Sys2Proof/Machine/Flags.lean ====
section
/-! DEFINITION. The exception flags of FPFLAGS (R86) and how a set of them is raised. -/

namespace Sys2Proof.Machine

/-- A set of raised flags, in the bits of FPFLAGS (R86). -/
abbrev Flags := BitVec 32

/-- No flag. -/
def Flags.zero : Flags := 0

/-- NX: the stored result differs from the exact result (R86). -/
def flNX : Flags := 1

/-- UF: nonzero, below the smallest normal magnitude, inexact (R86). -/
def flUF : Flags := 2

/-- OF: beyond the format's range, or saturated (R86). -/
def flOF : Flags := 4

/-- DZ: division by zero (R86). -/
def flDZ : Flags := 8

/-- NV: invalid (R86). -/
def flNV : Flags := 16

/-- A flag raised only when a condition holds. -/
def Flags.when (b : Bool) (f : Flags) : Flags := if b then f else 0

/-- The flags of a list of operations, ORed (R87). -/
def Flags.all (l : List Flags) : Flags := l.foldl (· ||| ·) 0

end Sys2Proof.Machine
end

