-- ==== Sys2Proof/Machine/Num.lean ====
section
/-! DEFINITION. Exact values of the element formats and the named helpers of rounding, saturation and conversion
(R84 to R102): `round_g`, `rnd_fmt`, `dec_tap`, `enc_tap`, `dec_blk`, `to_fx48`, `from_fx48`. A finite value is a sign, a
magnitude and a power of two, so every sum and product is formed exactly. -/

namespace Sys2Proof

namespace Machine

/-- An exact value: a NaN (signalling or not), an infinity, or (−1)^neg · m · 2^e; a zero keeps its sign. -/
inductive Val where
  | nan (sig : Bool)
  | inf (neg : Bool)
  | fin (neg : Bool) (m : Nat) (e : Int)
  deriving DecidableEq, Repr

/-- The value of an integer. -/
def Val.ofInt (i : Int) : Val := .fin (i < 0) i.natAbs 0

/-- Whether a value is a NaN. -/
def Val.isNan : Val → Bool
  | .nan _ => true
  | _ => false

/-- Whether a value is a signalling NaN (R85). -/
def Val.isSig : Val → Bool
  | .nan s => s
  | _ => false

/-- Whether a value is negative, a negative zero included. -/
def Val.neg? : Val → Bool
  | .nan _ => false
  | .inf n => n
  | .fin n _ _ => n

/-- The value with its sign flipped. -/
def Val.negate : Val → Val
  | .nan s => .nan s
  | .inf n => .inf (!n)
  | .fin n m e => .fin (!n) m e

/-- The magnitude of a value. -/
def Val.abs : Val → Val
  | .nan s => .nan s
  | .inf _ => .inf false
  | .fin _ m e => .fin false m e

/-- The signed significand of a finite value at a power of two at or below its own. -/
def alignTo (neg : Bool) (m : Nat) (e q : Int) : Int :=
  let v : Int := (m * 2 ^ (e - q).toNat : Nat)
  if neg then -v else v

/-- NV for a signalling NaN among the operands (R85). -/
def sigFlags (vs : List Val) : Flags := Flags.when (vs.any Val.isSig) flNV

/-- The exact sum; inf − inf is a NaN with NV. An exact zero sum is −0 only when both are −0, or in mode downward (R85). -/
def Val.add (rm : Rm) (a b : Val) : Val × Flags :=
  match a, b with
  | .nan _, _ => (.nan false, 0)
  | _, .nan _ => (.nan false, 0)
  | .inf x, .inf y => if x == y then (.inf x, 0) else (.nan false, flNV)
  | .inf x, .fin _ _ _ => (.inf x, 0)
  | .fin _ _ _, .inf y => (.inf y, 0)
  | .fin x m e, .fin y n f =>
    let q := if e ≤ f then e else f
    let v := alignTo x m e q + alignTo y n f q
    if v = 0 then
      (.fin (if m = 0 ∧ n = 0 ∧ x = y then x else rm == .rd) 0 0, 0)
    else (.fin (v < 0) v.natAbs q, 0)

/-- The exact product; 0 · inf is a NaN with NV (R334). A zero product has the sign that its operands' signs give, of integer operands
too (R102, log entry 69). -/
def Val.mul (a b : Val) : Val × Flags :=
  match a, b with
  | .nan _, _ => (.nan false, 0)
  | _, .nan _ => (.nan false, 0)
  | .inf x, .inf y => (.inf (x != y), 0)
  | .inf x, .fin y n _ => if n = 0 then (.nan false, flNV) else (.inf (x != y), 0)
  | .fin x m _, .inf y => if m = 0 then (.nan false, flNV) else (.inf (x != y), 0)
  | .fin x m e, .fin y n f => (.fin (x != y) (m * n) (e + f), 0)

/-- a < b among values that are not NaN, −0 equal to +0. -/
def Val.lt (a b : Val) : Bool :=
  match a, b with
  | .nan _, _ => false
  | _, .nan _ => false
  | .inf x, .inf y => x && !y
  | .inf x, .fin _ _ _ => x
  | .fin _ _ _, .inf y => !y
  | .fin x m e, .fin y n f =>
    let q := if e ≤ f then e else f
    alignTo x m e q < alignTo y n f q

/-- a = b among values that are not NaN, −0 equal to +0. -/
def Val.eq (a b : Val) : Bool := !a.isNan && !b.isNan && !a.lt b && !b.lt a

/-- a < b with −0 below +0 (R102, R315, R373). -/
def Val.below (a b : Val) : Bool := a.lt b || (a.eq b && a.neg? && !b.neg?)

/-- Whether a value is a finite zero. -/
def Val.isZero : Val → Bool
  | .fin _ m _ => m == 0
  | _ => false

/-- The nearest, lower or higher integer of n + r/d, as the mode says; `neg` is the sign of the value rounded (R99). -/
def roundUp (rm : Rm) (neg : Bool) (n r d : Nat) : Nat :=
  match rm with
  | .ne => if 2 * r > d ∨ (2 * r = d ∧ n % 2 = 1) then n + 1 else n
  | .rz => n
  | .ru => if r ≠ 0 ∧ !neg then n + 1 else n
  | .rd => if r ≠ 0 ∧ neg then n + 1 else n

/-- `round_g` of a nonzero magnitude m · 2^e (R99): the significand on the grid 2^q, q, and whether it is exact. -/
def roundG (neg : Bool) (m : Nat) (e : Int) (p : Nat) (qmin : Int) (rm : Rm) : Nat × Int × Bool :=
  let l : Int := (Nat.log2 m : Int) + e
  let q0 := l - p + 1
  let q := if q0 < qmin then qmin else q0
  if q ≤ e then (m * 2 ^ (e - q).toNat, q, true)
  else
    let d := 2 ^ (q - e).toNat
    (roundUp rm neg (m / d) (m % d) d, q, m % d == 0)

/-- An IEEE-like format: significant bits, smallest and largest exponent, fraction bits, width (R99). -/
structure FpFmt where
  p : Nat
  emin : Int
  emax : Int
  frac : Nat
  width : Nat
  deriving DecidableEq, Repr

/-- binary32 (R84, R99). -/
def fpF32 : FpFmt := ⟨24, -126, 127, 23, 32⟩

/-- binary16 (R84, R99). -/
def fpF16 : FpFmt := ⟨11, -14, 15, 10, 16⟩

/-- bfloat16 (R84, R99). -/
def fpBf16 : FpFmt := ⟨8, -126, 127, 7, 16⟩

/-- The exponent field of all ones. -/
def FpFmt.expMax (f : FpFmt) : Nat := 2 ^ (f.width - 1 - f.frac) - 1

/-- The bits of a sign, an exponent field and a fraction. -/
def FpFmt.bits (f : FpFmt) (neg : Bool) (ex fr : Nat) : Nat :=
  (if neg then 2 ^ (f.width - 1) else 0) + ex * 2 ^ f.frac + fr

/-- The canonical NaN (R85). -/
def FpFmt.nan (f : FpFmt) : Nat := f.bits false f.expMax (2 ^ (f.frac - 1))

/-- The infinity of a sign. -/
def FpFmt.inf (f : FpFmt) (neg : Bool) : Nat := f.bits neg f.expMax 0

/-- The value of a bit pattern (R84, R85). -/
def FpFmt.dec (f : FpFmt) (w : Nat) : Val :=
  let fr := w % 2 ^ f.frac
  let ex := w / 2 ^ f.frac % (f.expMax + 1)
  let neg := w / 2 ^ (f.width - 1) % 2 == 1
  if ex = f.expMax then
    if fr = 0 then .inf neg else .nan (fr < 2 ^ (f.frac - 1))
  else if ex = 0 then .fin neg fr (f.emin - f.frac)
  else .fin neg (fr + 2 ^ f.frac) (f.emin - f.frac + (ex - 1 : Nat))

/-- The bits of n · 2^q, a value on the format's grid and within its range. -/
def FpFmt.encExact (f : FpFmt) (neg : Bool) (n : Nat) (q : Int) : Nat :=
  if n = 0 then f.bits neg 0 0
  else
    let l : Int := (Nat.log2 n : Int) + q
    if l < f.emin then f.bits neg 0 (n * 2 ^ (q - (f.emin - f.frac)).toNat)
    else
      let s : Int := q - (l - f.frac)
      let sig := if 0 ≤ s then n * 2 ^ s.toNat else n / 2 ^ (-s).toNat
      f.bits neg ((l - f.emin).toNat + 1) (sig % 2 ^ f.frac)

/-- `rnd_fmt` (R99): the bits and the flags raised. -/
def FpFmt.rnd (f : FpFmt) (rm : Rm) : Val → Nat × Flags
  | .nan _ => (f.nan, 0)
  | .inf n => (f.inf n, 0)
  | .fin neg m e =>
    if m = 0 then (f.bits neg 0 0, 0)
    else
      let r := roundG neg m e f.p (f.emin - f.p + 1) rm
      if r.1 ≠ 0 ∧ f.emax < (Nat.log2 r.1 : Int) + r.2.1 then
        let toInf := rm == .ne || (rm == .ru && !neg) || (rm == .rd && neg)
        (if toInf then f.inf neg else f.bits neg (f.expMax - 1) (2 ^ f.frac - 1), flOF ||| flNX)
      else
        (f.encExact neg r.1 r.2.1,
          Flags.when (!r.2.2) flNX ||| Flags.when (!r.2.2 && (Nat.log2 m : Int) + e < f.emin) flUF)

/-- The width of a tapered word (R89). -/
def tapBits (f : Fmt) : Nat := if f == .t8 then 8 else 6

/-- The length of the run of bits equal to b from bit i down. -/
def runLen (w : Nat) (b : Nat) : Nat → Nat
  | 0 => 0
  | i + 1 => if w / 2 ^ i % 2 = b then 1 + runLen w b i else 0

/-- The magnitude of a positive tapered word (R89): m · 2^e. -/
def tapMag (f : Fmt) (w : Nat) : Nat × Int :=
  let n := tapBits f
  let b := w / 2 ^ (n - 2) % 2
  let m := runLen w b (n - 1)
  let k : Int := if b = 1 then (m : Int) - 1 else -(m : Int)
  let r := n - 1 - m - 1
  let rest := w % 2 ^ r
  if f == .t8 then
    let e := if r = 0 then 0 else rest / 2 ^ (r - 1)
    let fb := r - 1
    (2 ^ fb + rest % 2 ^ fb, 2 * k + e - fb)
  else (2 ^ r + rest, k - r)

/-- `dec_tap` (R89, R90); IV is a quiet NaN. -/
def decTap (f : Fmt) (w0 : Nat) : Val :=
  let n := tapBits f
  let w := w0 % 2 ^ n
  if w = 0 then .fin false 0 0
  else if w = 2 ^ (n - 1) then .nan false
  else
    let neg := 2 ^ (n - 1) ≤ w
    let a := tapMag f (if neg then 2 ^ n - w else w)
    .fin neg a.1 a.2

/-- a ≤ b for magnitudes m · 2^e. -/
def magLe (a b : Nat × Int) : Bool :=
  let q := if a.2 ≤ b.2 then a.2 else b.2
  a.1 * 2 ^ (a.2 - q).toNat ≤ b.1 * 2 ^ (b.2 - q).toNat

/-- The number of words, from 1 up, whose magnitude is at most a. -/
def tapFloor (f : Fmt) (a : Nat × Int) : Nat :=
  ((List.range (2 ^ (tapBits f - 1))).filter fun w => 0 < w && magLe (tapMag f w) a).length

/-- `enc_tap` (R91). -/
def encTap (f : Fmt) (rm : Rm) : Val → Nat × Flags
  | .nan _ => (2 ^ (tapBits f - 1), flNV)
  | .inf _ => (2 ^ (tapBits f - 1), flNV)
  | .fin neg m e =>
    let n := tapBits f
    let top := 2 ^ (n - 1) - 1
    if m = 0 then (0, 0)
    else
      let lo := tapFloor f (m, e)
      let r : Nat × Flags :=
        if lo = 0 then (1, flUF ||| flNX)
        else if lo = top then (top, if magLe (m, e) (tapMag f top) then 0 else flOF ||| flNX)
        else if magLe (m, e) (tapMag f lo) then (lo, 0)
        else
          let a := tapMag f lo
          let b := tapMag f (lo + 1)
          let mid := (Val.add .ne (.fin false a.1 a.2) (.fin false b.1 b.2)).1
          let x2 : Val := .fin false m (e + 1)
          let up := match rm with
            | .ne => mid.lt x2 || (!x2.lt mid && lo % 2 == 1)
            | .rz => false
            | .ru => !neg
            | .rd => neg
          (if up then lo + 1 else lo, flNX)
      (if neg then 2 ^ n - r.1 else r.1, r.2)

/-- The largest scale of a tapered format (R94). -/
def scaleMax (f : Fmt) : Int := if f == .t8 then 115 else 123

/-- `dec_blk` (R94): an element of a block of scale s. -/
def decBlk (f : Fmt) (w : Nat) (s : Int) : Val × Flags :=
  let n := tapBits f
  if s = -128 ∨ w % 2 ^ n = 0 then (.fin false 0 0, 0)
  else
    match decTap f w with
    | .fin neg m e => if scaleMax f < s then (.inf neg, flOF) else (.fin neg m (e + s), 0)
    | v => (v, 0)

/-- floor(log2) of a finite nonzero value. -/
def Val.lg? : Val → Option Int
  | .fin _ m e => if m = 0 then none else some ((Nat.log2 m : Int) + e)
  | _ => none

/-- The scale that R95 chooses for the values of a block. -/
def chooseScale (f : Fmt) (vs : List Val) : Int :=
  if vs.all Val.isZero then -128
  else
    let base : Int := if f == .t8 then 11 else 3
    let e := (vs.filterMap Val.lg?).foldl (fun (a : Option Int) l => some (match a with | none => l | some b => max b l)) none
    let s := (e.getD base) - base
    max (-127) (min (scaleMax f) s)

/-- A value times a power of two. -/
def Val.scale (v : Val) (k : Int) : Val :=
  match v with
  | .fin n m e => .fin n m (e + k)
  | v => v

/-- An element of a block under a chosen scale (R95). -/
def encBlkElem (f : Fmt) (rm : Rm) (s : Int) (v : Val) : Nat × Flags :=
  if s = -128 then (0, 0) else encTap f rm (v.scale (-s))

/-- A number of w bits read as two's complement. -/
def sextNat (w n : Nat) : Int :=
  let m := n % 2 ^ w
  if 2 ^ (w - 1) ≤ m then (m : Int) - (2 ^ w : Nat) else m

/-- An integer as w bits. -/
def wrap (w : Nat) (i : Int) : Nat := (i % (2 ^ w : Nat)).toNat

end Machine

open Machine

/-- The width in bits of a format's element in a vector row (R35, R84): tapered views hold FP32. -/
def Fmt.viewWidth : Fmt → Nat
  | .f32 => 32 | .bf16 => 16 | .f16 => 16 | .t8 => 32 | .t6 => 32 | .i8 => 8 | .i16 => 16 | .i32 => 32 | .i64 => 64
  | .n8 => 8 | .n16 => 16 | .n32 => 32 | .n64 => 64 | .fx48 => 64

/-- The width in bits of a format's element in memory (R84). -/
def Fmt.memWidth : Fmt → Nat
  | .t8 => 8 | .t6 => 8 | f => f.viewWidth

/-- The bits an operation on a format works on: 48 for fx48 (R303, R372). -/
def Fmt.opWidth (f : Fmt) : Nat := if f == .fx48 then 48 else f.memWidth

/-- Whether a format is signed: i types and fx48 (R303). -/
def Fmt.signed : Fmt → Bool
  | .i8 => true | .i16 => true | .i32 => true | .i64 => true | .fx48 => true | _ => false

/-- The floating format of a vector view, or of a scalar type 0 to 2 (R35, R84). -/
def Fmt.fp : Fmt → FpFmt
  | .bf16 => fpBf16 | .f16 => fpF16 | _ => fpF32

/-- Whether a view of the format holds floating values (R35). -/
def Fmt.isFp : Fmt → Bool
  | .f32 => true | .bf16 => true | .f16 => true | .t8 => true | .t6 => true | _ => false

/-- The integer of an element's bits (R84, R100). -/
def Fmt.toInt (f : Fmt) (n : Nat) : Int :=
  if f.signed then sextNat f.opWidth n else (n % 2 ^ f.opWidth : Nat)

/-- The range of an integer format. -/
def Fmt.range (f : Fmt) : Int × Int :=
  if f.signed then (-(2 ^ (f.opWidth - 1) : Nat), (2 ^ (f.opWidth - 1) : Nat) - 1) else (0, (2 ^ f.opWidth : Nat) - 1)

/-- The value of a vector element (R35), of an integer exactly. -/
def Fmt.viewVal (f : Fmt) (n : Nat) : Val := if f.isFp then f.fp.dec (n % 2 ^ f.viewWidth) else .ofInt (f.toInt n)

/-- The value of a scalar operand, tapered words at scale 0 (R303, R336). -/
def Fmt.scalarVal (f : Fmt) (n : Nat) : Val := if f.isTap then decTap f n else f.viewVal n

namespace Machine

/-- A value rounded to an integer in a mode (R88, R99). -/
def Val.toInt (rm : Rm) : Val → Option (Int × Bool)
  | .fin neg m e =>
    if 0 ≤ e then some (alignTo neg m e 0, true)
    else
      let d := 2 ^ (-e).toNat
      let n : Int := (roundUp rm neg (m / d) (m % d) d : Nat)
      some (if neg then -n else n, m % d == 0)
  | _ => none

/-- A conversion to an integer format, saturating (R88). -/
def toIntFmt (f : Fmt) (rm : Rm) (v : Val) : Int × Flags :=
  let lo := f.range.1
  let hi := f.range.2
  match v with
  | .nan _ => (0, flNV)
  | .inf n => (if n then lo else hi, flNV ||| flNX)
  | v =>
    match v.toInt rm with
    | none => (0, 0)
    | some (i, ex) =>
      if i < lo then (lo, flNV ||| flNX) else if hi < i then (hi, flNV ||| flNX) else (i, Flags.when (!ex) flNX)

/-- An integer saturated to a format's range, with no flag (R336, R375). -/
def satInt (f : Fmt) (i : Int) : Int := if i < f.range.1 then f.range.1 else if f.range.2 < i then f.range.2 else i

/-- `to_fx48` (R100). -/
def toFx48 (b : Int) (v : Val) : Int × Flags :=
  let hi : Int := 2 ^ 47 - 1
  match v.scale (24 - b) with
  | .fin neg m e =>
    match Val.toInt .ne (.fin neg m e) with
    | none => (0, 0)
    | some (i, ex) =>
      let nx := Flags.when (!ex) flNX
      if hi < i then (hi, nx ||| flOF) else if i < -(2 ^ 47) then (-(2 ^ 47), nx ||| flOF) else (i, nx)
  | _ => (-(2 ^ 47), flNV)

/-- The value n · 2^(b−24) of an fx48 (R100); `from_fx48` is `rnd_fmt` of it. -/
def fx48Val (n b : Int) : Val := (Val.ofInt n).scale (b - 24)

/-- `tot_key` (R99). -/
def totKey (w : BitVec 32) : BitVec 32 := if w.msb then w ^^^ 0xFFFFFFFF else w ||| 0x80000000

/-- The larger of two floating values by R315 and R373; `gt` picks max, otherwise min. Both NaN: a NaN. -/
def fpSelect (gt : Bool) (a b : Val) : Val :=
  if a.isNan then b else if b.isNan then a
  else if gt then (if a.below b then b else a) else (if b.below a then b else a)

/-- Whether a floating condition holds, and NV (R335). -/
def fpCond (c : Cond) (a b : Val) : Bool × Flags :=
  let nan := a.isNan || b.isNan
  let sig := a.isSig || b.isSig
  match c with
  | .eq => (!nan && a.eq b, Flags.when sig flNV)
  | .ne => (nan || !a.eq b, Flags.when sig flNV)
  | .lt => (!nan && a.lt b, Flags.when nan flNV)
  | .le => (!nan && !b.lt a, Flags.when nan flNV)
  | .gt => (!nan && b.lt a, Flags.when nan flNV)
  | .ge => (!nan && !a.lt b, Flags.when nan flNV)
  | .un => (nan, Flags.when sig flNV)

/-- Whether an integer condition holds (R329). -/
def intCond (c : Cond) (a b : Int) : Bool :=
  match c with
  | .eq => a == b
  | .ne => a != b
  | .lt => decide (a < b)
  | .le => decide (a ≤ b)
  | .gt => decide (b < a)
  | .ge => decide (b ≤ a)
  | .un => false

/-- rnd(a + b) on a floating format with its flags (R85, R334, R372). -/
def fpAdd (f : FpFmt) (rm : Rm) (a b : Val) : Nat × Flags :=
  let s := Val.add rm a b
  let r := f.rnd rm s.1
  (r.1, r.2 ||| s.2 ||| sigFlags [a, b])

/-- rnd(a · b) (R334, R372). -/
def fpMul (f : FpFmt) (rm : Rm) (a b : Val) : Nat × Flags :=
  let s := Val.mul a b
  let r := f.rnd rm s.1
  (r.1, r.2 ||| s.2 ||| sigFlags [a, b])

/-- rnd(a · b + d), one rounding (R334, R372). -/
def fpFma (f : FpFmt) (rm : Rm) (a b d : Val) : Nat × Flags :=
  let m := Val.mul a b
  let s := Val.add rm m.1 d
  let r := f.rnd rm s.1
  (r.1, r.2 ||| s.2 ||| m.2 ||| sigFlags [a, b, d])

end Machine

end Sys2Proof
end

