-- ==== Sys2Proof/Machine/Ops.lean ====
section
/-! DEFINITION. The named operations over the state: collections, contexts and cores, byte memory in its one canonical
form, registers and their banks, the latches, traps and the return from them (R250 to R261). -/

namespace Sys2Proof.Machine

/-! ### Collections -/

/-- The value of a key, or the reset value. -/
def Map.get (d : α) : Map α → Nat → α
  | [], _ => d
  | (k, v) :: m, n => if k = n then v else Map.get d m n

/-- The value of a key, if one is listed. -/
def Map.find : Map α → Nat → Option α
  | [], _ => none
  | (k, v) :: m, n => if k = n then some v else Map.find m n

/-- The collection with a key's value replaced. -/
def Map.put : Map α → Nat → α → Map α
  | [], n, v => [(n, v)]
  | (k, u) :: m, n, v => if k = n then (n, v) :: m else (k, u) :: Map.put m n v

/-- The collection without a key. -/
def Map.drop (m : Map α) (n : Nat) : Map α := m.filter fun p => p.1 != n

/-! ### Byte memory -/

/-- The byte at an address; an unlisted address reads as zero (log entry 1). -/
def Memory.read : List Host.Cell → Nat → Byte
  | [], _ => 0
  | (k, v) :: m, a => if k = a then v else if a < k then 0 else Memory.read m a

/-- A byte written; the form stays canonical: addresses rise and no zero is listed. -/
def Memory.write : List Host.Cell → Nat → Byte → List Host.Cell
  | [], a, b => if b = 0 then [] else [(a, b)]
  | (k, v) :: m, a, b =>
    if k < a then (k, v) :: Memory.write m a b
    else if k = a then (if b = 0 then m else (a, b) :: m)
    else if b = 0 then (k, v) :: m else (a, b) :: (k, v) :: m

/-- Addresses above a bound rise strictly and no entry is zero. -/
def Memory.above : Option Nat → List Host.Cell → Bool
  | _, [] => true
  | lo, (k, v) :: m => (match lo with | none => true | some l => l < k) && v != 0 && Memory.above (some k) m

/-- The canonical form of a memory. -/
def Memory.wf (m : List Host.Cell) : Bool := Memory.above none m

/-- Bytes written one after another. -/
def Memory.writeAll (m : List Host.Cell) (cs : List Host.Cell) : List Host.Cell :=
  cs.foldl (fun m c => Memory.write m c.1 c.2) m

/-- n bytes from an address. -/
def Memory.readN (m : List Host.Cell) (a : Nat) : Nat → List Byte
  | 0 => []
  | n + 1 => Memory.read m a :: Memory.readN m (a + 1) n

/-- The number that bytes hold, little-endian. -/
def leNat : List Byte → Nat
  | [] => 0
  | b :: bs => b.toNat + 256 * leNat bs

/-- n bytes of a number, little-endian. -/
def leBytes : Nat → Nat → List Byte
  | 0, _ => []
  | n + 1, v => BitVec.ofNat 8 v :: leBytes n (v / 256)

/-- Bytes placed from an address on. -/
def cellsAt (a : Nat) : List Byte → List Host.Cell
  | [] => []
  | b :: bs => (a, b) :: cellsAt (a + 1) bs

/-- A field [hi:lo] of a number. -/
def field (v hi lo : Nat) : Nat := v / 2 ^ lo % 2 ^ (hi + 1 - lo)

/-- A number with a field [hi:lo] replaced. -/
def setField (v hi lo x : Nat) : Nat :=
  v - field v hi lo * 2 ^ lo + x % 2 ^ (hi + 1 - lo) * 2 ^ lo

/-- The range of numbers from a, n of them. -/
def span (a n : Nat) : List Nat := (List.range n).map (a + ·)

/-! ### Units and their numbers (R2): a context is die·80 + core·2 + ctx -/

/-- The core of a context. -/
def coreOf (x : Nat) : Nat := x / 2

/-- The pair of a context. -/
def pairOf (x : Nat) : Nat := x / 4

/-- The cluster of a context. -/
def clusterOf (x : Nat) : Nat := x / 8

/-- The die of a context. -/
def dieOf (x : Nat) : Nat := x / 80

/-- The logical core number within its die (R2). -/
def lcoreOf (x : Nat) : Nat := x / 2 % 40

/-- The context of a die, a logical core number and a context number; 320, which no part has, where the core number is past
the last. -/
def ctxAt (die core ctx : Nat) : Nat := if core < 40 then die * 80 + core * 2 + ctx % 2 else 320

/-- The context that an identity names on this part. -/
def ctxOfId (i : Ident) : Nat := ctxAt i.die.val i.core.val (if i.ctx then 1 else 0)

/-- A context's state. -/
def State.ctx (s : State) (x : Nat) : Ctx := Map.get Ctx.reset s.ctxs x

/-- The state with a context replaced. -/
def State.setCtx (s : State) (x : Nat) (c : Ctx) : State := { s with ctxs := Map.put s.ctxs x c }

/-- The context that a step acts for. -/
def State.me (s : State) : Ctx := s.ctx s.cur

/-- The state with the acting context replaced. -/
def State.setMe (s : State) (c : Ctx) : State := s.setCtx s.cur c

/-- A core's state. -/
def State.core (s : State) (n : Nat) : CoreSt := Map.get CoreSt.reset s.cores n

/-- The state with a core replaced. -/
def State.setCore (s : State) (n : Nat) (c : CoreSt) : State := { s with cores := Map.put s.cores n c }

/-- A pair's state. -/
def State.pair (s : State) (n : Nat) : PairSt := Map.get PairSt.reset s.pairs n

/-- The state with a pair replaced. -/
def State.setPair (s : State) (n : Nat) (p : PairSt) : State := { s with pairs := Map.put s.pairs n p }

/-- A cluster's state. -/
def State.cluster (s : State) (n : Nat) : ClusterSt := Map.get ClusterSt.reset s.clusters n

/-- The state with a cluster replaced. -/
def State.setCluster (s : State) (n : Nat) (c : ClusterSt) : State := { s with clusters := Map.put s.clusters n c }

/-- A die's state. -/
def State.die (s : State) (n : Nat) : DieSt := Map.get DieSt.reset s.dies n

/-- The state with a die replaced. -/
def State.setDie (s : State) (n : Nat) (d : DieSt) : State := { s with dies := Map.put s.dies n d }

/-- The state with a log entry added. -/
def State.logged (s : State) (e : LogEntry) : State := { s with log := s.log ++ [e] }

/-- The logical clusters of a die (R8): full clusters and whether a half cluster follows. -/
def State.clustersOf (s : State) (d : Nat) : Nat × Nat := s.hub.nclu.getD d (0, 0)

/-- The number of cores of a die (R8). -/
def State.coresOf (s : State) (d : Nat) : Nat := 4 * (s.clustersOf d).1 + 2 * (s.clustersOf d).2

/-- Whether a context exists on the part (R2, R8). -/
def State.exists? (s : State) (x : Nat) : Bool := x < 320 && lcoreOf x < s.coresOf (dieOf x)

/-- The core within its cluster that is the communication master (R9): 3 of a full cluster, 1 of a half cluster. -/
def State.masterOf (s : State) (x : Nat) : Nat :=
  if clusterOf x % 10 < (s.clustersOf (dieOf x)).1 then 3 else 1

/-- Whether a context is its cluster's communication context (R9). -/
def State.isComm (s : State) (x : Nat) : Bool := x % 2 == 1 && lcoreOf x % 4 == s.masterOf x

/-- Whether a core is a communication master (R9). -/
def State.isMaster (s : State) (core : Nat) : Bool := s.isComm (core * 2 + 1)

/-- The communication context of a context's cluster (R9). -/
def State.commOf (s : State) (x : Nat) : Nat := (clusterOf x * 4 + s.masterOf x) * 2 + 1

/-- CTXID (R7): PKG [20:9], DIE [8:7], CLU [6:3], PAIR [2], CORE [1], CTX [0]. -/
def State.ctxid (s : State) (x : Nat) : Nat :=
  s.hub.pkgid * 512 + dieOf x * 128 + lcoreOf x / 4 * 8 + lcoreOf x / 2 % 2 * 4 + lcoreOf x % 2 * 2 + x % 2

/-- Whether a scope of one context includes another place of the package (R174). -/
def scopeIncludes (sc : Scope) (x y : Nat) : Bool :=
  match sc with
  | .core => coreOf x == coreOf y
  | .cluster => clusterOf x == clusterOf y
  | .die => dieOf x == dieOf y
  | .package => true
  | .pod => true

/-- The narrowest scope that includes two contexts of the package (R182). -/
def scopeBetween (x y : Nat) : Scope :=
  if coreOf x = coreOf y then .core else if clusterOf x = clusterOf y then .cluster
  else if dieOf x = dieOf y then .die else .package

/-! ### Why a slot does not commit -/

/-- What a hold asks of another unit while it lasts: a page walk for a core, a token, a granule's wake. -/
inductive Need where
  | walk (die root asid va core : Nat)
  | token (x : Nat)
  | wake (core g : Nat)
  deriving DecidableEq, Repr

/-- Why a slot does not commit: a precise trap; a hold of the whole bundle at issue; a wait at the slot with what came
before it kept. -/
inductive Stop where
  | trap (t : TrapInfo)
  | hold (c : Stall) (n : List Need)
  | wait (s : State)
  deriving Repr

/-- A computation that may stop the slot. -/
abbrev Slotwise (α : Type) := Except Stop α

/-- A trap of a class and cause with no code or address. -/
def TrapInfo.of (cls cause : Nat) : TrapInfo := ⟨cls, cause, 0, 0, false⟩

/-- The illegal-instruction trap, slot cause (R253). -/
def illegal : Stop := .trap (TrapInfo.of 1 2)

/-- The privilege trap (R253). -/
def privilege : Stop := .trap (TrapInfo.of 2 0)

/-- A view fault of a cause (R253). -/
def viewFault (cause : Nat) : Stop := .trap (TrapInfo.of 3 cause)

/-- The dead-row trap (R253). -/
def deadRow : Stop := .trap (TrapInfo.of 4 0)

/-- The schedule fault (R128, R253). -/
def schedFault : Stop := .trap (TrapInfo.of 5 0)

/-- The alignment fault (R253). -/
def alignFault (va : Nat) : Stop := .trap ⟨7, 0, 0, va, false⟩

/-- A translation fault of a cause at an address (R201, R253). -/
def xlateFault (cause va : Nat) (scale : Bool) : Stop := .trap ⟨8, cause, 0, va, scale⟩

/-- The window fault (R253). -/
def windowFault (va : Nat) : Stop := .trap ⟨9, 0, 0, va, false⟩

/-- The channel fault (R253). -/
def channelFault : Stop := .trap (TrapInfo.of 10 0)

/-- A check that raises a stop when it fails. -/
def need (b : Bool) (e : Stop) : Slotwise Unit := if b then .ok () else .error e

/-! ### Registers -/

/-- UIACT of CTXCTL (R32). -/
def Ctx.uiact (c : Ctx) : Bool := c.ctxctl.getLsbD 3

/-- UIEN of CTXCTL (R32). -/
def Ctx.uien (c : Ctx) : Bool := c.ctxctl.getLsbD 2

/-- DEADMODE of a CTXCTL value (R32). -/
def deadmode (v : Word) : Bool := v.getLsbD 0

/-- The bank that holds a register now (R31, R250). -/
def Ctx.bankOf (c : Ctx) (r : Fin 64) : Bank :=
  if c.sup && 48 ≤ r.val then .sup else if c.uiact && 56 ≤ r.val then .shadow else .main

/-- The user's bank of a register, whatever the mode (R367). -/
def Ctx.userBank (c : Ctx) (r : Fin 64) : Bank := if c.uiact && 56 ≤ r.val then .shadow else .main

/-- A register of a bank. -/
def Ctx.getS (c : Ctx) (b : Bank) (r : Fin 64) : Word :=
  match b with
  | .main => c.s.get r
  | .shadow => c.sui.toList.getD (r.val - 56) 0
  | .sup => c.ssup.toList.getD (r.val - 48) 0

/-- A register of a bank written. -/
def Ctx.setS (c : Ctx) (b : Bank) (r : Fin 64) (v : Word) : Ctx :=
  match b with
  | .main => { c with s := c.s.set r.val v r.isLt }
  | .shadow => { c with sui := c.sui.setIfInBounds (r.val - 56) v }
  | .sup => { c with ssup := c.ssup.setIfInBounds (r.val - 48) v }

/-- The registers as code that runs now sees them. -/
def Ctx.visible (c : Ctx) : Vector Word 64 := Vector.ofFn fun r => c.getS (c.bankOf r) r

/-- The scalar register a pending load will write (R156). -/
def MemOp.pendS (m : MemOp) : Option (Bank × Fin 64) :=
  match m.kind with
  | .load (.scalar _ b r) => some (b, r)
  | .atomic _ _ _ (.scalar _ b r) => some (b, r)
  | .load (.lit (.sreg b r _)) => some (b, r)
  | .atomic _ _ _ (.lit (.sreg b r _)) => some (b, r)
  | _ => none

/-- The row a pending load will write (R156). -/
def MemOp.pendRow (m : MemOp) : Option Nat :=
  match m.kind with
  | .load (.row _ _ _ r) => some r
  | .load (.lit (.row r _ _)) => some r
  | _ => none

/-- Whether an operation will write a result (R255): a load or an atomic that has not been cancelled. -/
def MemOp.hasResult (m : MemOp) : Bool :=
  match m.kind with
  | .load (.lit .flags) => false
  | .load _ => true
  | .atomic _ _ _ (.lit .flags) => false
  | .atomic .. => true
  | _ => false

/-- Whether a register has its pending mark set (R156). -/
def Ctx.pendingS (c : Ctx) (b : Bank) (r : Fin 64) : Bool := c.mops.any fun m => m.pendS == some (b, r)

/-- Whether a row has its pending mark set (R156). -/
def Ctx.pendingRow (c : Ctx) (r : Nat) : Bool := c.mops.any fun m => m.pendRow == some r

/-- The hold on a pending result (R156). -/
def pendHold : Stop := .hold .memory []

/-- A scalar operand: from the operand latch in a resumed bundle (R255), else from the register, held while a load of it
is pending (R156). -/
def rdS (s : State) (r : Fin 64) : Slotwise Word :=
  let c := s.me
  match c.snap with
  | some sn => .ok (sn.s.get r)
  | none =>
    let b := c.bankOf r
    if c.pendingS b r then .error pendHold else .ok (c.getS b r)

/-- A predicate operand. -/
def rdP (s : State) (p : Fin 16) : Bool :=
  match s.me.snap with
  | some sn => sn.p.get p
  | none => s.me.p.get p

/-- A view operand's register. -/
def rdVw (s : State) (w : Fin 64) : Word :=
  match s.me.snap with
  | some sn => sn.vw.get w
  | none => s.me.vw.get w

/-- The system registers that a slot reads as operands, as they stand (R254). -/
def Ctx.opRegs (c : Ctx) : List (Nat × Word) :=
  [(0x001, c.ctxctl.setWidth 64), (0x004, c.xpat.setWidth 64), (0x005, c.mpitch.setWidth 64), (0x006, c.mseqr),
   (0x009, c.fxgrid.setWidth 64), (0x100, c.rsbase.setWidth 64), (0x101, c.rslim.setWidth 64)] ++
  (List.range 8).map fun i => (0x010 + i, c.scwb.toList.getD i 0)

/-- A system register read as an operand by a slot. -/
def rdSys (s : State) (n : Nat) : Word :=
  match s.me.snap with
  | some sn => Map.get 0 sn.sys n
  | none => Map.get 0 s.me.opRegs n

/-- The bundle address of the acting context's issue. -/
def Ctx.ba (c : Ctx) : Nat := match c.iss with | some i => i.ba | none => c.fetch.pc

/-- The latch entry of a result of the acting slot (R23). -/
def State.latch (s : State) (w : Write) (left : Nat) (fl : Flags) : State :=
  let c := s.me
  s.setMe { c with lat := c.lat ++ [⟨w, left, fl, s.slot, c.ba, c.cc⟩] }

/-- Checks that a scalar destination is not pending (R156). A bundle whose operands are latched has passed the check. -/
def wrS (s : State) (r : Fin 64) : Slotwise Unit :=
  need (s.me.snap.isSome || !s.me.pendingS (s.me.bankOf r) r) pendHold

/-- A scalar result with its exposed latency (R23). -/
def putS (s : State) (r : Fin 64) (v : Word) (lat : Nat) (fl : Flags) : Slotwise State := do
  wrS s r
  .ok (s.latch (.sreg (s.me.bankOf r) r v) lat fl)

/-- A predicate result with its exposed latency (R23). -/
def putP (s : State) (p : Fin 16) (v : Bool) (lat : Nat) (fl : Flags) : State := s.latch (.pred p v) lat fl

/-! ### Flags and counters -/

/-- A counting flag with an increment, saturating (R30), and its tag raised (R182). -/
def Ctx.addFlag (c : Ctx) (k : Fin 32) (n : Nat) (sc : Scope) : Ctx :=
  let v := (c.k.get k).toNat + n
  { c with
    k := c.k.set k.val (BitVec.ofNat 16 (min v 0xFFFF)) k.isLt
    ktag := c.ktag.set k.val ((c.ktag.get k).max sc) k.isLt
    ctxctl := if 0xFFFF < v then c.ctxctl ||| 2 else c.ctxctl }

/-- A counting flag with a subtraction (R30). -/
def Ctx.subFlag (c : Ctx) (k : Fin 32) (n : Nat) : Ctx :=
  let v := (c.k.get k).toNat
  { c with
    k := c.k.set k.val (BitVec.ofNat 16 (v - n)) k.isLt
    ctxctl := if v < n then c.ctxctl ||| 2 else c.ctxctl }

/-! ### Rows of the register space -/

/-- A row with bytes written under a mask; a dead row becomes live, its other bytes zero (R43). -/
def Row.write (r : Row) (mask : RowMask) (v : RowBits) : Row :=
  let keep : RowBits := if r.dead then 0 else r.bits
  if mask = BitVec.allOnes 512 then ⟨v, false⟩
  else
    let bytes := (List.range 512).map fun i =>
      if mask.getLsbD i then (v.extractLsb' (8 * i) 8) else keep.extractLsb' (8 * i) 8
    ⟨BitVec.ofNat 4096 (leNat bytes), false⟩

/-- A core's row. -/
def CoreSt.row (c : CoreSt) (r : Nat) : Row := Map.get Row.zero c.rows r

/-- The rows of a granule. -/
def granRows (g : Nat) : List Nat := span (8 * g) 8

/-- Whether a granule is gated: its eight rows are dead (R43). -/
def CoreSt.gated (c : CoreSt) (g : Nat) : Bool := (granRows g).all fun r => (c.row r).dead

/-- A row touched by an access (R44): its granule was last accessed now. -/
def CoreSt.touch (c : CoreSt) (now r : Nat) : CoreSt := { c with gidle := Map.put c.gidle (r / 8) now }

/-- Whether a granule is in retention (R44). -/
def CoreSt.retained (c : CoreSt) (r : Nat) : Bool := c.gret.contains (r / 8)

/-- A row write in a granule that is powered (R43). -/
def CoreSt.putLive (c : CoreSt) (now r : Nat) (mask : RowMask) (v : RowBits) : CoreSt :=
  { c with rows := Map.put c.rows r ((c.row r).write mask v)
           gret := c.gret.filter (· != r / 8) }.touch now r

/-- A granule that revives: its rows are live and zero (R43). -/
def CoreSt.revive (c : CoreSt) (g : Nat) : CoreSt :=
  { c with rows := (granRows g).foldl (fun m i => Map.put m i Row.zero) c.rows }

/-- A row write that lands (R43): a gated granule revives first. One that the marks of this very die cycle have left without a live row
has stayed powered, so the other rows stay dead. -/
def CoreSt.putRow (c : CoreSt) (now r : Nat) (mask : RowMask) (v : RowBits) : CoreSt :=
  (if c.gated (r / 8) && !c.gnew.contains (r / 8) then c.revive (r / 8) else c).putLive now r mask v

/-- A row marked dead (R43); its bytes are of no account and held as zero. A granule that this gates is neither in retention nor
waking (R44). -/
def CoreSt.kill (c : CoreSt) (r : Nat) : CoreSt :=
  let d := { c with rows := Map.put c.rows r ⟨0, true⟩ }
  if c.gated (r / 8) || !d.gated (r / 8) then d
  else { d with gret := d.gret.filter (· != r / 8), gwake := Map.drop d.gwake (r / 8), gnew := (r / 8) :: d.gnew }

/-! ### Landing of latch entries -/

/-- A write of TBA (R251): the resume address, RESUME 0, REP 0, and no operand latch. A split bundle is given up, and its core
cycle is over (log entry 11). -/
def Ctx.writeTba (c : Ctx) (v : Word) : Ctx :=
  { c with
    tba := v
    tsw := BitVec.ofNat 64 (setField (setField c.tsw.toNat 27 24 0) 35 31 0)
    parked := { c.parked with
      fetch := ⟨v.toNat, none, 0⟩, iss := none, snap := none, spent := c.parked.spent || c.parked.iss.isSome } }

/-- Loops with another DEPTH, as a write of LOOPD leaves them (R352): the counters of R288 stay with their loops, those of a loop that
becomes active begin at zero. -/
def Loops.withDepth (l : Loops) (d : Nat) : Loops :=
  { l with depth := d, stat := List.replicate (d - l.stat.length) LoopStat.start ++ l.stat.drop (l.stat.length - d) }

/-- A system register written by number, as a SYSW that has passed its checks leaves it (R365 to R368). RO fields keep
their value; RW1C bits clear. -/
def Ctx.setSys (c : Ctx) (n : Nat) (v : Word) : Ctx :=
  let lo : BitVec 32 := v.setWidth 32
  if n = 0x001 then
    { c with ctxctl := (c.ctxctl &&& 0xA &&& ~~~(lo &&& 0x2)) ||| (lo &&& 0x5) }
  else if n = 0x002 then { c with fpflags := c.fpflags &&& ~~~lo }
  else if n = 0x003 then { c with uivec := v }
  else if n = 0x004 then { c with xpat := lo }
  else if n = 0x005 then { c with mpitch := lo }
  else if n = 0x006 then { c with mseqr := v }
  else if n = 0x009 then { c with fxgrid := lo }
  else if 0x010 ≤ n ∧ n ≤ 0x017 then { c with scwb := c.scwb.setIfInBounds (n - 0x010) v }
  else if 0x020 ≤ n ∧ n ≤ 0x03F then { c with lmap := c.lmap.setIfInBounds (n - 0x020) v }
  else if n = 0x040 then { c with loops := c.loops.withDepth (lo.toNat % 8) }
  else if 0x041 ≤ n ∧ n ≤ 0x044 then { c with loops := { c.loops with count := c.loops.count.setIfInBounds (n - 0x041) lo } }
  else if 0x045 ≤ n ∧ n ≤ 0x048 then { c with loops := { c.loops with start := c.loops.start.setIfInBounds (n - 0x045) v } }
  else if 0x049 ≤ n ∧ n ≤ 0x04C then { c with loops := { c.loops with fin := c.loops.fin.setIfInBounds (n - 0x049) v } }
  else if n = 0x080 then { c with lfto := lo }
  else if n = 0x081 then { c with chtab := v }
  else if n = 0x100 then { c with rsbase := lo }
  else if n = 0x101 then { c with rslim := lo }
  else if n = 0x102 then { c with spbase := v }
  else if n = 0x103 then { c with splim := v }
  else if n = 0x104 then { c with ptroot := v }
  else if n = 0x110 then { c with tvec := v }
  else if n = 0x111 then c.writeTba v
  else if n = 0x118 then { c with tlbiva := v }
  else if h : 0x120 ≤ n ∧ n ≤ 0x12F then
    let r : Fin 64 := ⟨n - 0x120 + 48, by omega⟩
    c.setS (c.userBank r) r v
  else c

/-- Scale bytes that come to the fill of an operand slot (R121). -/
def PairSt.scalesIn (p : PairSt) (n : Nat) (cs : List (Nat × Byte)) : PairSt :=
  match Map.find p.oslot n with
  | some o => { p with oslot := Map.put p.oslot n { o with fill := o.fill.map fun f =>
      { f with scale := cs.foldl (fun l c => l.set c.1 c.2) f.scale } } }
  | none => p

/-- A write that lands for a context (R23, R41). -/
def State.land (s : State) (x : Nat) (w : Write) : State :=
  match w with
  | .sreg b r v => s.setCtx x ((s.ctx x).setS b r v)
  | .pred p v => s.setCtx x { s.ctx x with p := (s.ctx x).p.set p.val v p.isLt }
  | .row r mask v => s.setCore (coreOf x) ((s.core (coreOf x)).putRow s.clock r mask v)
  | .view i v => s.setCtx x { s.ctx x with vw := (s.ctx x).vw.set i.val v i.isLt }
  | .sys n v => s.setCtx x ((s.ctx x).setSys n v)
  | .spad cs => s.setCore (coreOf x) { s.core (coreOf x) with sp := Memory.writeAll (s.core (coreOf x)).sp cs }
  | .dead rs => s.setCore (coreOf x) (rs.foldl CoreSt.kill (s.core (coreOf x)))
  | .flagAdd k n sc => s.setCtx x ((s.ctx x).addFlag k n sc)
  | .flagSub k n => s.setCtx x ((s.ctx x).subFlag k n)
  | .lout n v => s.setCtx x { s.ctx x with lout := (s.ctx x).lout.set n.val ((s.ctx x).lout.get n ++ [v]) n.isLt }
  | .window wn =>
    let c := s.ctx x
    match Map.find c.wins wn.val with
    | some w => s.setCtx x { c with wins := Map.put c.wins wn.val { w with live := true, since := s.clock } }
    | none => s
  | .mail v => s.setCluster (clusterOf x) { s.cluster (clusterOf x) with mail := (s.cluster (clusterOf x)).mail ++ [v] }
  | .scales n cs => s.setPair (pairOf x) ((s.pair (pairOf x)).scalesIn n cs)
  | .flags => s

/-- Requests for the wakes of granules of a core that no longer wake are withdrawn (R228). -/
def State.dropWakes (s : State) (core : Nat) : State :=
  let d := s.die (core / 40)
  let stale (r : TokReq) : Bool := match r.who with
    | .wake k g => k == core && (Map.find (s.core core).gwake g).isNone
    | _ => false
  if d.reqs.any stale then s.setDie (core / 40) { d with reqs := d.reqs.filter fun r => !stale r } else s

/-- Whether a write is applied before the others of its cycle: DEAD marks before row writes (R43), SYSW to FPFLAGS before
the flags of the cycle (R87), SYSW to CTXCTL before saturations of it (R368). -/
def Write.first : Write → Bool
  | .dead _ => true
  | .sys _ _ => true
  | _ => false

/-- An entry put into its place in the order of issue (R41). -/
def insertLatch (l : Latch) : List Latch → List Latch
  | [] => [l]
  | m :: ms => if l.born ≤ m.born then l :: m :: ms else m :: insertLatch l ms

/-- Whether two rows of a drain are due (R127): the core cycles from its issue have ended beat b + 12. -/
def Drain.due (d : Drain) : Bool := d.landed + 2 ≤ d.read.length && (d.landed / 2 + 13) * d.len ≤ d.age

/-- The granules in retention on which results land (R43). -/
def CoreSt.asleep (k : CoreSt) (due : List Latch) : List Nat :=
  (due.filterMap fun l => match l.w with
    | .row r _ _ => if k.retained r then some (r / 8) else none
    | _ => none).eraseDups

/-- Whether an entry is an XSV's on a row that a result of slot X lands on with it: the X result stands, although the XSV was issued later
(R114, R387). -/
def Latch.yields (l : Latch) (ls : List Latch) : Bool :=
  match l.slot, l.w with
  | .T, .row r _ _ => ls.any fun k => match k.slot, k.w with
    | .X, .row q _ _ => q == r
    | _, _ => false
  | _, _ => false

/-- The entries that land at the end of this core cycle, applied in the order of issue; their flags are ORed in (R23, R41,
R87). -/
def State.landAll (s : State) (x : Nat) (entries : List Latch) : State :=
  let due := (entries.foldr insertLatch []).filter fun l => !l.yields entries
  let s1 := ((due.filter (·.w.first)).foldl (fun s l => s.land x l.w) s).dropWakes (coreOf x)
  let s2 := (due.filter (!·.w.first)).foldl (fun s l => s.land x l.w) s1
  s2.setCtx x { s2.ctx x with fpflags := (s2.ctx x).fpflags ||| Flags.all (entries.map (·.fl)) }

/-! ### Kernel headers and translation by a plain walk -/

/-- The bytes of a 64-bit word of memory (the memory-side caches hold what every walker reads, R197). -/
def State.word (s : State) (a : Nat) : Nat := leNat (Memory.readN s.mem a 8)

/-- What a page-table entry says (R194). -/
structure Pte where
  v : Bool
  leaf : Bool
  r : Bool
  w : Bool
  x : Bool
  u : Bool
  pin : Bool
  ap : Bool
  rap : Bool
  cont : Nat
  fmt : Nat
  bl : Nat
  sws : Nat
  pkg : Nat
  frame : Nat
  rsvd : Bool
  deriving DecidableEq, Repr

/-- The fields of the entry's two words, low word first (R193, R194). -/
def Pte.of (lo hi : Nat) : Pte where
  v := bit lo
  leaf := bit (lo / 2)
  r := bit (lo / 4)
  w := bit (lo / 8)
  x := bit (lo / 16)
  u := bit (lo / 32)
  pin := bit (lo / 64)
  ap := bit (lo / 128)
  rap := bit (lo / 256)
  cont := field lo 10 9
  fmt := field lo 15 12
  bl := field lo 17 16
  sws := field lo 20 18
  pkg := field lo 35 24
  frame := field hi 39 0
  rsvd := field lo 11 11 != 0 || field lo 23 21 != 0 || field lo 63 36 != 0 || field hi 47 40 != 0

/-- The index bits of a level start at this bit of the address (R193). -/
def lvlShift (l : Nat) : Nat := 12 + 9 * l

/-- The pages of a contiguous group at a level; none where the code is malformed there (R195). -/
def contPages (l cont : Nat) : Option Nat :=
  match l, cont with
  | _, 0 => some 1
  | 0, 1 => some 4
  | 0, 2 => some 16
  | 1, 2 => some 16
  | 1, 3 => some 64
  | 2, 2 => some 16
  | _, _ => none

/-- A non-leaf entry's other fields are zero (R194). -/
def Pte.plain (e : Pte) : Bool :=
  !e.r && !e.w && !e.x && !e.u && !e.pin && !e.ap && !e.rap && e.cont == 0 && e.fmt == 0 && e.bl == 0 && e.sws == 0 &&
  e.pkg == 0 && !e.rsvd && e.frame % 2 == 0

/-- The TLB entry of a leaf at a level for an address, or none where it is malformed (R194, R195). -/
def Pte.fill (e : Pte) (l asid va : Nat) : Option TlbEntry :=
  match contPages l e.cont, Fmt.ofCode e.fmt with
  | some n, some f =>
    let page := 2 ^ lvlShift l
    let size := page * n
    let base := va / size * size
    let pos := (va - base) / page
    let fr := e.frame * 4096
    if l ≤ 2 ∧ fr % page = 0 ∧ !e.rsvd ∧ (e.r ∨ (!e.w ∧ !e.x)) ∧ (e.ap ∨ (fr < 2 ^ 39 ∧ e.pkg = 0)) ∧
        pos * page ≤ fr ∧ (fr - pos * page) % size = 0 then
      some ⟨asid, base, size, fr - pos * page, ⟨f, Fin.ofNat 4 e.bl, Fin.ofNat 8 e.sws, e.ap, e.pkg, e.rap⟩,
        e.r, e.w, e.x, e.u, e.pin⟩
    else none
  | _, _ => none

/-- Whether a physical address lies within its stack's capacity (R301). -/
def State.inStack (s : State) (pa : Nat) : Bool := pa % 2 ^ 36 < s.hub.fuse.gib.getD (pa / 2 ^ 36) 0 * 2 ^ 30

/-- The cause that stands for a walk whose read of a table ends in a fabric error (R301). -/
def fabricCause : Nat := 10

/-- The cause that stands for a walk that has read a poisoned entry at an address (R300). -/
def poisonCause (pa : Nat) : Nat := 16 + pa

/-- A page walk from a table at a level down (R193): the filled entry, or the cause 2 (not mapped) or 3 (malformed), or that its read of
an entry has failed. -/
def walkFrom (s : State) (asid va : Nat) : Nat → Nat → Except Nat TlbEntry
  | l, table =>
    if 2 ^ 39 ≤ table + 8191 then .error 3
    else
      let a := table + 16 * (va / 2 ^ lvlShift l % 512)
      if !s.inStack a then .error fabricCause
      else if s.poison.contains (a / 128) then .error (poisonCause a)
      else
      let e := Pte.of (s.word a) (s.word (a + 8))
      if !e.v then .error 2
      else if e.leaf then
        match e.fill l asid va with
        | some t => .ok t
        | none => .error 3
      else
        match l with
        | 0 => .error 3
        | l' + 1 => if e.plain then walkFrom s asid va l' (e.frame * 4096) else .error 3

/-- Whether an address is canonical (R190). -/
def canonical (va : Nat) : Bool := va / 2 ^ 56 % 256 == 0 || va / 2 ^ 56 % 256 == 255

/-- The 57 bits of an address that translation uses (R190). -/
def va57 (va : Nat) : Nat := va % 2 ^ 57

/-- The first address of the local aperture (R191). -/
def apertureBase : Nat := 0x00FFFFFFC0000000

/-- Whether an address lies in the local aperture (R191). -/
def inAperture (va : Nat) : Bool := apertureBase ≤ va && va < apertureBase + 2 ^ 30

/-- A walk from PTROOT (R192). -/
def walkRoot (s : State) (ptroot : Word) (va : Nat) : Except Nat TlbEntry :=
  if !canonical va then .error 1
  else walkFrom s (field ptroot.toNat 63 52) (va57 va) 4 (field ptroot.toNat 51 13 * 8192)

/-- Whether an entry translates an address of an address space. -/
def TlbEntry.covers (t : TlbEntry) (asid va : Nat) : Bool := t.asid == asid && t.va ≤ va57 va && va57 va < t.va + t.size

/-- The physical address under an entry. -/
def TlbEntry.pa (t : TlbEntry) (va : Nat) : Nat := t.frame + (va57 va - t.va)

/-- Bytes at a virtual address by plain walks, one for each 4 KiB piece; none where one fails. -/
def readPieces (s : State) (ptroot : Word) : Nat → Nat → Nat → Option (List Byte)
  | 0, _, _ => some []
  | f + 1, va, n =>
    if n = 0 then some []
    else
      match walkRoot s ptroot va with
      | .ok t =>
        if t.r && !t.attr.ap && !inAperture va then
          let m := Nat.min n (4096 - va % 4096)
          if (span (t.pa va / 128) ((t.pa va + m - 1) / 128 + 1 - t.pa va / 128)).any fun l =>
              s.poison.contains l || !s.inStack (128 * l) then none
          else (readPieces s ptroot f (va + m) (n - m)).map fun bs => Memory.readN s.mem (t.pa va) m ++ bs
        else none
      | .error _ => none

/-- n bytes at a virtual address by plain walks, through local pages that may be read; none of them poisoned or beyond the capacity of
their stack (log entry 8). -/
def readVirt (s : State) (ptroot : Word) (va n : Nat) : Option (List Byte) := readPieces s ptroot (n / 4096 + 2) va n

/-- The header fields of a kernel (R46) from its first 64 bytes as a number; none where a check other than ARCH fails. -/
def Code.ofHeader (v : Nat) : Option (Code × Nat) :=
  let c : Code := ⟨field v 511 448, field v 447 384, field v 383 320, field v 319 288, field v 287 256, field v 255 240,
    field v 239 231⟩
  if c.codeva % 2 = 0 ∧ c.dictva % 64 = 0 ∧ (c.liven = 0 ∨ c.liveva % 64 = 0) ∧ c.codew ≠ 0 ∧ c.entry < c.codew ∧
      c.dictn ≤ 65520 ∧ c.liven ≤ 256 ∧ field v 230 224 = 0 ∧ field v 207 0 = 0 then
    some (c, field v 223 208)
  else Option.none

/-- The poisoned line that a read of up to 64 bytes of one line, or a table on the way to it, consumes (R300). -/
def State.virtPoison (s : State) (ptroot : Word) (va : Nat) : Option Nat :=
  match walkRoot s ptroot va with
  | .ok t => if s.poison.contains (t.pa va / 128) then some (t.pa va) else none
  | .error k => if 16 ≤ k then some (k - 16) else none

/-- The supervisor kernel that TVEC names, fetched with supervisor privilege (R250); its header follows R46, ARCH included. -/
def State.supKernel (s : State) (c : Ctx) : Option Code :=
  match readVirt s c.ptroot c.tvec.toNat 64 with
  | some bs => ((Code.ofHeader (leNat bs)).filter fun k => k.2 ≤ s.hub.fuse.arch).map (·.1)
  | none => none

/-! ### Device memory at its point of coherence, and trace records -/

/-- Bytes written at the memory-side caches: the zero flags of their lines clear (R149). -/
def State.memWrite (s : State) (cs : List Host.Cell) : State :=
  { s with
    mem := Memory.writeAll s.mem cs
    zflag := s.zflag.filter fun l => !cs.any fun c => c.1 / 128 == l }

/-- The fields of a trace record under its BODY (R285). -/
def State.traceHead (s : State) (x typ ba : Nat) : Nat :=
  let c := s.ctx x
  typ * 2 ^ 152 + x % 2 * 2 ^ 148 + lcoreOf x * 2 ^ 142 + dieOf x * 2 ^ 140 + s.hub.pkgid % 4096 * 2 ^ 128 +
    c.tseq % 2 ^ 16 * 2 ^ 112 + c.cc % 2 ^ 48 * 2 ^ 64 + ba % 2 ^ 64

/-- A trace record of a context (R285, R286): written into the ring at package scope while EN is 1, or dropped and counted
when the ring is full. `body` is the record's bits from 192 up. -/
def State.trace (s : State) (x typ ba body : Nat) : State :=
  let d := s.die (dieOf x)
  let ctl := d.trcctl.toNat
  if ctl % 2 = 0 then s
  else
    let wr := field d.trcptr.toNat 63 32
    let rd := field d.trcptr.toNat 31 0
    let count := d.trclen.toNat
    if (wr + 2 ^ 32 - rd) % 2 ^ 32 = count then
      s.setDie (dieOf x) { d with trcctl := BitVec.ofNat 64 (setField ctl 55 32 (min (field ctl 55 32 + 1) (2 ^ 24 - 1))) }
    else
      let rec512 := body * 2 ^ 192 + s.traceHead x typ ba
      let s := s.memWrite (cellsAt (d.trcbase.toNat + 64 * (wr % count)) (leBytes 64 rec512))
      let s := s.setCtx x { s.ctx x with tseq := (s.ctx x).tseq + 1 }
      s.setDie (dieOf x) { d with trcptr := BitVec.ofNat 64 (setField d.trcptr.toNat 63 32 (wr + 1)) }

/-- A free value of n words (Config.freeWord), each fresh. -/
def State.freeNat (s : State) : Nat → Nat
  | 0 => 0
  | n + 1 => s.freeNat n * 2 ^ 64 + (Config.freeWord (s.free + n)).toNat

/-- The state with n free values used. -/
def State.useFree (s : State) (n : Nat) : State := { s with free := s.free + n }

/-- A trace record of a type whose BODY the spec does not give: a stop, a lean save, a kiln freeze (R285). -/
def State.traceOpen (s : State) (x typ ba : Nat) : State := (s.trace x typ ba (s.freeNat 5)).useFree 5

/-! ### Traps -/

/-- The operand latch (R254): what the uncommitted slots could have read at issue. A bundle that is already being
completed keeps the latch it has. -/
def State.capture (s : State) (x : Nat) : Snap :=
  let c := s.ctx x
  match c.snap with
  | some sn => sn
  | none => ⟨c.visible, c.p, c.vw, c.opRegs, (s.core (coreOf x)).rows, c.lin.map List.head?⟩

/-- A context's windows marked to be dropped, as by WDROP (R166, R261). -/
def Ctx.dropWins (c : Ctx) : Ctx := { c with wins := c.wins.map fun p => (p.1, { p.2 with dropping := true }) }

/-- What is left of an operation of a context that has ended (R261): a store; an atomic, without its result, unless it is one to an
aperture page, whose slot has not committed (R208). -/
def MemOp.orphan (m : MemOp) : Option MemOp :=
  match m.kind with
  | .load _ => none
  | .atomic op ty b _ =>
    if m.elems.any fun e => e.bytes.any fun l => match l with | .peer _ _ => true | _ => false then none
    else some { m with kind := .atomic op ty b (.lit .flags) }
  | _ => some m

/-- A context's request for a token withdrawn, or the token it was served spent (R228). -/
def State.dropToken (s : State) (x : Nat) : State :=
  let d := s.die (dieOf x)
  if d.reqs.any (·.who == .mma x) then s.setDie (dieOf x) { d with reqs := d.reqs.filter (·.who != .mma x) } else s

/-- A launch failed by a fatal context error of a worker (R261); the replay of a node has failed with it (R224). -/
def State.failLaunch (s : State) (l : Nat) : State :=
  { s with hub := { s.hub with
    launches := s.hub.launches.map fun (n : Launch) => if n.id = l then { n with failed := true, stopped := true } else n
    replays := s.hub.replays.map fun (p : Replay) =>
      match (s.hub.launches.find? (·.id == l)).bind (·.replay) with
      | some (r, n) => if p.id = r && p.failed.isNone then { p with failed := some n } else p
      | none => p } }

/-- A fatal context error (R261): the context never issues again, its request for a token is withdrawn (R228), its accesses end, its
copies run out, its windows are dropped, the error is logged, the launch fails. -/
def State.fatalCtx (s0 : State) (x : Nat) : State :=
  let s := s0.dropToken x
  let c := s.ctx x
  let c := { c.dropWins with
    run := .fatal, iss := none, snap := none, lat := [], passes := [], drains := [], busy := 0, uiq := [], impq := [],
    sup := false, parked := Parked.none, grace := none, savept := none,
    mops := c.mops.filterMap MemOp.orphan }
  let k := s.core (coreOf x)
  let s := s.setCore (coreOf x) { k with sumop := k.sumop.filter (·.ctx != x) }
  let s := (s.setCtx x c).logged (.fatal x)
  match c.occ with
  | .worker l _ => s.failLaunch l
  | _ => s

/-- TSW (R252). -/
def tswOf (t : TrapInfo) (qix eng rep : Nat) (ui prec : Bool) (resume : Nat) : Word :=
  BitVec.ofNat 64 (t.code % 2 ^ 16 * 2 ^ 48 + qix * 2 ^ 40 + eng * 2 ^ 36 + rep * 2 ^ 31 + ofBit t.scale * 2 ^ 30 +
    ofBit ui * 2 ^ 29 + ofBit prec * 2 ^ 28 + resume * 2 ^ 24 + t.cause * 2 ^ 16 + t.cls)

/-- Taking a trap (R250 to R257). The saved registers are written, the user's latches, fetch state and split bundle are
parked, the mode becomes supervisor and the context fetches the TVEC kernel at its ENTRY. In supervisor mode it is a
double trap; without a supervisor kernel it is a fatal context error. The core cycle of a split bundle ends after RFT, when
its other slots have issued (R255, log entry 11). -/
def State.takeTrap (s0 : State) (x : Nat) (t : TrapInfo) (prec : Bool) (qix eng : Nat) (tba tcba rep resume : Nat) : State :=
  let snap := s0.capture x
  let split := decide (1 ≤ resume ∧ resume ≤ 8)
  let s := s0.dropToken x
  let c := s.ctx x
  let tsw := tswOf t qix eng rep c.uiact prec resume
  if c.sup then (s.logged (.doubleTrap x tsw (BitVec.ofNat 64 tba))).fatalCtx x
  else if c.tvec = 0 then s.fatalCtx x
  else
    match s.supKernel c with
    | none => ((s.virtPoison c.ptroot c.tvec.toNat).elim s fun pa => s.logged (.poison pa)).fatalCtx x
    | some k =>
      let s := s.trace x 3 tba tsw.toNat
      let c := s.ctx x
      s.setCtx x { c with
        sup := true
        tsw := tsw
        tba := BitVec.ofNat 64 tba
        tcba := BitVec.ofNat 64 tcba
        taddr := BitVec.ofNat 64 t.va
        supcode := k
        suploops := Loops.empty
        inv := none
        parked := ⟨c.lat, c.fetch, if split then c.iss.map fun i => { i with inv := [] } else none, if split then some snap else none, false⟩
        entering := true
        lat := []
        iss := none
        snap := none
        fetch := ⟨k.codeva + 2 * k.entry, none, 0⟩
        stall := none }

/-- Whether an operation is an atomic whose answer was a refusal or a fabric error (R208, R259). -/
def MemOp.denied (m : MemOp) : Bool :=
  match m.kind, m.phase with
  | .atomic .., .failed => true
  | .atomic .., .refused _ => true
  | _, _ => false

/-- A precise trap of the acting slot: it and every later slot stop (R254). An atomic that was denied is over. -/
def State.slotTrap (s0 : State) (t : TrapInfo) : State :=
  let s := s0.setMe { s0.me with mops := s0.me.mops.filter (!·.denied) }
  let c := s.me
  match c.iss with
  | some i => s.takeTrap s.cur t true 0 0 i.ba i.ba i.rep s.slot.index
  | none => s.takeTrap s.cur t true 0 0 c.fetch.pc c.fetch.pc 0 s.slot.index

/-- A trap that commits no slot: a decode check, or a check made before any slot commits (R60, R254). -/
def State.bundleTrap (s : State) (x : Nat) (t : TrapInfo) (ba rep : Nat) : State := s.takeTrap x t true 0 0 ba ba rep 0

/-- The bundle does not issue in this cycle (R21): why it is held is recorded. -/
def State.heldBy (s : State) (c : Stall) : State := s.setMe { s.me with stall := some c }

/-- Whether a miss waits on a walk (R197): the same ASID and VA[56:21]. -/
def Walk.joins (w : Walk) (asid va : Nat) : Bool := w.asid == asid && w.va / 2 ^ 21 == va / 2 ^ 21

/-- A miss that waits on a walk, with the cores that ask for its entry. -/
def Walk.join (w : Walk) (va : Nat) (cores : List Nat) : Walk :=
  { w with
    waiting := if w.va == va || w.waiting.contains va then w.waiting else w.waiting ++ [va]
    cores := (w.cores ++ cores).eraseDups }

/-- A miss of a core, or of an engine, queued for the die's walkers (R197): it waits on a walk of the same ASID and VA[56:21], else
it queues a walk of its own while there is room. The walks under way count among the 4,096 (log entry 72). -/
def DieSt.queueWalk (die : DieSt) (root asid va : Nat) (cores : List Nat) (now : Nat) : DieSt :=
  if die.walks.any (·.joins asid va) then
    { die with walks := die.walks.map fun w => if w.joins asid va then w.join va cores else w }
  else if die.walks.length < 4096 then { die with walks := die.walks ++ [⟨root, asid, va, [], cores, now⟩] }
  else die

/-- A request put into its place (R228): behind the earlier ones, and among those of its cycle by its key. -/
def placeReq (r : TokReq) : List TokReq → List TokReq
  | [] => [r]
  | q :: qs => if q.came = r.came ∧ r.key < q.key then r :: q :: qs else q :: placeReq r qs

/-- A request for tokens made now, once (R228). -/
def State.askTokens (s : State) (d n : Nat) (who : TokWho) (key : Nat) : State :=
  let die := s.die d
  if die.reqs.any fun r => r.who == who then s
  else s.setDie d { die with reqs := placeReq ⟨n, who, false, s.clock, key⟩ die.reqs }

/-- What a need asks for is queued, once. -/
def State.applyNeed (s : State) (n : Need) : State :=
  match n with
  | .walk d root asid va core => s.setDie d ((s.die d).queueWalk root asid va [core] s.clock)
  | .token x => s.askTokens (dieOf x) 1 (.mma x) x
  | .wake core g =>
    let c := s.core core
    if (Map.find c.gwake g).isSome then s
    else (s.setCore core { c with gwake := Map.put c.gwake g 4 }).askTokens (core / 40) 1 (.wake core g) s.cur

/-- A granule on which a result of a context is to land asked to wake (R43, R44): the freeze begins in the next die cycle, and the request
arrives in it (R228). -/
def State.wakeNext (s : State) (x g : Nat) : State :=
  { ({ s with cur := x, clock := s.clock + 1 } : State).applyNeed (.wake (coreOf x) g) with cur := s.cur, clock := s.clock }

/-- The outcome of a slot: its state, or the stop it came to. Every one is a next state. -/
def slotDo (s : State) (m : Slotwise State) : Host.Outcome State Fault Refusal :=
  match m with
  | .ok t => .next t
  | .error (.trap t) => .next (s.slotTrap t)
  | .error (.hold c ns) => .next ((ns.foldl State.applyNeed s).heldBy c)
  | .error (.wait t) => .next (t.heldBy .answer)

/-- RFT's return (R255): user mode and its bank, the parked latches, and the re-entry the parked RESUME says. That the core cycle of
a split bundle is over stays noted for the end of RFT's own. -/
def State.returnFromTrap (s : State) (x : Nat) : State :=
  let c := s.ctx x
  s.setCtx x { c with
    sup := false
    lat := c.parked.lat
    fetch := c.parked.fetch
    iss := c.parked.iss
    snap := c.parked.snap
    parked := { Parked.none with spent := c.parked.spent } }

end Sys2Proof.Machine
end

