-- ==== Sys2Proof/Machine/Operands.lean ====
section
/-! DEFINITION. Every operand form: typed scalar operands and results with the link form (R64, R303), immediates (R312,
R355), memory addresses (R344), predication and offsets of the modifier word (R67), row indices (R66), view operands and
the rows they name (R35 to R39, R43). -/

namespace Sys2Proof

open Machine

/-- The format a type field works in: the link form works as n64 (R64). -/
def Ty.base : Ty → Fmt
  | .fmt f => f
  | .link => .n64

/-- The low bits of a register that a type works on (R303). -/
def Fmt.low (f : Fmt) (v : Word) : Nat := v.toNat % 2 ^ f.opWidth

/-- A result placed in a register: i types and fx48 sign-extended, every other type zero-extended; a t6 word keeps six
bits (R303). -/
def Fmt.extend (f : Fmt) (n : Nat) : Word :=
  if f.signed then BitVec.ofInt 64 (sextNat f.opWidth n)
  else BitVec.ofNat 64 (n % 2 ^ (if f == .t6 then 6 else f.opWidth))

/-- Elements in a row of a vector view (R35). -/
def Fmt.perRow (f : Fmt) : Nat := 4096 / f.viewWidth

/-- The immediate of format SI, sign-extended (R303, R312). -/
def Imm9.value : Imm9 → Word
  | .short v => v.signExtend 64
  | .long v => v.signExtend 64

/-- The immediate of MOVI, sign-extended (R355). -/
def Imm19.value : Imm19 → Word
  | .short v => v.signExtend 64
  | .long v => v.signExtend 64

/-- An optional address offset, sign-extended (R344, R152). -/
def extValue : Option (BitVec 32) → Word
  | none => 0
  | some e => e.signExtend 64

namespace Machine

/-! ### Scalar operands and results -/

/-- The lin or lout FIFO that a register field of a link form names (R64). -/
def linkIx (ty : Ty) (r : Fin 64) : Option (Fin 16) :=
  if ty == .link then (if h : 48 ≤ r.val then some ⟨r.val - 48, by omega⟩ else none) else none

/-- The head of a lin FIFO, from the operand latch in a resumed bundle (R254, R255); of one that was empty then, as it comes (R240). -/
def rdLin (s : State) (n : Fin 16) : Option Word :=
  match s.me.snap with
  | some sn => (sn.lin.get n).or (s.me.lin.get n).head?
  | none => (s.me.lin.get n).head?

/-- A typed source operand: a register, or the head of a lin FIFO, held while it is empty (R21, R64). -/
def rdT (s : State) (ty : Ty) (r : Fin 64) : Slotwise Word :=
  match linkIx ty r with
  | none => rdS s r
  | some n =>
    match rdLin s n with
    | none => .error (.hold .link [])
    | some w => .ok w

/-- The lin FIFOs that a link form's source fields name, popped once each (R64). A popped word frees a place for the far
end (R239). -/
def popT (s : State) (ty : Ty) (rs : List (Fin 64)) : State :=
  let ns := (rs.filterMap (linkIx ty)).eraseDups
  if ns.isEmpty then s
  else
    let c := s.me
    s.setMe { c with
      lin := ns.foldl (fun l n => l.set n.val (l.get n).tail n.isLt) c.lin
      lpop := ns.foldl (fun l n => l.set n.val (l.get n + 1) n.isLt) c.lpop }

/-- Whether a memory operation's result goes to a lout FIFO. -/
def MemOp.toLout (m : MemOp) (n : Fin 16) : Bool :=
  match m.kind with
  | .load (.lout k) => k == n
  | .load (.lit (.lout k _)) => k == n
  | .atomic _ _ _ (.lout k) => k == n
  | .atomic _ _ _ (.lit (.lout k _)) => k == n
  | _ => false

/-- Words on their way into a lout FIFO. -/
def Ctx.loutPending (c : Ctx) (n : Fin 16) : Nat :=
  (c.lat.filter fun l => match l.w with | .lout m _ => m == n | _ => false).length +
  (c.mops.filter fun m => m.toLout n).length

/-- Whether a lout FIFO of 32 words has room (R239). -/
def Ctx.loutRoom (c : Ctx) (n : Fin 16) : Bool := (c.lout.get n).length + c.loutPending n < 32

/-- Checks that a typed destination can be written: not pending (R156), the lout not full (R21, R64). -/
def wrT (s : State) (ty : Ty) (r : Fin 64) : Slotwise Unit :=
  match linkIx ty r with
  | none => wrS s r
  | some n => need (s.me.loutRoom n) (.hold .lout [])

/-- What a typed result writes (R64). -/
def Ctx.destT (c : Ctx) (ty : Ty) (r : Fin 64) (v : Word) : Write :=
  match linkIx ty r with
  | none => .sreg (c.bankOf r) r v
  | some n => .lout n v

/-- A typed result with its exposed latency (R23, R64, R304). -/
def putT (s : State) (ty : Ty) (r : Fin 64) (v : Word) (lat : Nat) (fl : Flags) : Slotwise State := do
  wrT s ty r
  .ok (s.latch (s.me.destT ty r v) lat fl)

/-- The address of a memory operand, modulo 2^64 (R344). -/
def memAddr (s : State) (ty : Ty) (m : MemArg) : Slotwise Word := do
  let a ← rdT s ty m.sa
  let b ← if m.xb then rdT s ty m.sb else .ok 0
  .ok (a + b + extValue m.ext)

/-- The register fields that a memory operand reads. -/
def memRegs (m : MemArg) : List (Fin 64) := if m.xb then [m.sa, m.sb] else [m.sa]

/-- ATOMCAP of the ZLN-4160 (R209). -/
def atomcap : Word := 0x1FE7FF

/-! ### The modifier word -/

/-- Whether a slot with a modifier word executes (R67). -/
def predOn (s : State) (md : Option Modifier) : Bool :=
  match md with
  | none => true
  | some m => !m.pen || (rdP s m.psel != m.pneg)

/-- DOFF (R67). -/
def doff (md : Option Modifier) : Nat := match md with | none => 0 | some m => m.doff.val

/-- AOFF (R67). -/
def aoff (md : Option Modifier) : Nat := match md with | none => 0 | some m => m.aoff.val

/-- BOFF (R67). -/
def boff (md : Option Modifier) : Nat := match md with | none => 0 | some m => m.boff.val

/-- The RM field (R67). -/
def rmField (md : Option Modifier) : Fin 4 := match md with | none => 0 | some m => m.rm

/-- The rounding mode of the RM field (R62). -/
def rmOf (md : Option Modifier) : Rm := Rm.ofCode (rmField md).val

/-- A slot that does nothing when its predicate does not hold (R67); a hold on a row it names holds all the same (R137). -/
def predicated (s : State) (md : Option Modifier) (m : Slotwise State) : Slotwise State :=
  if predOn s md then m
  else
    match m with
    | .error (.hold .summary ns) => .error (.hold .summary ns)
    | _ => .ok s

/-! ### Views and rows -/

/-- The base row index of an 8-bit row specification (R66). -/
def row8 (s : State) : Row8 → Slotwise Nat
  | .imm b => .ok b.val
  | .reg r => (rdS s r).map fun v => v.toNat % 2 ^ 16

/-- The base row index of a 7-bit row specification (R66). -/
def row7 (s : State) : Row7 → Slotwise Nat
  | .imm b => .ok b.val
  | .reg r => (rdS s r).map fun v => v.toNat % 2 ^ 16

/-- A view register's fields (R37). -/
structure ViewReg where
  rsvd : Nat
  kind : Nat
  fmt : Nat
  stride : Nat
  rows : Nat
  base : Nat
  deriving DecidableEq, Repr

/-- The fields of a view register's word (R37). -/
def ViewReg.of (w : Word) : ViewReg :=
  let v := w.toNat
  ⟨field v 63 34, field v 33 32, field v 31 28, field v 27 20, field v 19 10, field v 9 0⟩

/-- Rows of a unit of a kind (R38). -/
def unitRows : Nat → Nat
  | 0 => 1 | 1 => 64 | 2 => 128 | _ => 8

/-- The formats a kind allows (R38). -/
def kindFmt (kind fmt : Nat) : Bool :=
  match kind with
  | 0 => fmt ≤ 13
  | 1 => [1, 2, 3, 4, 5, 9].contains fmt
  | 2 => fmt == 0
  | _ => fmt == 9

/-- The field ranges of R37, made on every view, set or unset (R39). -/
def ViewReg.fieldsOk (v : ViewReg) : Bool := v.fmt ≤ 13 && v.rows ≤ 512 && v.base ≤ 511

/-- The geometry checks of R39 against a partition of some granules; a view with ROWS 0 is unset and not checked. -/
def ViewReg.geometryOk (v : ViewReg) (gran : Nat) : Bool :=
  v.rows == 0 ||
    (v.base + (v.rows - 1) * v.stride + unitRows v.kind - 1 < 8 * gran && kindFmt v.kind v.fmt &&
      (v.kind == 0 || unitRows v.kind ≤ v.stride))

/-- The core of the acting context. -/
def State.myCore (s : State) : CoreSt := s.core (coreOf s.cur)

/-- Whether the bundle now issuing has itself started a summary operation: its V1 slot has committed (R137). -/
def Ctx.started (c : Ctx) (o : SumOp) : Bool :=
  match c.iss with
  | some i => o.ba == i.ba && i.slots.any (·.1 == .V1) && !i.todo.any (·.1 == .V1)
  | none => false

/-- A bundle that names a row which the context's summary operation will write is held, outside supervisor mode (R137). The
operation that the bundle itself has started holds none of its slots. -/
def sumHold (s : State) (rs : List Nat) : Slotwise Unit :=
  match s.myCore.sumop with
  | none => .ok ()
  | some o => need (s.me.sup || o.ctx != s.cur || s.me.started o || !rs.any o.rows.contains) (.hold .summary [])

/-- The first row and the format of a unit of a view of a kind (R38, R39), in the core's register space. -/
def viewUnit (s : State) (vw : Fin 64) (kind ix : Nat) : Slotwise (Fmt × Nat) := do
  let v := ViewReg.of (rdVw s vw)
  need (ix < v.rows) (viewFault 1)
  need (v.kind == kind) (viewFault 2)
  match Fmt.ofCode v.fmt with
  | none => .error (viewFault 2)
  | some f => do
    let r := (8 * (rdSys s 0x100).toNat + v.base + ix * v.stride) % 512
    sumHold s ((List.range (unitRows kind)).map fun i => (r + i) % 512)
    .ok (f, r)

/-- The rows that a slot's views name, all of them asked for a hold on the running summary operation before any operand is checked (R137):
views by register, kind and index added to the row index. One that names no row is found wrong later. -/
def sumNames (s : State) (row : Slotwise Nat) (us : List (Fin 64 × Nat × Nat)) : Slotwise Unit :=
  match row with
  | .error _ => .ok ()
  | .ok i => us.forM fun u => match viewUnit s u.1 u.2.1 (i + u.2.2) with
    | .error (.hold c n) => .error (.hold c n)
    | _ => .ok ()

/-- A row touched now by the acting context (R44). -/
def State.touched (s : State) (rs : List Nat) : State :=
  s.setCore (coreOf s.cur) (rs.foldl (fun c r => c.touch s.clock r) s.myCore)

/-- A hold on a granule in retention, which asks for its wake (R43, R44). -/
def retHold (s : State) (r : Nat) : Stop := .hold .retention [.wake (coreOf s.cur) (r / 8)]

/-- The bytes of a row that an operand reads (R43): held while a load of it is pending (R156) or its granule is in
retention; granules in retention that a bundle names wake together (log entry 53); a dead row is zero or a trap as DEADMODE says. A resumed bundle reads the operand latch (R255). -/
def rdRow (s : State) (r : Nat) : Slotwise RowBits := do
  sumHold s [r]
  let row ← match s.me.snap with
    | some sn => .ok (Map.get Row.zero sn.rows r)
    | none => do
      need (!s.me.pendingRow r) pendHold
      need (!s.myCore.retained r) (retHold s r)
      .ok (s.myCore.row r)
  if row.dead then
    need (!deadmode (rdSys s 0x001)) deadRow
    .ok 0
  else .ok row.bits

/-- The bytes of a row that an engine reads for a slot (R43): none where a dead row ends the reading in a dead-row trap. -/
def rdRowEng (s : State) (r : Nat) : Slotwise (Option RowBits) :=
  match rdRow s r with
  | .ok b => .ok (some b)
  | .error (.trap ⟨4, _, _, _, _⟩) => .ok none
  | .error e => .error e

/-- Rows read by an engine one after another; none where one of them is dead and may not be read (R43). -/
def rdRowsEng (s : State) : List Nat → Slotwise (Option (List RowBits))
  | [] => .ok (some [])
  | r :: rs => do
    let b ← rdRowEng s r
    let bs ← rdRowsEng s rs
    .ok (match b, bs with
      | some x, some xs => some (x :: xs)
      | _, _ => none)

/-- An imprecise fault of an engine of the acting context (R258). -/
def State.faulted (s : State) (cls cause : Nat) (eng : Eng) (ba : Nat) : State :=
  let c := s.me
  s.setMe { c with impq := c.impq ++ [⟨cls, cause, eng, 0, ba, 0, false⟩] }

/-- Rows read one after another. -/
def rdRows (s : State) : List Nat → Slotwise (List RowBits)
  | [] => .ok []
  | r :: rs => do
    let b ← rdRow s r
    let bs ← rdRows s rs
    .ok (b :: bs)

/-- Checks that a row can be written: no load of it pending (R156), its granule not in retention (R43). A bundle whose operands
are latched has passed the first check. -/
def wrRow (s : State) (r : Nat) : Slotwise Unit := do
  need (s.me.snap.isSome || !s.me.pendingRow r) pendHold
  need (!s.myCore.retained r) (retHold s r)

/-- Every byte of a row. -/
def fullMask : RowMask := BitVec.allOnes 512

/-- A whole-row result with its exposed latency, the rows it read touched (R23, R44). -/
def putRowT (s : State) (read : List Nat) (r : Nat) (v : RowBits) (lat : Nat) (fl : Flags) : Slotwise State := do
  wrRow s r
  .ok ((s.touched (r :: read)).latch (.row r fullMask v) lat fl)

/-! ### Elements of rows -/

/-- n fields of w bits of a number, lowest first. -/
def splitN (w : Nat) : Nat → Nat → List Nat
  | 0, _ => []
  | n + 1, v => v % 2 ^ w :: splitN w n (v / 2 ^ w)

/-- Fields of w bits joined, lowest first. -/
def joinN (w : Nat) : List Nat → Nat
  | [] => 0
  | x :: xs => x % 2 ^ w + 2 ^ w * joinN w xs

/-- The elements of a row in a view format (R35). -/
def elems (f : Fmt) (b : RowBits) : List Nat := splitN f.viewWidth f.perRow b.toNat

/-- A row made of elements (R35). -/
def rowOf (f : Fmt) (l : List Nat) : RowBits := BitVec.ofNat 4096 (joinN f.viewWidth l)

/-- An integer result as an element: an fx48 result is sign-extended to 64 bits (R372). -/
def elemOfInt (f : Fmt) (i : Int) : Nat :=
  if f == .fx48 then wrap 64 (sextNat 48 (wrap 48 i)) else wrap f.viewWidth i

/-- The scalar bits that a scalar form broadcasts as an element (R370, R389). -/
def scalarElem (f : Fmt) (v : Word) : Nat :=
  if f == .fx48 then wrap 64 (sextNat 48 v.toNat) else v.toNat % 2 ^ f.viewWidth

/-- The floating views that hold FP32 values, interchangeable as operands (R370). -/
def holdsF32 (f : Fmt) : Bool := f == .f32 || f.isTap

/-- Whether an operand's format stands for the destination's (R370). -/
def sameFmt (a d : Fmt) : Bool := a == d || (holdsF32 a && holdsF32 d)

/-- A vector operand: a unit of a vector view whose format must stand for the destination's; its row and elements. -/
def vecOperand (s : State) (vw : Fin 64) (ix : Nat) (d : Fmt) : Slotwise (Nat × List Nat) := do
  let u ← viewUnit s vw 0 ix
  need (sameFmt u.1 d) (viewFault 2)
  let b ← rdRow s u.2
  .ok (u.2, elems d b)

/-- A scalar operand broadcast to every element of a row (R370). -/
def scalarOperand (s : State) (r : Fin 64) (d : Fmt) : Slotwise (List Nat) :=
  (rdS s r).map fun v => List.replicate d.perRow (scalarElem d v)

end Machine

end Sys2Proof
end

