-- ==== Sys2Proof/Machine/Branch.lean ====
section
/-! DEFINITION. Control transfers, hardware loops, TRAP, BRK, HALT and the returns (R320 to R323, R341, R343, R349 to R352,
R358 to R360, R369). A transfer takes effect when its bundle has committed in full (R321). -/

namespace Sys2Proof.Machine

/-! ### Loops -/

/-- The loop stack in use: the supervisor has its own (R351). -/
def Ctx.stack (c : Ctx) : Loops := if c.sup then c.suploops else c.loops

/-- The context with its loop stack in use replaced. -/
def Ctx.setStack (c : Ctx) (l : Loops) : Ctx := if c.sup then { c with suploops := l } else { c with loops := l }

/-- The body of a loop-end record (R288), from bit 192 up. -/
def LoopStat.body (l : LoopStat) : Nat :=
  let cut (n : Nat) := min n (2 ^ 24 - 1)
  let fills := (l.fill.toList.map cut).foldr (fun n a => n + 2 ^ 24 * a) 0
  fills * 2 ^ 80 + cut l.iter * 2 ^ 56 + cut l.bund * 2 ^ 32 + min l.froz (2 ^ 32 - 1)

/-- The loop stack without its top loop; the loop buffer of a pinned one is given up (R55). -/
def Loops.pop (l : Loops) : Loops :=
  let pin := l.pin.toList.getD (l.depth - 1) false
  { l with
    depth := l.depth - 1
    stat := l.stat.tail
    buf := if pin then [] else l.buf
    ents := if pin then [] else l.ents }

/-- The top loop popped, with its loop-end record (R288, R350, R351). -/
def State.popLoop (s : State) (x ba : Nat) : State :=
  let l := (s.ctx x).stack
  let s := s.trace x 2 ba (l.stat.headD LoopStat.start).body
  s.setCtx x ((s.ctx x).setStack l.pop)

/-- The bounds of the top loop's body. -/
def Loops.top (l : Loops) : Nat × Nat :=
  ((l.start.toList.getD (l.depth - 1) 0).toNat, (l.fin.toList.getD (l.depth - 1) 0).toNat)

/-- A taken transfer pops every loop above FLOOR whose body does not hold the target (R351). -/
def State.popFor (s : State) (x ba t : Nat) : Nat → State
  | 0 => s
  | n + 1 =>
    let l := (s.ctx x).stack
    if l.depth ≤ l.floor ∨ (l.top.1 ≤ t ∧ t < l.top.2) then s else (s.popLoop x ba).popFor x ba t n

/-- Every loop above FLOOR popped (R360). -/
def State.popAll (s : State) (x ba : Nat) : Nat → State
  | 0 => s
  | n + 1 =>
    let l := (s.ctx x).stack
    if l.depth ≤ l.floor then s else (s.popLoop x ba).popAll x ba n

/-- The loop-end test of a next bundle address (R350): the address fetched next, and whether a loop went back to its
start. -/
def State.loopEnd (s : State) (x ba a : Nat) : Nat → State × Nat × Bool
  | 0 => (s, a, false)
  | n + 1 =>
    let l := (s.ctx x).stack
    if l.depth ≤ l.floor ∨ l.depth = 0 ∨ a ≠ l.top.2 then (s, a, false)
    else
      let k := l.depth - 1
      let c := l.count.toList.getD k 0
      if 1 < c.toNat then
        let st := match l.stat with
          | [] => []
          | h :: t => { h with iter := h.iter + 1 } :: t
        (s.setCtx x ((s.ctx x).setStack { l with count := l.count.setIfInBounds k (c - 1), stat := st }), l.top.1, true)
      else (s.popLoop x ba).loopEnd x ba a n

/-- Whether a LOOP may be pushed (R349): fewer than four loops, not from a repeat word; a count of 0 pushes nothing. -/
def loopLegal (depth rep n : Nat) : Bool := rep == 0 && (n == 0 || depth < 4)

/-- A loop pushed (R349); a pinned loop inside an active pinned loop runs unpinned (R55). A pinned loop begins with an empty loop
buffer. -/
def Loops.push (l : Loops) (start fin n : Nat) (pin : Bool) : Loops :=
  let held := (l.pin.toList.take l.depth).any id
  { l with
    depth := l.depth + 1
    start := l.start.setIfInBounds l.depth (BitVec.ofNat 64 start)
    fin := l.fin.setIfInBounds l.depth (BitVec.ofNat 64 fin)
    count := l.count.setIfInBounds l.depth (BitVec.ofNat 32 n)
    pin := l.pin.setIfInBounds l.depth (pin && !held)
    stat := LoopStat.start :: l.stat
    buf := if held then l.buf else []
    ents := if held then l.ents else [] }

/-! ### What a bundle's end does -/

/-- RFUI's effect when its bundle has committed in full (R360): the loops above FLOOR popped, FLOOR 0, the main bank back,
UIACT clear. -/
def State.leaveHandler (s : State) (x ba : Nat) : State :=
  let s := s.popAll x ba 4
  let c := s.ctx x
  s.setCtx x { c.setStack { c.stack with floor := 0 } with ctxctl := c.ctxctl &&& ~~~8 }

/-- RFT's return, a taken transfer to the address at which the user goes on (R255, R321): the user's loops whose body does not hold it
are popped (R351). -/
def State.leaveTrap (s : State) (x ba : Nat) : State :=
  let t := s.returnFromTrap x
  t.popFor x ba (t.ctx x).fetch.pc 4

/-- What an ending does (R255, R341, R360). A context that waits to retire discards its pending user interrupts, and what a
trap parked runs on (R342). -/
def State.finish (s : State) (x ba : Nat) (e : Ending) : State :=
  match e with
  | .plain => s
  | .halt =>
    let c := s.ctx x
    s.setCtx x { c with
      run := .retiring, uiq := [], sup := false, lat := c.parked.lat ++ c.lat, parked := Parked.none, iss := none, snap := none }
  | .rft => s.leaveTrap x ba
  | .rfui => s.leaveHandler x ba

/-- The origin address that relative offsets count from (R52). -/
def Ctx.origin (c : Ctx) : Nat := match c.iss with | some i => i.origin | none => c.fetch.pc

/-- The next bundle address (R52). -/
def Ctx.nextBa (c : Ctx) : Nat := match c.iss with | some i => i.nextBa | none => c.fetch.pc + 2

/-- A taken transfer (R321): it waits for the bundle's end; outside a bundle it is made at once. -/
def State.transfer (s : State) (t : Nat) : State :=
  let c := s.me
  match c.iss with
  | some i => s.setMe { c with iss := some { i with target := some t } }
  | none => s.setMe { c with fetch := ⟨t, none, 0⟩ }

/-- An ending marked for the bundle's end; outside a bundle it is done at once. -/
def State.ends (s : State) (e : Ending) : State :=
  let c := s.me
  match c.iss with
  | some i => s.setMe { c with iss := some { i with ending := e } }
  | none => s.finish s.cur c.ba e

/-- A trap taken after the bundle has committed in full (R256); outside a bundle it is taken at once. -/
def State.trapAfter (s : State) (t : TrapInfo) : State :=
  let c := s.me
  match c.iss with
  | some i => s.setMe { c with iss := some { i with after := some t } }
  | none => s.takeTrap s.cur t true 0 0 c.nextBa c.nextBa 0 9

/-- The target of a relative transfer (R320). -/
def Ctx.relTarget (c : Ctx) (off : BitVec 20) : Nat := (BitVec.ofNat 64 c.origin + 2 * off.signExtend 64).toNat

/-! ### The instructions -/

/-- BR (R320). -/
def execBr (pn : Bool) (p : Fin 16) (off : BitVec 20) (s : State) : Host.Outcome State Fault Refusal :=
  slotDo s (.ok (if rdP s p != pn then s.transfer (s.me.relTarget off) else s))

/-- JMP to a label (R343). -/
def execJmp (off : BitVec 20) (s : State) : Host.Outcome State Fault Refusal := slotDo s (.ok (s.transfer (s.me.relTarget off)))

/-- JMP to a register (R343). -/
def execJmpReg (sn : Fin 64) (s : State) : Host.Outcome State Fault Refusal :=
  slotDo s do
    let t ← rdS s sn
    .ok (s.transfer t.toNat)

/-- CALL's link: s55 receives the next bundle address with latency 1 (R323). -/
def callLink (s : State) : Slotwise State := putS s 55 (BitVec.ofNat 64 s.me.nextBa) 1 0

/-- CALL to a label (R323). -/
def execCall (off : BitVec 20) (s : State) : Host.Outcome State Fault Refusal :=
  slotDo s do
    let t ← callLink s
    .ok (t.transfer (s.me.relTarget off))

/-- CALL to a register, read at issue (R323). -/
def execCallReg (sn : Fin 64) (s : State) : Host.Outcome State Fault Refusal :=
  slotDo s do
    let a ← rdS s sn
    let t ← callLink s
    .ok (t.transfer a.toNat)

/-- RET, to s55 as read at issue (R358). -/
def execRet (s : State) : Host.Outcome State Fault Refusal :=
  slotDo s do
    let a ← rdS s 55
    .ok (s.transfer a.toNat)

/-- LOOP (R349): with a count of 0 the next bundle address becomes the end; otherwise the loop is pushed. -/
def execLoop (pin : Bool) (sa : Fin 64) (bodyw : BitVec 10) (s : State) : Host.Outcome State Fault Refusal :=
  slotDo s do
    let a ← rdS s sa
    let n := a.toNat % 2 ^ 32
    let c := s.me
    let l := c.stack
    let start := c.nextBa
    let fin := start + 2 * bodyw.toNat
    need (loopLegal l.depth (match c.iss with | some i => i.rep | none => 0) n) illegal
    if n = 0 then
      match c.iss with
      | some i => .ok (s.setMe { c with iss := some { i with nextBa := fin, skip := some (start, fin) } })
      | none => .ok (s.setMe { c with fetch := ⟨fin, none, 0⟩ })
    else .ok (s.setMe (c.setStack (l.push start fin n pin)))

/-- TRAP (R369). -/
def execTrap (code : BitVec 16) (s : State) : Host.Outcome State Fault Refusal :=
  slotDo s (.ok (s.trapAfter ⟨15, 0, code.toNat, 0, false⟩))

/-- BRK (R322). -/
def execBrk (code : BitVec 16) (s : State) : Host.Outcome State Fault Refusal :=
  slotDo s (.ok (s.trapAfter ⟨16, 0, code.toNat, 0, false⟩))

/-- HALT (R341, R342): illegal in a communication context. -/
def execHalt (s : State) : Host.Outcome State Fault Refusal :=
  slotDo s do
    need (!s.isComm s.cur) illegal
    .ok (s.ends .halt)

/-- RFT (R255, R359): a privilege trap in user mode; held, with the supervisor's core cycles running, until every result
that the supervisor has in flight has landed. What slot Y of its own bundle writes lands at the end of its core cycle. -/
def execRft (s : State) : Host.Outcome State Fault Refusal :=
  slotDo s do
    need s.me.sup privilege
    need ((s.me.lat.all (·.born == s.me.cc)) && s.me.mops.all fun m => !(m.sup && m.hasResult)) (.hold .landing [])
    .ok (s.ends .rft)

/-- RFUI (R360): illegal while UIACT is 0; it transfers to the shadow s57 as it stood at issue, and waits for a load of it (R156). -/
def execRfui (s : State) : Host.Outcome State Fault Refusal :=
  slotDo s do
    need s.me.uiact illegal
    need (!s.me.sup || !s.me.pendingS .shadow 57) pendHold
    let t ← if s.me.sup then .ok (s.me.getS .shadow 57) else rdS s 57
    .ok ((s.transfer t.toNat).ends .rfui)

end Sys2Proof.Machine
end

