-- ==== Sys2Proof/Machine/Xlate.lean ====
section
/-! DEFINITION. Translation of every access of a context and of its engines: the local map (R203 to R205), windows (R163,
R165), the TLBs and what a miss comes to (R190 to R202), scale addresses (R93). -/

namespace Sys2Proof.Machine

/-- What an access does to the bytes it names (R201): atomics, ZLINE and copy writes are stores. -/
inductive Acc where
  | load | store
  deriving DecidableEq, Repr

/-- What a byte address translates to: its place, its page's attributes, the local map entry if one holds it. -/
structure Xl where
  loc : Loc
  attr : Attr
  lix : Option Nat
  deriving DecidableEq, Repr

/-- Whether the attributes of two bytes let them lie in one row or access: FMT, BL, SWS, AP and PKG alike (R201). -/
def Xl.alike (a b : Xl) : Bool :=
  a.attr.fmt == b.attr.fmt && a.attr.bl == b.attr.bl && a.attr.sws == b.attr.sws && a.attr.ap == b.attr.ap &&
  a.attr.pkg == b.attr.pkg

/-- Whether two bytes lie in two local map entries (R201). -/
def twoEntries (a b : Option Nat) : Bool :=
  match a, b with
  | some i, some j => i != j
  | _, _ => false

/-- Whether two bytes of one row or access may lie together: their attributes alike, and not in two local map entries (R201). -/
def Xl.same (a b : Xl) : Bool := a.alike b && !twoEntries a.lix b.lix

/-- The local map and scratchpad partition that translate the local aperture (R203, R204). -/
structure LocalMap where
  lmap : Vector Word 32
  base : Nat
  lim : Nat
  deriving DecidableEq, Repr

/-- A context's local map. -/
def Ctx.localMap (c : Ctx) : LocalMap := ⟨c.lmap, c.spbase.toNat, c.splim.toNat⟩

/-- The scratchpad byte, attributes and W of a local aperture address, with the entry that maps it (R205); none where no
entry does, or where the place lies beyond the partition or the scratchpad. -/
def LocalMap.xlate (m : LocalMap) (va : Nat) : Option (Nat × Attr × Bool × Nat) :=
  let g := (va - apertureBase) / 4096
  let hit (i : Nat) : Option (Nat × Attr × Bool × Nat) :=
    let e := (m.lmap.toList.getD i 0).toNat
    let vpg := field e 17 0
    if field e 59 59 = 1 ∧ vpg ≤ g ∧ g ≤ vpg + field e 39 31 then
      let off := 4096 * (field e 48 40 + g - vpg) + va % 4096
      some (off, ⟨(Fmt.ofCode (field e 52 49)).getD .f32, Fin.ofNat 4 (field e 54 53), Fin.ofNat 8 (field e 57 55), false, 0, false⟩,
        field e 58 58 == 1, i)
    else none
  match (List.range 32).findSome? hit with
  | some (off, a, w, i) => if off < 4096 * m.lim ∧ 4096 * m.base + off < 2 ^ 21 then some (4096 * m.base + off, a, w, i) else none
  | none => none

/-- The declared window of a kind that holds an address, with the offset in it. -/
def winAt (wins : Map Win) (mcast : Bool) (va : Nat) : Option (Nat × Win) :=
  wins.find? fun p => p.2.live && p.2.mcast == mcast && p.2.base ≤ va && va < p.2.base + p.2.len

/-- What a lookup in the TLBs gives: an entry, the cause of the fault in which the walk of the miss has ended, or a miss. -/
inductive Look where
  | hit (t : TlbEntry)
  | fault (cause : Nat)
  | miss (root : Nat)
  deriving DecidableEq, Repr

/-- A lookup in a list of TLB entries; where none translates the address, what the die knows of its walk (R196, R197, log entry 18). -/
def State.lookIn (s : State) (d : Nat) (tlb : List TlbEntry) (ptroot : Word) (va : Nat) : Look :=
  let asid := field ptroot.toNat 63 52
  if !canonical va then .fault 1
  else
    match tlb.find? fun t => t.covers asid va with
    | some t => .hit t
    | none =>
      match (s.die d).wfaults.find? fun f => f.asid == asid && f.va == va57 va with
      | some f => .fault f.cause
      | none => .miss (field ptroot.toNat 51 13 * 8192)

/-- The TLB entries that a context's accesses find: those that a TLBINV of the bundle being issued has dropped (R200), its core's,
its cluster's, its die's (R196). -/
def State.tlbs (s : State) (x : Nat) : List TlbEntry :=
  (match (s.ctx x).iss with | some i => i.inv | none => []) ++
    (s.core (coreOf x)).tlb ++ (s.cluster (clusterOf x)).tlb ++ (s.die (dieOf x)).tlb

/-- A context's lookup (R196). -/
def State.look (s : State) (x : Nat) (ptroot : Word) (va : Nat) : Look := s.lookIn (dieOf x) (s.tlbs x) ptroot va

/-- The cause of a fault in an access through an entry, if it has one (R201): privilege, then permission. -/
def TlbEntry.refuses (t : TlbEntry) (sup : Bool) (acc : Acc) : Option Nat :=
  if !sup && !t.u then some 4
  else
    match acc with
    | .load => if t.r then none else some 5
    | .store => if t.w then none else some 5

/-- The place of a byte of a page. -/
def TlbEntry.place (t : TlbEntry) (va : Nat) : Loc := if t.attr.ap then .peer t.attr.pkg (t.pa va) else .mem (t.pa va)

/-- Where the 4 KiB pieces of an object lie, found through a lookup of each; none where one is not at hand. -/
def pieces (look : Nat → Look) (va : Nat) : Nat → Except (Nat × Option Nat) (List Nat)
  | 0 => .ok []
  | n + 1 =>
    match look va with
    | .hit t => (pieces look (va + 4096) n).map fun l => t.pa va :: l
    | .fault c => .error (va, some c)
    | .miss _ => .error (va, none)

/-- The need of a walk for an address of the acting context (R197). -/
def State.walkNeed (s : State) (va : Nat) : Need :=
  let r := s.me.ptroot.toNat
  .walk (dieOf s.cur) (field r 51 13 * 8192) (field r 63 52) (va57 va) (coreOf s.cur)

/-- The stop for an address whose translation has ended without an entry (R201): a fault; where a table could not be read, the fault of a
fabric error (R259, R301) or the fatal context error of poisoned data (R300; log entry 72). -/
def walkStop (s : State) (cause va : Nat) (scale : Bool) : Stop :=
  if cause = fabricCause then .trap ⟨14, 10, 0, 0, false⟩
  else if cause < 16 then xlateFault cause va scale
  else .wait ((s.logged (.poison (cause - 16))).fatalCtx s.cur)

/-- The translation of one byte of an access of the acting context (R200, R201): a miss holds the bundle. -/
def xlate (s : State) (acc : Acc) (va : Nat) (scale : Bool) : Slotwise Xl :=
  let c := s.me
  let die := dieOf s.cur
  if inAperture va then
    match c.localMap.xlate va with
    | none => .error (xlateFault 2 va scale)
    | some (b, a, w, i) =>
      if acc == .store && !w then .error (xlateFault 5 va scale)
      else
        match winAt c.wins true va with
        | some (n, win) => .ok ⟨.mc (Fin.ofNat 16 n) (va - win.base), a, some i⟩
        | none => .ok ⟨.sp b, a, some i⟩
  else
    match s.look s.cur c.ptroot va with
    | .fault k => .error (walkStop s k va scale)
    | .miss _ => .error (.hold .memory [s.walkNeed va])
    | .hit t =>
      match t.refuses c.sup acc with
      | some k => .error (xlateFault k va scale)
      | none =>
        match winAt c.wins false va with
        | none => .ok ⟨t.place va, t.attr, none⟩
        | some (n, win) =>
          let ob := va - (va - win.base) % win.obj
          match pieces (s.look s.cur c.ptroot) ob (if win.obj ≤ 4096 then 1 else win.obj / 4096) with
          | .error (v, some k) => .error (walkStop s k v scale)
          | .error (v, none) => .error (.hold .memory [s.walkNeed v])
          | .ok tas =>
            let home := if win.maxsc.code ≤ 2 then some (Fin.ofNat 4 die) else none
            let obj := ⟨home, t.attr.ap, if t.attr.ap then t.attr.pkg else s.hub.pkgid, tas, win.obj⟩
            .ok ⟨.win (Fin.ofNat 16 n) ob (va - ob) obj, t.attr, none⟩

/-- Consecutive bytes translated one by one. -/
def xlateN (s : State) (acc : Acc) (va : Word) : Nat → Slotwise (List Xl)
  | 0 => .ok []
  | n + 1 => do
    let x ← xlate s acc va.toNat false
    let xs ← xlateN s acc (va + 1) n
    .ok (x :: xs)

/-- Elements in a block of a block-length code (R92); none where there are no blocks. -/
def blockLen : Fin 4 → Option Nat
  | 0 => none
  | 1 => some 16
  | 2 => some 32
  | 3 => some 64

/-- The block length that a page's attributes give its elements: only tapered pages have blocks (R92). -/
def Attr.block (a : Attr) : Option Nat := if a.fmt.isTap then blockLen a.bl else none

/-- The address of an element's scale byte (R93), with the scale-window bases given. -/
def scaleAddr (scwb : Nat → Word) (a : Attr) (bl : Nat) (va : Nat) : Word :=
  scwb a.sws.val + BitVec.ofNat 64 (va % 2 ^ 64 / bl)

/-- The scale-window bases as a slot reads them. -/
def rdScwb (s : State) (i : Nat) : Word := rdSys s (0x010 + i)

/-- The translation of the scale byte of an element (R93): as an n8 byte, its faults marked SCALE. -/
def xlateScale (s : State) (acc : Acc) (a : Attr) (va : Nat) : Slotwise (Option Loc) :=
  match a.block with
  | none => .ok none
  | some bl => do
    let x ← xlate s acc (scaleAddr (rdScwb s) a bl va).toNat true
    .ok (some x.loc)

/-! ### Engines: translation without holding anything -/

/-- An entry filled into a TLB of so many entries, the most recently used last; the first leaves a full one (R196). -/
def fillList (n : Nat) (l : List TlbEntry) (t : TlbEntry) : List TlbEntry :=
  if l.contains t then l else (if l.length < n then l else l.tail) ++ [t]

/-- An entry filled into the die's TLB and into those on the path back to the cores that asked (R196). -/
def State.fillTlb (s : State) (d : Nat) (cores : List Nat) (t : TlbEntry) : State :=
  let die := s.die d
  cores.foldl (fun s c =>
    let s := s.setCore c { s.core c with tlb := fillList 64 (s.core c).tlb t }
    s.setCluster (c / 4) { s.cluster (c / 4) with tlb := fillList 1024 (s.cluster (c / 4)).tlb t })
    (s.setDie d { die with tlb := fillList 3072 die.tlb t })

/-- A lookup of a copy engine (R196, R202): in the die's TLB. -/
def State.lookEng (s : State) (d : Nat) (ptroot : Word) (va : Nat) : Look := s.lookIn d (s.die d).tlb ptroot va

/-! ### Least recently used (R196) -/

/-- The entries of a TLB with those just used last. -/
def usedLast (used : TlbEntry → Bool) (l : List TlbEntry) : List TlbEntry := l.filter (!used ·) ++ l.filter used

/-- Whether an entry translates to a place, in an address space. -/
def TlbEntry.gives (t : TlbEntry) (asid : Nat) (l : Loc) : Bool :=
  t.asid == asid && match l with
    | .mem pa => !t.attr.ap && t.frame ≤ pa && pa < t.frame + t.size
    | .peer p ta => t.attr.ap && t.attr.pkg == p && t.frame ≤ ta && ta < t.frame + t.size
    | .win _ va _ _ => t.va ≤ va57 va && va57 va < t.va + t.size
    | _ => false

/-- The same in the die's TLB, where a copy engine's accesses find them (R202). -/
def State.useDieTlb (s : State) (d : Nat) (used : TlbEntry → Bool) : State :=
  let b := s.die d
  if b.tlb.any used then s.setDie d { b with tlb := usedLast used b.tlb } else s

/-- Entries that accesses of a context have used become the most recently used of the level that held them: its core's, else its
cluster's, else its die's (R196). -/
def State.useTlb (s : State) (x : Nat) (used : TlbEntry → Bool) : State :=
  let k := s.core (coreOf x)
  let cl := s.cluster (clusterOf x)
  if k.tlb.any used then s.setCore (coreOf x) { k with tlb := usedLast used k.tlb }
  else if cl.tlb.any used then s.setCluster (clusterOf x) { cl with tlb := usedLast used cl.tlb }
  else s.useDieTlb (dieOf x) used

/-- The entries of the places that a context's access names have been used. -/
def State.placesUsed (s : State) (x : Nat) (ls : List Loc) : State :=
  let asid := field (s.ctx x).ptroot.toNat 63 52
  s.useTlb x fun t => ls.any (t.gives asid)

end Sys2Proof.Machine
end

