-- ==== Sys2Proof/Machine/Cache.lean ====
section
/-! DEFINITION. The levels that hold ordinary addresses and their points of coherence (R148 to R153, R175): the cluster's
cache with a dirty bit per byte, the die's atomic buffer, the memory-side caches with the stacks behind them. A cache that is full
gives up a line that a free value chooses (log entry 64). -/

namespace Sys2Proof.Machine

/-- A byte of a line. -/
def Line.byte (l : Line) (k : Nat) : Byte := l.bits.extractLsb' (8 * k) 8

/-- A byte of a line written: it is dirty, and the zero flag clears (R149). -/
def Line.put (l : Line) (k : Nat) (b : Byte) : Line :=
  ⟨BitVec.ofNat 1024 (setField l.bits.toNat (8 * k + 7) (8 * k) b.toNat), l.dirty ||| (1 <<< k), false⟩

/-- The dirty bytes of a line as memory cells. -/
def Line.dirtyCells (l : Line) (n : Nat) : List Host.Cell :=
  (List.range 128).filterMap fun k => if l.dirty.getLsbD k then some (128 * n + k, l.byte k) else none

/-- A line of zeros, zero-flagged, every byte dirty (R152). -/
def Line.zeroed : Line := ⟨0, BitVec.allOnes 128, true⟩

/-- A line read from the memory-side cache. -/
def State.memLine (s : State) (n : Nat) : Line :=
  ⟨BitVec.ofNat 1024 (leNat (Memory.readN s.mem (128 * n) 128)), 0, s.zflag.contains n⟩

/-- The dirty bytes of a line written to the memory-side cache; a zero-flagged line sets the flag there (R149, R150). -/
def State.writeBack (s : State) (l : Line) (n : Nat) : State :=
  let t := s.memWrite (l.dirtyCells n)
  if l.zero && l.dirty == BitVec.allOnes 128 then { t with zflag := n :: t.zflag } else t

/-- A line with the dirty bytes of another over it. -/
def Line.merge (l m : Line) : Line :=
  let bs := (List.range 128).map fun k => if m.dirty.getLsbD k then m.byte k else l.byte k
  { l with bits := BitVec.ofNat 1024 (leNat bs), zero := l.zero && m.zero }

/-- A line of a die's atomic buffer evicted, with write-back (R153). -/
def State.evictAbuf (s : State) (d n : Nat) : State :=
  let die := s.die d
  match Map.find die.abuf n with
  | none => s
  | some l => (s.setDie d { die with abuf := Map.drop die.abuf n }).writeBack l n

/-- Every line of a die's atomic buffer written back, as a release of package or pod scope does (R153). -/
def State.drainAbuf (s : State) (d : Nat) : State := (s.die d).abuf.foldl (fun s p => s.evictAbuf d p.1) s

/-- Dirty bytes of a line on their way to the memory-side cache pass the die's atomic buffer: a copy there takes them (R153, R181,
log entry 64). -/
def State.passAbuf (s : State) (d n : Nat) (l : Line) : State :=
  let die := s.die d
  match Map.find die.abuf n with
  | none => s
  | some m => s.setDie d { die with abuf := Map.put die.abuf n (m.merge l) }

/-- A line of a cluster's cache made clean: its dirty bytes go to the memory-side cache, and it stays (R152). -/
def State.cleanLine (s : State) (cl n : Nat) : State :=
  let c := s.cluster cl
  match Map.find c.lines n with
  | none => s
  | some l => ((s.setCluster cl { c with lines := Map.put c.lines n { l with dirty := 0 } }).writeBack l n).passAbuf (cl / 10) n l

/-- A line leaves the L1s of a cluster's cores. -/
def State.dropL1 (s : State) (cl n : Nat) : State :=
  (span (4 * cl) 4).foldl (fun s c =>
    match Map.find s.cores c with
    | none => s
    | some k => s.setCore c { k with l1 := k.l1.filter (· != n) }) s

/-- A line leaves a cluster's cache and its L1s, its dirty bytes written back. -/
def State.discardLine (s : State) (cl n : Nat) : State :=
  let s := (s.cleanLine cl n).dropL1 cl n
  s.setCluster cl { s.cluster cl with lines := Map.drop (s.cluster cl).lines n }

/-- Every line of a cluster's cache made clean (R179). -/
def State.cleanAll (s : State) (cl : Nat) : State := (s.cluster cl).lines.foldl (fun s p => s.cleanLine cl p.1) s

/-- Every copy of an ordinary address that a cluster holds discarded, dirty bytes written back (R179). -/
def State.discardAll (s : State) (cl : Nat) : State :=
  let s := (s.cluster cl).lines.foldl (fun s p => s.discardLine cl p.1) s
  (span (4 * cl) 4).foldl (fun s c =>
    match Map.find s.cores c with
    | none => s
    | some k => s.setCore c { k with l1 := [] }) s

/-- The key that a free value picks from a full collection (log entry 64); none while it has fewer entries than the bound. -/
def State.victim (s : State) (m : Map α) (bound : Nat) : Option Nat :=
  if m.length < bound then none else (m[s.freeNat 1 % m.length]?).map (·.1)

/-- Room for one more line in a cluster's cache of 8 MiB (R148). -/
def State.clusterRoom (s : State) (cl : Nat) : State :=
  match s.victim (s.cluster cl).lines 65536 with
  | some n => (s.useFree 1).discardLine cl n
  | none => s

/-- Room for one more line in a die's atomic buffer of 1 MiB (R153). -/
def State.abufRoom (s : State) (d : Nat) : State :=
  match s.victim (s.die d).abuf 8192 with
  | some n => (s.useFree 1).evictAbuf d n
  | none => s

/-- Lines that loads of a core have read stand in its L1 of 64 KiB (R148); the oldest leave it. -/
def CoreSt.fillL1 (c : CoreSt) (ns : List Nat) : CoreSt :=
  let l := (c.l1 ++ ns).eraseDups
  { c with l1 := l.drop (l.length - 512) }

/-- Where an access to an ordinary address is performed: the issuing cluster's cache, the issuing die's atomic buffer, the
memory-side cache (R151, R153). -/
inductive Place where
  | cluster | die | memory
  deriving DecidableEq, Repr

/-- The place of a plain or scoped access (R151, R172). -/
def placeOf : Option Scope → Place
  | none => .cluster
  | some .core => .cluster
  | some .cluster => .cluster
  | some _ => .memory

/-- The unit of an atomic of a scope (R153). -/
def unitOf : Scope → Place
  | .core => .cluster
  | .cluster => .cluster
  | .die => .die
  | _ => .memory

/-- The line of an address made ready for an access at a place (R148, R153, R175): a miss in the cluster's cache reads the
line; an access below it first writes back and discards the cluster's own copy. -/
def State.enter (s : State) (x : Nat) (p : Place) (n : Nat) : State :=
  let d := dieOf x
  let cl := clusterOf x
  match p with
  | .cluster =>
    match Map.find (s.cluster cl).lines n with
    | some _ => s
    | none =>
      let s := (s.evictAbuf d n).clusterRoom cl
      s.setCluster cl { s.cluster cl with lines := Map.put (s.cluster cl).lines n (s.memLine n) }
  | .die =>
    let s := s.discardLine cl n
    match Map.find (s.die d).abuf n with
    | some _ => s
    | none =>
      let s := s.abufRoom d
      s.setDie d { s.die d with abuf := Map.put (s.die d).abuf n (s.memLine n) }
  | .memory => (s.discardLine cl n).evictAbuf d n

/-- A byte at a place whose line is ready. -/
def State.peekAt (s : State) (x : Nat) (p : Place) (pa : Nat) : Byte :=
  match p with
  | .cluster =>
    match Map.find (s.cluster (clusterOf x)).lines (pa / 128) with
    | some l => l.byte (pa % 128)
    | none => Memory.read s.mem pa
  | .die =>
    match Map.find (s.die (dieOf x)).abuf (pa / 128) with
    | some l => l.byte (pa % 128)
    | none => Memory.read s.mem pa
  | .memory => Memory.read s.mem pa

/-- A byte written at a place whose line is ready. -/
def State.pokeAt (s : State) (x : Nat) (p : Place) (pa : Nat) (b : Byte) : State :=
  match p with
  | .cluster =>
    let c := s.cluster (clusterOf x)
    match Map.find c.lines (pa / 128) with
    | some l => s.setCluster (clusterOf x) { c with lines := Map.put c.lines (pa / 128) (l.put (pa % 128) b) }
    | none => s.memWrite [(pa, b)]
  | .die =>
    let d := s.die (dieOf x)
    match Map.find d.abuf (pa / 128) with
    | some l => s.setDie (dieOf x) { d with abuf := Map.put d.abuf (pa / 128) (l.put (pa % 128) b) }
    | none => s.memWrite [(pa, b)]
  | .memory => s.memWrite [(pa, b)]

/-- The release's effect on caches (R179, R153): at die scope or wider every dirty line of the cluster's cache is written
back; at package or pod scope the die's atomic buffer too. -/
def State.releaseCaches (s : State) (x : Nat) (sc : Scope) : State :=
  if sc.code < 2 then s
  else
    let s := s.cleanAll (clusterOf x)
    if sc.code < 3 then s else s.drainAbuf (dieOf x)

/-- The acquire's effect on caches (R179): below die scope nothing is discarded; at package or pod scope the die's atomic buffer is
written back and discarded too, since it stands above the memory-side cache (R151). -/
def State.acquireCaches (s : State) (x : Nat) (sc : Scope) : State :=
  if sc.code < 2 then s
  else
    let s := s.discardAll (clusterOf x)
    if sc.code < 3 then s else s.drainAbuf (dieOf x)

end Sys2Proof.Machine
end

