-- ==== Sys2Proof/Machine/Packet.lean ====
section
/-! DEFINITION. Packets of the fabric (R233) and the requests outstanding in them (R234), the export table (R207). The spec
names what bits [511:128] of a header carry and not where; their places are log entry 19's. -/

namespace Sys2Proof.Machine

/-- The types of packets (R233). -/
inductive PType where
  | read | write | atomic | flag | contrib | result | credit | words | ack | data | answer
  deriving DecidableEq, Repr

/-- The TYPE code (R233). -/
def PType.code : PType → Nat
  | .read => 0 | .write => 1 | .atomic => 2 | .flag => 3 | .contrib => 4 | .result => 5 | .credit => 6 | .words => 7
  | .ack => 8 | .data => 9 | .answer => 10

/-- The type of a code; 11 to 15 name none (R233). -/
def PType.ofCode : Nat → Option PType
  | 0 => some .read | 1 => some .write | 2 => some .atomic | 3 => some .flag | 4 => some .contrib | 5 => some .result
  | 6 => some .credit | 7 => some .words | 8 => some .ack | 9 => some .data | 10 => some .answer | _ => none

/-- The fields of a header flit (R233); `ext` is bits [511:128]. -/
structure Hdr where
  dpkg : Nat
  dloc : Nat
  spkg : Nat
  sloc : Nat
  cls : Nat
  hix : Nat
  nflit : Nat
  typ : Nat
  ta : Nat
  tag : Nat
  ext : Nat
  deriving DecidableEq, Repr

/-- The fields of a header flit. -/
def Hdr.of (h : BitVec 512) : Hdr :=
  let v := h.toNat
  ⟨field v 127 116, field v 115 107, field v 106 95, field v 94 86, field v 85 85, field v 84 82, field v 81 76,
   field v 75 72, field v 71 20, field v 19 0, field v 511 128⟩

/-- The header flit of its fields. -/
def Hdr.bits (h : Hdr) : BitVec 512 :=
  BitVec.ofNat 512 (h.ext * 2 ^ 128 + h.dpkg % 4096 * 2 ^ 116 + h.dloc % 512 * 2 ^ 107 + h.spkg % 4096 * 2 ^ 95 +
    h.sloc % 512 * 2 ^ 86 + h.cls % 2 * 2 ^ 85 + h.hix % 8 * 2 ^ 82 + h.nflit % 64 * 2 ^ 76 + h.typ % 16 * 2 ^ 72 +
    h.ta % 2 ^ 52 * 2 ^ 20 + h.tag % 2 ^ 20)

/-- DLOC or SLOC of a context (R233). -/
def locOf (x : Nat) : Nat := dieOf x * 128 + lcoreOf x * 2 + x % 2

/-- The context that DLOC or SLOC names on this part. -/
def ctxOfLoc (l : Nat) : Nat := ctxAt (field l 8 7) (field l 6 1) l

/-- Payload flits that hold bytes, 64 to a flit. -/
def flitsOf (bs : List Byte) : List (BitVec 512) :=
  (List.range ((bs.length + 63) / 64)).map fun i => BitVec.ofNat 512 (leNat ((bs.drop (64 * i)).take 64))

/-- The first n bytes of payload flits. -/
def bytesOf (fs : List (BitVec 512)) (n : Nat) : List Byte := (fs.flatMap fun f => leBytes 64 f.toNat).take n

/-- The active edge bank of a pair as bit 19 of TAG (R269). -/
def State.bankBit (s : State) (x : Nat) : Nat := if (s.pair (pairOf x)).bank then 2 ^ 19 else 0

/-- The extension bits of a write that sets a line to zero (R152, log entry 19). -/
def zeroExt : Nat := 128 + 2 ^ 32

/-- A packet that has come to the package's own hub. -/
def State.intoHub (s : State) (p : Packet) : State := { s with hub := { s.hub with inq := s.hub.inq ++ [p] } }

/-- A packet that waits to leave the hub. -/
def State.outOfHub (s : State) (p : Packet) : State := { s with hub := { s.hub with outq := s.hub.outq ++ [p] } }

/-- A response (R234): to this package's hub, or out. -/
def State.injectResponse (s : State) (p : Packet) : State :=
  if (Hdr.of p.hdr).dpkg = s.hub.pkgid then s.intoHub p else s.outOfHub p

/-- A response to a request (R234): to its source, with its tag; an acknowledgement carries no target address (R233). -/
def State.respond (s : State) (h : Hdr) (t : PType) (ext : Nat) (pay : List (BitVec 512)) : State :=
  let ta := if t = .ack then 0 else h.ta
  s.injectResponse ⟨(⟨h.spkg, h.sloc, s.hub.pkgid, h.dloc, 1, 0, pay.length, t.code, ta, h.tag, ext⟩ : Hdr).bits, pay, none⟩

/-- The type of the response to a request. -/
def respType (t : Nat) : PType := if t = 0 then .data else if t = 2 then .answer else if t = 4 then .result else .ack

/-- The status of a fabric error. -/
def stFabric : Nat := 2

/-- The status of a result that stands for a fabric error (log entry 19). -/
def stLost : Nat := 32

/-- The extension of a result that answers a contribution: its reduction word, sequence number, length and place, with a status (R233,
log entry 19). -/
def resultExt (x st : Nat) : Nat := x % 2 ^ 127 + st * 2 ^ 128

/-- The response to a request that ends in a fabric error. -/
def State.failed (s : State) (h : Hdr) : State :=
  s.respond h (respType h.typ) (if h.typ = PType.contrib.code then resultExt h.ext stLost else stFabric) []

/-- A request that cannot leave or arrive (R235, R236, R238): its fabric error comes to its source in place of a response. -/
def State.undelivered (s : State) (p : Packet) : State :=
  let h := Hdr.of p.hdr
  if h.cls = 0 then s.failed h else s

/-- An access through a BAR: in recovery it completes with Unsupported Request (R293). -/
def State.bar (s : State) (f : State → State) : State :=
  if s.hub.boot = .done then f s else { s with toHost := s.toHost ++ [.unsupported] }

/-- Bit V of the package's own route entry (R235). -/
def State.ownRoute (s : State) : Bool := (Map.get 0 s.hub.route s.hub.pkgid).getLsbD 31

/-- A packet into the fabric: a contribution goes to the package's own hub (R247), any other packet by the route table (R206, R235): to
this package, unless its own entry is invalid or a write of the entry waits; or out. -/
def State.inject (s : State) (p : Packet) : State :=
  let h := Hdr.of p.hdr
  if h.dpkg = s.hub.pkgid then
    if h.cls = 1 || h.typ == PType.contrib.code then s.intoHub p
    else if s.hub.routeq.any (·.1 == h.dpkg) then s.outOfHub p
    else if s.ownRoute then s.intoHub p
    else s.undelivered p
  else s.outOfHub p

/-- Whether a request leaves a pair by its edge (R269): not one that a home or a hub makes. -/
def ReqWho.leaves : ReqWho → Bool
  | .winRead _ _ _ => false
  | .home => false
  | .hub _ => false
  | _ => true

/-- A request sent for a context, with a fresh tag that names its pair's active bank (R233, R234, R269). It stands at the edge of
the pair until it is sent. It carries the bundle address, which the target's log names (R207). -/
def State.request (s : State) (x dpkg dloc : Nat) (t : PType) (ta ext : Nat) (pay : List (BitVec 512)) (who : ReqWho)
    (ba : Nat) : State × Nat :=
  let tag := s.hub.nextTag % 2 ^ 19 + s.bankBit x
  let h : Hdr := ⟨dpkg, dloc, s.hub.pkgid, locOf x, 0, 0, pay.length, t.code, ta, tag, ext + ba % 2 ^ 64 * 2 ^ 320⟩
  let r : Req := ⟨tag, dpkg, who, ba, ta⟩
  let s := { s with hub := { s.hub with nextTag := s.hub.nextTag + 1, reqs := s.hub.reqs ++ [r] } }
  let p : Packet := ⟨h.bits, pay, none⟩
  if who.leaves then
    let q := s.pair (pairOf x)
    (s.setPair (pairOf x) { q with edge := { q.edge with outq := q.edge.outq ++ [p] } }, tag)
  else (s.inject p, tag)

/-! ### The edge of a pair (R269, R275) -/

/-- The flits of a packet. -/
def Packet.flits (p : Packet) : Nat := 1 + p.pay.length

/-- The flits of a request held at an edge. -/
def Held.flits : Held → Nat
  | .cells _ cs _ => 1 + (cs.length + 63) / 64
  | _ => 1

/-- Flits of a request accepted by the edge of a stopped pair, against credits granted (R269). -/
def Edge.accept (e : Edge) (n : Nat) : Edge := { e with occ := e.occ + n, grant := e.grant - n }

/-- Flits of a response accepted by the edge of a stopped pair, without limit (R269). -/
def Edge.take (e : Edge) (n : Nat) : Edge := { e with occ := e.occ + n }

/-- Whether the edge of a stopped pair has granted no credits for n more flits of a request (R269): it grants none while it holds, and
the request waits outside. -/
def State.shut (s : State) (q n : Nat) : Bool := (s.pair q).frozen.isSome && (s.pair q).edge.grant < n

/-- A request for a stopped pair held at its edge (R269); none where the pair runs. -/
def State.holdRequest (s : State) (q : Nat) (h : Held) : Option State :=
  let p := s.pair q
  p.frozen.map fun f => s.setPair q { p with frozen := some { f with held := f.held ++ [h] }, edge := p.edge.accept h.flits }

/-- A response for a stopped pair held at its edge (R269); none where the pair runs. -/
def State.holdResponse (s : State) (q : Nat) (r : Packet) : Option State :=
  let p := s.pair q
  p.frozen.map fun f => s.setPair q { p with
    frozen := some (if f.release then { f with late := f.late ++ [r] } else { f with packets := f.packets ++ [r] })
    edge := p.edge.take r.flits }

/-- The packets that stand at the edge of a pair sent, in their order, while the credit of their virtual channel allows (R230, R236); the
hub takes them out of its buffer at once, so the credit comes back. A stopped pair keeps them (R269). -/
def State.edgeSend (s : State) (q : Nat) : State :=
  let p := s.pair q
  if p.frozen.isSome || p.edge.outq.isEmpty then s
  else
    let may (k : Packet) : Bool := k.flits ≤ p.edge.credit.get 0
    let go := p.edge.outq.takeWhile may
    go.foldl State.inject (s.setPair q { p with edge := { p.edge with outq := p.edge.outq.dropWhile may } })

/-- The status of a response: performed, no export (R207), a fabric error, or a refusal's reason 2 or 3 (R208) as 4 or 5. -/
def stOk : Nat := 0

/-- No export (R207). -/
def stExport : Nat := 1

/-- Whether packets of a type go from a package to its neighbour and no further: link FIFO words, contributions and results of
the reduction tree (R239, R247). -/
def PType.linkLocal (t : PType) : Bool := t == .words || t == .contrib || t == .result

/-- Whether a packet at the hub stands before another (R230, R234, R239): they are of one class, and of one source or for one die;
link FIFO packets have buffers of their own and wait only for those of their link. -/
def Packet.before (own : Nat) (q p : Packet) : Bool :=
  let g := Hdr.of q.hdr
  let h := Hdr.of p.hdr
  let fifo (k : Hdr) : Bool := k.typ == PType.words.code
  if fifo g || fifo h then fifo g && fifo h && q.via == p.via
  else
    let deep (k : Hdr) : Bool := k.dpkg == own && (k.cls == 1 || k.typ == PType.flag.code || k.typ == PType.credit.code)
    g.cls == h.cls && (g.spkg == h.spkg && g.sloc == h.sloc || deep g && deep h && g.dloc / 128 == h.dloc / 128)

/-- The n-th packet that has come to the hub, if it is for this package, of a type, and no other stands before it. -/
def State.arrived (s : State) (n : Nat) (t : PType) : Option (Hdr × Packet) :=
  match s.hub.inq[n]? with
  | none => none
  | some p =>
    let h := Hdr.of p.hdr
    if h.typ = t.code && (h.dpkg == s.hub.pkgid || t.linkLocal && p.via.isSome) &&
        !(s.hub.inq.take n).any fun q => q.before s.hub.pkgid p then some (h, p) else none

/-- The state without the n-th packet. -/
def State.takePacket (s : State) (n : Nat) : State := { s with hub := { s.hub with inq := s.hub.inq.eraseIdx n } }

/-! ### The export table (R207) -/

/-- The physical address of an exported target address: the leaf must have V = 1, PIN = 1, AP = 0, and R or W; none where
it has not (R207). -/
def State.exported (s : State) (ta : Nat) (write : Bool) : Option Nat :=
  let t := match s.hub.xtlb.find? fun t => t.covers 0 ta with
    | some t => some t
    | none => (walkFrom s 0 (va57 ta) 4 (field s.hub.exproot.toNat 51 13 * 8192)).toOption
  match t with
  | some t => if t.pin && !t.attr.ap && (if write then t.w else t.r) then some (t.pa ta) else none
  | none => none

/-- The physical addresses of n exported bytes. -/
def State.exportedN (s : State) (ta : Nat) (write : Bool) : Nat → Option (List Nat)
  | 0 => some []
  | n + 1 =>
    match s.exported ta write, s.exportedN (ta + 1) write n with
    | some a, some l => some (a :: l)
    | _, _ => none

end Sys2Proof.Machine
end

