-- ==== Sys2Proof/Machine/Windows.lean ====
section
/-! DEFINITION. Shared and multicast windows (R163 to R170, R386): declaring and dropping them, a core's copies of tile
objects, the directory's protocol at its two levels inside a package (log entry 20). -/

namespace Sys2Proof.Machine

/-! ### Copies -/

/-- Whether a copy allows a load (R168). A copy in IS_I whose data has come serves the held access once. -/
def WCopy.canLoad (c : WCopy) : Bool :=
  match c.st with
  | .M => true | .O => true | .E => true | .S => true | .SM => true | .OM => true
  | .ISI => c.data
  | _ => false

/-- Whether a copy allows a store (R168). -/
def WCopy.canStore (c : WCopy) : Bool :=
  match c.st with
  | .M => true | .E => true
  | _ => false

/-- Whether a copy is in a transient state (R168, R170). -/
def WCopy.transient (c : WCopy) : Bool :=
  match c.st with
  | .M => false | .O => false | .E => false | .S => false | .I => false
  | _ => true

/-- Whether a copy still holds data that a forwarded request can be served from (R168). -/
def WCopy.holdsData (c : WCopy) : Bool :=
  match c.st with
  | .M => true | .O => true | .E => true | .S => true | .SM => true | .OM => true | .MI => true | .OI => true | .EI => true
  | .SI => true
  | _ => false

/-- Whether a copy is a context's copy of an object in a window. -/
def WCopy.isOf (c : WCopy) (x : Nat) (wn : Fin 16) (va : Nat) : Bool := c.ctx == x && c.wn == wn && c.va == va

/-- A context's copy of an object in a window. -/
def State.copyOf (s : State) (x : Nat) (wn : Fin 16) (va : Nat) : Option WCopy :=
  (s.core (coreOf x)).wcopy.find? (·.isOf x wn va)

/-- A context's copy of an object, whatever its window. -/
def State.copyObj (s : State) (x : Nat) (o : WObj) : Option WCopy :=
  (s.core (coreOf x)).wcopy.find? fun c => c.ctx == x && c.obj == o

/-! ### Operations in flight (R156, R175, R176) -/

/-- The bytes of an element with its scale byte. -/
def ElemLoc.all (e : ElemLoc) : List Loc := e.bytes ++ e.scale.toList

/-- The bytes of an operation, in the order their values stand in. -/
def MemOp.locs (m : MemOp) : List Loc := m.elems.flatMap ElemLoc.all

/-- Whether an operation has been performed. -/
def MemOp.performed (m : MemOp) : Bool :=
  match m.phase with
  | .waiting _ => false
  | .sent _ _ => false
  | _ => true

/-- Whether an operation's result is at hand, to land next (R156, R259). -/
def MemOp.landing (m : MemOp) : Bool :=
  match m.phase with
  | .done _ => true
  | .failed => true
  | _ => false

/-- Whether an operation is a load or an atomic, whose result is pending (R156). -/
def MemOp.isLoad (m : MemOp) : Bool :=
  match m.kind with
  | .load _ => true
  | .atomic .. => true
  | _ => false

/-- Whether an operation writes memory. -/
def MemOp.isStore (m : MemOp) : Bool :=
  match m.kind with
  | .load _ => false
  | _ => true

/-- The byte of the package's memory that stands behind a place, if one does: behind an aperture page of its own package, and behind a
window's object whose home it is (R175). -/
def State.behind (s : State) (l : Loc) : Loc :=
  match l with
  | .peer p ta => if p = s.hub.pkgid then (s.exported ta false).elim l .mem else l
  | .win _ _ off o =>
    let ta := o.tas.getD (off / min 4096 o.size) 0 + off % min 4096 o.size
    if o.pkg != s.hub.pkgid then .peer o.pkg ta
    else if o.ap then (s.exported ta false).elim l .mem
    else .mem ta
  | l => l

/-- Whether two operations access one byte (R175). -/
def State.meets (s : State) (a b : MemOp) : Bool :=
  let bs := b.locs.map s.behind
  a.locs.any fun l => bs.contains (s.behind l)

/-- Whether an operation is scoped or atomic at core, cluster or die scope (R176). -/
def MemOp.narrow (m : MemOp) : Bool := match m.sc with | some sc => sc.code ≤ 2 | none => false

/-- Whether an operation may be performed before an earlier one that has not been (R175, R176). -/
def State.mayPass (s : State) (m e : MemOp) : Bool :=
  !s.meets m e && (!(m.narrow && e.narrow) || (m.isLoad && !m.isStore && !e.isLoad))

/-- Whether the n-th operation may be performed now (R175, R176). -/
def State.opReady (s : State) (ops : List MemOp) (n : Nat) (m : MemOp) : Bool :=
  (ops.take n).all fun e => e.performed || s.mayPass m e

/-- Whether a place is a peer's memory. -/
def Loc.isPeer : Loc → Bool
  | .peer _ _ => true
  | _ => false

/-- Whether an operation goes to a peer's memory. -/
def MemOp.remote (m : MemOp) : Bool := m.locs.any Loc.isPeer

/-- The window objects among some places. -/
def objectsOf (ls : List Loc) : List (Fin 16 × Nat × WObj) :=
  (ls.filterMap fun l => match l with
    | .win wn va _ o => some (wn, va, o)
    | _ => none).eraseDups

/-- The window objects that an operation needs. -/
def MemOp.objects (m : MemOp) : List (Fin 16 × Nat × WObj) := objectsOf m.locs

/-- Whether an operation is still to be made in part (R156). -/
def MemOp.waits (m : MemOp) : Bool := match m.phase with | .waiting _ => true | _ => false

/-- Whether a context's operation that waits needs an object. -/
def Ctx.needs (c : Ctx) (o : WObj) (store : Bool) : Bool :=
  c.mops.any fun m => m.waits && m.isStore == store && m.objects.any (·.2.2 == o)

/-- Whether a load, or the read of a copy engine, that asked for a copy is still to be served from it (R168). -/
def State.readHeld (s : State) (c : WCopy) : Bool :=
  let k := s.core (coreOf c.ctx)
  c.data && ((s.ctx c.ctx).needs c.obj false ||
    (k.c0 ++ k.c1).any fun j => j.ctx == c.ctx && (objectsOf j.asking).any (·.2.2 == c.obj))

/-- Whether an object comes before another in the order in which one access asks for several. -/
def objBefore (a b : Fin 16 × Nat × WObj) : Bool :=
  a.2.2.pkg < b.2.2.pkg || (a.2.2.pkg == b.2.2.pkg && a.2.2.tas.headD 0 < b.2.2.tas.headD 0)

/-- The first of some objects in that order: two accesses to the same objects ask for them alike, so that neither waits for the other
for ever (R156). -/
def firstObject : List (Fin 16 × Nat × WObj) → Option (Fin 16 × Nat × WObj)
  | [] => none
  | o :: os => match firstObject os with
    | some p => some (if objBefore p o then p else o)
    | none => some o

/-- Whether a context's copy allows an operation (R168). -/
def State.objReady (s : State) (x : Nat) (own : Bool) (o : Fin 16 × Nat × WObj) : Bool :=
  match s.copyOf x o.1 o.2.1 with
  | some c => if own then c.canStore else c.canLoad
  | none => false

/-! ### Giving copies and asking for them -/

/-- The next copy that an access to some objects asks for, if one does not allow it. -/
def State.missing (s : State) (x : Nat) (own : Bool) (ls : List Loc) : Option (Fin 16 × Nat × WObj) :=
  firstObject ((objectsOf ls).filter fun o => !s.objReady x own o)

/-- The copy written back into its core's list; a copy in I is no longer listed. -/
def State.setCopy (s : State) (c : WCopy) : State :=
  let k := s.core (coreOf c.ctx)
  let rest := k.wcopy.filter (!·.isOf c.ctx c.wn c.va)
  s.setCore (coreOf c.ctx) { k with wcopy := if c.st = .I then rest else rest ++ [c] }

/-- The bytes of a copy, in the scratchpad frame that holds it (R165). -/
def State.copyBytes (s : State) (c : WCopy) : List Byte := Memory.readN (s.core (coreOf c.ctx)).sp c.frame c.obj.size

/-- Bytes put into a copy's frame. -/
def State.fillCopy (s : State) (c : WCopy) (bs : List Byte) : State :=
  let k := s.core (coreOf c.ctx)
  s.setCore (coreOf c.ctx) { k with sp := Memory.writeAll k.sp (cellsAt c.frame bs) }

/-- A message about an object sent. -/
def State.wsend (s : State) (m : WMsg) : State := { s with hub := { s.hub with wnet := s.hub.wnet ++ [m] } }

/-- A copy given up (R166, R168): a dirty one with a write-back, a clean one with a notice; a transient one waits. -/
def State.evictCopy (s : State) (c : WCopy) : State :=
  let give (st : WState) (d : Option (List Byte)) :=
    (s.setCopy { c with st := st }).wsend ⟨.wback, c.obj, c.ctx, c.ctx, d, 0, false, false, .core⟩
  match c.st with
  | .M => give .MI (some (s.copyBytes c))
  | .O => give .OI (some (s.copyBytes c))
  | .E => give .EI none
  | .S => give .SI none
  | .ISI => if c.data && !s.readHeld c then s.setCopy { c with st := .I } else s
  | _ => s

/-- The frame of an object in its window's local copy region (R165): direct-mapped. -/
def Win.frameOf (w : Win) (va : Nat) : Nat := w.lc + (va - w.base) / w.obj % (w.lclen / w.obj) * w.obj

/-- The scratchpad byte of a member's copy of a multicast window at an offset (R163), its region mapped as any local copy region
(R165, log entry 21). -/
def Win.mcByte (w : Win) (o : Nat) : Nat := w.lc + o % (w.lclen / w.obj * w.obj)

/-- An access asks for a copy in a state that allows it (R165, R168): a read, a read for ownership or an upgrade goes to
the directory of its die; an object in the way is displaced first. -/
def State.askCopy (s : State) (x : Nat) (wn : Fin 16) (va : Nat) (o : WObj) (own : Bool) (ba : Nat) : State :=
  match s.copyOf x wn va, Map.find (s.ctx x).wins wn.val with
  | some c, _ =>
    let up (st : WState) : State :=
      (s.setCopy { c with st := st, acks := 0, told := false, data := true, want := true, ba := ba }).wsend
        ⟨.upgrade, o, x, x, none, 0, false, false, .core⟩
    if !own then s
    else
      match c.st with
      | .S => up .SM
      | .O => up .OM
      | .ISI => s.evictCopy c
      | _ => s
  | none, some w =>
    let fr := w.frameOf va
    match (s.core (coreOf x)).wcopy.find? fun c => c.ctx == x && c.wn == wn && c.frame == fr with
    | some c => s.evictCopy c
    | none =>
      (s.setCopy ⟨x, wn, va, o, if own then .IM else .IS, fr, 0, false, false, own, ba⟩).wsend
        ⟨if own then .rfo else .read, o, x, x, none, 0, false, false, .core⟩
  | none, none => s

/-! ### The directories (R167) -/

/-- The first context of a die: a message between a die directory and the package home names the die by it. -/
def dieCtx (d : Nat) : Nat := 80 * d

/-- The level of the directory that is an object's home: the directory of its die, or the package home. -/
def WObj.homeLvl (o : WObj) : Option Nat := o.home.map (·.val)

/-- The entries of a directory: a die's, or those of the package homes. -/
def State.dirAt (s : State) (l : Option Nat) : List DirEntry :=
  match l with
  | some d => (s.die d).dir
  | none => s.hub.homes

/-- The entries of a directory replaced. -/
def State.setDir (s : State) (l : Option Nat) (es : List DirEntry) : State :=
  match l with
  | some d => s.setDie d { s.die d with dir := es }
  | none => { s with hub := { s.hub with homes := es } }

/-- The entry of an object that a directory does not track. -/
def DirEntry.empty (o : WObj) : DirEntry := ⟨o, [], none, false, [], [], 0, false, [], none⟩

/-- The entry of an object in a directory. -/
def State.dirEntry (s : State) (l : Option Nat) (o : WObj) : DirEntry :=
  ((s.dirAt l).find? fun e => e.obj == o).getD (.empty o)

/-- Whether an entry tracks nothing: no holder, and no request in work. -/
def DirEntry.idle (e : DirEntry) : Bool :=
  e.sharers.isEmpty && !e.busy && e.queue.isEmpty && e.up.isEmpty && e.coll.isNone

/-- The entry replaced; the most recently used stands last; one that tracks nothing is not listed. -/
def State.setEntry (s : State) (l : Option Nat) (e : DirEntry) : State :=
  let rest := (s.dirAt l).filter fun f => f.obj != e.obj
  s.setDir l (if e.idle then rest else rest ++ [{ e with used := s.clock }])

/-- A holder added. -/
def DirEntry.join (e : DirEntry) (x : Nat) : DirEntry := { e with sharers := e.sharers.filter (· != x) ++ [x] }

/-- How the directory that is an object's home names a holder: a die directory the context, a package home the die. -/
def WObj.holder (o : WObj) (x : Nat) : Nat := if o.home.isSome then x else dieOf x

/-- The physical addresses of an object's bytes at its own package; through the export table for an aperture leaf (R167). -/
def State.objAddrs (s : State) (o : WObj) (write : Bool) : Option (List Nat) :=
  let tas := o.tas.flatMap fun t => span t (min 4096 o.size)
  if o.ap then tas.mapM fun t => s.exported t write else some tas

/-- Whether an object's package home is a stack of this package (R167). -/
def State.homedIn (s : State) (k : Nat) (o : WObj) : Bool :=
  o.home.isNone && o.pkg == s.hub.pkgid &&
  (o.tas.head?.bind fun t => if o.ap then s.exported t false else some t).map (· / 2 ^ 36) == some k

/-- The entries of a directory and how many it can hold (R167): 0 to 3 the die directories, from 4 the package homes by stack. -/
def State.directory (s : State) (d : Fin 12) : List DirEntry × Nat :=
  if d.val < 4 then ((s.die d).dir, 131072) else (s.hub.homes.filter fun e => s.homedIn (d.val - 4) e.obj, 262144)

/-- Whether a directory tracks an object or has an entry free for it; a request waits until a recall has freed one (R167). -/
def State.hasRoom (s : State) (l : Option Nat) (o : WObj) : Bool :=
  (s.dirAt l).any (·.obj == o) ||
  match l with
  | some d => (s.die d).dir.length < 131072
  | none => (List.finRange 12).all fun k => k.val < 4 || !s.homedIn (k.val - 4) o || (s.directory k).1.length < 262144

/-- The fatal context error of an export failure, logged (R207). -/
def State.exportFault (s : State) (x ba ta : Nat) : State :=
  (s.logged (.exportMiss s.hub.pkgid (locOf x) ba ta)).fatalCtx x

/-- The bundle address of the access that asked for a context's copy of an object (R207). -/
def State.copyBa (s : State) (x : Nat) (o : WObj) : Nat := (s.copyObj x o).elim 0 (·.ba)

/-- A request that its home refuses or cannot answer: the requester no longer waits for the copy. -/
def State.unask (s : State) (o : WObj) (x : Nat) : State :=
  let t := match s.copyObj x o with
    | some c => s.setCopy { c with st := .I }
    | none => s
  let e := t.dirEntry (some (dieOf x)) o
  t.setEntry (some (dieOf x)) { e with up := e.up.erase x }

/-- A request that the export table of its home refuses (R167, R207): it has no effect, and its requester takes the fatal context
error. -/
def State.homeRefuses (s : State) (o : WObj) (x : Nat) : State := (s.unask o x).exportFault x (s.copyBa x o) (o.tas.headD 0)

/-- Whether an object's memory cannot be read at its home in this package, and no holder answers for it (R167). -/
def State.unbacked (s : State) (o : WObj) : Bool :=
  o.ap && o.pkg == s.hub.pkgid && (s.dirEntry o.homeLvl o).owner.isNone && (s.objAddrs o false).isNone

/-- The lines of an object's memory brought to their point of coherence for a context (R175): its plain accesses before and after
those of the window meet there. -/
def State.enterObj (s : State) (x : Nat) (as : List Nat) : State :=
  (as.map (· / 128)).eraseDups.foldl (fun s n => s.enter x .memory n) s

/-- An object's bytes written at its home (R166, R167): into memory, through the export table, or by write packets to a home
package of another number. -/
def State.homeWrite (s : State) (x : Nat) (o : WObj) (bs : List Byte) : State :=
  if o.pkg = s.hub.pkgid then
    match s.objAddrs o true with
    | some as => (s.enterObj x as).memWrite (as.zip bs)
    | none => s.exportFault x (s.copyBa x o) (o.tas.headD 0)
  else
    (List.range (o.size / min 2048 o.size)).foldl (fun s i =>
      let n := min 2048 o.size
      let ta := o.tas.getD (n * i / 4096) 0 + n * i % 4096
      (s.request x o.pkg 0 .write ta n (flitsOf ((bs.drop (n * i)).take n)) .home (s.copyBa x o)).1) s

/-- A read of an object's next bytes at a home package of another number. -/
def State.homeFetch (s : State) (x : Nat) (o : WObj) (own : Bool) (got : Nat) : State :=
  let n := min 2048 o.size
  (s.request x o.pkg 0 .read (o.tas.getD (got / 4096) 0 + got % 4096) n [] (.winRead o x own) (s.copyBa x o)).1

/-- Whether the memory of an object of this package lies beyond its stack's capacity (R301). -/
def State.beyond (s : State) (o : WObj) : Bool :=
  o.pkg == s.hub.pkgid && match s.objAddrs o false with | some as => !as.all s.inStack | none => false

/-- Whether a byte of memory lies within its stack's capacity (R301). -/
def State.locInStack (s : State) (l : Loc) : Bool :=
  match l with
  | .mem pa => s.inStack pa
  | .win _ _ _ o => !s.beyond o
  | _ => true

/-- The poisoned byte of an object's memory that its home would read (R300): none where a holder answers for it. -/
def State.homePoison (s : State) (o : WObj) : Option Nat :=
  if o.pkg == s.hub.pkgid && (s.dirEntry o.homeLvl o).owner.isNone then
    (s.objAddrs o false).bind fun as => as.find? fun a => s.poison.contains (a / 128)
  else none

/-- A read of poisoned memory at the home (R300): the requester takes the fatal context error. -/
def State.homePoisoned (s : State) (o : WObj) (x pa : Nat) : State := ((s.unask o x).logged (.poison pa)).fatalCtx x

/-! ### The home's answers (R169) -/

/-- The home's data for a requester (R169): with the acknowledgements to expect. -/
def State.supply (s : State) (o : WObj) (x : Nat) (bs : List Byte) (acks : Nat) (excl : Bool) : State :=
  s.wsend ⟨.data, o, x, x, some bs, acks, true, excl, .core⟩

/-- The number of acknowledgements told to a requester that has its data from elsewhere. -/
def State.tellAcks (s : State) (o : WObj) (x acks : Nat) : State := s.wsend ⟨.data, o, x, x, none, acks, true, true, .core⟩

/-- An object of this package supplied from memory: t is the state in which its directories know of the request; where the memory
cannot be read the request has no effect. -/
def State.fromMemory (s t : State) (o : WObj) (x acks : Nat) (excl : Bool) : State :=
  match s.objAddrs o false with
  | none => s.homeRefuses o x
  | some as =>
    match as.find? fun a => s.poison.contains (a / 128) with
    | some a => s.homePoisoned o x a
    | none =>
      let t := t.enterObj x as
      t.supply o x (as.map (Memory.read t.mem)) acks excl

/-- The directory of a requester's die learns that the package home has ordered its read (R391). -/
def State.joinDie (s : State) (o : WObj) (x : Nat) (excl : Bool) : State :=
  if o.home.isSome then s
  else
    let l := some (dieOf x)
    let e := (s.dirEntry l o).join x
    s.setEntry l { e with owner := if excl then some x else e.owner, excl := e.excl || excl, up := e.up.erase x }

/-- A read in its turn at an object's home (R169, R391): a holder that may be the owner supplies the data; else memory does, and the
requester enters E where there is no other holder, S where there are some. -/
def State.homeRead (s : State) (o : WObj) (x : Nat) : State :=
  let l := o.homeLvl
  let h := o.holder x
  let e := s.dirEntry l o
  match e.owner.filter fun g => !(o.home.isSome && g == x) with
  | some g =>
    ((s.setEntry l (e.join h)).joinDie o x false).wsend
      (if o.home.isSome then ⟨.fwdRead, o, g, x, none, 0, true, false, .core⟩
        else ⟨.fwdRead, o, dieCtx g, x, none, 0, true, false, .pkg⟩)
  | none =>
    let excl := e.sharers.all (· == x) && o.home.isSome || e.sharers.isEmpty
    let e' := { e.join h with owner := if excl then some h else none }
    if o.pkg = s.hub.pkgid then s.fromMemory ((s.setEntry l e').joinDie o x excl) o x 0 excl
    else ((s.setEntry l { e' with busy := true, buf := [] }).joinDie o x excl).homeFetch x o false 0

/-- A writer's claim on the other holders of its die (R169, R391): invalidations, and the request forwarded to the owner among them. The
state, the acknowledgements to expect, whether the data comes from a core. -/
def State.claimDie (s : State) (o : WObj) (x : Nat) : State × Nat × Bool :=
  let l := some (dieOf x)
  let e := s.dirEntry l o
  let others := e.sharers.filter (· != x)
  let inv := others.filter fun h => e.owner != some h
  let fwd := (e.owner.filter (· != x)).toList
  let t := s.setEntry l { e with sharers := [x], owner := some x, excl := true, busy := true, buf := [], up := e.up.erase x }
  let t := inv.foldl (fun s h => s.wsend ⟨.inv, o, h, x, none, 0, true, false, .core⟩) t
  let t := fwd.foldl (fun s h => s.wsend ⟨.fwdOwn, o, h, x, none, 0, true, false, .core⟩) t
  (t, inv.length + fwd.length, e.sharers.contains x || !fwd.isEmpty)

/-- The answer to a claim: the acknowledgements to expect, with the data from memory where no core has it. -/
def State.answerClaim (s t : State) (o : WObj) (x acks : Nat) (has : Bool) : State :=
  if has then t.tellAcks o x acks
  else if o.pkg = s.hub.pkgid then s.fromMemory t o x acks true
  else (t.tellAcks o x acks).homeFetch x o true 0

/-- A read for ownership or an upgrade that a die directory settles (R169, R391). -/
def State.dieOwn (s : State) (o : WObj) (x : Nat) : State :=
  let r := s.claimDie o x
  s.answerClaim r.1 o x r.2.1 r.2.2

/-- A read for ownership or an upgrade in its turn at the package home (R169, R391): the other dies are invalidated, the one that owns
the object is to send it; the count of acknowledgements includes those of the holders on the requester's die. -/
def State.packageOwn (s : State) (o : WObj) (x : Nat) : State :=
  let d := dieOf x
  let e := s.dirEntry none o
  let others := e.sharers.filter (· != d)
  let r := s.claimDie o x
  let t := r.1.setEntry none { e with sharers := [d], owner := some d, busy := true, buf := [] }
  let t := others.foldl (fun s g =>
    s.wsend ⟨if e.owner == some g then .fwdOwn else .inv, o, dieCtx g, x, none, 0, true, false, .pkg⟩) t
  s.answerClaim t o x (r.2.1 + others.length) (r.2.2 || others.any fun g => e.owner == some g)

/-- A request that a die directory passes to the package home (R391). -/
def State.passUp (s : State) (o : WObj) (x : Nat) (own : Bool) : State :=
  let l := some (dieOf x)
  let e := s.dirEntry l o
  (s.setEntry l { e with up := e.up ++ [x] }).wsend
    ⟨if !own then .read else if e.sharers.contains x then .upgrade else .rfo, o, x, x, none, 0, false, false, .pkg⟩

/-- A request in its turn at a directory (R169, R391): 'none' is the package home. A die directory that is not the object's home settles a
read while a core of its die holds the object in M, E or O, a claim while its die holds it in M or E, and passes every other up. -/
def State.serve (s : State) (l : Option Nat) (o : WObj) (x : Nat) (own : Bool) : State :=
  match l with
  | none => if own then s.packageOwn o x else s.homeRead o x
  | some _ =>
    let e := s.dirEntry l o
    if o.home.isSome then (if own then s.dieOwn o x else s.homeRead o x)
    else if own then (if e.excl then s.dieOwn o x else s.passUp o x true)
    else
      match e.owner.filter (· != x) with
      | some g => (s.setEntry l (e.join x)).wsend ⟨.fwdRead, o, g, x, none, 0, true, false, .core⟩
      | none => s.passUp o x false

/-- A request that arrives at a directory: served, or queued behind the one in progress (R169). -/
def State.homeArrive (s : State) (l : Option Nat) (o : WObj) (x : Nat) (own : Bool) : State :=
  let e := s.dirEntry l o
  if e.busy then s.setEntry l { e with queue := e.queue ++ [(x, own)] } else s.serve l o x own

/-- The object is no longer busy: queued requests are served in order until one makes it busy again (R169). -/
def State.homeNext (s : State) (l : Option Nat) (o : WObj) : Nat → State
  | 0 => s
  | n + 1 =>
    let e := s.dirEntry l o
    if e.busy then s
    else
      match e.queue with
      | [] => s
      | (x, own) :: q => ((s.setEntry l { e with queue := q }).serve l o x own).homeNext l o n

/-- A directory ends the request in progress. -/
def State.homeFree (s : State) (l : Option Nat) (o : WObj) : State :=
  let e := s.dirEntry l o
  (s.setEntry l { e with busy := false, buf := [] }).homeNext l o (e.queue.length + 1)

/-- A requester that has entered M tells the directory of its die; where the package home has ordered its claim that one tells the home
(R169). -/
def State.notBusy (s : State) (l : WLevel) (o : WObj) (x : Nat) : State :=
  match l with
  | .pkg => s.homeFree none o
  | _ =>
    let t := s.homeFree (some (dieOf x)) o
    let e := s.dirEntry none o
    if o.home.isNone && e.busy && e.owner == some (dieOf x) then t.wsend ⟨.notBusy, o, x, x, none, 0, false, false, .pkg⟩ else t

/-- Bytes of an object that a home package of another number answered: the next piece, or the data for the requester. -/
def State.homeBytes (s : State) (o : WObj) (x : Nat) (own : Bool) (bs : List Byte) : State :=
  let l := o.homeLvl
  let e := s.dirEntry l o
  let buf := e.buf ++ bs
  if buf.length < o.size then (s.setEntry l { e with buf := buf }).homeFetch x o own buf.length
  else if own then (s.setEntry l { e with buf := [] }).wsend ⟨.data, o, x, x, some buf, 0, false, true, .core⟩
  else (s.supply o x buf 0 (e.owner == some (o.holder x))).homeFree l o

/-! ### A die directory as the package home's holder (R167, R169, R391) -/

/-- A die no longer owns an object in the eyes of the package home: its memory is current, or its holders are all in S. -/
def State.disown (s : State) (o : WObj) (d : Nat) : State :=
  let e := s.dirEntry none o
  if o.home.isNone && e.owner == some d then s.setEntry none { e with owner := none } else s

/-- A read that the package home forwards to a die (R169): to the owner among its cores, else to one in S; where the last copy has been
written back meanwhile, memory supplies it. -/
def State.dieForward (s : State) (o : WObj) (d req : Nat) : State :=
  let l := some d
  let e := s.dirEntry l o
  let t := s.setEntry l { e with excl := false }
  match e.owner with
  | some h => t.wsend ⟨.fwdRead, o, h, req, none, 0, true, false, .core⟩
  | none =>
    let t := t.disown o d
    match e.sharers.find? (· != req) with
    | some h => t.wsend ⟨.fwdRead, o, h, req, none, 0, true, false, .core⟩
    | none => t.fromMemory t o req 0 false

/-- The holders of a die have acknowledged another die's claim (R391): the owner among them is to send the data with the die's
acknowledgement; without one the directory sends it, with the data from memory where the die owes it. -/
def State.collected (s : State) (o : WObj) (d : Nat) : State :=
  let l := some d
  let e := s.dirEntry l o
  match e.coll with
  | some (req, 0, owes) =>
    let t := s.setEntry l { e with coll := none, sharers := [], owner := none }
    match e.owner with
    | some h => t.wsend ⟨.fwdOwn, o, h, req, none, 0, true, false, .core⟩
    | none =>
      let u := t.wsend ⟨.ack, o, req, req, none, 1, false, false, .core⟩
      if !owes then u
      else if o.pkg != s.hub.pkgid then u.homeFetch req o true 0
      else
        let v := t.fromMemory u o req 0 true
        if (v.copyObj req o).isNone then v.notBusy .core o req else v
  | _ => s

/-- Another die's claim at a die directory (R391): its holders but the owner are invalidated; their acknowledgements come to it. -/
def State.dieYield (s : State) (o : WObj) (d req : Nat) (owes : Bool) : State :=
  let l := some d
  let e := s.dirEntry l o
  let inv := e.sharers.filter fun h => e.owner != some h
  let t := s.setEntry l { e with sharers := e.owner.toList, excl := false, coll := some (req, inv.length, owes) }
  (inv.foldl (fun s h => s.wsend ⟨.inv, o, h, req, none, 0, true, false, .die⟩) t).collected o d

/-- An acknowledgement that a die directory collects. -/
def State.collect (s : State) (o : WObj) (d : Nat) : State :=
  let e := s.dirEntry (some d) o
  match e.coll with
  | some (req, n, owes) => (s.setEntry (some d) { e with coll := some (req, n - 1, owes) }).collected o d
  | none => s

/-- A context is no longer a holder (R166, R168): in its die's directory, and its die at the package home when it was the last, or the
owner. A claim of its own in progress stands. -/
def State.leaveDir (s : State) (o : WObj) (x : Nat) : State :=
  let l := some (dieOf x)
  let e := s.dirEntry l o
  let owner := e.owner == some x && !e.busy
  let rest := e.sharers.filter (· != x)
  let t := s.setEntry l { e with
    sharers := rest, owner := if owner then none else e.owner, excl := e.excl && !owner && !rest.isEmpty }
  let t := if owner || rest.isEmpty && !e.busy then t.disown o (dieOf x) else t
  if o.home.isNone && rest.isEmpty && !e.busy then
    let h := t.dirEntry none o
    t.setEntry none { h with sharers := if h.busy && h.owner == some (dieOf x) then h.sharers else h.sharers.filter (· != dieOf x) }
  else t

/-! ### A copy's progress -/

/-- A writer's copy enters M, and the directory is told (R169). -/
def State.enterM (s : State) (c : WCopy) : State :=
  (s.setCopy { c with st := .M }).wsend ⟨.notBusy, c.obj, c.ctx, c.ctx, none, 0, false, false, .core⟩

/-- A copy that has its data and every acknowledgement (R168, R169): a reader enters E or S; a writer enters M and tells the
home. -/
def State.settleCopy (s : State) (c : WCopy) (excl : Bool) : State :=
  match c.st with
  | .IS => if c.data then s.setCopy { c with st := if excl then .E else .S } else s.setCopy c
  | .IM => if c.told && c.acks == 0 && c.data then s.enterM c else s.setCopy c
  | .SM => if c.told && c.acks == 0 then s.enterM c else s.setCopy c
  | .OM => if c.told && c.acks == 0 then s.enterM c else s.setCopy c
  | _ => s.setCopy c

/-- Data for a requester (R168, R169); what a home sends without data tells the number of acknowledgements. -/
def State.takeData (s : State) (m : WMsg) : State :=
  match s.copyObj m.x m.obj with
  | none => s
  | some c =>
    let s := match m.data with | some bs => s.fillCopy c bs | none => s
    let c := { c with
      data := c.data || m.data.isSome
      acks := c.acks + (if m.fromHome then (m.acks : Int) else -(m.acks : Int))
      told := c.told || m.fromHome }
    s.settleCopy c m.excl

/-- An acknowledgement for a requester (R169). -/
def State.takeAck (s : State) (m : WMsg) : State :=
  match s.copyObj m.x m.obj with
  | none => s
  | some c => s.settleCopy { c with acks := c.acks - 1 } true

/-- A clean copy given up to another's write (R168): data that has come and has not yet served the access that asked for it serves
that access once. -/
def State.yieldCopy (s : State) (c : WCopy) : State := s.setCopy { c with st := if s.readHeld c then .ISI else .I }

/-- Whether a message for a copy waits at the edge of a frozen pair (R269); one for a copy that is being given back is answered. -/
def State.atEdge (s : State) (m : WMsg) : Bool :=
  (s.pair (pairOf m.x)).frozen.isSome && match s.copyObj m.x m.obj with
    | some c => (match c.st with | .MI => false | .OI => false | .EI => false | .SI => false | _ => true)
    | none => false

/-- An invalidation at a holder (R168): acknowledged to the requester, or to the die directory that collects for one. -/
def State.invalidateCopy (s : State) (m : WMsg) : State :=
  let t := match s.copyObj m.x m.obj with
    | none => s
    | some c =>
      match c.st with
      | .S => s.yieldCopy c
      | .IS => s.setCopy { c with st := .ISI }
      | .SM => s.setCopy { c with st := .IM, data := false }
      | .OM => s.setCopy { c with st := .IM, data := false }
      | .E => s.yieldCopy c
      | .O => s.setCopy { c with st := .I }
      | .M => s.setCopy { c with st := .I }
      | _ => s
  t.wsend (if m.lvl = .die then ⟨.ack, m.obj, m.x, m.req, none, 1, false, false, .die⟩
    else ⟨.ack, m.obj, m.req, m.req, none, 1, false, false, .core⟩)

/-- An invalidation that arrives (R168, R391): none where it waits. -/
def State.takeInv (s : State) (m : WMsg) : Option State :=
  if m.lvl = .pkg then some (s.dieYield m.obj (dieOf m.x) m.req false)
  else if s.atEdge m then none
  else some (s.invalidateCopy m)

/-- Whether a write that asked for a copy in M is still to be made (R168): a store's, or that of a copy engine's command in work. -/
def State.writeHeld? (s : State) (c : WCopy) : Bool :=
  let k := s.core (coreOf c.ctx)
  c.st == .M && c.want && (s.pair (pairOf c.ctx)).frozen.isNone &&
  ((s.ctx c.ctx).needs c.obj true || (k.c0.head?.toList ++ k.c1.head?.toList).any fun j => j.ctx == c.ctx && j.phase == .running)

/-- A forwarded read has found its holder in E, which is now in S (R169): no holder of its die owns the object. -/
def State.noOwner (s : State) (m : WMsg) : State :=
  let d := dieOf m.x
  let e := s.dirEntry (some d) m.obj
  let t := if e.owner == some m.x then s.setEntry (some d) { e with owner := none } else s
  if dieOf m.req = d then t else t.disown m.obj d

/-- A forwarded request that arrives (R168, R169, R391): at a die directory, which passes it on; or at a holder that can serve it. None
where it is held: until the data has come, until a write that waited for the copy is made, at the edge of a frozen pair. -/
def State.takeForward (s : State) (m : WMsg) : Option State :=
  if m.lvl = .pkg then
    some (if m.kind = .fwdOwn then s.dieYield m.obj (dieOf m.x) m.req true else s.dieForward m.obj (dieOf m.x) m.req)
  else
  match s.copyObj m.x m.obj with
  | none => none
  | some c =>
    if !c.holdsData || s.writeHeld? c || s.atEdge m then none
    else
      let bs := s.copyBytes c
      if m.kind = .fwdOwn then
        let t := match c.st with
          | .SM => s.setCopy { c with st := .IM, data := false }
          | .OM => s.setCopy { c with st := .IM, data := false }
          | .MI => s | .OI => s | .EI => s | .SI => s
          | .E => s.yieldCopy c
          | _ => s.setCopy { c with st := .I }
        some (t.wsend ⟨.data, m.obj, m.req, m.req, some bs, 1, false, true, .core⟩)
      else
        let t := match c.st with
          | .M => s.setCopy { c with st := .O }
          | .E => (s.setCopy { c with st := .S }).noOwner m
          | _ => s
        some (t.wsend ⟨.data, m.obj, m.req, m.req, some bs, 0, false, false, .core⟩)

/-- A write-back or an eviction's notice at the home (R166, R168), by the directory of the holder's die: the bytes go to memory while
the holder is the owner there; the home acknowledges. -/
def State.takeWriteBack (s : State) (m : WMsg) : State :=
  let e := s.dirEntry (some (dieOf m.x)) m.obj
  let t := match m.data with
    | some bs => if e.owner = some m.x then s.homeWrite m.x m.obj bs else s
    | none => s
  (t.leaveDir m.obj m.x).wsend ⟨.homeAck, m.obj, m.x, m.x, none, 0, true, false, .core⟩

/-- The home's acknowledgement (R166, R168): the copy is gone. -/
def State.takeHomeAck (s : State) (m : WMsg) : State :=
  match s.copyObj m.x m.obj with
  | none => s
  | some c =>
    match c.st with
    | .MI => s.setCopy { c with st := .I }
    | .OI => s.setCopy { c with st := .I }
    | .EI => s.setCopy { c with st := .I }
    | .SI => s.setCopy { c with st := .I }
    | _ => s

/-! ### The network's steps -/

/-- Whether a message comes to its object's home. -/
def WKind.toHome : WKind → Bool
  | .read => true | .rfo => true | .upgrade => true | .notBusy => true | .wback => true
  | _ => false

/-- Whether a message is an answer: it is of the other class of traffic than a request (R230, R234). -/
def WKind.answers : WKind → Bool
  | .data => true | .ack => true | .notBusy => true | .homeAck => true
  | _ => false

/-- Whether a message goes up: from a core to its die directory, or from there to the package home. -/
def WMsg.goesUp (m : WMsg) : Bool := m.kind.toHome || m.lvl == .die && m.kind == .ack

/-- The edge that a message travels by (R230): a pair's, or that between a die and the package homes; outwards or inwards. -/
def WMsg.edge (m : WMsg) : Bool × Nat × Bool := (m.lvl == .pkg, if m.lvl == .pkg then dieOf m.x else pairOf m.x, m.goesUp)

/-- Whether a message keeps its place behind an earlier one: of its class on its edge (R230), or about its object to the same
context. -/
def WMsg.behind (m f : WMsg) : Bool :=
  (f.edge == m.edge && f.kind.answers == m.kind.answers) || (f.obj == m.obj && f.x == m.x && f.lvl == m.lvl && f.goesUp == m.goesUp)

/-- The n-th message, if it is of a kind and may arrive before those sent earlier. -/
def State.wmsg (s : State) (n : Nat) (ks : List WKind) : Option WMsg :=
  match s.hub.wnet[n]? with
  | none => none
  | some m => if ks.contains m.kind && !(s.hub.wnet.take n).any m.behind then some m else none

/-- The state without the n-th message. -/
def State.wtake (s : State) (n : Nat) : State := { s with hub := { s.hub with wnet := s.hub.wnet.eraseIdx n } }

/-- The arrival of the n-th message if it can arrive now. -/
def wstep (ks : List WKind) (f : State → WMsg → State) (n : Nat) (s : State) : Host.Outcome State Fault Refusal :=
  .next (match s.wmsg n ks with | some m => f (s.wtake n) m | none => s)

/-- The directory that a request comes to: that of its die, or the package home. -/
def WMsg.dirLvl (m : WMsg) : Option Nat := if m.lvl = .pkg then none else some (dieOf m.x)

/-- A request that comes to a directory (R167, R169): it waits while the directory has no entry for its object. -/
def requestStep (k : WKind) (own : Bool) (n : Nat) (s : State) : Host.Outcome State Fault Refusal :=
  wstep [k] (fun t m => if s.hasRoom m.dirLvl m.obj then t.homeArrive m.dirLvl m.obj m.x own else s) n s

/-- WINDOW_READ (R169). -/
def execWindowRead (n : Nat) (s : State) : Host.Outcome State Fault Refusal := requestStep .read false n s

/-- WINDOW_READ_FOR_OWNERSHIP (R169). -/
def execWindowReadForOwnership (n : Nat) (s : State) : Host.Outcome State Fault Refusal := requestStep .rfo true n s

/-- WINDOW_UPGRADE (R169). -/
def execWindowUpgrade (n : Nat) (s : State) : Host.Outcome State Fault Refusal := requestStep .upgrade true n s

/-- WINDOW_FORWARDED_REQUEST (R168): held while the holder's copy cannot serve it. -/
def execWindowForwardedRequest (n : Nat) (s : State) : Host.Outcome State Fault Refusal :=
  wstep [.fwdRead, .fwdOwn] (fun t m => (t.takeForward m).getD s) n s

/-- WINDOW_INVALIDATION (R168, R391). -/
def execWindowInvalidation (n : Nat) (s : State) : Host.Outcome State Fault Refusal :=
  wstep [.inv] (fun t m => (t.takeInv m).getD s) n s

/-- WINDOW_ACKNOWLEDGEMENT (R169, R391). -/
def execWindowAcknowledgement (n : Nat) (s : State) : Host.Outcome State Fault Refusal :=
  wstep [.ack] (fun t m => if m.lvl = .die then t.collect m.obj (dieOf m.x) else t.takeAck m) n s

/-- WINDOW_DATA (R168). -/
def execWindowData (n : Nat) (s : State) : Host.Outcome State Fault Refusal := wstep [.data] State.takeData n s

/-- WINDOW_NOT_BUSY (R169). -/
def execWindowNotBusy (n : Nat) (s : State) : Host.Outcome State Fault Refusal :=
  wstep [.notBusy] (fun s m => s.notBusy m.lvl m.obj m.x) n s

/-- WINDOW_WRITEBACK (R168). -/
def execWindowWriteback (n : Nat) (s : State) : Host.Outcome State Fault Refusal := wstep [.wback] State.takeWriteBack n s

/-- WINDOW_HOME_ACK (R166). -/
def execWindowHomeAck (n : Nat) (s : State) : Host.Outcome State Fault Refusal := wstep [.homeAck] State.takeHomeAck n s

/-- The entry used least recently. -/
def oldestEntry : List DirEntry → Option DirEntry
  | [] => none
  | e :: es => match oldestEntry es with
    | some f => some (if f.used < e.used then f else e)
    | none => some e

/-- Copies of an object that some contexts hold given up to a recall (R167): those in M and O are written back. -/
def State.recallCopies (s : State) (o : WObj) (xs : List Nat) : State :=
  xs.foldl (fun s x =>
    let t := match s.copyObj x o with
      | none => s
      | some c =>
        let s := if c.st = WState.M || c.st = WState.O then s.homeWrite x o (s.copyBytes c) else s
        s.setCopy { c with st := .I }
    t.leaveDir o x) s

/-- The contexts of some dies that hold an object. -/
def State.holdersOn (s : State) (o : WObj) (ds : List Nat) : List Nat := ds.flatMap fun d => (s.dirEntry (some d) o).sharers

/-- Whether a die directory has nothing of an object in work, and no copy of it is in a transient state. -/
def State.restsOn (s : State) (o : WObj) (d : Nat) : Bool :=
  let e := s.dirEntry (some d) o
  !e.busy && e.up.isEmpty && e.coll.isNone && e.sharers.all fun x => match s.copyObj x o with | some c => !c.transient | none => true

/-- Whether an object may be recalled now: no request for it is in work at either level, and no message about it is on its way. -/
def State.mayRecall (s : State) (e : DirEntry) : Bool :=
  !e.busy && (List.range 4).all (s.restsOn e.obj) && s.hub.wnet.all (·.obj != e.obj)

/-- DIRECTORY_RECALL (R167): a directory whose entries are full recalls its least recently used object that is not busy, by
invalidating every copy that it tracks, with write-back from M and O. -/
def execDirectoryRecall (d : Fin 12) (s : State) : Host.Outcome State Fault Refusal :=
  .next (
    let dir := s.directory d
    if dir.1.length < dir.2 then s
    else
      match oldestEntry (dir.1.filter s.mayRecall) with
      | none => s
      | some e => s.recallCopies e.obj (s.holdersOn e.obj (if d.val < 4 then [d.val] else e.sharers)))

/-! ### Declaring and dropping -/

/-- The launch whose members share a multicast window; the communication kernel's contexts share theirs. -/
def Ctx.launchKey (c : Ctx) : Nat :=
  match c.occ with
  | .worker l _ => l + 1
  | _ => 0

/-- A context's declaration of another's multicast window (R163), whether or not it has taken effect yet. -/
def State.mcMember (s : State) (x : Nat) (wn : Nat) (d key : Nat) : Option Win :=
  let c := s.ctx x
  if dieOf x = d ∧ c.launchKey = key then (Map.find c.wins wn).filter (·.mcast) else none

/-- The descriptor of WDECL in range (R164). -/
def winDescOk (e : Nat) : Bool :=
  field e 63 31 == 0 && 1 ≤ field e 30 22 && 1 ≤ field e 12 10 && field e 12 10 ≤ 4 &&
  (field e 9 7 == 0 || field e 9 7 == 2) && field e 6 4 == 0 && field e 3 0 < 8

/-- Whether two ranges overlap. -/
def overlap (a n b m : Nat) : Bool := a < b + m && b < a + n

/-- The checks of WDECL (R163, R164). -/
def winOk (s : State) (wn : Fin 16) (a b e : Nat) : Bool :=
  let c := s.me
  let size := 2 ^ (field e 3 0 + 7)
  let mcast := field e 9 7 == 2
  let lclen := 4096 * field e 30 22
  let lc := 4096 * (c.spbase.toNat + field e 21 13)
  winDescOk e && (Map.find c.wins wn.val).isNone && a % size == 0 && b % size == 0 && b != 0 && b ≤ 2 ^ 40 &&
  c.wins.all (fun p => !overlap a b p.2.base p.2.len && !overlap lc lclen p.2.lc p.2.lclen) &&
  field e 21 13 + field e 30 22 ≤ c.splim.toNat && size ≤ lclen &&
  (!mcast || (inAperture a && field e 12 10 == 2 &&
    s.ctxs.all fun p => match s.mcMember p.1 wn.val (dieOf s.cur) c.launchKey with
      | some w => w.len == b
      | none => true))

/-- The window of WDECL's operands. -/
def winOf (c : Ctx) (a b e : Word) : Win :=
  let n := e.toNat
  ⟨a.toNat, b.toNat, 2 ^ (field n 3 0 + 7), (Scope.ofCode (field n 12 10)).getD .die,
    4096 * (c.spbase.toNat + field n 21 13), 4096 * field n 30 22, field n 9 7 == 2, (a, b, e), false, false, 0⟩

/-- WDECL (R164, R386): the window takes effect at the end of the issue cycle. -/
def execWdecl (wn : Fin 16) (sa sb se : Fin 64) (s : State) : Host.Outcome State Fault Refusal :=
  slotDo s do
    let a ← rdS s sa
    let b ← rdS s sb
    let e ← rdS s se
    need (winOk s wn a.toNat b.toNat e.toNat) (windowFault a.toNat)
    let c := s.me
    .ok ((s.setMe { c with wins := Map.put c.wins wn.val (winOf c a b e) }).latch (.window wn) 1 0)

/-- WDROP (R166, R386): every slot of its bundle acts on the window as declared; the drop goes on when it has committed. -/
def execWdrop (wn : Fin 16) (s : State) : Host.Outcome State Fault Refusal :=
  slotDo s do
    let c := s.me
    match Map.find c.wins wn.val with
    | some w =>
      need (!w.dropping) (windowFault 0)
      .ok (s.setMe { c with wins := Map.put c.wins wn.val { w with dropping := true } })
    | none => .error (windowFault 0)

/-- Whether a memory operation uses a window. -/
def MemOp.usesWin (m : MemOp) (wn : Nat) : Bool :=
  m.locs.any fun l => match l with
    | .win n _ _ _ => n.val == wn
    | _ => false

/-- Whether a bundle of a context is under way, of which a trap may still split a later slot: its WDROP has not begun the drop (R386). -/
def Ctx.midBundle (c : Ctx) : Bool := c.iss.isSome || c.parked.iss.isSome

/-- Whether a context is dropping a window: it issues nothing until the home has acknowledged (R166, R386). -/
def Ctx.dropping (c : Ctx) : Bool := !c.midBundle && c.wins.any fun p => p.2.dropping

/-! ### Synchronisation and windows (R170, R185) -/

/-- Whether an acquire or release acts on a window: a copy of it is held, or an access to it is outstanding (R170). -/
def State.actsOn (s : State) (x wn : Nat) : Bool :=
  ((s.core (coreOf x)).wcopy.any fun c => c.ctx == x && c.wn.val == wn) || (s.ctx x).mops.any (·.usesWin wn)

/-- Whether a synchronisation at a scope is wider than a window that it acts on (R170). -/
def State.tooWide (s : State) (x : Nat) (sc : Scope) : Bool :=
  (s.ctx x).wins.any fun p => !p.2.mcast && p.2.maxsc.code < sc.code && s.actsOn x p.1

/-- Whether a context has a copy in a transient state (R170). -/
def State.transient? (s : State) (x : Nat) : Bool :=
  (s.core (coreOf x)).wcopy.any fun c => c.ctx == x && c.transient

end Sys2Proof.Machine
end

