-- ==== Sys2Proof/Machine/Mem.lean ====
section
/-! DEFINITION. Memory accesses of a context: scratchpad accesses at issue (R155, R157, R163), the operations in flight of
every other access (R156, R172 to R177), their performance, landing and end; LD, ST, ACAS, ATOM (R309 to R315, R344 to
R346, R364), FLUSH, INVAL, ZLINE (R152). -/

namespace Sys2Proof.Machine

/-! ### Scratchpad banks (R157) -/

/-- The banks of scratchpad bytes (R157). -/
def bankMask (offs : List Nat) : BitVec 32 := offs.foldl (fun m o => m ||| (1 <<< (o / 256 % 32))) 0

/-- The banks held by the engine commands and the fills of a core (R157). -/
def State.engineBanks (s : State) (core : Nat) : BitVec 32 :=
  let k := s.core core
  let cmds := (k.c0 ++ k.c1).foldl (fun m c => m ||| c.banks) 0
  (s.pair (core / 2)).oslot.foldl (fun m p => match p.2.fill with
    | some f => if f.core = core then m ||| f.banks else m
    | none => m) cmds

/-- The banks held by the drains of a context (R127). -/
def Ctx.drainBanks (c : Ctx) : BitVec 32 := c.drains.foldl (fun m d => m ||| d.banks) 0

/-- The banks held by the engine commands, fills and drains of a core (R157). -/
def State.heldBanks (s : State) (core : Nat) : BitVec 32 :=
  s.engineBanks core ||| (s.ctx (2 * core)).drainBanks ||| (s.ctx (2 * core + 1)).drainBanks

/-- The banks that nothing but drains of a context itself holds: a hold on them is no freeze, or its drains would never end
(log entry 24). -/
def State.ownBanks (s : State) (x : Nat) : BitVec 32 :=
  (s.ctx x).drainBanks &&& ~~~(s.engineBanks (coreOf x) ||| (s.ctx (if x % 2 = 0 then x + 1 else x - 1)).drainBanks)

/-- Banks that a bundle needs (R157, R21): it is held while a command that was in flight when it was presented, or the
core's other bundle of this cycle, has one of them. -/
def takeBanks (s : State) (m : BitVec 32) : Slotwise Unit :=
  let held := match s.me.iss with
    | some i => i.held
    | none => s.heldBanks (coreOf s.cur)
  let hit := m &&& (held ||| s.myCore.cyc)
  need (hit == 0) (.hold (if hit &&& ~~~s.ownBanks s.cur == 0 then .drain else .bank) [])

/-- The scratchpad byte of a place in the local aperture: a multicast window's bytes stand in the local copy region. -/
def Ctx.spOf (c : Ctx) : Loc → Option Nat
  | .sp o => some o
  | .mc wn o => (Map.find c.wins wn.val).map fun w => w.mcByte o
  | _ => none

/-- Whether a posted block store of a context, of some, is still to write one of some scratchpad bytes, since its scale byte lies
elsewhere (log entry 32): a later access of the byte waits for it (R175), one of the same bundle at its slot. -/
def Ctx.owesSp (c : Ctx) (of : MemOp → Bool) (offs : List Nat) : Bool :=
  c.mops.any fun m => of m && m.isStore && !m.performed && m.locs.any fun l => match c.spOf l with
    | some o => offs.contains o
    | none => false

/-- Scratchpad bytes that an earlier posted block store is still to write are waited for. -/
def waitSp (s : State) (offs : List Nat) : Slotwise Unit := do
  need (!s.me.owesSp (fun m => m.born < s.clock) offs) (.hold .memory [])
  need (!s.me.owesSp (fun _ => true) offs) (.wait s)

/-- A bundle's use of scratchpad bytes for its cycle. -/
def useBanks (s : State) (offs : List Nat) : Slotwise State := do
  let m := bankMask offs
  waitSp s offs
  takeBanks s m
  let c := s.me
  match c.iss with
  | some i => .ok (s.setMe { c with iss := some { i with banks := i.banks ||| m } })
  | none => .ok s

/-- The scratchpad as a store that reads and rewrites a block finds it (R96): with the writes that land in this cycle. -/
def State.spNow (s : State) (x : Nat) : List Host.Cell :=
  (s.ctx x).lat.foldl (fun m l => match l.w with
    | .spad cs => Memory.writeAll m cs
    | _ => m) (s.core (coreOf x)).sp

/-! ### Elements -/

/-- Values of elements, with their scales, from the bytes read. -/
def elemValues : List ElemLoc → List Byte → List (Nat × Int)
  | [], _ => []
  | e :: es, bs =>
    let n := e.bytes.length
    let v := leNat (bs.take n)
    match e.scale with
    | none => (v, 0) :: elemValues es (bs.drop n)
    | some _ => (v, sextNat 8 (leNat ((bs.drop n).take 1))) :: elemValues es (bs.drop (n + 1))

/-- An element that a vector load brings from page format P to view format V (R380). -/
def cvtLoad (p v : Fmt) (rm : Rm) (w : Nat) (scale : Int) : Nat × Flags :=
  if p == v && !p.isTap then (w, 0)
  else
    let d := if p.isTap then decBlk p w scale else (p.viewVal w, 0)
    if v.isFp then
      let r := v.fp.rnd rm d.1
      (r.1, r.2 ||| d.2 ||| sigFlags [d.1])
    else if p.isInt then (elemOfInt v (satInt v (p.toInt w)), 0)
    else
      let r := toIntFmt v rm d.1
      (elemOfInt v r.1, r.2 ||| d.2)

/-- An element that a vector store brings from view format V to a page format P that is not tapered (R380). -/
def cvtStore (p v : Fmt) (rm : Rm) (w : Nat) : Nat × Flags :=
  if p == v then (w, 0)
  else
    let d := v.viewVal w
    if p.isFp then
      let r := p.fp.rnd rm d
      (r.1, r.2 ||| sigFlags [d])
    else if v.isFp then
      let r := toIntFmt p rm d
      (elemOfInt p r.1, r.2)
    else (elemOfInt p (satInt p (v.toInt w)), 0)

/-- What a load's values write, with the flags raised (R344, R380). -/
def LoadTo.write (d : LoadTo) (vs : List (Nat × Int)) : Write × Flags :=
  let v := (vs.headD (0, 0)).1
  match d with
  | .scalar ty b r => (.sreg b r (ty.base.extend v), 0)
  | .lout n => (.lout n (BitVec.ofNat 64 v), 0)
  | .row p f rm r =>
    let es := vs.map fun x => cvtLoad p f rm x.1 x.2
    (.row r fullMask (rowOf f (es.map (·.1))), Flags.all (es.map (·.2)))
  | .scales n is => (.scales n (is.zip (vs.map fun p => BitVec.ofNat 8 p.1)), 0)
  | .lit w => (w, 0)

/-- A block rewritten from its final contents (R95, R96): its old scale and words with the values that replace some of them;
the scale byte, the words, the flags. -/
def rewriteBlock (p : Fmt) (rm : Rm) (old : Int) (cells : List (Byte × Option (Val × Flags))) : Byte × List Byte × Flags :=
  let vals := cells.map fun c => match c.2 with
    | some v => v
    | none => decBlk p c.1.toNat old
  let s := chooseScale p (vals.map (·.1))
  let ws := vals.map fun x => encBlkElem p rm s x.1
  (BitVec.ofInt 8 s, ws.map fun w => BitVec.ofNat 8 w.1, Flags.all (ws.map (·.2) ++ vals.map (·.2)))

/-- A block rewritten with values of a view format. -/
def encBlock (p v : Fmt) (rm : Rm) (old : Int) (cells : List (Byte × Option Word)) : Byte × List Byte × Flags :=
  rewriteBlock p rm old (cells.map fun c => (c.1, c.2.map fun w => (v.viewVal w.toNat, 0)))

/-! ### Atomics (R310, R315) -/

/-- The new value of an atomic from the old bits and its operand, with the flags raised (R310, R315). -/
def atomNew (op : AtomOp) (f : Fmt) (old b : Nat) : Nat × Flags :=
  let w := f.memWidth
  let o := old % 2 ^ w
  let n := b % 2 ^ w
  match op with
  | .swap => (n, 0)
  | .and => (o &&& n, 0)
  | .or => (o ||| n, 0)
  | .xor => (o ^^^ n, 0)
  | .cas c => (if o = c.toNat % 2 ^ w then n else o, 0)
  | .add => if f.isFp then fpAdd f.fp .ne (f.fp.dec o) (f.fp.dec n) else ((o + n) % 2 ^ w, 0)
  | .max =>
    if f.isFp then
      let a := f.fp.dec o
      let c := f.fp.dec n
      ((f.fp.rnd .ne (fpSelect true a c)).1, sigFlags [a, c])
    else (if f.toInt o < f.toInt n then n else o, 0)
  | .min =>
    if f.isFp then
      let a := f.fp.dec o
      let c := f.fp.dec n
      ((f.fp.rnd .ne (fpSelect false a c)).1, sigFlags [a, c])
    else (if f.toInt n < f.toInt o then n else o, 0)

/-- The number of an atomic operation in ATOMCAP's OPS (R209). -/
def AtomOp.code : AtomOp → Nat
  | .add => 0 | .max => 1 | .min => 2 | .and => 3 | .or => 4 | .xor => 5 | .swap => 6 | .cas _ => 7

/-- The reason for which a package's ATOMCAP refuses an atomic, if it does (R209): 2 for the operation, 3 for the format. -/
def atomRefused (cap : Word) (op : AtomOp) (f : Fmt) : Option Nat :=
  if !cap.getLsbD op.code then some 2
  else if op.code < 3 && !cap.getLsbD (8 + f.code) then some 3
  else none

/-! ### Operations in flight -/

/-- An operation accepted (R156): held while 32 loads are pending or 64 stores are posted. -/
def pushOp (s : State) (m : MemOp) : Slotwise State := do
  let c := s.me
  need (!m.isLoad || (c.mops.filter (·.isLoad)).length < 32) (.hold .memory [])
  need (m.isLoad || (c.mops.filter (!·.isLoad)).length < 64) (.hold .memory [])
  .ok ((s.setMe { c with mops := c.mops ++ [m] }).placesUsed s.cur m.locs)

/-- An operation of the acting slot, accepted now. -/
def State.newOp (s : State) (k : MemKind) (sc : Option Scope) (a : Attr) (es : List ElemLoc) : MemOp :=
  ⟨k, sc, a, es, .waiting [], s.me.ba, s.slot, s.me.sup, s.clock⟩

/-- A multicast store on its way (R163), of bytes or of blocks: it lands in every member at the end of the eighth die cycle after this
one; the end of each die cycle, this one's among them, counts it down. -/
def State.mcastStore (s : State) (x : Nat) (wn : Fin 16) (cells : List (Nat × Byte)) (taps : List (Fmt × Fmt × Rm × TapBlock)) : State :=
  let d := s.die (dieOf x)
  s.setDie (dieOf x) { d with mcast := d.mcast ++ [⟨9, (s.ctx x).launchKey, wn, x, none, cells, none, taps⟩] }

/-- A byte that a store writes into the scratchpad of its own core. -/
def spCell (c : Loc × Byte) : Option (Nat × Byte) := match c.1 with | .sp o => some (o, c.2) | _ => none

/-- A byte that a store writes into the n-th window's multicast region. -/
def mcCell (n : Nat) (c : Loc × Byte) : Option (Nat × Byte) :=
  match c.1 with
  | .mc w o => if w.val = n then some (o, c.2) else none
  | _ => none

/-- Bytes that a store issues in the local aperture (R155, R163): the scratchpad takes them at the end of the cycle, a
multicast window's members eight die cycles later. -/
def State.storeLocal (s : State) (cells : List (Loc × Byte)) (fl : Flags) : State :=
  let sp := cells.filterMap spCell
  let s := if sp.isEmpty && fl == 0 then s else s.latch (.spad sp) 1 fl
  (List.range 16).foldl (fun s n =>
    let mine := cells.filterMap (mcCell n)
    if mine.isEmpty then s else s.mcastStore s.cur (Fin.ofNat 16 n) mine []) s

/-- A place whose byte, if it is one of the local aperture, has been read now (R155). -/
def State.readLoc (s : State) (l : Loc) : Loc :=
  match s.me.spOf l with
  | some o => .lit (Memory.read s.myCore.sp o)
  | none => l

/-- A load issued (R155, R156): from the local aperture at issue, with its exposed latency; else pending. Of one with bytes in both,
data in one and scale byte in the other (R93), the scratchpad's bytes are read at issue. -/
def issueLoad (s : State) (elems : List ElemLoc) (a : Attr) (sc : Option Scope) (d : LoadTo) (lat : Nat) : Slotwise State := do
  let c := s.me
  let locs := elems.flatMap ElemLoc.all
  match locs.mapM c.spOf with
  | some offs => do
    let t ← useBanks s offs
    let r := d.write (elemValues elems (offs.map (Memory.read s.myCore.sp)))
    .ok (t.latch r.1 lat r.2)
  | none => do
    let offs := locs.filterMap c.spOf
    let t ← if offs.isEmpty then .ok s else useBanks s offs
    pushOp t (s.newOp (.load d) sc a (elems.map fun e => ⟨e.bytes.map s.readLoc, e.scale.map s.readLoc⟩))

/-- A store issued (R155, R156): into the local aperture, or posted. `vals` are the bytes of the elements in order; `fl`
are flags ORed in the issue cycle. -/
def issueStore (s : State) (elems : List ElemLoc) (a : Attr) (sc : Option Scope) (vals : List Byte) (fl : Flags) :
    Slotwise State := do
  let c := s.me
  let locs := elems.flatMap ElemLoc.all
  match locs.mapM c.spOf with
  | some offs => do
    let t ← useBanks s offs
    .ok (t.storeLocal (locs.zip vals) fl)
  | none =>
    let s := if fl = 0 then s else s.latch .flags 1 fl
    pushOp s (s.newOp (.store vals) sc a elems)

/-! ### Checks of an access -/

/-- The attributes that an access's bytes share, or the attribute-split fault at the first byte that differs (R201). -/
def oneAttr (va : Word) (xs : List Xl) : Slotwise Attr :=
  match xs with
  | [] => .error (xlateFault 2 va.toNat false)
  | x :: rest =>
    match (List.range rest.length).find? fun i => !(rest[i]?.map (·.same x)).getD true with
    | some i => .error (xlateFault 6 (va.toNat + i + 1) false)
    | none => .ok x.attr

/-- The scope checks of an access (R170, R201, R311, R345): wider than a window's MAXSC; an aperture page at a scope other
than pod. -/
def scopeOk (c : Ctx) (va : Word) (sc : Option Scope) (x : Xl) : Slotwise Unit :=
  match x.loc, sc with
  | .win wn _ _ _, some k =>
    match Map.find c.wins wn.val with
    | some w => need (k.code ≤ w.maxsc.code) (windowFault va.toNat)
    | none => .ok ()
  | .peer _ _, some k => need (k == .pod) (xlateFault 7 va.toNat false)
  | _, _ => .ok ()

/-- A scalar access of a type at an address: aligned when scoped, translated, its scope allowed (R173, R201, R345, R346). -/
def scalarAccess (s : State) (acc : Acc) (ty : Ty) (sc : Option Scope) (va : Word) : Slotwise (ElemLoc × Attr) := do
  let nb := ty.base.memWidth / 8
  need (sc.isNone || va.toNat % nb == 0) (alignFault va.toNat)
  let xs ← xlateN s acc va nb
  let a ← oneAttr va xs
  match xs with
  | x :: _ => scopeOk s.me va sc x
  | [] => .ok ()
  .ok (⟨xs.map (·.loc), none⟩, a)

/-! ### LD, ST -/

/-- Where a typed load puts its value (R64, R344). -/
def Ctx.loadDest (c : Ctx) (ty : Ty) (r : Fin 64) : LoadTo :=
  match linkIx ty r with
  | none => .scalar ty (c.bankOf r) r
  | some n => .lout n

/-- LD (R344 to R346). -/
def execLd (ty : Ty) (sc : Option Scope) (sd : Fin 64) (m : MemArg) (s : State) : Host.Outcome State Fault Refusal :=
  slotDo s do
    let va ← memAddr s ty m
    wrT s ty sd
    let e ← scalarAccess s .load ty sc va
    issueLoad (popT s ty (memRegs m)) [e.1] e.2 sc (s.me.loadDest ty sd) 4

/-- The bytes that a typed store writes (R364): a t6 store writes zero in [7:6], fx48 is sign-extended to 8 bytes. -/
def storeBytes (f : Fmt) (v : Word) : List Byte :=
  leBytes (f.memWidth / 8) (if f == .t6 then v.toNat % 64 else if f == .fx48 then wrap 64 (sextNat 48 v.toNat) else v.toNat)

/-- ST (R364). -/
def execSt (ty : Ty) (sc : Option Scope) (sd : Fin 64) (m : MemArg) (s : State) : Host.Outcome State Fault Refusal :=
  slotDo s do
    let va ← memAddr s ty m
    let v ← rdT s ty sd
    let e ← scalarAccess s .store ty sc va
    issueStore (popT s ty (sd :: memRegs m)) [e.1] e.2 sc (storeBytes ty.base v) 0

/-! ### ACAS, ATOM -/

/-- The refused-atomic trap (R208, R253). -/
def refusedAtomic (reason va : Nat) : Stop := .trap ⟨12, 0, reason, va, false⟩

/-- The operation of a slot that waits at the slot for its end: an atomic to an aperture page (R208), or a ZLINE of lines there
(R152). -/
def Ctx.openAtomic (c : Ctx) (sl : Slot) : Option MemOp :=
  c.mops.find? fun m => m.ba == c.ba && m.slot == sl && match m.kind with
    | .atomic .. => (match m.elems with | [⟨.peer _ _ :: _, _⟩] => true | _ => false)
    | .zero => true
    | _ => false

/-- An atomic on its way to the target of its aperture page (R206, R208): operation, format, operands, permit. -/
def State.sendAtomic (s : State) (op : AtomOp) (f : Fmt) (a : Attr) (ta : Nat) (b : Word) : State × Nat :=
  let cmp := match op with | .cas c => c.toNat | _ => 0
  s.request s.cur a.pkg 0 .atomic ta (op.code + f.code * 16 + 256 + b.toNat * 2 ^ 64 + cmp * 2 ^ 128) [] (.op s.cur) s.me.ba

/-- Whether a copy command of the acting context has still to read source bytes in aperture pages or windows (R159). -/
def State.readsOwed (s : State) : Bool := (s.myCore.c0 ++ s.myCore.c1).any fun c => c.ctx == s.cur && c.afar

/-- Whether an object's memory, in this package, holds a byte (R175). -/
def State.objHolds (s : State) (o : WObj) (pa : Nat) : Bool :=
  let n := min 4096 o.size
  o.pkg == s.hub.pkgid && o.tas.any fun t => match if o.ap then s.exported t false else some t with
    | some a => a ≤ pa && pa < a + n
    | none => false

/-- A copy of a context that stands before bytes which it accesses otherwise than by the window (R175): it is given back first. -/
def State.copyBefore (s : State) (x : Nat) (ls : List Loc) : Option WCopy :=
  let pas := ls.filterMap fun l => match l with
    | .win _ _ _ _ => none
    | l => match s.behind l with | .mem pa => some pa | _ => none
  (s.core (coreOf x)).wcopy.find? fun c => c.ctx == x && pas.any (s.objHolds c.obj)

/-- An atomic access of slot S (R310, R311, R315): in the scratchpad at issue with latency 4; to an aperture page the
bundle waits at S for the answer; elsewhere in the unit of its scope, its old value interlocked. -/
def atomic (s : State) (op : AtomOp) (ty : Ty) (sc : Scope) (sd : Fin 64) (va : Word) (b : Word) (pops : List (Fin 64)) :
    Slotwise State := do
  let f := ty.base
  match s.me.openAtomic s.slot with
  | some m =>
    match m.phase with
    | .done bs =>
      let c := s.me
      let t := s.setMe { c with mops := c.mops.filter (· != m) }
      putT (popT t ty pops) ty sd (f.extend (leNat bs)) 1 (atomNew op f (leNat bs) b.toNat).2
    | .refused r => .error (refusedAtomic r va.toNat)
    | .failed => .error (.trap ⟨14, 10, 0, 0, false⟩)
    | _ => .error (.wait s)
  | none => do
    wrT s ty sd
    let e ← scalarAccess s .store ty (some sc) va
    match e.1.bytes with
    | .peer _ ta :: _ => do
      need e.2.rap (refusedAtomic 1 va.toNat)
      let c := s.me
      let m := s.newOp (.atomic op ty b (c.loadDest ty sd)) (some sc) e.2 [e.1]
      need (!s.readsOwed && s.opReady c.mops c.mops.length m) (.wait s)
      match s.copyBefore s.cur e.1.bytes with
      | some k => .error (.wait (s.evictCopy k))
      | none =>
        let q := s.sendAtomic op f e.2 ta b
        .error (.wait (q.1.setMe { q.1.me with mops := q.1.me.mops ++ [{ m with phase := .sent q.2 [] }] }))
    | _ => do
      match atomRefused atomcap op f with
      | some r => .error (refusedAtomic r va.toNat)
      | none =>
        let s := popT s ty pops
        match e.1.bytes.mapM s.me.spOf with
        | some offs => do
          let t ← useBanks s offs
          let old := leNat (offs.map (Memory.read s.myCore.sp))
          let r := atomNew op f old b.toNat
          let t := t.latch (.spad (offs.zip (leBytes (f.memWidth / 8) r.1))) 1 0
          putT t ty sd (f.extend old) 4 r.2
        | none => pushOp s (s.newOp (.atomic op ty b (s.me.loadDest ty sd)) (some sc) e.2 [e.1])

/-- ACAS (R310). -/
def execAcas (ty : Ty) (sc : Scope) (sd sa sb : Fin 64) (ext : Option (BitVec 32)) (s : State) :
    Host.Outcome State Fault Refusal :=
  slotDo s do
    let a ← rdT s ty sa
    let cmp ← rdT s ty sd
    let new ← rdT s ty sb
    atomic s (.cas cmp) ty sc sd (a + extValue ext) new [sa, sd, sb]

/-- A member of ATOM (R315). -/
def atomOp (op : AtomOp) (ty : Ty) (sc : Scope) (sd sa sb : Fin 64) (ext : Option (BitVec 32)) (s : State) :
    Host.Outcome State Fault Refusal :=
  slotDo s do
    let a ← rdT s ty sa
    let b ← rdT s ty sb
    atomic s op ty sc sd (a + extValue ext) b [sa, sb]

/-- ATOM.add (R315). -/
def execAtomAdd (ty : Ty) (sc : Scope) (sd sa sb : Fin 64) (ext : Option (BitVec 32)) (s : State) :
    Host.Outcome State Fault Refusal := atomOp .add ty sc sd sa sb ext s

/-- ATOM.max (R315). -/
def execAtomMax (ty : Ty) (sc : Scope) (sd sa sb : Fin 64) (ext : Option (BitVec 32)) (s : State) :
    Host.Outcome State Fault Refusal := atomOp .max ty sc sd sa sb ext s

/-- ATOM.min (R315). -/
def execAtomMin (ty : Ty) (sc : Scope) (sd sa sb : Fin 64) (ext : Option (BitVec 32)) (s : State) :
    Host.Outcome State Fault Refusal := atomOp .min ty sc sd sa sb ext s

/-- ATOM.and (R315). -/
def execAtomAnd (ty : Ty) (sc : Scope) (sd sa sb : Fin 64) (ext : Option (BitVec 32)) (s : State) :
    Host.Outcome State Fault Refusal := atomOp .and ty sc sd sa sb ext s

/-- ATOM.or (R315). -/
def execAtomOr (ty : Ty) (sc : Scope) (sd sa sb : Fin 64) (ext : Option (BitVec 32)) (s : State) :
    Host.Outcome State Fault Refusal := atomOp .or ty sc sd sa sb ext s

/-- ATOM.xor (R315). -/
def execAtomXor (ty : Ty) (sc : Scope) (sd sa sb : Fin 64) (ext : Option (BitVec 32)) (s : State) :
    Host.Outcome State Fault Refusal := atomOp .xor ty sc sd sa sb ext s

/-- ATOM.swap (R315). -/
def execAtomSwap (ty : Ty) (sc : Scope) (sd sa sb : Fin 64) (ext : Option (BitVec 32)) (s : State) :
    Host.Outcome State Fault Refusal := atomOp .swap ty sc sd sa sb ext s

/-! ### FLUSH, INVAL, ZLINE (R152) -/

/-- The lines of a range, each translated (R152). -/
def lineRange (s : State) (acc : Acc) (va : Nat) : Nat → Slotwise (List (Nat × Xl))
  | 0 => .ok []
  | n + 1 => do
    let x ← xlate s acc va false
    let xs ← lineRange s acc ((va + 128) % 2 ^ 64) n
    .ok ((va, x) :: xs)

/-- Whether a range touches the local aperture or a shared window. -/
def touchesWindow (c : Ctx) (va n : Nat) : Bool :=
  overlap va n apertureBase (2 ^ 30) || c.wins.any fun p => p.2.live && overlap va n p.2.base p.2.len

/-- The mould of FLUSH, INVAL and ZLINE (R152): alignment, windows, translation; then the effect on the lines, made when the context's
earlier accesses have been performed. -/
def lineOp (s : State) (acc : Acc) (sa sb : Fin 64) (ext : Option (BitVec 32)) (check : Nat → Xl → Slotwise Unit)
    (eff : State → List Xl → Slotwise State) : Slotwise State := do
  let a ← rdS s sa
  let b ← rdS s sb
  let va := (a + extValue ext).toNat
  let n := b.toNat
  need (va % 128 == 0 && n % 128 == 0 && 128 ≤ n && n ≤ 2 ^ 31) (alignFault va)
  need (!touchesWindow s.me va n) (windowFault va)
  let ls ← lineRange s acc va (n / 128)
  ls.forM fun l => check l.1 l.2
  need (s.me.mops.all (·.performed)) (.hold .memory [])
  eff s (ls.map (·.2))

/-- The effect on the lines of ordinary memory, in turn. -/
def onLines (f : State → Nat → State) (s : State) (xs : List Xl) : State :=
  xs.foldl (fun s x => match x.loc with
    | .mem pa => f s (pa / 128)
    | _ => s) s

/-- FLUSH (R152). -/
def execFlush (sc : Scope) (sa sb : Fin 64) (ext : Option (BitVec 32)) (s : State) : Host.Outcome State Fault Refusal :=
  slotDo s (lineOp s .load sa sb ext (fun _ _ => .ok ())
    (fun s xs => .ok (onLines (fun s n => if sc.code < 2 then s else s.cleanLine (clusterOf s.cur) n) s xs)))

/-- INVAL (R152): the line leaves the issuing core's L1; at wider scopes, after a write-back, the cluster's caches. -/
def execInval (sc : Scope) (sa sb : Fin 64) (ext : Option (BitVec 32)) (s : State) : Host.Outcome State Fault Refusal :=
  slotDo s (lineOp s .load sa sb ext (fun _ _ => .ok ())
    (fun s xs => .ok (onLines (fun s n =>
      if sc.code < 2 then s.setCore (coreOf s.cur) { s.myCore with l1 := s.myCore.l1.filter (· != n) }
      else s.discardLine (clusterOf s.cur) n) s xs)))

/-- The imprecise fault of a memory access that ends in a fabric error: class 14, cause 10, ENG 7 (R259). -/
def State.memError (s : State) (x : Nat) (ba : Nat) : State :=
  let c := s.ctx x
  s.setCtx x { c with impq := c.impq ++ [⟨14, 10, .memory, 0, ba, 0, false⟩] }

/-- A line set zero-flagged in the issuing cluster's cache, every byte dirty, and at wider scopes at the memory-side cache
too (R152, R390); one beyond its stack's capacity is not there (R301). -/
def zeroLine (sc : Option Scope) (s : State) (n : Nat) : State :=
  if !s.inStack (128 * n) then s
  else
  let cl := clusterOf s.cur
  let s := s.evictAbuf (dieOf s.cur) n
  let s := if (Map.find (s.cluster cl).lines n).isSome then s else s.clusterRoom cl
  let s := s.setCluster cl { s.cluster cl with lines := Map.put (s.cluster cl).lines n Line.zeroed }
  match sc with
  | some k => if k.code < 2 then s else s.writeBack Line.zeroed n
  | none => s

/-- Lines of aperture pages set to zero (R152): the slot waits until every target has done its lines. -/
def zeroPeers (s : State) (xs : List Xl) : Slotwise State :=
  match xs.filter (·.loc.isPeer) with
  | [] => .ok s
  | x :: r =>
    let m := s.newOp .zero (some .pod) x.attr ((x :: r).map fun y => ⟨[y.loc], none⟩)
    .error (.wait (s.setMe { s.me with mops := s.me.mops ++ [m] }))

/-- The end of a ZLINE that waits at its slot (R152, R259). -/
def zeroWait (s : State) (m : MemOp) : Slotwise State :=
  let t := s.setMe { s.me with mops := s.me.mops.filter (· != m) }
  match m.phase with
  | .done _ => .ok t
  | .failed => .ok (t.memError s.cur m.ba)
  | _ => .error (.wait s)

/-- ZLINE (R152, R390). -/
def execZline (sc : Option Scope) (sa sb : Fin 64) (ext : Option (BitVec 32)) (s : State) : Host.Outcome State Fault Refusal :=
  slotDo s (match s.me.openAtomic s.slot with
    | some m => zeroWait s m
    | none => lineOp s .store sa sb ext (fun va x => scopeOk s.me (BitVec.ofNat 64 va) sc x)
        fun s xs =>
          let t := onLines (zeroLine sc) s xs
          zeroPeers (if xs.all fun x => s.locInStack x.loc then t else t.memError s.cur s.me.ba) xs)

/-! ### Performance at the point of coherence -/

/-- A byte read where an operation is performed; a miss brings its line there. -/
def State.getByte (s : State) (x : Nat) (p : Place) (l : Loc) : State × Byte :=
  match l with
  | .mem pa =>
    let s := s.enter x p (pa / 128)
    (s, s.peekAt x p pa)
  | .win wn va off _ =>
    match s.copyOf x wn va with
    | some c => (s, Memory.read (s.core (coreOf x)).sp (c.frame + off))
    | none => (s, 0)
  | .lit b => (s, b)
  | .peer _ _ => (s, 0)
  | l => (s, match (s.ctx x).spOf l with
    | some o => Memory.read (s.core (coreOf x)).sp o
    | none => 0)

/-- A byte written where an operation is performed; a window's copy becomes M. -/
def State.putByte (s : State) (x : Nat) (p : Place) (l : Loc) (b : Byte) : State :=
  match l with
  | .mem pa => (s.enter x p (pa / 128)).pokeAt x p pa b
  | .win wn va off _ =>
    match s.copyOf x wn va with
    | some c =>
      let k := s.core (coreOf x)
      (s.setCore (coreOf x) { k with sp := Memory.write k.sp (c.frame + off) b }).setCopy { c with st := .M, want := false }
    | none => s
  | .sp o =>
    let k := s.core (coreOf x)
    s.setCore (coreOf x) { k with sp := Memory.write k.sp o b }
  | .mc wn o => s.mcastStore x wn [(o, b)] []
  | .peer _ _ => s
  | .lit _ => s

/-- Bytes read one after another. -/
def State.getBytes (s : State) (x : Nat) (p : Place) : List Loc → State × List Byte
  | [] => (s, [])
  | l :: ls =>
    let r := s.getByte x p l
    let t := r.1.getBytes x p ls
    (t.1, r.2 :: t.2)

/-- Bytes written one after another. -/
def State.putBytes (s : State) (x : Nat) (p : Place) (cs : List (Loc × Byte)) : State :=
  cs.foldl (fun s c => s.putByte x p c.1 c.2) s

/-- Every byte of blocks: scale bytes and words. -/
def blockLocs (bs : List TapBlock) : List Loc := bs.flatMap fun b => b.scale :: b.cells.map (·.1)

/-- The elements that stand for the bytes of blocks in an operation. -/
def blockElems (bs : List TapBlock) : List ElemLoc := (blockLocs bs).map fun l => ⟨[l], none⟩

/-- A block encoded from the bytes it holds, its scale byte first (R96): the bytes in the same order, the flags. -/
def TapBlock.encode (b : TapBlock) (p v : Fmt) (rm : Rm) (old : List Byte) : List Byte × Flags :=
  let e := encBlock p v rm (sextNat 8 (leNat (old.take 1))) (old.tail.zip (b.cells.map (·.2)))
  (e.1 :: e.2.1, e.2.2)

/-- Flags of a block that were not raised at issue, ORed in where it is encoded (R87, log entry 22). -/
def State.blockFlags (s : State) (x : Nat) (b : TapBlock) (fl : Flags) : State :=
  if b.told then s else s.setCtx x { s.ctx x with fpflags := (s.ctx x).fpflags ||| fl }

/-- A block read and rewritten as one indivisible access (R96). -/
def State.rewrite (s : State) (x : Nat) (pl : Place) (p v : Fmt) (rm : Rm) (b : TapBlock) : State :=
  let ls := blockLocs [b]
  let old := s.getBytes x pl ls
  let e := b.encode p v rm old.2
  (old.1.putBytes x pl (ls.zip e.1)).blockFlags x b e.2

/-- The poisoned line that some places touch (R300). -/
def State.poisonOf (s : State) (ls : List Loc) : Option Nat :=
  ls.findSome? fun l => match l with
    | .mem pa => if s.poison.contains (pa / 128) then some pa else none
    | _ => none

/-- The poisoned line that an operation reads (R300): a load, an atomic, or the blocks that a store rewrites. -/
def State.poisonedBy (s : State) (m : MemOp) : Option Nat :=
  match m.kind with
  | .store _ => none
  | .zero => none
  | _ => s.poisonOf m.locs

/-- The operations of a context with the n-th replaced. -/
def State.setOp (s : State) (x n : Nat) (m : MemOp) : State :=
  let c := s.ctx x
  s.setCtx x { c with mops := c.mops.set n m }

/-- A copy that has served the access which asked for it: in IS_I it goes to I (R168). -/
def State.spendCopies (s : State) (x : Nat) (os : List (Fin 16 × Nat × WObj)) : State :=
  os.foldl (fun s o => match s.copyOf x o.1 o.2.1 with
    | some c => s.setCopy (if c.st = .ISI then { c with st := .I } else { c with data := false })
    | none => s) s

/-- The lines of ordinary memory among some places. -/
def linesOf (ls : List Loc) : List Nat := ls.filterMap fun l => match l with
  | .mem pa => some (pa / 128)
  | _ => none

/-- The phase of an operation of so many bytes of which some are done. -/
def phaseOf (n : Nat) (got : List Byte) : MemPhase := if n ≤ got.length then .done got else .waiting got

/-- The next bytes of an operation, performed on the package's own memory, scratchpads and caches (R172): all of them in one step, of a
plain scalar access too, of which the spec promises that for each byte alone (R173, log entry 29). -/
def State.performHere (s : State) (x n : Nat) (m : MemOp) (got : List Byte) (run : List Loc) : State :=
  let all := m.locs.length
  match m.kind with
  | .load _ =>
    let p := placeOf m.sc
    let r := s.getBytes x p run
    let t := if p = .cluster && m.sc.isNone then r.1.setCore (coreOf x) ((r.1.core (coreOf x)).fillL1 (linesOf run)) else r.1
    (t.setOp x n { m with phase := phaseOf all (got ++ r.2) }).spendCopies x (objectsOf run)
  | .store vals =>
    (s.putBytes x (placeOf m.sc) (run.zip (vals.drop got.length))).setOp x n
      { m with phase := phaseOf all (got ++ List.replicate run.length 0) }
  | .atomic op ty b _ =>
    let pl := unitOf (m.sc.getD .core)
    let r := s.getBytes x pl run
    let new := atomNew op ty.base (leNat r.2) b.toNat
    (r.1.putBytes x pl (run.zip (leBytes (ty.base.memWidth / 8) new.1))).setOp x n { m with phase := .done r.2 }
  | .tapStore .. => s
  | .zero => s

/-- Window and frame of a place in a shared window, with its object's address (R165). -/
def Ctx.frameAt (c : Ctx) : Loc → Option (Fin 16 × Nat × Nat)
  | .win wn va _ _ => (Map.find c.wins wn.val).map fun w => (wn, w.frameOf va, va)
  | _ => none

/-- The first of some bytes that can be accessed together: up to one of a peer, and up to one whose tile object shares its frame with
another's (R165). -/
def Ctx.runOf (c : Ctx) : List Loc → List (Fin 16 × Nat × Nat) → List Loc
  | [], _ => []
  | l :: ls, seen =>
    if l.isPeer then []
    else
      match c.frameAt l with
      | none => l :: c.runOf ls seen
      | some f =>
        if seen.any fun g => g.1 == f.1 && g.2.1 == f.2.1 && g.2.2 != f.2.2 then []
        else l :: c.runOf ls (if seen.contains f then seen else f :: seen)

/-- A run of consecutive bytes of one peer, at most 2 KiB: package, target address, length. -/
def peerRun : List Loc → Option (Nat × Nat × Nat)
  | [] => none
  | .peer p t :: ls =>
    match peerRun ls with
    | some (q, u, n) => if q = p ∧ u = t + 1 ∧ n < 2048 then some (p, t, n + 1) else some (p, t, 1)
    | none => some (p, t, 1)
  | _ :: _ => none

/-- The context without its n-th operation. -/
def State.dropOp (s : State) (x n : Nat) : State :=
  let c := s.ctx x
  s.setCtx x { c with mops := c.mops.eraseIdx n }

/-- The next request of an operation on peers' memory (R206, R233): a read or a write of its next run of bytes, or the next line that
is set to zero (R152). -/
def State.sendNext (s : State) (x n : Nat) (m : MemOp) (got : List Byte) (rest : List Loc) : State :=
  match peerRun rest with
  | none => s
  | some (pkg, ta, k) =>
    let r := match m.kind with
      | .store vals => s.request x pkg 0 .write ta k (flitsOf ((vals.drop got.length).take k)) (.op x) m.ba
      | .zero => s.request x pkg 0 .write ta zeroExt [] (.op x) m.ba
      | _ => s.request x pkg 0 .read ta k [] (.op x) m.ba
    r.1.setOp x n { m with phase := .sent r.2 got }

/-- A copy that an operation needs asked for (R165); the operation ends where its object's memory does not exist at its home
(R167, R207) or is poisoned (R300). -/
def State.askFor (s : State) (x n : Nat) (m : MemOp) (own : Bool) (o : Fin 16 × Nat × WObj) : State :=
  if (s.copyOf x o.1 o.2.1).isNone && s.unbacked o.2.2 then (s.dropOp x n).exportFault x m.ba (o.2.2.tas.headD 0)
  else
    match (s.copyOf x o.1 o.2.1).elim (s.homePoison o.2.2) fun _ => none with
    | some pa => ((s.dropOp x n).logged (.poison pa)).fatalCtx x
    | none => s.askCopy x o.1 o.2.1 o.2.2 own m.ba

/-- The first of some bytes whose copies allow an access. -/
def State.readyRun (s : State) (x : Nat) (own : Bool) (run : List Loc) : List Loc :=
  run.takeWhile fun l => (objectsOf [l]).all (s.objReady x own)

/-- The next bytes of a load, a store, an atomic or a block's read (R172): made here as far as the copies they need are at hand, asked
of a peer, or asked for. An access over several objects so holds none of them while it waits for another (R156). -/
def State.advance (s : State) (x n : Nat) (m : MemOp) (got : List Byte) (rest : List Loc) (own : Bool)
    (perform : List Loc → State) : State :=
  if (rest.head?.elim false Loc.isPeer) then s.sendNext x n m got rest
  else
    match s.readyRun x own ((s.ctx x).runOf rest []), objectsOf (rest.take 1) with
    | [], o :: _ => s.askFor x n m own o
    | run, _ => perform run

/-- The target of a block that lies wholly in one peer's memory: package, address of the words, address of the scale byte. -/
def TapBlock.target (b : TapBlock) : Option (Nat × Nat × Nat) :=
  match b.scale, peerRun (b.cells.map (·.1)) with
  | .peer q st, some (p, ta, k) => if p = q ∧ k = b.cells.length then some (p, ta, st) else none
  | _, _ => none

/-- The extension bits of a block's rewrite at its target (log entry 19): the number of its words, the place of its scale byte, the
formats, the rounding mode. -/
def blockExt (p v : Fmt) (rm : Rm) (n st : Nat) : Nat :=
  n + 2 * 2 ^ 32 + st * 2 ^ 64 + p.code * 2 ^ 128 + v.code * 2 ^ 132 + rm.code * 2 ^ 136

/-- The payload of a block's rewrite: for each word whether the store gives it a value, and the value in the view's format. -/
def blockPay (b : TapBlock) : List (BitVec 512) :=
  flitsOf (b.cells.flatMap fun c => BitVec.ofNat 8 (ofBit c.2.isSome) :: leBytes 8 (c.2.getD 0).toNat)

/-- The first block of a store has been read, since its bytes lie in different places (log entry 32): it is encoded, and its bytes
become a store of their own before the rest. -/
def State.splitBlock (s : State) (x n : Nat) (m : MemOp) (p v : Fmt) (rm : Rm) (b : TapBlock) (bs : List TapBlock)
    (got : List Byte) : State :=
  let e := b.encode p v rm got
  let st := { m with kind := .store e.1, elems := blockElems [b], phase := .waiting [] }
  let rest := if bs.isEmpty then [] else [{ m with kind := .tapStore p v rm bs, elems := blockElems bs, phase := .waiting [] }]
  let c := s.ctx x
  (s.setCtx x { c with mops := c.mops.take n ++ st :: rest ++ c.mops.drop (n + 1) }).blockFlags x b e.2

/-- The blocks of a store carried on (R96): each is rewritten whole where its bytes stand together, or by its target, or read, encoded
and written where they lie apart. -/
def State.tapNext (s : State) (x n : Nat) (m : MemOp) (p v : Fmt) (rm : Rm) (got : List Byte) : List TapBlock → State
  | [] => s.setOp x n { m with kind := .tapStore p v rm [], elems := [], phase := .done [] }
  | b :: bs =>
    let ls := blockLocs [b]
    let m := { m with kind := .tapStore p v rm (b :: bs), elems := blockElems (b :: bs), phase := .waiting got }
    if ((s.ctx x).runOf ls []).length = ls.length then
      match s.missing x true ls with
      | some o => (s.setOp x n m).askFor x n m true o
      | none => (s.rewrite x (placeOf m.sc) p v rm b).tapNext x n m p v rm [] bs
    else
      match b.target with
      | some (pkg, ta, st) =>
        let r := s.request x pkg 0 .write ta (blockExt p v rm b.cells.length st) (blockPay b) (.op x) m.ba
        r.1.setOp x n { m with phase := .sent r.2 [] }
      | none =>
        if ls.length ≤ got.length then s.splitBlock x n m p v rm b bs got
        else
          (s.setOp x n m).advance x n m got (ls.drop got.length) false fun run =>
            let r := s.getBytes x (placeOf m.sc) run
            (r.1.setOp x n { m with phase := .waiting (got ++ r.2) }).spendCopies x (objectsOf run)

/-- Bytes that a peer answered to an operation's request (R206): the next request follows, or the operation is done. -/
def State.peerAnswer (s : State) (x n : Nat) (m : MemOp) (got : List Byte) : State :=
  match m.kind with
  | .tapStore .. => s.setOp x n { m with phase := .waiting got }
  | _ => s.setOp x n { m with phase := phaseOf m.locs.length got }

/-- A block that its target has rewritten (R96, R206): the next one follows. -/
def State.blockDone (s : State) (x n : Nat) (m : MemOp) (fl : Flags) : State :=
  match m.kind with
  | .tapStore p v rm (b :: bs) =>
    (s.setOp x n { m with
      kind := .tapStore p v rm bs, elems := blockElems bs, phase := if bs.isEmpty then .done [] else .waiting [] }).blockFlags x b fl
  | _ => s

/-- Whether a copy command of a context, issued before an operation, has still to read source bytes in aperture pages or windows: a
later store there waits (R159). -/
def State.sourcesOwed (s : State) (x : Nat) (m : MemOp) : Bool :=
  let k := s.core (coreOf x)
  m.isStore && m.locs.any (fun l => match l with | .peer _ _ => true | .win _ _ _ _ => true | _ => false) &&
  (k.c0 ++ k.c1).any fun c => c.ctx == x && c.afar && c.came < m.born

/-- The n-th operation of a context carried on, if it may be now (R172, R175, R176). -/
def State.access (s : State) (x n : Nat) : State :=
  let c := s.ctx x
  match c.mops[n]? with
  | none => s
  | some m =>
    match m.phase with
    | .waiting got =>
      if !s.opReady c.mops n m || s.sourcesOwed x m then s
      else if let some k := s.copyBefore x m.locs then s.evictCopy k
      else
        match s.poisonedBy m with
        | some pa => ((s.dropOp x n).logged (.poison pa)).fatalCtx x
        | none =>
          if !m.locs.all s.locInStack then s.setOp x n { m with phase := .failed }
          else
            match m.kind with
            | .tapStore p v rm bs => s.tapNext x n m p v rm got bs
            | _ => s.advance x n m got (m.locs.drop got.length) m.isStore (s.performHere x n m got)
    | _ => s

/-- A context's accesses in flight performed as far as they can be, in order. -/
def State.sweep (s : State) (x : Nat) : State :=
  (List.range (s.ctx x).mops.length).foldl (fun s n => s.access x n) s

/-- ACCESS_AT_POINT_OF_COHERENCE (R151, R153): the acting context's n-th operation in flight is performed. -/
def execAccessAtPointOfCoherence (n : Nat) (s : State) : Host.Outcome State Fault Refusal := .next (s.access s.cur n)

/-- A result delivered when it lands, with its flags (R23, R87, R156). -/
def State.deliver (s : State) (x : Nat) (r : Write × Flags) : State :=
  let t := s.land x r.1
  t.setCtx x { t.ctx x with fpflags := (t.ctx x).fpflags ||| r.2 }

/-- The result of a load or atomic that has been performed, or zero for one that ended in a fabric error (R259). -/
def MemOp.result (m : MemOp) (bs : List Byte) : Option (Write × Flags) :=
  match m.kind with
  | .load d => some (d.write (elemValues m.elems bs))
  | .atomic op ty b d =>
    let w := d.write (elemValues m.elems bs)
    some (w.1, w.2 ||| (atomNew op ty.base (leNat bs) b.toNat).2)
  | _ => none

/-- LOAD_LAND (R156, R259): the n-th operation's result lands and its pending mark clears; an atomic to an aperture page
is answered to its waiting bundle instead (R208). A result for a granule in retention wakes it first (R43). -/
def State.landLoad (s : State) (x n : Nat) : State :=
  match (s.ctx x).mops[n]? with
  | none => s
  | some m =>
    if (s.pair (pairOf x)).frozen.isSome || (m.remote && m.isStore) then s
    else if m.landing && (m.pendRow.elim false (s.core (coreOf x)).retained) then
      s.wakeNext x (m.pendRow.getD 0 / 8)
    else
      match m.phase with
      | .done bs =>
        match m.result bs with
        | some r => (s.dropOp x n).deliver x r
        | none => s
      | .failed =>
        match m.result (List.replicate m.locs.length 0) with
        | some r => ((s.dropOp x n).deliver x (r.1, 0)).memError x m.ba
        | none => s
      | _ => s

/-- LOAD_LAND of the acting context's n-th operation. -/
def execLoadLand (n : Nat) (s : State) : Host.Outcome State Fault Refusal := .next (s.landLoad s.cur n)

/-- STORE_PERFORMED (R156): a posted store that has been performed leaves the context; one that ended in a fabric error
raises its imprecise fault (R259). -/
def State.endStore (s : State) (x n : Nat) : State :=
  match (s.ctx x).mops[n]? with
  | none => s
  | some m =>
    if (s.pair (pairOf x)).frozen.isSome || m.isLoad || m.kind == .zero then s
    else
      match m.phase with
      | .done _ => s.dropOp x n
      | .failed => (s.dropOp x n).memError x m.ba
      | _ => s

/-- STORE_PERFORMED of the acting context's n-th operation. -/
def execStorePerformed (n : Nat) (s : State) : Host.Outcome State Fault Refusal := .next (s.endStore s.cur n)

/-- LINE_EVICTION_WRITE_BACK (R150): a line leaves a cluster's cache; only its dirty bytes are written below. -/
def execLineEvictionWriteBack (c : ClusterId) (line : Nat) (s : State) : Host.Outcome State Fault Refusal :=
  .next (s.discardLine c.val line)

end Sys2Proof.Machine
end

