-- ==== Sys2Proof/Machine/Group.lean ====
section
/-! DEFINITION. Groups (R24 to R26): the entries of a launch's group table in memory, arrivals, pending bytes, the completion
of a phase, the signals to the members. -/

namespace Sys2Proof.Machine

/-- An admitted launch by its number. -/
def State.launch (s : State) (l : Nat) : Option Launch := s.hub.launches.find? (·.id == l)

/-- An admitted launch replaced. -/
def State.setLaunch (s : State) (n : Launch) : State :=
  { s with hub := { s.hub with launches := s.hub.launches.map fun (m : Launch) => if m.id = n.id then n else m } }

/-- The launch of a context's worker with the worker's linear index. -/
def State.workerOf (s : State) (x : Nat) : Option (Launch × Nat) :=
  match (s.ctx x).occ with
  | .worker l i => (s.launch l).map fun n => (n, i)
  | _ => none

/-- The physical address of a group's entry (R24): the table stands in the launch's address space. -/
def State.groupPa (s : State) (l : Launch) (g : Nat) : Option Nat :=
  if l.gtab = 0 || inAperture (l.gtab + 64 * g) then none
  else
    match walkRoot s l.ptroot (l.gtab + 64 * g) with
    | .ok t => if t.attr.ap then none else some (t.pa (l.gtab + 64 * g))
    | .error _ => none

/-- A group's entry as a number of 512 bits; zero, an unused entry, where the table cannot be read. -/
def State.group (s : State) (l : Launch) (g : Nat) : Nat :=
  match s.groupPa l g with
  | some a => leNat (Memory.readN s.mem a 64)
  | none => 0

/-- A group's entry written. -/
def State.setGroup (s : State) (l : Launch) (g v : Nat) : State :=
  match s.groupPa l g with
  | some a => s.memWrite (cellsAt a (leBytes 64 v))
  | none => s

/-- PEND (R24). -/
def gPend (v : Nat) : Nat := field v 191 144

/-- EXPECT (R24). -/
def gExpect (v : Nat) : Nat := field v 63 48

/-- ARRIVED (R24). -/
def gArrived (v : Nat) : Nat := field v 31 16

/-- PHASE (R24). -/
def gPhase (v : Nat) : Nat := field v 15 0

/-- SCOPE (R24). -/
def gScope (v : Nat) : Scope := (Scope.ofCode (field v 47 45)).getD .pod

/-- The rank of a linear index among the members of a group (R24): its j, if it is a member. -/
def gRank (v i : Nat) : Option Nat :=
  let base := field v 143 112
  let n := field v 111 80
  let st := field v 79 64
  if base ≤ i ∧ st ≠ 0 ∧ (i - base) % st = 0 ∧ (i - base) / st < n then some ((i - base) / st) else none

/-- The edge that a message within the package travels to (R230): its die, or the unit that counts arrivals. -/
def Msg.edge : Msg → Option Nat
  | .arrival _ _ => none
  | .signal x _ _ => some (dieOf x)
  | .flag x _ _ _ => some (dieOf x)
  | .chanArrival x _ => some (dieOf x)
  | .chanCredit x _ => some (dieOf x)

/-- The n-th message on its way, if no earlier one travels to the same edge: each edge keeps its traffic in order (R230). -/
def State.message (s : State) (n : Nat) : Option Msg :=
  (s.hub.msgs[n]?).bind fun m => if (s.hub.msgs.take n).any fun o => o.edge == m.edge then none else some m

/-- The state without the n-th message. -/
def State.takeMessage (s : State) (n : Nat) : State := { s with hub := { s.hub with msgs := s.hub.msgs.eraseIdx n } }

/-- A message put on its way. -/
def State.send (s : State) (m : Msg) : State := { s with hub := { s.hub with msgs := s.hub.msgs ++ [m] } }

/-- A completion told to every member (R25, R26): a signal to each that holds a context, a note in its barrier mailbox to each
that has been switched out. -/
def State.signalMembers (s : State) (l : Launch) (g : Fin 256) (v : Nat) (phase : BitVec 16) : State :=
  let s := s.ctxs.foldl (fun t p =>
    match p.2.occ with
    | .worker m i => if m = l.id && (gRank v i).isSome then t.send (.signal p.1 g phase) else t
    | _ => t) s
  { s with hub := { s.hub with saved := s.hub.saved.map fun (w : SavedW) =>
      if w.launch = l.id && (gRank v w.index).isSome then { w with mail := w.mail ++ [(g, phase)] } else w } }

/-- Whether a group's barrier unit is in this package (R24): one of pod scope sits in the hub of HOME. -/
def State.unitHere (s : State) (v : Nat) : Bool := gScope v != .pod || field v 44 33 == s.hub.pkgid

/-- A message about a group of pod scope leaves for another package (R24, log entry 68). -/
def State.goesAway (s : State) (pkg : Nat) (l : Launch) (g : Fin 256) (m : GroupMsg) : State :=
  { s with hub := { s.hub with away := s.hub.away ++ [⟨pkg, l.id, g, m⟩] } }

/-- Phases completed while they can be (R25): ARRIVED loses EXPECT, PHASE rises, the members are told, those in other packages by a
message that leaves. -/
def State.settleGroup (s : State) (l : Launch) (g : Fin 256) : Nat → State
  | 0 => s
  | n + 1 =>
    let v := s.group l g.val
    if s.unitHere v ∧ gExpect v ≠ 0 ∧ gExpect v ≤ gArrived v ∧ gPend v = 0 then
      let ph := (gPhase v + 1) % 2 ^ 16
      let v' := setField (setField v 31 16 (gArrived v - gExpect v)) 15 0 ph
      let t := (s.setGroup l g.val v').signalMembers l g v (BitVec.ofNat 16 ph)
      let t := if gScope v = .pod then t.goesAway s.hub.pkgid l g (.phase (BitVec.ofNat 16 ph)) else t
      t.settleGroup l g n
    else s

/-- An arrival counted at the barrier unit (R25, R317): one that would pass 65,535 is discarded and logged. One for the unit of
another package leaves (log entry 68). -/
def State.arrive (s : State) (l : Launch) (g : Fin 256) : State :=
  let v := s.group l g.val
  if !s.unitHere v then s.goesAway (field v 44 33) l g .arrive
  else if gArrived v = 65535 then s.logged (.arrivalDiscard g.val)
  else (s.setGroup l g.val (setField v 31 16 (gArrived v + 1))).settleGroup l g 65536

/-- Bytes of a command added to PEND (R25); none where the sum would pass 2^48 − 1. Those for the unit of another package leave. -/
def State.addPend (s : State) (l : Launch) (g : Fin 256) (n x : Nat) (e : Bool) (qix : Nat) : Option State :=
  let v := s.group l g.val
  if !s.unitHere v then some (s.goesAway (field v 44 33) l g (.bytes n x e qix))
  else if 2 ^ 48 ≤ gPend v + n then none else some (s.setGroup l g.val (setField v 191 144 (gPend v + n)))

/-- Bytes of a command subtracted from PEND (R25); none where fewer are pending. Those for the unit of another package leave. -/
def State.subPend (s : State) (l : Launch) (g : Fin 256) (n x : Nat) (e : Bool) (qix : Nat) : Option State :=
  let v := s.group l g.val
  if !s.unitHere v then some (s.goesAway (field v 44 33) l g (.bytes (-n) x e qix))
  else if gPend v < n then none
  else some ((s.setGroup l g.val (setField v 191 144 (gPend v - n))).settleGroup l g 65536)

/-- A message of another package about a group whose barrier unit sits here (R24, R25): an arrival, or bytes of a command; one that PEND
cannot take is told. -/
def State.groupFrom (s : State) (pkg : Nat) (l : Launch) (g : Fin 256) (m : GroupMsg) : State :=
  if !s.unitHere (s.group l g.val) then s
  else
    match m with
    | .arrive => s.arrive l g
    | .bytes n x e qix =>
      ((if 0 ≤ n then s.addPend l g n.toNat x e qix else s.subPend l g (-n).toNat x e qix)).getD
        (s.goesAway pkg l g (.refused x e qix))
    | _ => s

/-- A phase of a group whose barrier unit sits in another package has completed (R25): the entry holds it and the members here are
told. -/
def State.phaseFrom (s : State) (l : Launch) (g : Fin 256) (ph : BitVec 16) : State :=
  let v := s.group l g.val
  if s.unitHere v then s else (s.setGroup l g.val (setField v 15 0 ph.toNat)).signalMembers l g v ph

end Sys2Proof.Machine
end

