-- ==== Sys2Proof/Machine/Copy.lean ====
section
/-! DEFINITION. The copy engines (R22, R157 to R162, R202, R245, R247, R305 to R308, R324 to R331): commands at issue, their
start, the pieces they land, completion with its notifications. -/

namespace Sys2Proof.Machine

/-! ### Queues -/

/-- An engine's queue, oldest command first: false is C0, true C1. -/
def CoreSt.queue (c : CoreSt) (e : Bool) : List Cmd := if e then c.c1 else c.c0

/-- An engine's queue replaced. -/
def State.setQueue (s : State) (core : Nat) (e : Bool) (q : List Cmd) : State :=
  let c := s.core core
  s.setCore core (if e then { c with c1 := q } else { c with c0 := q })

/-- The command that an engine works on: the oldest. -/
def State.headCmd (s : State) (core : Nat) (e : Bool) : Option Cmd := ((s.core core).queue e).head?

/-- The command in work replaced. -/
def State.setHead (s : State) (core : Nat) (e : Bool) (c : Cmd) : State :=
  s.setQueue core e (c :: ((s.core core).queue e).tail)

/-- A command of an engine's queue replaced: the one with its queue index. -/
def State.setCmd (s : State) (core : Nat) (e : Bool) (c : Cmd) : State :=
  s.setQueue core e (((s.core core).queue e).map fun k => if k.qix = c.qix then c else k)

/-- The engine that a slot's commands go to (R72). -/
def engineOf (sl : Slot) : Bool := sl == .C1

/-- The engine's name in ENG (R252). -/
def engName (e : Bool) : Eng := if e then .c1 else .c0

/-- Whether the kiln has stopped a core's pair (R268). -/
def State.stopped (s : State) (core : Nat) : Bool := (s.pair (core / 2)).frozen.isSome

/-! ### Translation by an engine (R202) -/

/-- A fault that an engine finds: its cause of class 14, the address, whether it is a scale byte's. -/
abbrev EFault := Nat × Nat × Bool

/-- The cause that stands for a miss in the die's TLB: a walk is to be waited for. -/
def missCause : Nat := 0

/-- What a command's translation finds in the die's TLB (R202). -/
def Cmd.look (c : Cmd) (s : State) (va : Nat) : Look := s.lookEng (dieOf c.ctx) c.ptroot va

/-- The translation of one byte for a command (R202): with the translation state of its context at issue. -/
def Cmd.xlate (c : Cmd) (s : State) (acc : Acc) (va : Nat) (scale : Bool) : Except EFault Xl :=
  let die := dieOf c.ctx
  if inAperture va then
    match (LocalMap.mk c.lmap c.spbase.toNat c.splim.toNat).xlate va with
    | none => .error (2, va, scale)
    | some (b, a, w, i) =>
      if acc == .store && !w then .error (5, va, scale)
      else
        match winAt c.wins true va with
        | some (n, win) => .ok ⟨.mc (Fin.ofNat 16 n) (va - win.base), a, some i⟩
        | none => .ok ⟨.sp b, a, some i⟩
  else
    match c.look s va with
    | .fault k => .error (k, va, scale)
    | .miss _ => .error (missCause, va, scale)
    | .hit t =>
      match t.refuses c.sup acc with
      | some k => .error (k, va, scale)
      | none =>
        match winAt c.wins false va with
        | none => .ok ⟨t.place va, t.attr, none⟩
        | some (n, win) =>
          let ob := va - (va - win.base) % win.obj
          match pieces (c.look s) ob (if win.obj ≤ 4096 then 1 else win.obj / 4096) with
          | .error (v, k) => .error (k.getD missCause, v, scale)
          | .ok tas =>
            let home := if win.maxsc.code ≤ 2 then some (Fin.ofNat 4 die) else none
            let obj := ⟨home, t.attr.ap, if t.attr.ap then t.attr.pkg else s.hub.pkgid, tas, win.obj⟩
            .ok ⟨.win (Fin.ofNat 16 n) ob (va - ob) obj, t.attr, none⟩

/-- An element as an engine finds it: address, attributes, places of its bytes and of its scale byte. -/
structure EngEl where
  va : Nat
  attr : Attr
  bytes : List Loc
  scale : Option Loc
  deriving DecidableEq, Repr

/-- Bytes translated one after another. -/
def Cmd.xlates (c : Cmd) (s : State) (acc : Acc) (va : Word) : Nat → Except EFault (List Xl)
  | 0 => .ok []
  | n + 1 => do
    let x ← c.xlate s acc va.toNat false
    let xs ← c.xlates s acc (va + 1) n
    .ok (x :: xs)

/-- The scale byte of an element (R93), with the SCWB values of issue. -/
def Cmd.scaleOf (c : Cmd) (s : State) (acc : Acc) (a : Attr) (va : Nat) : Except EFault (Option Loc) :=
  match a.block with
  | none => .ok none
  | some bl => do
    let x ← c.xlate s acc (scaleAddr (fun i => c.scwb.toList.getD i 0) a bl va).toNat true
    .ok (some x.loc)

/-- An element at an address in its page's format; one that spans unlike pages or map entries is cause 6 (R308). -/
def Cmd.element (c : Cmd) (s : State) (acc : Acc) (va : Word) : Except EFault EngEl := do
  let x ← c.xlate s acc va.toNat false
  let rest ← c.xlates s acc (va + 1) (x.attr.fmt.memWidth / 8 - 1)
  if rest.all (·.same x) then do
    let sc ← c.scaleOf s acc x.attr va.toNat
    .ok ⟨va.toNat, x.attr, x.loc :: rest.map (·.loc), sc⟩
  else .error (6, va.toNat, false)

/-! ### The elements of a command (R305) -/

/-- W of CPY2D's shape. -/
def Cmd.width (c : Cmd) : Nat := field c.b.toNat 19 0

/-- The destination address of element i (R305). -/
def Cmd.dstAddr (c : Cmd) (i : Nat) : Word :=
  match c.kind with
  | .cpy2d => c.d + BitVec.ofNat 64 (64 * field c.b.toNat 63 48 * (i / c.width) + i % c.width * c.ed)
  | _ => c.d + BitVec.ofNat 64 (i * c.ed)

/-- The source address of element i, its index given for CGATHER (R305). -/
def Cmd.srcAddr (c : Cmd) (i ix : Nat) : Word :=
  match c.kind with
  | .cpy2d => c.a + BitVec.ofNat 64 (64 * field c.b.toNat 47 32 * (i / c.width) + i % c.width * c.es)
  | .cgather => c.b + BitVec.ofNat 64 (ix * c.es)
  | _ => c.a + BitVec.ofNat 64 (i * c.es)

/-- The elements of a command. -/
def copyTotal (k : CmdKind) (b b2 : Word) : Nat :=
  match k with
  | .cpy2d => field b.toNat 19 0 * (field b.toNat 31 20 + 1)
  | .cgather => field b2.toNat 39 0
  | .cpy => field b.toNat 39 0
  | .cfill => field b.toNat 39 0
  | .cmcast => field b.toNat 39 0
  | .cred => field b.toNat 31 0
  | .chsend => 0
  | .chrecv => 0

/-- The runs of elements that stand at consecutive addresses at both ends: first element, number (R305). -/
def Cmd.runs (c : Cmd) : List (Nat × Nat) :=
  if c.total = 0 then []
  else
    match c.kind with
    | .cpy2d => (List.range (c.total / c.width)).map fun j => (j * c.width, c.width)
    | _ => [(0, c.total)]

/-- The destination's ranges in bytes. -/
def Cmd.dstRanges (c : Cmd) : List (Nat × Nat) := c.runs.map fun r => ((c.dstAddr r.1).toNat, r.2 * c.ed)

/-- The source's ranges in bytes: a gather's elements are not among them. -/
def Cmd.srcRanges (c : Cmd) : List (Nat × Nat) :=
  match c.kind with
  | .cfill => []
  | .cgather => [(c.a.toNat, 4 * c.total)]
  | _ => c.runs.map fun r => ((c.srcAddr r.1 0).toNat, r.2 * c.es)

/-- The addresses at which a range enters a new 4 KiB granule, its first among them. -/
def granulesOf (r : Nat × Nat) : List Nat :=
  if r.2 = 0 then []
  else r.1 :: (List.range ((r.1 + r.2 - 1) / 4096 - r.1 / 4096)).map fun i => (r.1 / 4096 + i + 1) * 4096

/-- The part of a range that lies in the local aperture. -/
def localPart (r : Nat × Nat) : Nat × Nat :=
  let lo := max r.1 apertureBase
  let hi := min (r.1 + r.2) (apertureBase + 2 ^ 30)
  (lo, hi - lo)

/-- The checks of the local aperture ranges at issue (R202, R308), precise at the C slot. -/
def Cmd.checkLocal (c : Cmd) (s : State) (acc : Acc) (r : Nat × Nat) : Slotwise Unit :=
  (granulesOf (localPart r)).forM fun va =>
    match c.xlate s acc va false with
    | .ok _ => .ok ()
    | .error e => .error (xlateFault e.1 e.2.1 e.2.2)

/-- The scratchpad byte of a place for a command. -/
def Cmd.spOf (c : Cmd) : Loc → Option Nat
  | .sp o => some o
  | .mc wn o => (Map.find c.wins wn.val).map fun w => w.mcByte o
  | _ => none

/-- The banks that a range touches (R157). -/
def Cmd.rangeBanks (c : Cmd) (s : State) (acc : Acc) (r : Nat × Nat) : BitVec 32 :=
  let l := localPart r
  (granulesOf l).foldl (fun m va =>
    let n := min (l.1 + l.2) ((va / 4096 + 1) * 4096) - va
    match c.xlate s acc va false with
    | .ok x => match c.spOf x.loc with
      | some o => m ||| bankMask ((List.range ((o + n - 1) / 256 + 1 - o / 256)).map fun i => (o / 256 + i) * 256)
      | none => m
    | .error _ => m) 0

/-! ### The source as of issue (R159) -/

/-- The source view now (R159). -/
def State.viewNow (s : State) (x : Nat) : SrcView :=
  ⟨s.mem, (s.cluster (clusterOf x)).lines, (s.die (dieOf x)).abuf, (s.core (coreOf x)).sp, []⟩

/-- An empty view. -/
def SrcView.empty : SrcView := ⟨[], [], [], [], []⟩

/-- A byte of ordinary memory in a view. -/
def SrcView.memByte (v : SrcView) (pa : Nat) : Byte :=
  match Map.find v.lines (pa / 128) with
  | some l => l.byte (pa % 128)
  | none =>
    match Map.find v.abuf (pa / 128) with
    | some l => l.byte (pa % 128)
    | none => Memory.read v.mem pa

/-- A source byte that is at hand: of local memory and the scratchpad as of issue; of aperture pages and windows when the command has
read it. -/
def Cmd.srcByte (c : Cmd) (l : Loc) : Option Byte :=
  match l with
  | .mem pa => some (c.src.memByte pa)
  | .peer _ _ => (c.src.got.find? fun p => p.1 == l).map (·.2)
  | .win _ _ _ _ => (c.src.got.find? fun p => p.1 == l).map (·.2)
  | _ => (c.spOf l).map (Memory.read c.src.sp)

/-- Whether a source byte is still to be read. -/
def Cmd.lacks (c : Cmd) (l : Loc) : Bool := (c.srcByte l).isNone

/-- Source bytes at hand. -/
def Cmd.srcBytes (c : Cmd) (ls : List Loc) : List Byte := ls.map fun l => (c.srcByte l).getD 0

/-- Values of places: those at hand, the others from bytes received in order; what is left of these. -/
def takeBytes (f : Loc → Option Byte) : List Loc → List Byte → List Byte × List Byte
  | [], buf => ([], buf)
  | l :: ls, buf =>
    match f l with
    | some b =>
      let r := takeBytes f ls buf
      (b :: r.1, r.2)
    | none =>
      let r := takeBytes f ls buf.tail
      (buf.headD 0 :: r.1, r.2)

/-! ### A piece: what it reads and what it writes (R307, R326) -/

/-- The work on a piece: source bytes it needs, destination bytes it needs, and its writes from their values. -/
structure Plan where
  reads : List Loc
  olds : List Loc
  writes : List Byte → List Byte → List (Loc × Byte) × Flags

/-- The exact value of a source element (R307, R94). -/
def srcVal (f : Fmt) (w : Nat) (scale : Int) : Val × Flags := if f.isTap then decBlk f w scale else (f.viewVal w, 0)

/-- The bits of an element written without a block, from an exact value (R307): to nearest. -/
def dstBits (f : Fmt) (v : Val) : Nat × Flags :=
  if f.isTap then encBlkElem f .ne 0 v
  else if f.isFp then
    let r := f.fp.rnd .ne v
    (r.1, r.2 ||| sigFlags [v])
  else
    let r := toIntFmt f .ne v
    (wrap f.memWidth r.1, r.2)

/-- A block of the destination with the new values of some of its elements. -/
structure EngBlock where
  scale : Loc
  cells : List (Loc × Option (Val × Flags))

/-- The block of the destination that starts at an address, with values by address (R96). -/
def Cmd.block (c : Cmd) (s : State) (base bl : Nat) (sc : Loc) (vals : List (Nat × (Val × Flags))) : Except EFault EngBlock := do
  let xs ← c.xlates s .store (BitVec.ofNat 64 base) bl
  .ok ⟨sc, (xs.zip (List.range bl)).map fun p => (p.1.loc, (vals.find? fun v => v.1 == base + p.2).map (·.2))⟩

/-- The writes of blocks from their old bytes: each block's scale byte, then its words, where it is written in part (R96). -/
def blockWrites (f : Fmt) : List EngBlock → List Byte → List (Loc × Byte) × Flags
  | [], _ => ([], 0)
  | b :: bs, olds =>
    let n := b.cells.length
    let part := b.cells.any (·.2.isNone)
    let own := if part then olds.take (n + 1) else List.replicate (n + 1) 0
    let e := rewriteBlock f .ne (sextNat 8 (leNat (own.take 1))) ((own.drop 1).zip (b.cells.map (·.2)))
    let r := blockWrites f bs (if part then olds.drop (n + 1) else olds)
    ((b.scale, e.1) :: (b.cells.map (·.1)).zip e.2.1 ++ r.1, e.2.2 ||| r.2)

/-- The old bytes that blocks need. -/
def blockOlds (bs : List EngBlock) : List Loc :=
  bs.flatMap fun b => if b.cells.any (·.2.isNone) then b.scale :: b.cells.map (·.1) else []

/-- The writes of elements with exact values (R307). -/
def Cmd.store (c : Cmd) (s : State) (ds : List EngEl) (vals : List (Val × Flags)) :
    Except EFault (List Loc × (List Byte → List (Loc × Byte) × Flags)) :=
  match ds with
  | [] => .ok ([], fun _ => ([], 0))
  | d :: _ =>
    match d.attr.block with
    | none =>
      let ws := (ds.zip vals).map fun p =>
        let r := dstBits p.1.attr.fmt p.2.1
        (p.1.bytes.zip (leBytes p.1.bytes.length r.1), r.2 ||| p.2.2)
      .ok ([], fun _ => (ws.flatMap (·.1), Flags.all (ws.map (·.2))))
    | some bl => do
      let by_ := (ds.map (·.va)).zip vals
      let bases := (ds.map fun e => e.va / bl * bl).eraseDups
      let bs ← bases.mapM fun b => c.block s b bl (((ds.find? fun e => e.va / bl * bl == b).bind (·.scale)).getD (.sp 0)) by_
      .ok (blockOlds bs, blockWrites d.attr.fmt bs)

/-- The plan of a piece copied raw (R307): bytes unchanged, each block's scale byte with its first element. -/
def rawPlan (ss ds : List EngEl) : Plan :=
  let pairs := (ss.zip ds).flatMap fun p =>
    let sc := match p.2.attr.block, p.1.scale, p.2.scale with
      | some bl, some a, some b => if p.2.va % bl = 0 then [(a, b)] else []
      | _, _, _ => []
    p.1.bytes.zip p.2.bytes ++ sc
  ⟨pairs.map (·.1), [], fun bs _ => ((pairs.map (·.2)).zip bs, 0)⟩

/-- Whether formats may be converted (R307): not between fx48 and another. -/
def mayConvert (a b : Fmt) : Bool := a == b || (a != .fx48 && b != .fx48)

/-- The plan of a piece that is converted (R307). -/
def Cmd.convPlan (c : Cmd) (s : State) (ss ds : List EngEl) : Except EFault Plan :=
  if (ss.zip ds).any fun p => !mayConvert p.1.attr.fmt p.2.attr.fmt then .error (9, 0, false)
  else do
    let els := ss.map fun e => (⟨e.bytes, e.scale⟩ : ElemLoc)
    let vals (bs : List Byte) := ((elemValues els bs).zip ss).map fun p => srcVal p.2.attr.fmt p.1.1 p.1.2
    let shape ← c.store s ds (vals [])
    .ok ⟨els.flatMap ElemLoc.all, shape.1, fun bs olds =>
      match c.store s ds (vals bs) with
      | .ok w => w.2 olds
      | .error _ => ([], 0)⟩

/-- The plan of a filled piece (R307, R324): raw, or by blocks with the value of the word. -/
def Cmd.fillPlan (c : Cmd) (s : State) (ds : List EngEl) : Except EFault Plan :=
  match ds with
  | [] => .ok ⟨[], [], fun _ _ => ([], 0)⟩
  | d :: _ =>
    if d.attr.block.isSome then do
      let w ← c.store s ds (ds.map fun e => (decTap e.attr.fmt (c.a.toNat % 2 ^ 8), 0))
      .ok ⟨[], w.1, fun _ olds => w.2 olds⟩
    else
      let ws := ds.flatMap fun e => e.bytes.zip (leBytes e.bytes.length c.a.toNat)
      .ok ⟨[], [], fun _ _ => (ws, 0)⟩

/-- Elements translated one after another. -/
def Cmd.elements (c : Cmd) (s : State) (acc : Acc) : List Word → Except EFault (List EngEl)
  | [] => .ok []
  | v :: vs => do
    let e ← c.element s acc v
    let es ← c.elements s acc vs
    .ok (e :: es)

/-- The elements of the piece that lands next: those from `done` on in one aligned 128 bytes of the destination, in one
run. -/
def Cmd.pieceLen (c : Cmd) : Nat :=
  let first := (c.dstAddr c.done).toNat / 128
  let room := min (c.total - c.done) (if c.kind = .cpy2d then c.width - c.done % c.width else c.total)
  1 + ((List.range (min (room - 1) 127)).takeWhile fun i => (c.dstAddr (c.done + i + 1)).toNat / 128 = first).length

/-- The places of a gather's indices for some elements: cause 9 on a page that is neither n32 nor i32 (R308). -/
def Cmd.indexLocs (c : Cmd) (s : State) (is : List Nat) : Except EFault (List Loc) := do
  let es ← c.elements s .load (is.map fun i => c.a + BitVec.ofNat 64 (4 * i))
  if es.all fun e => e.attr.fmt == .n32 || e.attr.fmt == .i32 then .ok (es.flatMap (·.bytes)) else .error (9, c.a.toNat, false)

/-- The numbers that groups of four bytes hold. -/
def words32 : List Byte → List Nat
  | a :: b :: c :: d :: r => leNat [a, b, c, d] :: words32 r
  | _ => []

/-- The places of element i of the source with its scale byte (R159); of a gather's element its index first, then, when that is at
hand, the element that it names. -/
def Cmd.srcLocs (c : Cmd) (s : State) (i : Nat) : Except EFault (List Loc) :=
  let all (e : EngEl) : List Loc := e.bytes ++ e.scale.toList
  match c.kind with
  | .cfill => .ok []
  | .chrecv => .ok []
  | .cred => (c.xlate s .load (c.srcAddr i 0).toNat false).map fun x => [x.loc]
  | .chsend => (c.xlate s .load (c.srcAddr i 0).toNat false).map fun x => [x.loc]
  | .cgather => do
    let ls ← c.indexLocs s [i]
    if ls.any c.lacks then .ok ls
    else do
      let e ← c.element s .load (c.srcAddr i (leNat (c.srcBytes ls)))
      .ok (ls ++ all e)
  | _ => (c.element s .load (c.srcAddr i 0)).map all

/-- The plan of elements with their indices at hand. -/
def Cmd.plan (c : Cmd) (s : State) (is ixs : List Nat) : Except EFault Plan := do
  let ds ← c.elements s .store (is.map c.dstAddr)
  match c.kind with
  | .cfill => c.fillPlan s ds
  | _ => do
    let ss ← c.elements s .load ((is.zip ixs).map fun p => c.srcAddr p.1 p.2)
    if c.raw = some true then .ok (rawPlan ss ds) else c.convPlan s ss ds

/-- Whether no lane of so many bytes spans pages whose attributes differ (R201, R308). -/
def lanesAlike (w : Nat) (xs : List Xl) : Bool :=
  (List.range (xs.length / w)).all fun i => match (xs.drop (i * w)).take w with
    | x :: r => r.all (·.same x)
    | [] => true

/-- The plan of a channel's message (R245): raw bytes, on pages of its format. -/
def Cmd.messagePlan (c : Cmd) (s : State) (n : Nat) (f : Fmt) : Except EFault Plan := do
  let ds ← c.xlates s .store (c.dstAddr c.done) n
  let ss ← c.xlates s .load (c.srcAddr c.done 0) n
  if !(ds ++ ss).all (·.attr.fmt == f) then .error (9, c.d.toNat, false)
  else if !(lanesAlike (f.memWidth / 8) ds && lanesAlike (f.memWidth / 8) ss) then .error (6, c.d.toNat, false)
  else .ok ⟨ss.map (·.loc), [], fun bs _ => ((ds.map (·.loc)).zip bs, 0)⟩

/-- The place of byte i of a reduction's destination (R247): as translated at issue, or the fault that was found then. -/
def Cmd.resultLoc (c : Cmd) (i : Nat) : Except EFault Loc :=
  match c.dst.getD i (.fault 2 (c.dstAddr i).toNat) with
  | .place l => .ok l
  | .fault k va => .error (k, va, false)

/-- The plan of a reduction's result (R331): raw bytes. -/
def Cmd.resultPlan (c : Cmd) (n : Nat) : Except EFault Plan := do
  let ds ← (span c.done n).mapM c.resultLoc
  .ok ⟨[], [], fun _ _ => (ds.zip (c.inbuf.drop c.done), 0)⟩

/-! ### Faults, groups, flags of a command -/

/-- The launch of a command's context. -/
def State.cmdLaunch (s : State) (c : Cmd) : Option Launch := (s.workerOf c.ctx).map (·.1)

/-- Bytes of a command that leave its group's PEND (R161); none where fewer are pending (R25). -/
def State.unpend (s : State) (e : Bool) (c : Cmd) (n : Nat) : Option State :=
  match c.nt.gv, c.nt.word, s.cmdLaunch c with
  | true, some w, some l => if n = 0 then some s else s.subPend l w.group n c.ctx e c.qix
  | _, _, _ => some s

/-- The imprecise fault of a command (R161, R258): it writes nothing further; PEND loses what it will never land. -/
def State.cmdFault (s : State) (core : Nat) (e : Bool) (c : Cmd) (cls : Nat) (f : EFault) : State :=
  let s := s.setCmd core e { c with phase := .faulted, pend := 0, banks := 0, tag := none, afar := false }
  let s := (s.unpend e c c.pend).getD s
  let x := s.ctx c.ctx
  s.setCtx c.ctx { x with impq := x.impq ++ [⟨cls, f.1, engName e, c.qix, c.ba, if cls = 14 ∧ 8 ≤ f.1 then 0 else f.2.1, f.2.2⟩] }

/-- A command that consumes poisoned data (R300): it ends, and its context takes the fatal context error. -/
def State.cmdPoison (s : State) (core : Nat) (e : Bool) (c : Cmd) (pa : Nat) : State :=
  ((s.cmdFault core e c 14 (10, 0, false)).logged (.poison pa)).fatalCtx c.ctx

/-- The scope from a command's context to the unit that holds a destination byte (R182). -/
def Cmd.unitScope (c : Cmd) (l : Loc) : Scope :=
  match l with
  | .sp _ => .core
  | .mc _ _ => if c.kind = .cmcast then .die else .core
  | .mem pa => if pa / 2 ^ 36 / 2 = dieOf c.ctx then .die else .package
  | .peer _ _ => .pod
  | .win wn _ _ _ => match Map.find c.wins wn.val with | some w => w.maxsc | none => .pod
  | .lit _ => .core

/-- The scope that the increment of a command's flag carries when its whole destination lies in a shared window: MAXSC, whatever the
placements (R182). -/
def Cmd.winScope (c : Cmd) : Option Scope :=
  match c.dstRanges with
  | [] => none
  | r :: rs =>
    match winAt c.wins false r.1 with
    | some (_, w) => if (r :: rs).all fun q => w.base ≤ q.1 && q.1 + q.2 ≤ w.base + w.len then some w.maxsc else none
    | none => none

/-! ### Landing (R161) -/

/-- A byte of the destination as it stands where writes land. -/
def Cmd.oldByte (c : Cmd) (s : State) (l : Loc) : Option Byte :=
  match l with
  | .peer _ _ => none
  | .mem pa => some (Memory.read s.mem pa)
  | .win wn va off _ => (s.copyOf c.ctx wn va).map fun k => Memory.read (s.core (coreOf c.ctx)).sp (k.frame + off)
  | _ => (c.spOf l).map (Memory.read (s.core (coreOf c.ctx)).sp)

/-- A byte landed at its point of coherence (R172, R159). -/
def Cmd.put (c : Cmd) (s : State) (l : Loc) (b : Byte) : State :=
  match c.spOf l with
  | some o =>
    let k := s.core (coreOf c.ctx)
    s.setCore (coreOf c.ctx) { k with sp := Memory.write k.sp o b }
  | none => s.putByte c.ctx .memory l b

/-- Lines of ordinary memory brought to their point of coherence. -/
def State.enterAll (s : State) (x : Nat) (ls : List Loc) : State :=
  ls.foldl (fun s l => match l with
    | .mem pa => s.enter x .memory (pa / 128)
    | _ => s) s

/-- The multicast windows that some writes go to. -/
def mcastWins (ws : List (Loc × Byte)) : List (Fin 16) :=
  (ws.filterMap fun w => match w.1 with
    | .mc k _ => some k
    | _ => none).eraseDups

/-- The pieces of a CMCAST on their way to the members of their windows in this die cycle (R325). -/
def State.mcastOut (s : State) (x : Nat) (e : Bool) (ws : List (Loc × Byte)) : State :=
  let d := s.die (dieOf x)
  s.setDie (dieOf x) { d with mcast := d.mcast ++ (mcastWins ws).map fun k =>
    ⟨0, (s.ctx x).launchKey, k, x, some e, ws.filterMap (mcCell k.val), none, []⟩ }

/-- A piece has landed: its bytes leave PEND (R161); the last piece ends the command's writes. -/
def State.pieceDone (s : State) (core : Nat) (e : Bool) (c : Cmd) (n : Nat) : State :=
  let bytes := min (n * c.ed) c.pend
  let c' := { c with
    done := c.done + n, pend := c.pend - bytes, inbuf := if c.kind = .cred then c.inbuf else [], out := none, tag := none
    phase := if c.total ≤ c.done + n then .landed else c.phase
    banks := if c.total ≤ c.done + n then 0 else c.banks }
  let t := s.setHead core e c'
  match t.unpend e c bytes with
  | some u => u
  | none => t.cmdFault core e { c' with pend := 0 } 14 (8, 0, false)

/-- Whether an element from the i-th on has a byte in the local aperture at either end (R157): of a gather its index, or its base. -/
def Cmd.localFrom (c : Cmd) (i : Nat) : Bool :=
  (span i (c.total - i)).any fun j =>
    inAperture (c.dstAddr j).toNat || match c.kind with
      | .cgather => inAperture (c.a + BitVec.ofNat 64 (4 * j)).toNat || inAperture c.b.toNat
      | .cfill => false
      | _ => inAperture (c.srcAddr j 0).toNat

/-- A walk for a command's miss in the die's TLB (R197, R202): the command waits. -/
def State.engineWalk (s : State) (c : Cmd) (va : Nat) : State :=
  let d := dieOf c.ctx
  s.setDie d ((s.die d).queueWalk (field c.ptroot.toNat 51 13 * 8192) (field c.ptroot.toNat 63 52) (va57 va) [] s.clock)

/-- A fault that a command's translation finds, the walk that it waits for, or the fatal context error of a poisoned table (R202, R300). -/
def State.engineStop (s : State) (core : Nat) (e : Bool) (c : Cmd) (f : EFault) : State :=
  if f.1 = missCause then s.engineWalk c f.2.1
  else if f.1 < 16 then s.cmdFault core e c 14 f
  else s.cmdPoison core e c (f.1 - 16)

/-- An access of a command to a window's object ends in a fault (R167, R207, R300, R301), or the copy that it needs is asked for. -/
def State.askForCmd (s : State) (core : Nat) (e : Bool) (c : Cmd) (own : Bool) (o : Fin 16 × Nat × WObj) : State :=
  if (s.copyOf c.ctx o.1 o.2.1).isNone && s.unbacked o.2.2 then
    (s.cmdFault core e c 14 (10, 0, false)).exportFault c.ctx c.ba (o.2.2.tas.headD 0)
  else if s.beyond o.2.2 then s.cmdFault core e c 14 (10, 0, false)
  else
    match (s.copyOf c.ctx o.1 o.2.1).elim (s.homePoison o.2.2) fun _ => none with
    | some pa => s.cmdPoison core e c pa
    | none => s.askCopy c.ctx o.1 o.2.1 o.2.2 own c.ba

/-- The next writes of a piece, or the piece is done: a packet to a peer (R206), or the bytes whose copies allow a write. -/
def State.pushOut (s : State) (core : Nat) (e : Bool) (c : Cmd) (ws : List (Loc × Byte)) (n : Nat) : State :=
  match ws with
  | [] => s.pieceDone core e c n
  | w :: _ =>
    match peerRun (ws.map (·.1)) with
    | some (pkg, ta, k) =>
      let r := s.request c.ctx pkg 0 .write ta k (flitsOf ((ws.take k).map (·.2))) (.copyWrite core e) c.ba
      r.1.setHead core e { c with tag := some r.2, out := some (ws.drop k) }
    | none =>
      match s.readyRun c.ctx true ((s.ctx c.ctx).runOf (ws.map (·.1)) []), objectsOf [w.1] with
      | [], o :: _ => (s.setHead core e { c with out := some ws }).askForCmd core e c true o
      | run, _ =>
        let t := (ws.take run.length).foldl (fun s w => c.put s w.1 w.2) s
        if run.length < ws.length then t.setHead core e { c with out := some (ws.drop run.length) } else t.pieceDone core e c n

/-- The writes of a piece made: into the package at once, to peers by packets; a CMCAST's go out to every member in this die cycle
(R325). When the command's last scratchpad byte has been read or written its banks are free (R157). -/
def State.landPiece (s : State) (core : Nat) (e : Bool) (c : Cmd) (n : Nat) (ws : List (Loc × Byte)) (fl : Flags) : State :=
  let c := { c with
    fl := c.fl ||| fl, sc := ws.foldl (fun m w => m.max (c.unitScope w.1)) c.sc
    banks := if c.localFrom (c.done + n) then c.banks else 0 }
  let s := s.useDieTlb (dieOf c.ctx) fun t => ws.any fun w => t.gives (field c.ptroot.toNat 63 52) w.1
  let away := ws.filter (·.1.isPeer)
  if c.kind = .cmcast then
    let here := ws.filter fun w => match w.1 with | .mc _ _ => false | l => !l.isPeer
    (here.foldl (fun s w => c.put s w.1 w.2) (s.mcastOut c.ctx e ws)).setHead core e { c with phase := .waiting, out := some away }
  else ((ws.filter (!·.1.isPeer)).foldl (fun s w => c.put s w.1 w.2) s).pushOut core e c away n

/-- The writes of a piece that needs two objects of one frame (R165): one after another. -/
def State.landApart (s : State) (core : Nat) (e : Bool) (c : Cmd) (n : Nat) (ws : List (Loc × Byte)) (fl : Flags) : State :=
  let c := { c with
    fl := c.fl ||| fl, sc := ws.foldl (fun m w => m.max (c.unitScope w.1)) c.sc
    banks := if c.localFrom (c.done + n) then c.banks else 0 }
  s.pushOut core e c (ws.filter (!·.1.isPeer) ++ ws.filter (·.1.isPeer)) n

/-- A read of the next run of bytes that a command needs from peers, for its source or for the blocks that it writes in part. -/
def State.fetchPeer (s : State) (core : Nat) (e : Bool) (c : Cmd) (ls : List Loc) (source : Bool) : State :=
  match peerRun ls with
  | none => s
  | some (pkg, ta, k) =>
    let r := s.request c.ctx pkg 0 .read ta k [] (.copyRead core e) c.ba
    r.1.setCmd core e { c with tag := some r.2, asking := if source then ls.take k else [], tr := s.clock }

/-- The old bytes of windows that a piece reads apart (R165): the next ones, read from the core's copy or asked for. -/
def State.fetchOld (s : State) (core : Nat) (e : Bool) (c : Cmd) (ls : List Loc) : State :=
  match s.readyRun c.ctx false ((s.ctx c.ctx).runOf (ls.takeWhile (!·.isPeer)) []), objectsOf (ls.take 1) with
  | [], o :: _ => s.askForCmd core e c false o
  | run, _ =>
    let bs := run.map fun l => (s.getByte c.ctx .memory l).2
    (s.spendCopies c.ctx (objectsOf run)).setHead core e { c with inbuf := c.inbuf ++ bs }

/-- Whether the places that a piece reads and writes need two objects of one frame (R165). -/
def Cmd.apart (c : Cmd) (s : State) (ls : List Loc) : Bool :=
  let here := ls.filter (!·.isPeer)
  ((s.ctx c.ctx).runOf here []).length < here.length

/-- A planned piece carried on: a source byte not read yet is read first; old bytes of blocks that lie with peers, or apart, are asked
for, its windows' copies are asked for, then it lands. -/
def State.runPlan (s : State) (core : Nat) (e : Bool) (c : Cmd) (n : Nat) (ixs : List Loc) (p : Plan) : State :=
  if (ixs ++ p.reads).any c.lacks then s.setHead core e { c with afar := true, seen := c.done }
  else
    match s.poisonOf (ixs ++ p.reads ++ p.olds) with
    | some pa => s.cmdPoison core e c pa
    | none =>
      let bs := c.srcBytes p.reads
      let dst := (p.writes bs []).1.map (·.1)
      let apart := c.apart s (p.olds ++ dst)
      let wanted := p.olds.filter fun l => l.isPeer || (apart && !(objectsOf [l]).isEmpty)
      match wanted.drop c.inbuf.length with
      | l :: ls => if l.isPeer then s.fetchPeer core e c (l :: ls) false else s.fetchOld core e c (l :: ls)
      | [] =>
        match if apart then none else s.missing c.ctx true dst with
        | some o => s.askForCmd core e c true o
        | none =>
          if !(ixs ++ p.reads ++ dst).all s.locInStack then s.cmdFault core e c 14 (10, 0, false)
          else
            let t := s.enterAll c.ctx (p.olds ++ dst)
            let old (l : Loc) : Option Byte := if apart && !(objectsOf [l]).isEmpty then none else c.oldByte t l
            let w := p.writes bs (takeBytes old p.olds c.inbuf).1
            if apart then t.landApart core e c n w.1 w.2 else t.landPiece core e c n w.1 w.2

/-! ### Channels (R244, R245) -/

/-- A channel entry's fields (R244). -/
structure Chan where
  buf : Nat
  dest : Nat
  cnta : Nat
  cntb : Nat
  ecm1 : Nat
  fmt : Nat
  depth : Nat
  dir : Bool
  peerch : Nat
  pkg : Nat
  loc : Nat
  prim : Bool
  pos : Nat
  rsvd : Nat
  deriving DecidableEq, Repr

/-- The fields of an entry. -/
def Chan.of (v : Nat) : Chan :=
  ⟨field v 511 448, field v 447 384, field v 383 352, field v 351 320, field v 319 300, field v 299 296, field v 295 288,
   field v 287 287 == 1, field v 286 279, field v 278 267, field v 266 258, field v 257 257 == 1, field v 256 249, field v 248 0⟩

/-- The message size in bytes (R244). -/
def Chan.mb (c : Chan) : Nat := (c.ecm1 + 1) * (((Fmt.ofCode c.fmt).getD .n8).memWidth / 8)

/-- An entry that is not malformed (R244). -/
def Chan.ok (c : Chan) : Bool :=
  (Fmt.ofCode c.fmt).isSome && c.depth != 0 && c.mb % 128 == 0 && (c.dir || !c.prim) && c.pos < c.depth && c.rsvd == 0

/-- The bytes of an entry at its point of coherence: in memory, or in the scratchpad of a context's core. -/
def State.chanBits (s : State) (x : Nat) (l : Loc) : Nat :=
  match l with
  | .mem pa => leNat (Memory.readN s.mem pa 64)
  | .sp o => leNat (Memory.readN (s.core (coreOf x)).sp o 64)
  | _ => 0

/-- The channel entry at a place. -/
def State.chan (s : State) (x : Nat) (l : Loc) : Chan := Chan.of (s.chanBits x l)

/-- A field of an entry written. -/
def State.setChan (s : State) (x : Nat) (l : Loc) (hi lo v : Nat) : State :=
  let bs := leBytes 64 (setField (s.chanBits x l) hi lo v)
  match l with
  | .mem pa => s.memWrite (cellsAt pa bs)
  | .sp o => s.setCore (coreOf x) { s.core (coreOf x) with sp := Memory.writeAll (s.core (coreOf x)).sp (cellsAt o bs) }
  | _ => s

/-- An arrival or a credit sent to the peer of a channel (R245). -/
def State.tellPeer (s : State) (x : Nat) (k : Chan) (arrival : Bool) : State :=
  if k.pkg = s.hub.pkgid then
    s.send (if arrival then .chanArrival (ctxOfLoc k.loc) k.peerch else .chanCredit (ctxOfLoc k.loc) k.peerch)
  else (s.request x k.pkg k.loc .credit 0 (k.peerch + (if arrival then 256 else 0)) [] (.post x) 0).1

/-- A waiting channel command carried on (R245). -/
def State.chanStep (s : State) (core : Nat) (e : Bool) (c : Cmd) : State :=
  let s := s.enterAll c.ctx [c.entry]
  let k := s.chan c.ctx c.entry
  match s.poisonOf [c.entry], c.kind with
  | some pa, _ => s.cmdPoison core e c pa
  | none, .chsend =>
    if (k.cnta + 2 ^ 32 - k.cntb) % 2 ^ 32 < k.depth then
      let off := BitVec.ofNat 64 (k.pos * k.mb)
      s.setHead core e { c with
        phase := .running, total := k.mb, es := 1, ed := 1, afar := true, seen := 0
        d := BitVec.ofNat 64 k.dest + off, a := BitVec.ofNat 64 k.buf + off }
    else s
  | none, _ =>
    let ahead := (k.cnta + 2 ^ 32 - c.count) % 2 ^ 32
    if 1 ≤ ahead ∧ ahead < 2 ^ 31 then
      ((s.setChan c.ctx c.entry 351 320 (c.count + 1)).setChan c.ctx c.entry 256 249 ((k.pos + 1) % k.depth)).setHead core e
        { c with phase := .landed }
    else s

/-- A CHSEND whose last byte has landed: CNTA, from its value at the start, and POS step, the arrival goes to the peer (R245). -/
def State.chanSent (s : State) (c : Cmd) : State :=
  let s := s.enterAll c.ctx [c.entry]
  let k := s.chan c.ctx c.entry
  ((s.setChan c.ctx c.entry 383 352 (c.count + 1)).setChan c.ctx c.entry 256 249 ((k.pos + 1) % k.depth)).tellPeer c.ctx k true

/-! ### The start of a command -/

/-- The attributes of the pages at some addresses; those that do not translate are passed over, and a miss is waited for. -/
def Cmd.attrsAt (c : Cmd) (s : State) (acc : Acc) : List Nat → Except EFault (List Attr)
  | [] => .ok []
  | va :: vas =>
    match c.xlate s acc va false with
    | .ok x => (c.attrsAt s acc vas).map (x.attr :: ·)
    | .error f => if f.1 = missCause then .error f else c.attrsAt s acc vas

/-- The granules of a command's ranges with the kind of their access; a gather's source is looked at element by element. -/
def Cmd.granules (c : Cmd) : List (Acc × Nat) :=
  (if c.kind = .cgather then [] else (c.srcRanges.flatMap granulesOf).map fun va => (Acc.load, va)) ++
    (c.dstRanges.flatMap granulesOf).map fun va => (Acc.store, va)

/-- How many pages the choice between a raw copy and a conversion looks at. -/
def Cmd.scanLen (c : Cmd) : Nat := c.granules.length + if c.kind = .cgather then c.total else 0

/-- The attributes of the i-th of them. -/
def Cmd.scanItem (c : Cmd) (s : State) (i : Nat) : Except EFault (List Attr) :=
  match c.granules[i]? with
  | some g => c.attrsAt s g.1 [g.2]
  | none => do
    let ls ← c.indexLocs s [i - c.granules.length]
    c.attrsAt s .load (granulesOf ((c.srcAddr 0 (leNat (c.srcBytes ls))).toNat, max c.es 1))

/-- The pages looked at on, through the die's TLB (R202): the command, and the address whose walk it waits for. -/
def Cmd.scanOn (c : Cmd) (s : State) : Nat → Cmd × Option Nat
  | 0 => (c, none)
  | n + 1 =>
    if c.scanLen ≤ c.scan then (c, none)
    else
      match c.scanItem s c.scan with
      | .ok as => { c with scan := c.scan + 1, keys := (c.keys ++ as).eraseDups }.scanOn s n
      | .error f => if f.1 = missCause then (c, some f.2.1) else { c with scan := c.scan + 1 }.scanOn s n

/-- The indices of a gather, if all are at hand. -/
def Cmd.indices (c : Cmd) (s : State) : Option (List Nat) :=
  (List.range c.total).mapM fun i =>
    match c.indexLocs s [i] with
    | .ok ls => (ls.mapM c.srcByte).map leNat
    | .error _ => none

/-- What raw copies compare of a page: its format and, for tapered formats, its block length. -/
def Attr.key (a : Attr) : Fmt × Nat := (a.fmt, if a.fmt.isTap then a.bl.val else 0)

/-- Whether a command copies raw, decided once from the pages of its two ends (R307, R326), all of which have been looked at. A gather
of blocked elements converts: its source is no run of blocks. -/
def Cmd.isRaw (c : Cmd) : Bool :=
  match c.keys with
  | [] => true
  | a :: _ =>
    c.keys.all (fun b => b.key == a.key) &&
    match a.block with
    | none => true
    | some bl =>
      c.kind != .cgather && c.runs.all fun r =>
        (c.srcAddr r.1 0).toNat % bl == 0 && (c.dstAddr r.1).toNat % bl == 0 && r.2 % bl == 0

/-- Whether an earlier CRED of the context on the same entry is still in work (R247). -/
def State.credBefore (s : State) (core : Nat) (e : Bool) (c : Cmd) : Bool :=
  ((s.core core).queue (!e)).any fun o =>
    o.kind == .cred && o.ctx == c.ctx && (o.rw.map (·.rid)) == (c.rw.map (·.rid)) &&
    (o.came < c.came || (o.came == c.came && e))

/-- The size in memory of an element at an address; 1 where a fault is to be found there. -/
def Cmd.sizeAt (c : Cmd) (s : State) (acc : Acc) (va : Word) : Except EFault Nat :=
  match c.xlate s acc va.toNat false with
  | .ok x => .ok (x.attr.fmt.memWidth / 8)
  | .error f => if f.1 = missCause then .error f else .ok 1

/-- A command with the element sizes of its two ends (R305) where they were not known at issue, or the miss that is waited for. -/
def Cmd.sized (c : Cmd) (s : State) : Except EFault Cmd := do
  let es ← if c.es = 0 then c.sizeAt s .load (if c.kind = .cgather then c.b else c.a) else .ok c.es
  let ed ← if c.ed = 0 then c.sizeAt s .store c.d else .ok c.ed
  .ok { c with es := es, ed := ed }

/-- Whether every read that a context made before a CHRECV has been made: its loads, and its earlier commands' sources (R245). -/
def State.readsMade (s : State) (e : Bool) (c : Cmd) : Bool :=
  let k := s.core (coreOf c.ctx)
  ((s.ctx c.ctx).mops.all fun m => !m.isLoad || m.performed || c.came < m.born) &&
  (k.queue (!e)).all fun o => o.ctx != c.ctx || !o.afar || c.came < o.came || (c.came == o.came && !e)

/-- The start of a queued command (R158, R202, R245, R247): pages that were not mapped at issue give their element sizes now. A CHRECV's
credit comes after the reads that the receiver made before it. -/
def State.startCmd (s : State) (core : Nat) (e : Bool) (c : Cmd) : State :=
  match c.kind with
  | .cred => if s.credBefore core e c then s else s.setHead core e { c with phase := .running }
  | .chsend =>
    let c := { c with phase := .waiting, count := (s.chan c.ctx c.entry).cnta }
    (s.setHead core e c).chanStep core e c
  | .chrecv =>
    let s := s.enterAll c.ctx [c.entry]
    let k := s.chan c.ctx c.entry
    match s.poisonOf [c.entry] with
    | some pa => s.cmdPoison core e c pa
    | none =>
    if k.prim && !s.readsMade e c then s
    else
    let s := if k.prim then s.tellPeer c.ctx k false else s.setChan c.ctx c.entry 257 257 1
    s.setHead core e { c with phase := .waiting, count := k.cntb }
  | _ =>
    if c.total = 0 then s.setHead core e { c with phase := .landed, banks := 0 }
    else
      match c.sized s with
      | .error f => s.engineWalk c f.2.1
      | .ok c => s.setHead core e { c with phase := .running }

/-- COPY_ENGINE_START (R158): an engine starts its oldest queued command. -/
def State.copyStart (s : State) (core : Nat) (e : Bool) : State :=
  match s.headCmd core e with
  | some c => if c.phase = .queued && !s.stopped core then s.startCmd core e c else s
  | none => s

/-- COPY_ENGINE_START of a core's engine. -/
def execCopyEngineStart (c : CoreId) (e : Bool) (s : State) : Host.Outcome State Fault Refusal := .next (s.copyStart c.val e)

/-! ### The end of a window (R166) -/

/-- Whether bytes of a range, or scale bytes of blocks in it (R93), may lie in a window. -/
def Cmd.touchesWin (c : Cmd) (w : Win) (r : Nat × Nat) : Bool :=
  overlap r.1 r.2 w.base w.len ||
  c.scwb.toList.any fun b => [16, 32, 64].any fun bl => overlap (b.toNat + r.1 / bl) (r.2 / bl + 1) w.base w.len

/-- Whether a command in work has still to read or to write in a window; a gather that has not read its elements may, and an end whose
element size is not known yet is taken at the widest. -/
def Cmd.uses (k : Cmd) (w : Win) : Bool :=
  let c := { k with es := if k.es = 0 then 8 else k.es, ed := if k.ed = 0 then 8 else k.ed }
  match c.phase, c.kind with
  | .landed, _ => false
  | .faulted, _ => false
  | _, .chrecv => false
  | .queued, .chsend => false
  | .waiting, .chsend => false
  | _, _ =>
    c.dstRanges.any (c.touchesWin w) || (c.afar && (c.kind == .cgather || c.srcRanges.any (c.touchesWin w)))

/-- One context's drops carried on once the WDROP's bundle has committed (R166, R386): a multicast member leaves at once; a shared window's accesses and the copy commands
that use it end first, then its copies are given up, and when the home has acknowledged the last the number is free. -/
def State.settleDrops (s : State) (x : Nat) : State :=
  (s.ctx x).wins.foldl (fun s p =>
    let c := s.ctx x
    let k := s.core (coreOf x)
    if !p.2.dropping || c.midBundle then s
    else if p.2.mcast then s.setCtx x { c with wins := Map.drop c.wins p.1 }
    else if c.mops.any (·.usesWin p.1) || (k.c0 ++ k.c1).any (fun j => j.ctx == x && j.uses p.2) then s
    else
      let mine := k.wcopy.filter fun j => j.ctx == x && j.wn.val == p.1
      if mine.isEmpty then s.setCtx x { c with wins := Map.drop c.wins p.1 }
      else mine.foldl State.evictCopy s) s

/-! ### CRED's contribution (R247, R330) -/

/-- The extension bits of a contribution: the reduction word, the sequence number, the length, the place of the payload in
it, and at bit 127 whether the supervisor issued it (log entry 19). -/
def credExt (w : RedWord) (seq len off : Nat) : Nat := w.word.toNat + seq * 2 ^ 32 + len * 2 ^ 64 + off * 2 ^ 96

/-- The contribution sent to the hub, up to 2 KiB a packet. -/
def State.contribute (s : State) (core : Nat) (e : Bool) (c : Cmd) (w : RedWord) (bs : List Byte) : State :=
  let seq := field c.b.toNat 63 32
  let n := max 1 ((bs.length + 2047) / 2048)
  let s := (List.range n).foldl (fun s i =>
    let part := (bs.drop (2048 * i)).take 2048
    (s.request c.ctx s.hub.pkgid (locOf c.ctx) .contrib 0 (credExt w seq c.total (2048 * i) + ofBit c.sup * 2 ^ 127)
      (flitsOf part) (.copyRead core e) c.ba).1) s
  s.setHead core e { c with phase := .waiting, raw := some false, inbuf := [] }

/-- The bytes of a reduction's lane (R247). -/
def redLane (w : RedWord) : Nat := 2 ^ w.lw.val

/-- A CRED whose source has been read in full sends it (R330). -/
def State.credRead (s : State) (core : Nat) (e : Bool) (c : Cmd) (w : RedWord) : State :=
  match c.xlates s .load c.a (min c.total 4096) with
  | .error f => s.engineStop core e c f
  | .ok xs =>
    let ls := xs.map (·.loc)
    if !lanesAlike (redLane w) xs then s.cmdFault core e c 14 (6, c.a.toNat, false)
    else if ls.any c.lacks then s.setHead core e { c with afar := true, seen := 0 }
    else
      match s.poisonOf ls with
      | some pa => s.cmdPoison core e c pa
      | none => if ls.all s.locInStack then s.contribute core e c w (c.srcBytes ls) else s.cmdFault core e c 14 (10, 0, false)

/-! ### COPY_DATA_LAND (R161) -/

/-- A command that has chosen between a raw copy and a conversion (R307), or the address whose walk it waits for. -/
def Cmd.chosen (c : Cmd) (s : State) : Cmd × Option Nat :=
  match c.raw, c.kind with
  | some _, _ => (c, none)
  | none, .cfill => ({ c with raw := some false }, none)
  | none, .chsend => ({ c with raw := some true }, none)
  | none, _ =>
    let q := c.scanOn s (c.scanLen - c.scan)
    (if q.2.isNone then { q.1 with raw := some q.1.isRaw } else q.1, q.2)

/-- The next piece of a running command whose way of copying is chosen. -/
def State.doPiece (s : State) (core : Nat) (e : Bool) (k : Cmd) : State :=
  let c := { k with tr := s.clock }
  let n := c.pieceLen
  let is := span c.done n
  let go (ixs : List Loc) (p : Except EFault Plan) : State :=
    match p with
    | .error f => s.engineStop core e c f
    | .ok p => s.runPlan core e c n ixs p
  match c.kind with
  | .cgather =>
    match c.indexLocs s is with
    | .error f => s.engineStop core e c f
    | .ok ls =>
      if ls.any c.lacks then s.setHead core e { c with afar := true, seen := c.done }
      else go ls (c.plan s is (words32 (c.srcBytes ls)))
  | .chsend => go [] (c.messagePlan s n ((Fmt.ofCode (s.chan c.ctx c.entry).fmt).getD .n8))
  | .cred => go [] (c.resultPlan n)
  | _ => go [] (c.plan s is (List.replicate n 0))

/-- The next piece of a running command. -/
def State.nextPiece (s : State) (core : Nat) (e : Bool) (c : Cmd) : State :=
  match c.chosen s with
  | (k, some va) => (s.setHead core e k).engineWalk k va
  | (k, none) => s.doPiece core e k

/-- Source bytes that a command has read, put with the others. -/
def Cmd.got (c : Cmd) (bs : List (Loc × Byte)) : Cmd := { c with src := { c.src with got := c.src.got ++ bs }, asking := [] }

/-- The bytes of a window's object among some places, read from a context's copy. -/
def State.copyReads (s : State) (x : Nat) (o : Fin 16 × Nat × WObj) (ls : List Loc) : List (Loc × Byte) :=
  ls.filterMap fun l => match l with
    | .win wn va off _ =>
      if wn = o.1 ∧ va = o.2.1 then (s.copyOf x wn va).map fun c => (l, Memory.read (s.core (coreOf x)).sp (c.frame + off)) else none
    | _ => none

/-- A command's source bytes in aperture pages and windows read, element by element (R159, R206): those of peers by read packets,
those of windows from the core's copies. An element whose address does not translate is passed over: its piece finds the fault. -/
def State.gather (s : State) (core : Nat) (e : Bool) (c : Cmd) : Nat → State
  | 0 => s.setCmd core e c
  | n + 1 =>
    if c.total ≤ c.seen then s.setCmd core e { c with afar := false }
    else
      match c.srcLocs s c.seen with
      | .error f => if f.1 = missCause then (s.setCmd core e c).engineWalk c f.2.1 else s.gather core e { c with seen := c.seen + 1 } n
      | .ok ls =>
        match ls.filter c.lacks with
        | [] => s.gather core e { c with seen := c.seen + 1 } n
        | l :: r =>
          if l.isPeer then s.fetchPeer core e c (l :: r) true
          else
            match objectsOf [l] with
            | [] => s.gather core e { c with seen := c.seen + 1 } n
            | o :: _ =>
              if s.objReady c.ctx false o then
                (s.spendCopies c.ctx [o]).gather core e (c.got (s.copyReads c.ctx o (l :: r))) n
              else
                let c := { c with asking := [l], tr := s.clock }
                (s.setCmd core e c).askForCmd core e c false o

/-- Whether an earlier store of a command's context to an aperture page or a window is still to be made: the command's reads come
after it (R159, R175). -/
def State.storesOwed (s : State) (c : Cmd) : Bool :=
  (s.ctx c.ctx).mops.any fun m => m.isStore && !m.performed && m.born ≤ c.came &&
    m.locs.any fun l => match l with | .peer _ _ => true | .win _ _ _ _ => true | _ => false

/-- The oldest command of an engine with source bytes still to be read reads them on, whether or not it has started (R159). -/
def State.copyGather (s : State) (core : Nat) (e : Bool) : State :=
  match ((s.core core).queue e).find? fun c => c.afar && c.phase != .faulted with
  | none => s
  | some c =>
    if s.stopped core || c.tag.isSome || s.storesOwed c then s
    else
      match c.sized s with
      | .error f => s.engineWalk c f.2.1
      | .ok k => s.gather core e k (4 * c.total + 4)

/-- A piece of a CMCAST has landed in every member, those of frozen pairs included (R325). -/
def State.mcastLanded (s : State) (core : Nat) (e : Bool) : Bool :=
  let held (l : List Held) : Bool := l.any fun h => match h with | .cells _ _ src => src == some (core, e) | _ => false
  !((s.die (core / 40)).mcast.any fun m => coreOf m.ctx == core && m.eng == some e) &&
  !(s.pairs.any fun p => p.2.frozen.elim false fun f => held f.held) && !(s.hub.images.any fun i => held i.2.held)

/-- One step of an engine's work (R161): a piece of at most 128 destination bytes lands, or what it needs is asked for. -/
def State.copyLand (s : State) (core : Nat) (e : Bool) : State :=
  match s.headCmd core e with
  | none => s
  | some c =>
    if s.stopped core || c.tag.isSome then s
    else
      match c.phase with
      | .running =>
        if c.afar then s.copyGather core e
        else
          match c.kind, c.raw, c.rw with
          | .cred, none, some w => s.credRead core e c w
          | _, _, _ =>
            if c.total ≤ c.done then s.setHead core e { c with phase := .landed, banks := 0 }
            else
              match c.out with
              | some ws => s.pushOut core e c ws c.pieceLen
              | none => s.nextPiece core e c
      | .waiting =>
        match c.kind with
        | .cred => s
        | .cmcast => if s.mcastLanded core e then s.pushOut core e { c with phase := .running } (c.out.getD []) c.pieceLen else s
        | _ => s.chanStep core e c
      | _ => s

/-- COPY_DATA_LAND of a core's engine. -/
def execCopyDataLand (c : CoreId) (e : Bool) (s : State) : Host.Outcome State Fault Refusal := .next (s.copyLand c.val e)

/-- The command of an engine that waits for a tag. -/
def State.cmdOf (s : State) (core : Nat) (e : Bool) (tag : Nat) : Option Cmd :=
  ((s.core core).queue e).find? fun c => c.tag == some tag

/-- Bytes that a peer answered to an engine (R206): source bytes, or old bytes of a block. -/
def State.copyGot (s : State) (core : Nat) (e : Bool) (tag : Nat) (bs : List Byte) : State :=
  match s.cmdOf core e tag with
  | some c =>
    if c.asking.isEmpty then s.setCmd core e { c with inbuf := c.inbuf ++ bs, tag := none }
    else s.setCmd core e { c.got (c.asking.zip bs) with tag := none }
  | none => s

/-- An acknowledgement of an engine's write (R234). -/
def State.copyAcked (s : State) (core : Nat) (e : Bool) (tag : Nat) : State :=
  match s.cmdOf core e tag with
  | some c => s.setCmd core e { c with tag := none }
  | none => s

/-- A fabric error of an engine's request (R308). A command that has not started fails when it would. -/
def State.copyFailed (s : State) (core : Nat) (e : Bool) (tag : Nat) : State :=
  match s.cmdOf core e tag with
  | some c => s.cmdFault core e { c with tag := none } 14 (10, 0, false)
  | none => s

/-! ### COPY_COMPLETE (R161, R182) -/

/-- An increment of a flag of a context of the package; it waits at the edge of a frozen pair (R269). -/
def State.bumpFlag (s : State) (y : Nat) (k : Fin 32) (n : Nat) (sc : Scope) : State :=
  match s.holdRequest (pairOf y) (.flag y k n sc) with
  | some t => t
  | none =>
    if s.exists? y && (s.ctx y).occ != .free then s.setCtx y ((s.ctx y).addFlag k n sc) else s.logged (.flagDiscard y)

/-- The extension bits of a flag increment: flag, count, scope (log entry 19). -/
def flagExt (k : Fin 32) (n : Nat) (sc : Scope) : Nat := k.val + n * 256 + sc.code * 2 ^ 32

/-- An increment on its way to the context that an identity names (R233, R338). -/
def State.postFlag (s : State) (x : Nat) (i : Ident) (k : Fin 32) (n : Nat) (sc : Scope) : State :=
  if i.pkg.toNat = s.hub.pkgid then s.send (.flag (ctxOfId i) k n sc)
  else (s.request x i.pkg.toNat (i.die.val * 128 + i.core.val * 2 + ofBit i.ctx) .flag 0 (flagExt k n sc) [] (.post x) 0).1

/-- The notifications of a completed command in their order (R161): flag, then user interrupt. -/
def State.notify (s : State) (e : Bool) (c : Cmd) : State :=
  let s := if c.kind = .chsend then s.chanSent c else s
  let x := s.ctx c.ctx
  let s := s.setCtx c.ctx { x with fpflags := x.fpflags ||| c.fl }
  let s := if !c.nt.fv then s
    else
      match c.nt.word.filter (·.rf) with
      | some w =>
        let sc := c.winScope.getD (if w.id.pkg.toNat = s.hub.pkgid then c.sc.max (scopeBetween c.ctx (ctxOfId w.id)) else .pod)
        s.postFlag c.ctx w.id c.nt.k 1 sc
      | none => s.bumpFlag c.ctx c.nt.k 1 c.sc
  if c.nt.ui then
    let x := s.ctx c.ctx
    if x.run = .running || x.run = .saving then
      s.setCtx c.ctx { x with uiq := x.uiq ++ [BitVec.ofNat 64 (ofBit e * 16 + c.qix)] }
    else s
  else s

/-- A command whose next piece lies in an object's copy (R308). -/
def Cmd.waitsIn (k : Cmd) (c : WCopy) : Bool :=
  k.ctx == c.ctx && k.phase == .running && (span k.done k.pieceLen).any fun i =>
    c.va ≤ (k.dstAddr i).toNat && (k.dstAddr i).toNat < c.va + c.obj.size

/-- COPY_COMPLETE (R161): the oldest command leaves its queue, with its notifications unless it has faulted. -/
def State.copyComplete (s : State) (core : Nat) (e : Bool) : State :=
  match s.headCmd core e with
  | none => s
  | some c =>
    if s.stopped core then s
    else
      match c.phase with
      | .landed =>
        match if c.kind = .chsend then s.poisonOf [c.entry] else none with
        | some pa => s.cmdPoison core e c pa
        | none => (s.setQueue core e ((s.core core).queue e).tail).notify e c
      | .faulted => s.setQueue core e ((s.core core).queue e).tail
      | _ => s

/-- COPY_COMPLETE of a core's engine. -/
def execCopyComplete (c : CoreId) (e : Bool) (s : State) : Host.Outcome State Fault Refusal := .next (s.copyComplete c.val e)

/-! ### Issue (R158, R159, R308) -/

/-- The lowest free entry of a queue (R158). -/
def freeEntry (q : List Cmd) : Option Nat := (List.range 16).find? fun i => !q.any (·.qix == i)

/-- The command of the acting slot before its checks. -/
def newCmd (s : State) (k : CmdKind) (qix : Nat) (d a b b2 : Word) (nt : Notif) (rw : Option RedWord) (entry : Loc) : Cmd :=
  let c := s.me
  { kind := k, qix := qix, ctx := s.cur, ba := c.ba, came := s.clock, d := d, a := a, b := b, nt := nt, rw := rw, sup := c.sup, ptroot := c.ptroot, lmap := c.lmap, spbase := c.spbase, splim := c.splim
    scwb := Vector.ofFn fun i => rdScwb s i.val
    wins := c.wins.filter (·.2.live)
    src := SrcView.empty, phase := .queued, raw := none, scan := 0, keys := [], total := copyTotal k b b2, done := 0, es := 1, ed := 1, pend := 0
    sc := .core, banks := 0, tag := none, inbuf := [], out := none, entry := entry, count := 0
    dst := [], asking := [], afar := false, seen := 0, tr := s.clock, fl := 0 }

/-- The bytes that a command adds to PEND (R308, R327, R331). -/
def Cmd.pendBytes (c : Cmd) (s : State) : Nat :=
  match c.kind with
  | .chsend => (s.chan c.ctx c.entry).mb
  | .chrecv => 0
  | _ => c.total * max 1 c.ed

/-- A group named under GV is one that the launch uses (R308). -/
def groupUsed (s : State) (nt : Notif) : Slotwise Unit :=
  match nt.gv, nt.word with
  | true, some w =>
    match s.workerOf s.cur with
    | some l => need (gExpect (s.group l.1 w.group.val) != 0) illegal
    | none => .error illegal
  | _, _ => .ok ()

/-- Whether a destination range lies wholly in one multicast window of the context (R325). -/
def inMcast (c : Cmd) : Bool :=
  c.total == 0 || c.wins.any fun w =>
    w.2.mcast && w.2.base ≤ c.d.toNat && c.d.toNat + c.total * c.ed ≤ w.2.base + w.2.len

/-- A command put into its engine's queue (R158); one that PEND refuses has faulted already (R308). -/
def State.enqueue (s : State) (e : Bool) (c : Cmd) : State :=
  let core := coreOf s.cur
  let put (s : State) (c : Cmd) : State := s.setQueue core e ((s.core core).queue e ++ [c])
  let n := c.pendBytes s
  match c.nt.gv, c.nt.word, s.workerOf s.cur with
  | true, some w, some l =>
    match s.addPend l.1 w.group n c.ctx e c.qix with
    | some t => put t { c with pend := n }
    | none =>
      let x := s.me
      put (s.setMe { x with impq := x.impq ++ [⟨14, 8, engName e, c.qix, c.ba, 0, false⟩] }) { c with phase := .faulted, banks := 0 }
  | _, _, _ => put s c

/-- The command whose ranges are checked and whose banks are taken at issue (R157, R202): a CHSEND's is the ring slot that it
will fill behind those queued before it. -/
def Cmd.probe (c : Cmd) (s : State) (q : List Cmd) : Cmd :=
  if c.kind = .chsend then
    let k := s.chan c.ctx c.entry
    let n := (q.filter fun o => o.kind == .chsend && o.entry == c.entry).length
    let off := BitVec.ofNat 64 ((k.pos + n) % k.depth * k.mb)
    { c with total := k.mb, d := BitVec.ofNat 64 k.dest + off, a := BitVec.ofNat 64 k.buf + off }
  else c

/-- Whether any of some ranges reaches into the local aperture. -/
def reachesLocal (rs : List (Nat × Nat)) : Bool := rs.any fun r => (localPart r).2 != 0

/-- The element size at an address, where issue needs it (R202, R308): a fault in the local aperture is precise, one in memory is found
when the command comes there, and a miss holds the bundle. -/
def Cmd.sizeNow (c : Cmd) (s : State) (acc : Acc) (va : Word) : Slotwise Nat :=
  match c.xlate s acc va.toNat false with
  | .ok x => .ok (x.attr.fmt.memWidth / 8)
  | .error f =>
    if inAperture va.toNat then .error (xlateFault f.1 f.2.1 f.2.2)
    else if f.1 = missCause then .error (.hold .memory [s.walkNeed f.2.1])
    else .ok 0

/-- A command with the element sizes that issue needs (R202, R308): those of ends that reach into the local aperture, and the
destination's for a byte count under GV. The others are found when the command starts; until then they are 0. -/
def Cmd.sizedNow (c : Cmd) (s : State) : Slotwise Cmd := do
  let wide := { c with es := 8, ed := 8 }
  let es ←
    if c.kind = .cfill then .ok 1
    else if c.kind = .cgather then (if inAperture c.b.toNat then c.sizeNow s .load c.b else .ok 0)
    else if reachesLocal wide.srcRanges then c.sizeNow s .load c.a else .ok 0
  let ed ← if c.nt.gv || reachesLocal wide.dstRanges then c.sizeNow s .store c.d else .ok 0
  .ok { c with es := es, ed := ed }

/-- The bytes of a reduction's destination translated at issue (R247): a miss holds the bundle, a fault is found by the landing. -/
def Cmd.resultXls (c : Cmd) (s : State) : List Nat → Slotwise (List (Nat × Except EFault Xl))
  | [] => .ok []
  | i :: is =>
    let va := (c.dstAddr i).toNat
    match c.xlate s .store va false with
    | .error f =>
      if f.1 = missCause then .error (.hold .memory [s.walkNeed f.2.1])
      else (c.resultXls s is).map ((va, .error f) :: ·)
    | .ok x => (c.resultXls s is).map ((va, .ok x) :: ·)

/-- The places of one lane of a reduction's result; a lane on pages of unlike attributes is cause 6 (R201, R308). -/
def laneDst (xs : List (Nat × Except EFault Xl)) : List DstLoc :=
  let oks := xs.filterMap fun p => match p.2 with
    | .ok x => some x
    | .error _ => none
  let alike := match oks with
    | [] => true
    | x :: r => r.all (·.same x)
  xs.map fun p => match p.2 with
    | .ok x => if alike then .place x.loc else .fault 6 ((xs.map (·.1)).headD 0)
    | .error f => .fault f.1 f.2.1

/-- The places of a reduction's result, lane by lane (R247). -/
def Cmd.resultDst (c : Cmd) (s : State) (w : RedWord) : Slotwise (List DstLoc) := do
  let xs ← c.resultXls s (List.range (min c.total 4096))
  let n := redLane w
  .ok ((List.range ((xs.length + n - 1) / n)).flatMap fun i => laneDst ((xs.drop (i * n)).take n))

/-- The command of the acting slot with the source as of issue (R159), the element sizes of its two ends (R305), and the places of a
reduction's result (R247). A channel command's message is found when the engine comes to it (R245). -/
def copyCmd (s : State) (k : CmdKind) (qix : Nat) (d a b b2 : Word) (nt : Notif) (rw : Option RedWord) (entry : Loc) : Slotwise Cmd := do
  let c := { newCmd s k qix d a b b2 nt rw entry with src := s.viewNow s.cur }
  if k == .chsend || k == .chrecv || c.total = 0 then .ok c
  else
    let c := { c with afar := k != CmdKind.cfill }
    match rw with
    | some w => do
      let dst ← c.resultDst s w
      .ok { c with dst := dst }
    | none => c.sizedNow s

/-- The checks of a command's local aperture ranges at issue (R202, R308). -/
def Cmd.rangesOk (c : Cmd) (s : State) : Slotwise Unit := do
  c.srcRanges.forM (c.checkLocal s .load)
  c.dstRanges.forM (c.checkLocal s .store)

/-- The banks of a gather's elements in the local aperture (R157): every bank where its indices are not at hand at issue (log entry
76). -/
def Cmd.gatherBanks (c : Cmd) (s : State) : BitVec 32 :=
  if c.kind = .cgather && inAperture c.b.toNat then
    match c.indices s with
    | some ixs => ixs.foldl (fun m ix => m ||| c.rangeBanks s .load ((c.srcAddr 0 ix).toNat, c.es)) 0
    | none => BitVec.allOnes 32
  else 0

/-- The banks that a command may touch (R157): those of its ranges and of a gather's elements in the local aperture. -/
def Cmd.allBanks (c : Cmd) (s : State) : BitVec 32 :=
  (c.srcRanges.map (c.rangeBanks s .load) ++ c.dstRanges.map (c.rangeBanks s .store)).foldl (· ||| ·) (c.gatherBanks s)

/-- Whether an earlier store of the acting context has still to write into its package's memory (R159): a command's source is taken
after it. -/
def State.storesBefore (s : State) : Bool :=
  s.me.mops.any fun m => m.isStore && !m.performed && m.locs.any fun l => match s.behind l, l with
    | .mem _, .win _ _ _ _ => false
    | .mem _, _ => true
    | _, _ => false

/-- A copy command issued (R158, R159, R202, R305, R308). -/
def copyIssue (s : State) (k : CmdKind) (d a b b2 : Word) (nt : Notif) (rw : Option RedWord) (entry : Loc) : Slotwise State := do
  let e := engineOf s.slot
  match freeEntry (s.myCore.queue e) with
  | none => .error (.hold .queue [])
  | some qix => do
    groupUsed s nt
    let s := s.sweep s.cur
    let c ← copyCmd s k qix d a b b2 nt rw entry
    let p := c.probe s (s.myCore.queue e)
    p.rangesOk s
    need (k != .cmcast || inMcast c) (windowFault c.d.toNat)
    takeBanks s (p.allBanks s)
    need (!s.storesBefore) (.wait s)
    .ok (s.enqueue e { c with banks := p.allBanks s })

/-- The mould of CPY, CPY2D, CFILL and CMCAST (R305): three registers read at issue. -/
def copyRegs (k : CmdKind) (sd sa sb : Fin 64) (nt : Notif) (rw : Option RedWord) (s : State) : Host.Outcome State Fault Refusal :=
  slotDo s do
    let d ← rdS s sd
    let a ← rdS s sa
    let b ← rdS s sb
    copyIssue s k d a b 0 nt rw (.sp 0)

/-- CPY (R305). -/
def execCpy (sd sa sb : Fin 64) (nt : Notif) (s : State) : Host.Outcome State Fault Refusal := copyRegs .cpy sd sa sb nt none s

/-- CPY2D (R305). -/
def execCpy2d (sd sa sb : Fin 64) (nt : Notif) (s : State) : Host.Outcome State Fault Refusal := copyRegs .cpy2d sd sa sb nt none s

/-- CFILL (R305, R324). -/
def execCfill (sd sa sb : Fin 64) (nt : Notif) (s : State) : Host.Outcome State Fault Refusal := copyRegs .cfill sd sa sb nt none s

/-- CGATHER (R305, R324): the count stands in the register after sB. -/
def execCgather (sd sa sb : Fin 64) (nt : Notif) (s : State) : Host.Outcome State Fault Refusal :=
  slotDo s do
    let d ← rdS s sd
    let a ← rdS s sa
    let b ← rdS s sb
    let n ← rdS s (sb + 1)
    copyIssue s .cgather d a b n nt none (.sp 0)

/-- CMCAST (R325). -/
def execCmcast (sd sa sb : Fin 64) (nt : Notif) (s : State) : Host.Outcome State Fault Refusal := copyRegs .cmcast sd sa sb nt none s

/-- CRED (R247, R330). -/
def execCred (sd sa sb : Fin 64) (nt : Notif) (rw : RedWord) (s : State) : Host.Outcome State Fault Refusal :=
  copyRegs .cred sd sa sb nt (some rw) s

/-- The place of a channel entry: the memory of its package, which may stand behind an aperture page or a window (R175), or the
scratchpad; none in another package (log entry 65). -/
def State.chanPlace (s : State) (ls : List Loc) : Option Loc :=
  match ls.map s.behind with
  | .mem pa :: _ => some (.mem pa)
  | .sp o :: _ => some (.sp o)
  | _ => none

/-- Whether an earlier store of the acting context to some bytes is still to be performed (R175). -/
def State.storesTo (s : State) (ls : List Loc) : Bool :=
  let bs := ls.map s.behind
  s.me.mops.any fun m => m.isStore && !m.performed && m.locs.any fun l => bs.contains (s.behind l)

/-- A context's own modified copies of an entry in a window given up, so that its home's memory holds the entry; none where there are
none. -/
def State.entryHome (s : State) (x : Nat) (ls : List Loc) : Option State :=
  match (objectsOf ls).filterMap fun o => s.copyOf x o.1 o.2.1 with
  | [] => none
  | cs => some (cs.foldl State.evictCopy s)

/-- A channel command issued (R245): the entry is read as a load and checked. -/
def chanIssue (k : CmdKind) (ch : Fin 256) (nt : Notif) (s : State) : Host.Outcome State Fault Refusal :=
  slotDo s do
    need (s.isComm s.cur) illegal
    let xs ← xlateN s .load (s.me.chtab + BitVec.ofNat 64 (64 * ch.val)) 64
    let ls : List Loc := xs.map (·.loc)
    match s.chanPlace ls with
    | some l =>
      let s := s.sweep s.cur
      need (!(s.storesBefore || s.storesTo ls)) (.wait s)
      need (s.entryHome s.cur ls).isNone (.wait ((s.entryHome s.cur ls).getD s))
      let t := s.enterAll s.cur [l]
      let v := t.chan s.cur l
      match t.poisonOf ls with
      | some pa => .ok ((s.logged (.poison pa)).fatalCtx s.cur)
      | none => do
        need (ls.all s.locInStack && v.ok && v.dir == (k == .chrecv)) channelFault
        copyIssue t k 0 0 0 0 nt none l
    | none => .error channelFault

/-- CHSEND (R245). -/
def execChsend (ch : Fin 256) (nt : Notif) (s : State) : Host.Outcome State Fault Refusal := chanIssue .chsend ch nt s

/-- CHRECV (R245). -/
def execChrecv (ch : Fin 256) (nt : Notif) (s : State) : Host.Outcome State Fault Refusal := chanIssue .chrecv ch nt s

end Sys2Proof.Machine
end

