-- ==== Sys2Proof/Machine/Elem.lean ====
section
/-! DEFINITION. Slot T: single elements between scalar registers and rows (R42, R388, R389), and DEAD of slot Y (R43,
R332). -/

namespace Sys2Proof.Machine

/-- The number of an immediate element (R69). -/
def Elem.ix : Elem → Nat
  | .short e => e.val
  | .long e => e.val

/-- The bytes of an element of a row. -/
def elemMask (f : Fmt) (e : Nat) : RowMask :=
  BitVec.ofNat 512 ((2 ^ (f.viewWidth / 8) - 1) * 2 ^ (f.viewWidth / 8 * e))

/-- A register's form of an element (R42): signed formats sign-extended, the others zero-extended. -/
def elemToReg (f : Fmt) (n : Nat) : Word :=
  if f.signed then BitVec.ofInt 64 (sextNat f.opWidth n) else BitVec.ofNat 64 n

/-- XSV into one element (R389). -/
def xsv (vw sn : Fin 64) (row : Row8) (el : Slotwise Nat) (s : State) : Host.Outcome State Fault Refusal :=
  slotDo s do
    let i ← row8 s row
    let u ← viewUnit s vw 0 i
    let e ← el
    need (e < u.1.perRow) (viewFault 1)
    let v ← rdS s sn
    wrRow s u.2
    let bits : RowBits := BitVec.ofNat 4096 (scalarElem u.1 v * 2 ^ (u.1.viewWidth * e))
    .ok ((s.touched [u.2]).latch (.row u.2 (elemMask u.1 e) bits) 4 0)

/-- XSV with an immediate element (R388). -/
def execXsvImm (vw sn : Fin 64) (row : Row8) (el : Elem) (s : State) : Host.Outcome State Fault Refusal :=
  xsv vw sn row (.ok (Elem.ix el)) s

/-- XSV with the element in the low 16 bits of a scalar (R388). -/
def execXsvScalar (vw sn : Fin 64) (row : Row8) (sm : Fin 64) (s : State) : Host.Outcome State Fault Refusal :=
  xsv vw sn row ((rdS s sm).map fun v => v.toNat % 2 ^ 16) s

/-- XSV into every element (R388, R389). -/
def execXsvBcast (vw sn : Fin 64) (row : Row8) (s : State) : Host.Outcome State Fault Refusal :=
  slotDo s do
    let i ← row8 s row
    let u ← viewUnit s vw 0 i
    let v ← rdS s sn
    putRowT s [] u.2 (rowOf u.1 (List.replicate u.1.perRow (scalarElem u.1 v))) 4 0

/-- XVS of one element (R389). -/
def xvs (vw sd : Fin 64) (row : Row8) (el : Slotwise Nat) (s : State) : Host.Outcome State Fault Refusal :=
  slotDo s do
    let i ← row8 s row
    let u ← viewUnit s vw 0 i
    let e ← el
    need (e < u.1.perRow) (viewFault 1)
    let b ← rdRow s u.2
    putS (s.touched [u.2]) sd (elemToReg u.1 ((elems u.1 b).getD e 0)) 4 0

/-- XVS with an immediate element (R388). -/
def execXvsImm (vw sd : Fin 64) (row : Row8) (el : Elem) (s : State) : Host.Outcome State Fault Refusal :=
  xvs vw sd row (.ok (Elem.ix el)) s

/-- XVS with the element in the low 16 bits of a scalar (R388). -/
def execXvsScalar (vw sd : Fin 64) (row : Row8) (sm : Fin 64) (s : State) : Host.Outcome State Fault Refusal :=
  xvs vw sd row ((rdS s sm).map fun v => v.toNat % 2 ^ 16) s

/-- The rows of consecutive units of a vector view. -/
def deadRows (s : State) (vw : Fin 64) (ix : Nat) : Nat → Slotwise (List Nat)
  | 0 => .ok []
  | n + 1 => do
    let u ← viewUnit s vw 0 ix
    let us ← deadRows s vw (ix + 1) n
    .ok (u.2 :: us)

/-- DEAD (R43, R332): the marking takes effect at the end of the cycle. -/
def execDead (vw : Fin 64) (first cntm1 : Fin 512) (s : State) : Host.Outcome State Fault Refusal :=
  slotDo s do
    let rs ← deadRows s vw first.val (cntm1.val + 1)
    .ok (s.latch (.dead rs) 1 0)

end Sys2Proof.Machine
end

