-- ==== Sys2Proof/Machine/Sync.lean ====
section
/-! DEFINITION. Synchronisation: ACQ, REL, FENCE (R179 to R185), flags (R30, R337 to R339), barriers (R25, R26, R316 to R318),
the mailbox of a cluster (R242), LIVE (R264), WAITI (R385), and the arrival of flag increments, barrier arrivals and signals. -/

namespace Sys2Proof.Machine

/-! ### Release and acquire -/

/-- Whether every multicast store of a context has landed in its members' scratchpads (R163, R172), those of frozen pairs apart:
nothing there reads before they land (R269). -/
def State.mcastDone (s : State) (x : Nat) : Bool := (s.die (dieOf x)).mcast.all fun m => m.ctx != x || m.eng.isSome

/-- Whether a context's release condition holds (R179): every earlier load and store performed, multicast stores among them, no copy
in a transient state (R170, R185). What the context has observed is visible where it stands, so the release is cumulative (R180). -/
def State.released (s : State) (x : Nat) : Bool :=
  (s.ctx x).mops.all (·.performed) && s.mcastDone x && !s.transient? x

/-- A release at a scope of the acting context (R170, R179, R180): held for a cause until its condition holds. -/
def release (s : State) (sc : Scope) : Slotwise State := do
  need (!s.tooWide s.cur sc) (windowFault 0)
  need (s.released s.cur) (.hold .order [])
  .ok (s.releaseCaches s.cur sc)

/-- Whether every earlier load of a context has been performed. -/
def Ctx.loadsDone (c : Ctx) : Bool := c.mops.all fun m => !m.isLoad || m.performed

/-- Whether an acquire other than ACQ may go on (R185): with a shared window declared it orders later accesses after earlier loads. -/
def Ctx.mayAcquire (c : Ctx) : Bool := c.loadsDone || c.wins.all (·.2.mcast)

/-- An acquire at a scope of the acting context (R170, R179, R185). -/
def acquire (s : State) (sc : Scope) : Slotwise State := do
  need (!s.tooWide s.cur sc) (windowFault 0)
  need s.me.mayAcquire (.hold .order [])
  .ok (s.acquireCaches s.cur sc)

/-- Whether every earlier store of a context has been performed, multicast stores among them; an atomic is both a load and a store. -/
def State.storesDone (s : State) (x : Nat) : Bool :=
  ((s.ctx x).mops.all fun m => !m.isStore || m.performed) && s.mcastDone x

/-- Whether every earlier copy command of a context has read its source and landed every write (R179). -/
def State.copiesDone (s : State) (x : Nat) : Bool :=
  let k := s.core (coreOf x)
  (k.c0 ++ k.c1).all fun c => c.ctx != x || c.phase == .landed || c.phase == .faulted

/-- ACQ (R179). -/
def execAcq (sc : Scope) (s : State) : Host.Outcome State Fault Refusal :=
  slotDo s do
    need (!s.tooWide s.cur sc) (windowFault 0)
    need s.me.loadsDone (.hold .order [])
    acquire s sc

/-- REL (R179). -/
def execRel (sc : Scope) (s : State) : Host.Outcome State Fault Refusal := slotDo s (release s sc)

/-- FENCE (R170, R179): with `st` it writes plain stores back as a release does; it is neither a release nor an acquire, so no
window's MAXSC bounds it. -/
def execFence (sc : Scope) (loads stores copies : Bool) (s : State) : Host.Outcome State Fault Refusal :=
  slotDo s do
    need (!loads || s.me.loadsDone) (.hold .order [])
    need (!stores || s.storesDone s.cur) (.hold .order [])
    need (!copies || s.copiesDone s.cur) (.hold .order [])
    .ok (if stores then s.releaseCaches s.cur sc else s)

/-! ### Flags -/

/-- Whether a scope of a context includes the context that an identity names (R174). -/
def Ident.within (i : Ident) (sc : Scope) (pkg x : Nat) : Bool :=
  match sc with
  | .core => i.pkg.toNat == pkg && i.die.val == dieOf x && i.core.val == lcoreOf x
  | .cluster => i.pkg.toNat == pkg && i.die.val == dieOf x && i.core.val / 4 == lcoreOf x / 4
  | .die => i.pkg.toNat == pkg && i.die.val == dieOf x
  | .package => i.pkg.toNat == pkg
  | .pod => true

/-- FPOST (R182, R337, R338): a release, then an increment of the context's own flag at the end of the issue cycle, or one on
its way to a target; a count of 0 sends nothing. -/
def execFpost (k : Fin 32) (n : BitVec 16) (target : Option PostTarget) (s : State) : Host.Outcome State Fault Refusal :=
  slotDo s do
    match target with
    | none =>
      let t ← release s .core
      .ok (if n = 0 then t else t.latch (.flagAdd k n.toNat .core) 1 0)
    | some g =>
      need (Ident.within g.id g.sc s.hub.pkgid s.cur) illegal
      let t ← release s g.sc
      .ok (if n = 0 then t else t.postFlag s.cur g.id k n.toNat g.sc)

/-- FWAIT (R182, R339): held while the flag is below the count; then the subtraction at the end of the cycle, the acquire at
the flag's tag, the tag back to core. -/
def execFwait (k : Fin 32) (n : BitVec 16) (s : State) : Host.Outcome State Fault Refusal :=
  slotDo s do
    let c := s.me
    need (n.toNat ≤ (c.k.get k).toNat) (.hold .flag [])
    let t ← acquire s (c.ktag.get k)
    let t := if n = 0 then t else t.latch (.flagSub k n.toNat) 1 0
    .ok (t.setMe { t.me with ktag := t.me.ktag.set k.val .core k.isLt })

/-- A flag increment that reaches the package (R233, R338): the n-th message on its way, or past these the n-th packet that
has come to the hub, each in the order of its edge (R230, R234). -/
def State.flagArrives (s : State) (n : Nat) : State :=
  if n < s.hub.msgs.length then
    match s.message n with
    | some (.flag y k c sc) => if s.shut (pairOf y) 1 then s else (s.takeMessage n).bumpFlag y k c sc
    | _ => s
  else
    let i := n - s.hub.msgs.length
    match s.arrived i .flag with
    | none => s
    | some (h, _) =>
      if s.shut (pairOf (ctxOfLoc h.dloc)) 1 then s else
      let sc := (Scope.ofCode (field h.ext 34 32)).getD .pod
      ((s.takePacket i).bumpFlag (ctxOfLoc h.dloc) (Fin.ofNat 32 h.ext) (field h.ext 23 8) sc).respond h .ack stOk []

/-- FLAG_INCREMENT (R338). -/
def execFlagIncrement (n : Nat) (s : State) : Host.Outcome State Fault Refusal := .next (s.flagArrives n)

/-! ### Barriers -/

/-- The launch and the group of the acting worker, with the group's entry (R316): an unused group or one that the worker is
no member of is illegal. -/
def myGroup (s : State) (g : Fin 256) : Slotwise (Launch × Bar × Nat) :=
  match s.workerOf s.cur, s.me.bars.find? (·.g == g) with
  | some (l, _), some b =>
    let v := s.group l g.val
    if gExpect v = 0 then .error illegal else .ok (l, b, v)
  | _, _ => .error illegal

/-- A group's phases of a context replaced. -/
def Ctx.setBar (c : Ctx) (b : Bar) : Ctx := { c with bars := c.bars.map fun (o : Bar) => if o.g = b.g then b else o }

/-- BARA (R183, R317): a release at the group's scope, then AP rises and one arrival goes to the barrier unit. -/
def execBara (g : Fin 256) (s : State) : Host.Outcome State Fault Refusal :=
  slotDo s do
    let (l, b, v) ← myGroup s g
    let t ← release s (gScope v)
    .ok ((t.setMe (t.me.setBar { b with ap := b.ap + 1 })).send (.arrival l.id g))

/-- BARW (R183, R318): held until the phase last signalled has reached AP; then an acquire at the group's scope. -/
def execBarw (g : Fin 256) (s : State) : Host.Outcome State Fault Refusal :=
  slotDo s do
    let (_, b, v) ← myGroup s g
    need ((b.phase - b.ap).toNat < 2 ^ 15) (.hold .barrier [])
    acquire s (gScope v)

/-- BARRIER_ARRIVAL (R25, R317): the n-th message on its way is an arrival and is counted; or another package sends one, or bytes of a
command, to the barrier unit here (log entry 68). -/
def execBarrierArrival (m : BarrierMsg) (s : State) : Host.Outcome State Fault Refusal :=
  .next (match m with
    | .listed n =>
      match s.message n with
      | some (.arrival l g) =>
        let t := s.takeMessage n
        match t.launch l with
        | some w => t.arrive w g
        | none => t
      | _ => s
    | .outside pkg l g m =>
      match s.launch l with
      | some w => s.groupFrom pkg w g m
      | none => s)

/-- The phase of a group told to a context (R25, R318); it waits at the edge of a frozen pair (R269). -/
def State.tellPhase (s : State) (x : Nat) (g : Fin 256) (ph : BitVec 16) : State :=
  match s.holdRequest (pairOf x) (.signal x g ph) with
  | some t => t
  | none =>
    let c := s.ctx x
    s.setCtx x { c with bars := c.bars.map fun (b : Bar) => if b.g = g then { b with phase := ph } else b }

/-- A command whose bytes the barrier unit of another package could not take (R25, R308): an imprecise engine fault, cause 8. -/
def State.pendRefused (s : State) (x : Nat) (e : Bool) (qix : Nat) : State :=
  match ((s.core (coreOf x)).queue e).find? fun c => c.ctx == x && c.qix == qix with
  | some c => s.cmdFault (coreOf x) e { c with pend := 0 } 14 (8, 0, false)
  | none => s

/-- BARRIER_SIGNAL (R25): the n-th message on its way is a signal and reaches its member; or another package tells of a completed phase,
or of a command whose bytes PEND could not take (log entry 68). -/
def execBarrierSignal (m : BarrierMsg) (s : State) : Host.Outcome State Fault Refusal :=
  .next (match m with
    | .listed n =>
      match s.message n with
      | some (.signal x g ph) => if s.shut (pairOf x) 1 then s else (s.takeMessage n).tellPhase x g ph
      | _ => s
    | .outside _ l g m =>
      match s.launch l, m with
      | some w, .phase ph => s.phaseFrom w g ph
      | some _, .refused x e qix => s.pendRefused x e qix
      | _, _ => s)

/-! ### The mailbox of a cluster (R242) -/

/-- Entries of a cluster's mailbox with those appended in this cycle. -/
def State.mailCount (s : State) (cl : Nat) : Nat :=
  (s.cluster cl).mail.length +
    (s.ctxs.flatMap fun p => if clusterOf p.1 = cl then p.2.lat.filter fun l => match l.w with | .mail _ => true | _ => false
      else []).length

/-- What a form of MBREQ or MBTAKE does that may not wait (R242): the predicate tells whether it completed. -/
def noWait (s : State) (pd : Option (Fin 16)) (ready : Bool) (c : Stall) (m : Slotwise State) : Slotwise State :=
  match pd with
  | none => do
    need ready (.hold c [])
    m
  | some p =>
    if ready then m.map fun t => t.latch (.pred p true) 1 0
    else .ok (s.latch (.pred p false) 1 0)

/-- MBREQ (R242): a release at cluster scope, then an entry with the sender and sA[60:0], appended at the end of the cycle. -/
def execMbreq (sa : Fin 64) (pd : Option (Fin 16)) (s : State) : Host.Outcome State Fault Refusal :=
  slotDo s do
    let v ← rdS s sa
    need (!s.tooWide s.cur .cluster) (windowFault 0)
    let full := 8 ≤ s.mailCount (clusterOf s.cur)
    let ready := !full && s.released s.cur
    noWait s pd ready (if full then .mailbox else .order) do
      let t ← release s .cluster
      .ok (t.latch (.mail (BitVec.ofNat 64 (s.cur % 8 * 2 ^ 61 + v.toNat % 2 ^ 61))) 1 0)

/-- MBTAKE (R242), in the communication context alone: the oldest entry into sD, then an acquire at cluster scope. -/
def execMbtake (sd : Fin 64) (pd : Option (Fin 16)) (s : State) : Host.Outcome State Fault Refusal :=
  slotDo s do
    need (s.isComm s.cur) illegal
    wrS s sd
    let cl := clusterOf s.cur
    let m := (s.cluster cl).mail
    need (!s.tooWide s.cur .cluster) (windowFault 0)
    noWait s pd (!m.isEmpty && s.me.mayAcquire) (if m.isEmpty then .mailbox else .order) do
      let t := s.setCluster cl { s.cluster cl with mail := m.tail }
      let t ← acquire t .cluster
      putS t sd (m.headD 0) 2 0

/-! ### LIVE and WAITI -/

/-- Whether a context has a multicast window declared: it reaches no save point (R264). -/
def Ctx.hasMcast (c : Ctx) : Bool := c.wins.any fun p => p.2.mcast

/-- Whether a save request is pending and its grace window still runs (R217, R264). -/
def Ctx.inGrace (c : Ctx) : Bool := c.grace.any (0 < ·)

/-- LIVE (R264): with a save request pending it marks a save point, reached when its bundle commits in full. -/
def execLive (e : Fin 256) (s : State) : Host.Outcome State Fault Refusal :=
  slotDo s (.ok (
    let c := s.me
    if c.inGrace && !c.sup && !c.uiact && !c.hasMcast && c.loops.depth == 0 then
      match c.iss with
      | some i => s.setMe { c with iss := some { i with live := some e } }
      | none => s.setMe { c with savept := some e, run := .saving }
    else s))

/-- WAITI (R385): held until a user interrupt is pending, whatever UIEN holds; illegal in supervisor mode. -/
def execWaiti (s : State) : Host.Outcome State Fault Refusal :=
  slotDo s do
    need (!s.me.sup) illegal
    need (!s.me.uiq.isEmpty) (.hold .waiti [])
    .ok s

end Sys2Proof.Machine
end

