-- ==== Sys2Proof/Machine/Fabric.lean ====
section
/-! DEFINITION. The fabric at this package (R206 to R208, R233 to R236): requests that come in, responses to the package's own
requests, packets on their way out, the route table. -/

namespace Sys2Proof.Machine

/-! ### Requests at the target (R206, R207, R208) -/

/-- The bytes that a request's extension names, and the bundle address it carries (log entry 19). -/
def Hdr.count (h : Hdr) : Nat := field h.ext 31 0

/-- The bundle address that a request carries (R207). -/
def Hdr.ba (h : Hdr) : Nat := field h.ext 383 320

/-- The extension of a response: status and bytes answered (log entry 19). -/
def respExt (st n : Nat) : Nat := st + n * 2 ^ 32

/-- Poisoned data (R300). -/
def stPoison : Nat := 6

/-- Export translations brought into the hub's export TLB of 4,096 entries (R207). -/
def State.fillExport (s : State) (ta : Nat) : State :=
  if s.hub.xtlb.any (·.covers 0 ta) then s
  else
    match walkFrom s 0 (va57 ta) 4 (field s.hub.exproot.toNat 51 13 * 8192) with
    | .ok t => { s with hub := { s.hub with xtlb := (if s.hub.xtlb.length < 4096 then s.hub.xtlb else s.hub.xtlb.tail) ++ [t] } }
    | .error _ => s

/-- Why a request for some bytes of an export has no effect, or the addresses it acts on: no export (R207), beyond a stack's
capacity (R301), poisoned (R300). -/
def State.target (s : State) (h : Hdr) (write : Bool) (n : Nat) : Except Nat (List Nat) :=
  match s.exportedN h.ta write n with
  | none => .error stExport
  | some as =>
    if !as.all s.inStack then .error stFabric
    else if !write && as.any fun a => s.poison.contains (a / 128) then .error stPoison
    else .ok as

/-- The log entry of a failed export at the target (R207). -/
def State.noteMiss (s : State) (h : Hdr) (st : Nat) : State :=
  if st = stExport then s.logged (.exportMiss h.spkg h.sloc h.ba h.ta) else s

/-- A request served: its packet is taken, its export translations are at hand, its effect is made or not, its response goes
back. -/
def serve (n : Nat) (t : PType) (f : State → Hdr → Packet → State) (s : State) : Host.Outcome State Fault Refusal :=
  .next (match s.arrived n t with
    | some (h, p) => f (((s.takePacket n).fillExport h.ta).fillExport (h.ta + h.count - 1)) h p
    | none => s)

/-- Bytes of the target's memory met by an access of a context of this package (R175): its cluster's copies are brought there first. -/
def State.atSource (s : State) (h : Hdr) (as : List Nat) : State :=
  if h.spkg = s.hub.pkgid then s.enterObj (ctxOfLoc h.sloc) as else s

/-- REMOTE_READ (R206, R207): performed at pod scope, in the memory-side cache of the owning stack. -/
def execRemoteRead (n : Nat) (s : State) : Host.Outcome State Fault Refusal :=
  serve n .read (fun s h _ =>
    match s.target h false (min h.count 2048) with
    | .error st => (s.noteMiss h st).respond h .data (respExt st 0) []
    | .ok as =>
      let s := s.atSource h as
      s.respond h .data (respExt stOk as.length) (flitsOf (as.map (Memory.read s.mem)))) s

/-- What a write packet does (R206, log entry 19): writes its payload, sets a line to zero (R152), or rewrites a block (R96). -/
def Hdr.writeKind (h : Hdr) : Nat := field h.ext 63 32

/-- The words of a block's rewrite in a payload, at the addresses of its words. -/
def blockCells (p : Packet) (as : List Nat) : List (Loc × Option Word) :=
  let bs := bytesOf p.pay (9 * as.length)
  (List.range as.length).zip as |>.map fun q =>
    (.mem q.2, if bs.getD (9 * q.1) 0 = 0 then none else some (BitVec.ofNat 64 (leNat ((bs.drop (9 * q.1 + 1)).take 8))))

/-- A block of an exported page rewritten whole for a peer (R96, R206): its words and its scale byte must be exported for reading and
for writing. -/
def State.remoteBlock (s : State) (h : Hdr) (p : Packet) : State :=
  let n := min h.count 64
  let sta := field h.ext 127 64
  let scale : Hdr := { h with ta := sta }
  match s.target h false n, s.target h true n, s.target scale false 1, s.target scale true 1 with
  | .ok as, .ok _, .ok [a], .ok _ =>
    let s := s.atSource h (a :: as)
    let f (hi lo : Nat) := (Fmt.ofCode (field h.ext hi lo)).getD .f32
    let b : TapBlock := ⟨.mem a, blockCells p as, true⟩
    let ls := blockLocs [b]
    let e := b.encode (f 131 128) (f 135 132) (Rm.ofCode (Fin.ofNat 4 (field h.ext 137 136)))
      (ls.map fun l => match l with | .mem pa => Memory.read s.mem pa | _ => 0)
    (s.memWrite ((a :: as).zip e.1)).respond h .ack (respExt stOk n + e.2.toNat * 2 ^ 64) []
  | .error st, _, _, _ => (s.noteMiss h st).respond h .ack (respExt st 0) []
  | _, .error st, _, _ => (s.noteMiss h st).respond h .ack (respExt st 0) []
  | _, _, .error st, _ => (s.noteMiss scale st).respond h .ack (respExt st 0) []
  | _, _, _, .error st => (s.noteMiss scale st).respond h .ack (respExt st 0) []
  | _, _, _, _ => s.respond h .ack (respExt stFabric 0) []

/-- REMOTE_WRITE (R206, R207). -/
def execRemoteWrite (n : Nat) (s : State) : Host.Outcome State Fault Refusal :=
  serve n .write (fun s h p =>
    if h.writeKind = 2 then (s.fillExport (field h.ext 127 64)).remoteBlock h p
    else
      match s.target h true (min h.count 2048) with
      | .error st => (s.noteMiss h st).respond h .ack (respExt st 0) []
      | .ok as =>
        let t := (s.atSource h as).memWrite (as.zip (if h.writeKind = 1 then List.replicate as.length 0 else bytesOf p.pay as.length))
        let t := if h.writeKind = 1 then { t with zflag := ((as.map (· / 128)).eraseDups) ++ t.zflag } else t
        t.respond h .ack (respExt stOk as.length) []) s

/-- The operation of a code (R209), with the comparand of a compare-and-swap. -/
def AtomOp.ofCode (n : Nat) (cmp : Word) : AtomOp :=
  match n with
  | 0 => .add | 1 => .max | 2 => .min | 3 => .and | 4 => .or | 5 => .xor | 6 => .swap | _ => .cas cmp

/-- REMOTE_ATOMIC (R206, R208, R209): refused by ATOMCAP, or performed at pod scope; the answer carries the old value. ATOMCAP is
looked at before the export table, an order that the spec does not give (log entry 77). -/
def execRemoteAtomic (n : Nat) (s : State) : Host.Outcome State Fault Refusal :=
  serve n .atomic (fun s h _ =>
    let op := AtomOp.ofCode (field h.ext 3 0) (BitVec.ofNat 64 (field h.ext 191 128))
    let f := (Fmt.ofCode (field h.ext 7 4)).getD .n64
    match atomRefused atomcap op f with
    | some r => s.respond h .answer (respExt (r + 2) 0) []
    | none =>
      match s.target h true (f.memWidth / 8) with
      | .error st => (s.noteMiss h st).respond h .answer (respExt st 0) []
      | .ok as =>
        if as.any fun a => s.poison.contains (a / 128) then s.respond h .answer (respExt stPoison 0) []
        else
          let s := s.atSource h as
          let old := leNat (as.map (Memory.read s.mem))
          let new := (atomNew op f old (field h.ext 127 64)).1
          (s.memWrite (as.zip (leBytes as.length new))).respond h .answer (respExt stOk as.length + old * 2 ^ 64) []) s

/-! ### Responses at the source (R208, R234, R259) -/

/-- The pair whose work a request is. -/
def ReqWho.pair : ReqWho → Option Nat
  | .op x => some (pairOf x)
  | .copyRead c _ => some (c / 2)
  | .copyWrite c _ => some (c / 2)
  | .post x => some (pairOf x)
  | _ => Option.none

/-- Whether a sealed image still waits for the response under a tag (R272). -/
def State.awaited (s : State) (tag : Nat) : Bool := s.hub.images.any fun p => p.2.awaited.contains tag

/-- A request that has its response. -/
def State.closeReq (s : State) (tag : Nat) : State :=
  { s with hub := { s.hub with reqs := s.hub.reqs.filter (·.tag != tag) } }

/-- A round of an entry whose contribution to its parent has ended in a fabric error: so do the contributions that wait for it here
(R238, log entry 67). -/
def State.failRound (s : State) (rid : Nat) : State :=
  let e := Map.get RedEntry.reset s.hub.red rid
  let t : State := { s with hub := { s.hub with red := Map.put s.hub.red rid { e with waiters := [] } } }
  e.waiters.foldl (fun s w => s.failed (Hdr.of w)) t

/-- The operation of a context that waits for a tag. -/
def Ctx.opOf (c : Ctx) (tag : Nat) : Option (Nat × MemOp × List Byte) :=
  ((List.range c.mops.length).zip c.mops).findSome? fun p => match p.2.phase with
    | .sent t got => if t = tag then some (p.1, p.2, got) else none
    | _ => none

/-- A request for a copy ends without it: the directories are free for the next, and the requester is no holder. -/
def State.endAsk (s : State) (o : WObj) (x : Nat) : State :=
  let l := some (dieOf x)
  let e := s.dirEntry l o
  let t := s.setEntry l { e with up := e.up.erase x }
  let t := if e.busy && e.owner == some x then t.homeFree l o else t
  (t.homeFree o.homeLvl o).leaveDir o x

/-- A copy's window read that failed: the copy is gone, and the accesses and copy commands that wait for it end in a fabric
error. -/
def State.windowFailed (s : State) (o : WObj) (x : Nat) : State :=
  let s : State := match s.copyObj x o with
    | some c => [false, true].foldl (fun (s : State) e => match s.headCmd (coreOf x) e with
        | some k => if k.waitsIn c then s.cmdFault (coreOf x) e k 14 (10, 0, false) else s
        | none => s) (s.setCopy { c with st := .I })
    | none => s
  let c := s.ctx x
  (s.setCtx x { c with mops := c.mops.map fun m =>
    if !m.performed && m.objects.any (·.2.2 == o) then { m with phase := .failed } else m }).endAsk o x

/-- What a response does to a memory operation (R206, R208, R259): bytes, an old value, a refusal, an error. -/
def State.opAnswer (s : State) (x : Nat) (r : Req) (h : Hdr) (p : Packet) : State :=
  match (s.ctx x).opOf r.tag with
  | none => s
  | some (n, m, got) =>
    let st := field h.ext 31 0
    let k := field h.ext 63 32
    if st = stExport then (s.dropOp x n).exportFault x r.ba r.ta
    else if st = stPoison then ((s.dropOp x n).logged (.poison r.ta)).fatalCtx x
    else if st = stFabric then s.setOp x n { m with phase := .failed }
    else if 4 ≤ st then s.setOp x n { m with phase := .refused (st - 2) }
    else
      match m.kind with
      | .atomic .. => s.setOp x n { m with phase := .done (leBytes k (field h.ext 127 64)) }
      | .store _ => s.peerAnswer x n m (got ++ List.replicate k 0)
      | .zero => s.peerAnswer x n m (got ++ [0])
      | .tapStore .. =>
        if h.typ = PType.ack.code then s.blockDone x n m (BitVec.ofNat 32 (field h.ext 95 64))
        else s.peerAnswer x n m (got ++ bytesOf p.pay k)
      | _ => s.peerAnswer x n m (got ++ bytesOf p.pay k)

/-- What a response does to a copy command. -/
def State.copyAnswer (s : State) (core : Nat) (e : Bool) (r : Req) (h : Hdr) (p : Packet) : State :=
  let st := field h.ext 31 0
  if st = stOk then
    match r.who with
    | .copyRead _ _ => s.copyGot core e r.tag (bytesOf p.pay (field h.ext 63 32))
    | _ => s.copyAcked core e r.tag
  else
    match s.cmdOf core e r.tag with
    | some c =>
      let t := s.copyFailed core e r.tag
      if st = stFabric then t
      else if st = stPoison then (t.logged (.poison r.ta)).fatalCtx c.ctx
      else t.exportFault c.ctx r.ba r.ta
    | none => s

/-- A response to a request of this package (R234). One for a stopped pair waits at its edge (R269). -/
def State.answered (s : State) (h : Hdr) (p : Packet) : State :=
  match s.hub.reqs.find? (·.tag == h.tag) with
  | none => s
  | some r =>
    match r.who.pair with
    | some q =>
      match s.holdResponse q p with
      | some t => t
      | none =>
        let s := s.closeReq h.tag
        match r.who with
        | .op x => s.opAnswer x r h p
        | .copyRead c e => s.copyAnswer c e r h p
        | .copyWrite c e => s.copyAnswer c e r h p
        | _ => s
    | none =>
      let s := s.closeReq h.tag
      match r.who with
      | .winRead o x own =>
        if field h.ext 31 0 = stOk then s.homeBytes o x own (bytesOf p.pay (field h.ext 63 32))
        else
          let t := s.windowFailed o x
          if field h.ext 31 0 = stFabric then t
          else if field h.ext 31 0 = stPoison then (t.logged (.poison r.ta)).fatalCtx x
          else t.exportFault x r.ba r.ta
      | .hub rid => if field h.ext 31 0 = stOk then s else s.failRound rid
      | _ => if field h.ext 31 0 = stExport then s.exportFault (ctxOfLoc h.dloc) r.ba r.ta else s

/-- The n-th packet taken as a response of a type, unless a sealed image waits for it (R272). -/
def takeResponse (n : Nat) (t : PType) (s : State) : Host.Outcome State Fault Refusal :=
  .next (match s.arrived n t with
    | some (h, p) => if s.awaited h.tag then s else (s.takePacket n).answered h p
    | none => s)

/-- READ_DATA (R206, R233). -/
def execReadData (n : Nat) (s : State) : Host.Outcome State Fault Refusal := takeResponse n .data s

/-- ATOMIC_ANSWER (R208). -/
def execAtomicAnswer (n : Nat) (s : State) : Host.Outcome State Fault Refusal := takeResponse n .answer s

/-- ACKNOWLEDGEMENT (R234). -/
def execAcknowledgement (n : Nat) (s : State) : Host.Outcome State Fault Refusal := takeResponse n .ack s

/-! ### Packets on their way (R233, R235, R236) -/

/-- A packet dropped (R233, R236): logged when its header is malformed; a request completes at its source with a fabric
error. -/
def State.discard (s : State) (p : Packet) : State :=
  (s.logged (.packet p.hdr)).undelivered p

/-- A route entry's fields (R235). -/
structure Route where
  v : Bool
  hops : Nat
  link : Fin 16
  alt : Fin 16
  altv : Bool
  deriving DecidableEq, Repr

/-- The fields of an entry of the route table (R235). -/
def Route.of (w : BitVec 32) : Route :=
  let n := w.toNat
  ⟨field n 31 31 == 1, field n 30 28, Fin.ofNat 16 (field n 27 24), Fin.ofNat 16 (field n 23 20), field n 19 19 == 1⟩

/-- The route to a package. -/
def State.route (s : State) (pkg : Nat) : Route := Route.of (Map.get 0 s.hub.route pkg)

/-- The package at the far end of a link: the one that the route table reaches by it in one hop (log entry 67). -/
def State.neighbour (s : State) (l : Fin 16) : Nat :=
  (s.hub.route.find? fun p => let r := Route.of p.2; r.v && r.hops == 1 && r.link == l).elim s.hub.pkgid (·.1)

/-- A request of the hub to the package at the far end of a link (R239, R247), with a tag of its own (R234). -/
def State.requestOn (s : State) (l : Fin 16) (loc : Nat) (t : PType) (ext : Nat) (pay : List (BitVec 512)) (bank : Nat) (who : ReqWho) :
    State × Packet :=
  let tag := s.hub.nextTag % 2 ^ 19 + bank
  let h : Hdr := ⟨s.neighbour l, loc, s.hub.pkgid, loc, 0, 0, pay.length, t.code, 0, tag, ext⟩
  ({ s with hub := { s.hub with nextTag := s.hub.nextTag + 1, reqs := s.hub.reqs ++ [⟨tag, s.neighbour l, who, 0, 0⟩] } },
    ⟨h.bits, pay, some l⟩)

/-- A link's state replaced. -/
def State.setLink (s : State) (l : Fin 16) (k : Link) : State :=
  { s with hub := { s.hub with links := s.hub.links.set l.val k l.isLt } }

/-- A link. -/
def State.link (s : State) (l : Fin 16) : Link := s.hub.links.get l

/-- A packet's flits sent over a link (R231): each takes the next sequence number and stays in the retry buffer until
acknowledged. -/
def Link.send (k : Link) (p : Packet) : Link :=
  ((p.hdr :: p.pay).zip (List.range p.flits)).foldl (fun k f =>
    { k with retry := k.retry ++ [⟨k.txseq, f.1, p, f.2, 0⟩], txseq := k.txseq + 1 }) k

/-- Whether a packet is a link FIFO's. -/
def Packet.isFifo (p : Packet) : Bool := (Hdr.of p.hdr).typ == PType.words.code

/-- The flits of link FIFO packets in a retry buffer. -/
def Link.fifoFlits (k : Link) : Nat := (k.retry.filter (·.pkt.isFifo)).length

/-- Whether a link has room for n flits in its retry buffer of 512 (R231). 64 of them are for link FIFO packets, which so wait behind
no other traffic (R239, log entry 67). -/
def Link.room (k : Link) (fifo : Bool) (n : Nat) : Bool :=
  if fifo then k.fifoFlits + n ≤ 64 else k.retry.length - k.fifoFlits + n ≤ 448

/-- The virtual channel of a packet on a link (R236): by class and hop index. -/
def Packet.vc (p : Packet) : Fin 12 :=
  let h := Hdr.of p.hdr
  Fin.ofNat 12 (6 * h.cls + min h.hix 5)

/-- A packet put on its virtual channel. -/
def Link.queue (k : Link) (p : Packet) : Link := { k with vcs := k.vcs.set p.vc.val (k.vcs.get p.vc ++ [p]) p.vc.isLt }

/-- Packets of a virtual channel sent while there is room; those left. -/
def Link.drain (k : Link) : List Packet → Link × List Packet
  | [] => (k, [])
  | p :: ps => if k.room false p.flits then (k.send p).drain ps else (k, p :: ps)

/-- The virtual channels of an ACTIVE link drained, each on its own (R236): none waits behind another. -/
def Link.pump (k : Link) : Link :=
  if k.st ≠ .active then k
  else (List.finRange 12).foldl (fun (k : Link) v =>
    let r := k.drain (k.vcs.get v)
    { r.1 with vcs := r.1.vcs.set v.val r.2 v.isLt }) k

/-- What becomes of a packet that is to leave the package (R235, R236, R238): it is queued for a link, it waits, or it cannot leave. -/
inductive Leave where
  | go (l : Fin 16)
  | wait
  | fail
  deriving DecidableEq, Repr

/-- The link that a packet leaves on (R235, R238): ALT only while LINK is DOWN. -/
def State.leaveBy (s : State) (pkg : Nat) : Leave :=
  let r := s.route pkg
  if s.hub.routeq.any (·.1 == pkg) then .wait
  else if !r.v then .fail
  else
    let l := if (s.link r.link).st = .down ∧ r.altv then r.alt else r.link
    if (s.link l).st = .down then .fail else .go l

/-- The packet with the next hop index (R236); where it came from no longer says where it goes. -/
def nextHop (p : Packet) : Packet :=
  let h := Hdr.of p.hdr
  { p with hdr := ({ h with hix := h.hix + 1 } : Hdr).bits, via := none }

/-- A packet queued for a link, which sends what it can (R231, R236). -/
def State.leave (s : State) (l : Fin 16) (p : Packet) : State := s.setLink l ((s.link l).queue p).pump

/-- A contribution that has not reached its parent's entry (R238): it completes at its hub, and the contributors of the package that
wait for its round, with a fabric error. -/
def State.loseContrib (s : State) (p : Packet) : State :=
  let h := Hdr.of p.hdr
  (s.closeReq h.tag).failRound (field h.ext 31 22)

/-- A packet that its link or route cannot carry (R235, R238): a request ends with a fabric error at its source; a response waits for
its link, since its request has but one (R234). -/
def State.stranded (s : State) (p : Packet) : State :=
  let h := Hdr.of p.hdr
  if h.cls = 1 then s.outOfHub p
  else if h.typ = PType.contrib.code ∧ p.via.isSome then s.loseContrib p
  else s.undelivered p

/-- Whether an earlier packet of a list is of the same class for the same package (R234). -/
def sameWay (ps : List Packet) (p : Packet) : Bool :=
  let h := Hdr.of p.hdr
  ps.any fun q => let g := Hdr.of q.hdr; g.dpkg == h.dpkg && g.cls == h.cls && g.spkg == h.spkg

/-- FABRIC_FORWARD (R236): the n-th packet that waits to leave, or past these the n-th that came through a link for another
package, goes on by the link of its route, on the virtual channel of its class and hop. -/
def State.forward (s : State) (n : Nat) : State :=
  match s.hub.outq[n]? with
  | some p =>
    if sameWay ((s.hub.outq.take n).filter (·.via == p.via)) p then s
    else
      let t : State := { s with hub := { s.hub with outq := s.hub.outq.eraseIdx n } }
      let h := Hdr.of p.hdr
      match p.via with
      | some l => if (s.link l).st ≠ .down then t.leave l p else if h.cls = 1 then s else t.stranded p
      | none =>
        if h.dpkg = s.hub.pkgid then (if s.hub.routeq.any (·.1 == h.dpkg) then s else t.inject p)
        else
          match s.leaveBy h.dpkg with
          | .wait => s
          | .fail => if h.cls = 1 then s else t.stranded p
          | .go l => t.leave l p
  | none =>
    let i := n - s.hub.outq.length
    match s.hub.inq[i]? with
    | none => s
    | some p =>
      let h := Hdr.of p.hdr
      if h.dpkg = s.hub.pkgid || p.via.isNone || ((PType.ofCode h.typ).map PType.linkLocal).getD false || sameWay (s.hub.inq.take i) p then s
      else
        let t := s.takePacket i
        if h.hix = 5 then t.discard p
        else
          match s.leaveBy h.dpkg with
          | .wait => s
          | .fail => if h.cls = 1 then s else t.stranded p
          | .go l => t.leave l (nextHop p)

/-- FABRIC_FORWARD of the n-th packet. -/
def execFabricForward (n : Nat) (s : State) : Host.Outcome State Fault Refusal := .next (s.forward n)

/-- ROUTE_TABLE_WRITE (R235, R398): the write waits to be applied; a nonzero reserved field ignores it. -/
def State.routeWrite (s : State) (i : Nat) (v : BitVec 32) : State :=
  if 3072 ≤ i then s.logged (.ignored (0x20000 + 4 * i) (v.setWidth 64))
  else if v.toNat % 2 ^ 19 ≠ 0 then s.logged (.ignored (0x20000 + 4 * i) (v.setWidth 64))
  else { s with hub := { s.hub with routeq := s.hub.routeq ++ [(i, v)] } }

/-- ROUTE_TABLE_WRITE of an entry. -/
def execRouteTableWrite (i : Nat) (v : BitVec 32) (s : State) : Host.Outcome State Fault Refusal :=
  .next (s.bar fun s => s.routeWrite i v)

/-- Whether a request of this package stands in a list of packets. -/
def standsIn (tag : Nat) (ps : List Packet) : Bool := ps.any fun p =>
  let h := Hdr.of p.hdr
  h.cls == 0 && h.tag == tag

/-- Whether every request that the hub has already sent towards a package has its response (R235): not one that still waits at a pair's
edge or in the hub. -/
def State.settledTo (s : State) (pkg : Nat) : Bool :=
  s.hub.reqs.all fun r => r.dpkg != pkg || standsIn r.tag s.hub.outq || s.pairs.any fun p => standsIn r.tag p.2.edge.outq

/-- ROUTE_ENTRY_APPLY (R235): the n-th waiting write takes effect. -/
def State.routeApply (s : State) (n : Nat) : State :=
  match s.hub.routeq[n]? with
  | none => s
  | some (i, v) =>
    if (s.hub.routeq.take n).any (·.1 == i) || !s.settledTo i then s
    else { s with hub := { s.hub with route := Map.put s.hub.route i v, routeq := s.hub.routeq.eraseIdx n } }

/-- ROUTE_ENTRY_APPLY of the n-th waiting write. -/
def execRouteEntryApply (n : Nat) (s : State) : Host.Outcome State Fault Refusal := .next (s.routeApply n)

end Sys2Proof.Machine
end

