-- ==== Sys2Proof/Machine/Issue.lean ====
section
/-! DEFINITION. Fetch and issue (R46 to R60): the words of the code stream, dictionary entries, literals, repeats; the issue
events; the end of a bundle; user interrupts (R31, R34) and imprecise faults (R258) at bundle boundaries. -/

namespace Sys2Proof.Machine

/-! ### Fetch -/

/-- Why a bundle cannot be issued yet, or never: a trap before any slot commits, poisoned data that the fetch consumes (R300), a walk, a
line of code words or a dictionary entry that is not at hand. -/
inductive FetchStop where
  | fault (t : TrapInfo)
  | poison (pa : Nat)
  | walk (n : Need)
  | line (n : Nat)
  | entry (pa : Nat)
  deriving DecidableEq, Repr

/-- The illegal-instruction trap, bundle cause (R253). -/
def badBundle : FetchStop := .fault (TrapInfo.of 1 1)

/-- The code stream in use. -/
def Ctx.stream (c : Ctx) : Code := if c.sup then c.supcode else c.code

/-- Whether an address lies in a pinned loop that is past its first iteration: it is fetched from the loop buffer (R55). -/
def Loops.pinned (l : Loops) (a : Nat) : Bool :=
  (List.range l.depth).any fun k =>
    l.pin.toList.getD k false && (l.start.toList.getD k 0).toNat ≤ a && a < (l.fin.toList.getD k 0).toNat &&
    1 < (l.stat.getD (l.depth - 1 - k) LoopStat.start).iter

/-- The code word of an address in the loop buffer, if a pinned loop fetches it from there (R55). -/
def Loops.bufWord (l : Loops) (a : Nat) : Option Nat := if l.pinned a then Map.find l.buf a else none

/-- The dictionary entry that a pinned loop holds for an index word at an address (R55). -/
def Loops.bufEntry (l : Loops) (a w : Nat) : Option HeldEntry :=
  if l.pinned a then l.ents.find? (·.ix == w) else none

/-- The stop of a fetch whose translation has ended without an entry: a fetch fault (R253), or, where a table could not be read, the fault
of a fabric error or poisoned data consumed (R259, R300, R301; log entry 72). -/
def fetchStop (cause va : Nat) : FetchStop :=
  if cause = fabricCause then .fault ⟨14, 10, 0, 0, false⟩
  else if cause < 16 then .fault ⟨8, cause, 0, va, false⟩
  else .poison (cause - 16)

/-- The physical address of a byte of code (R54, R201, R250): a fetch needs X, and never goes through an aperture. -/
def State.codePa (s : State) (x va : Nat) : Except FetchStop Nat :=
  let c := s.ctx x
  if inAperture va then .error (.fault ⟨8, if (c.localMap.xlate va).isSome then 5 else 2, 0, va, false⟩)
  else
    match s.look x c.ptroot va with
    | .fault k => .error (fetchStop k va)
    | .hit t =>
      if !c.sup && !t.u then .error (.fault ⟨8, 4, 0, va, false⟩)
      else if !t.x || t.attr.ap then .error (.fault ⟨8, 5, 0, va, false⟩)
      else .ok (t.pa va)
    | .miss root => .error (.walk (.walk (dieOf x) root (field c.ptroot.toNat 63 52) (va57 va) (coreOf x)))

/-- A code word at an even address (R53, R54): inside the stream; in the loop buffer (R55), or its line at hand. -/
def State.codeWord (s : State) (x va : Nat) : Except FetchStop Nat := do
  let k := (s.ctx x).stream
  if va % 2 = 1 ∨ va < k.codeva ∨ k.codeva + 2 * k.codew ≤ va then .error badBundle
  match (s.ctx x).stack.bufWord va with
  | some w => .ok w
  | none =>
    let pa ← s.codePa x va
    if s.poison.contains (pa / 128) then .error (.poison pa)
    if !(s.core (coreOf x)).cline.contains (pa / 128) then .error (.line (pa / 128))
    .ok (leNat (Memory.readN s.mem pa 2))

/-- n code words from an address on. -/
def State.codeWords (s : State) (x va : Nat) : Nat → Except FetchStop (List Nat)
  | 0 => .ok []
  | n + 1 => do
    let w ← s.codeWord x va
    let ws ← s.codeWords x (va + 2) n
    .ok (w :: ws)

/-- The word at the fetch address. -/
def State.fetchWord (s : State) (x : Nat) : Except FetchStop Nat := s.codeWord x (s.ctx x).fetch.pc

/-- Whether a word is a repeat word (R49). -/
def isRepeat (w : Nat) : Bool := 0xFFF0 ≤ w && w ≤ 0xFFFE

/-- The 32-bit words of pairs of code words, low half first (R50). -/
def pairWords : List Nat → List (BitVec 32)
  | a :: b :: r => BitVec.ofNat 32 (a + b * 2 ^ 16) :: pairWords r
  | _ => []

/-- The 32-bit words of groups of four bytes, little-endian (R47). -/
def byteWords (bs : List Byte) : List (BitVec 32) := (words32 bs).map (BitVec.ofNat 32)

/-- A bundle's decoding as a fetch outcome (R60). -/
def decoded (ok : Instr → Bool) (ws : List (BitVec 32)) : Except FetchStop (Header × Bundle) :=
  match decodeBundle ok ws with
  | .ok r => .ok r
  | .error .bundle => .error badBundle
  | .error (.slot _) => .error (.fault (TrapInfo.of 1 2))

/-- The decode checks that look at the context and its kernel. -/
def State.placeOk (s : State) (x : Nat) (i : Instr) : Bool := Instr.inPlace (s.isComm x) (s.ctx x).stream.liven i

/-- A bundle to be presented: nothing of it has issued. -/
def issOf (s : State) (x origin nextBa rep reps : Nat) (b : Bundle) : Iss :=
  ⟨(s.ctx x).fetch.pc, origin, nextBa, none, rep, reps, b, b, none, none, none, .plain, 0, s.heldBanks (coreOf x), none, []⟩

/-- Whether words run past the end of the top loop (R350). -/
def Loops.runsPast (l : Loops) (a n : Nat) : Bool := l.floor < l.depth && a < l.top.2 && l.top.2 < a + n

/-- The words of a dictionary entry that an index word at an address names (R47, R55): held for a pinned loop, or its entry at
hand in the dictionary cache. -/
def State.entryWords (s : State) (x a w : Nat) : Except FetchStop (List (BitVec 32)) :=
  let c := s.ctx x
  match c.stack.bufEntry a w with
  | some e => .ok e.words
  | none => do
    let va := c.stream.dictva + 48 * w
    let pas ← (List.range 12).mapM fun i => s.codePa x (va + 4 * i)
    let pa := pas.headD 0
    match pas.find? fun a => s.poison.contains (a / 128) with
    | some a => .error (.poison a)
    | none => .ok ()
    if !(s.core (coreOf x)).dict.contains pa then .error (.entry pa)
    .ok (byteWords (pas.flatMap fun a => Memory.readN s.mem a 4))

/-- The bundle of the dictionary entry that an index word at an address names (R47, R49). Of a slot that fails and padding that is
not zero the slot is reported (log entry 23). -/
def State.entryBundle (s : State) (x a w : Nat) : Except FetchStop Bundle := do
  if (s.ctx x).stream.dictn ≤ w then .error badBundle
  let ws ← s.entryWords x a w
  let (h, b) ← decoded (s.placeOk x) ws
  if (ws.drop h.length).any (· != 0) then .error badBundle
  .ok b

/-- The bundle of a dictionary entry, issued. -/
def State.fetchEntry (s : State) (x w : Nat) : Except FetchStop Iss := do
  let pc := (s.ctx x).fetch.pc
  let b ← s.entryBundle x pc w
  .ok (issOf s x pc (pc + 2) 0 0 b)

/-- The length of the literal whose escape word stands at an address (R50). -/
def State.literalLength (s : State) (x a : Nat) : Except FetchStop Nat := do
  let n ← s.codeWord x (a + 2)
  if 16 ≤ n ∨ n = 0 ∨ 12 < n then .error badBundle
  .ok n

/-- The bundle of the literal of n words at an address (R50, R53). Of a slot that fails and a length that its header does not state
the slot is reported (log entry 23). -/
def State.literalBundle (s : State) (x a n : Nat) : Except FetchStop Bundle := do
  let ws ← s.codeWords x (a + 4) (2 * n)
  let (h, b) ← decoded (s.placeOk x) (pairWords ws)
  if h.length ≠ n then .error badBundle
  .ok b

/-- A literal bundle, issued (R50, R53). -/
def State.fetchLiteral (s : State) (x : Nat) : Except FetchStop Iss := do
  let c := s.ctx x
  let a := c.fetch.pc
  let n ← s.literalLength x a
  if c.stack.runsPast a (4 + 4 * n) then .error badBundle
  let b ← s.literalBundle x a n
  .ok (issOf s x a (a + 4 + 4 * n) 0 0 b)

/-- The last index word or literal that the words of a range carry, where one stands (R51): its address and the word. -/
def State.lastCarrier (s : State) (x fin : Nat) : Nat → Nat → Option (Nat × Nat) → Except FetchStop (Option (Nat × Nat))
  | 0, _, r => .ok r
  | f + 1, a, r =>
    if fin ≤ a then .ok r
    else do
      let w ← s.codeWord x a
      if w = 0xFFFF then
        let n ← s.literalLength x a
        s.lastCarrier x fin f (a + 4 + 4 * n) (some (a, w))
      else s.lastCarrier x fin f (a + 2) (if isRepeat w then r else some (a, w))

/-- The bundle before the fetch address in the stream, with its origin (R51): after a body that a LOOP of count 0 has skipped (R349)
the last one that the body's words carry. -/
def State.before (s : State) (x : Nat) (p : Prev) : Except FetchStop (Bundle × Nat) :=
  match p.skip with
  | none => .ok (p.slots, p.origin)
  | some (start, fin) => do
    match ← s.lastCarrier x fin ((fin - start) / 2) start none with
    | none => .ok (p.slots, p.origin)
    | some (a, w) =>
      let b ← if w = 0xFFFF then do
          let n ← s.literalLength x a
          s.literalBundle x a n
        else s.entryBundle x a w
      .ok (b, a)

/-- The bundle that a repeat word issues again (R51, R52). -/
def State.fetchRepeat (s : State) (x w : Nat) : Except FetchStop Iss := do
  let c := s.ctx x
  match c.fetch.last with
  | none => .error badBundle
  | some p =>
    let (b, origin) ← s.before x p
    .ok (issOf s x origin (c.fetch.pc + 2) (c.fetch.rep + 1) (w - 0xFFF0 + 2) b)

/-- Whether the S slot of a bundle is a LOOP that may not be pushed (R349) while the bundle has a Y slot, which may not commit
before it: RESUME is 0. Without one the slot's own trap comes before every other slot (log entry 23). -/
def State.loopBars (s : State) (x : Nat) (i : Iss) : Bool :=
  i.slots.any (fun p => p.1 == .Y) && i.slots.any fun p => match p.2 with
    | .loop _ sa _ =>
      let c := s.ctx x
      let b := c.bankOf sa
      !c.pendingS b sa && !loopLegal c.stack.depth i.rep ((c.getS b sa).toNat % 2 ^ 32)
    | _ => false

/-- What the fetch of one word of a pinned body still waits for, the word's entry with it: a walk, a line, an entry. What could not be
fetched at all is left to the bundle that it stands in. -/
def State.bodyWord (s : State) (x a : Nat) : Option FetchStop :=
  let wait : FetchStop → Option FetchStop
    | .walk n => some (.walk n)
    | .line n => if s.inStack (128 * n) then some (.line n) else none
    | .entry pa => if s.inStack pa then some (.entry pa) else none
    | _ => none
  match s.codeWord x a with
  | .error e => wait e
  | .ok w =>
    if (s.ctx x).stream.dictn ≤ w then none
    else
      match s.entryWords x a w with
      | .error e => wait e
      | .ok _ => none

/-- What a pinned loop still waits for in its first iteration (R55): its whole body is brought in then. -/
def State.bodyStop (s : State) (x : Nat) : Option FetchStop :=
  let c := s.ctx x
  let l := c.stack
  let r := l.top
  if l.floor < l.depth && l.pin.toList.getD (l.depth - 1) false && (l.stat.headD LoopStat.start).iter == 1 &&
      r.1 ≤ c.fetch.pc && c.fetch.pc < r.2 then
    (List.range ((r.2 - r.1) / 2)).findSome? fun i => s.bodyWord x (r.1 + 2 * i)
  else none

/-- The bundle at the fetch address, all the checks made that come before any slot commits. -/
def State.fetchBundle (s : State) (x : Nat) : Except FetchStop Iss := do
  let c := s.ctx x
  match s.bodyStop x with
  | some e => .error e
  | none => .ok ()
  let w ← s.fetchWord x
  if c.stack.runsPast c.fetch.pc 2 then .error badBundle
  let i ← if w = 0xFFFF then s.fetchLiteral x else if isRepeat w then s.fetchRepeat x w else s.fetchEntry x w
  if s.loopBars x i then .error (.fault (TrapInfo.of 1 2))
  .ok i

/-- The repetition number of the next issue (R52); a repeat word with nothing to repeat issues none (log entry 23). -/
def State.nextRep (s : State) (x : Nat) : Nat :=
  match s.fetchWord x with
  | .ok w => if isRepeat w && (s.ctx x).fetch.last.isSome then (s.ctx x).fetch.rep + 1 else 0
  | .error _ => 0

/-- Whether a context is at a bundle boundary and may present a bundle: running, its pair not stopped (R268), not halted by a
debugger unless it steps (R280), no window being dropped (R166). -/
def State.mayPresent (s : State) (x : Nat) : Bool :=
  let c := s.ctx x
  c.run == .running && (s.pair (pairOf x)).frozen.isNone && (!c.dbgctl.getLsbD 0 || c.dstep) && !c.dropping && c.iss.isNone

/-- The bundle at the fetch address presented, if its word is of a kind: it waits on its fetch, traps, or stands ready to
issue its slots. -/
def present (kind : Nat → Bool) (s : State) : Host.Outcome State Fault Refusal :=
  .next (
    let x := s.cur
    if !s.mayPresent x then s
    else if (match s.fetchWord x with | .ok w => kind w | .error _ => true) then
      match s.fetchBundle x with
      | .ok i =>
        let asid := field (s.ctx x).ptroot.toNat 63 52
        let pc := (s.ctx x).fetch.pc
        let t := s.useTlb x fun t => t.covers asid pc
        t.setCtx x { t.ctx x with iss := some i, stall := none }
      | .error (.fault t) => s.bundleTrap x t (s.ctx x).fetch.pc (s.nextRep x)
      | .error (.poison pa) => (s.logged (.poison pa)).fatalCtx x
      | .error (.walk n) => (s.applyNeed n).heldBy .fetch
      | .error _ => s.heldBy .fetch
    else s)

/-- DICT_ISSUE (R49): an index word presents its dictionary entry. -/
def execDictIssue (s : State) : Host.Outcome State Fault Refusal := present (fun w => w < 0xFFF0) s

/-- LITERAL_ISSUE (R50). -/
def execLiteralIssue (s : State) : Host.Outcome State Fault Refusal := present (fun w => w == 0xFFFF) s

/-- REPEAT_ISSUE (R51). -/
def execRepeatIssue (s : State) : Host.Outcome State Fault Refusal := present isRepeat s

/-- Whether a pinned loop of one of a core's contexts holds a dictionary entry (R55). -/
def State.holdsEntry (s : State) (core pa : Nat) : Bool :=
  [2 * core, 2 * core + 1].any fun x => ((s.ctx x).loops.ents ++ (s.ctx x).suploops.ents).any (·.pa == pa)

/-- An entry brought into a dictionary cache of 2,048 (R54): the oldest that no pinned loop holds leaves it (R55). -/
def putEntry (held : Nat → Bool) (d : List Nat) (pa : Nat) : List Nat :=
  (if d.length < 2048 then d else
    match d.find? (!held ·) with
    | some o => d.erase o
    | none => d.tail) ++ [pa]

/-- Code bytes read from memory for a fetch: beyond the capacity of their stack the read ends in a fabric error and brings zeros (R259,
R301; log entry 24). -/
def State.codeRead (s : State) (x pa n : Nat) (fill : State → State) : State :=
  if s.inStack pa && s.inStack (pa + n - 1) then fill s else (fill s).memError x (s.ctx x).fetch.pc

/-- FETCH_FILL_COMPLETE (R54): the line of code words or the dictionary entry that the acting context's fetch misses is at
hand. -/
def State.fetchFill (s : State) (x : Nat) : State :=
  let k := s.core (coreOf x)
  match s.fetchBundle x with
  | .error (.line n) => s.codeRead x (128 * n) 128 fun s => s.setCore (coreOf x) { k with cline := k.cline ++ [n] }
  | .error (.entry a) =>
    s.codeRead x a 48 fun s => s.setCore (coreOf x) { k with dict := putEntry (s.holdsEntry (coreOf x)) k.dict a }
  | _ => s

/-- FETCH_FILL_COMPLETE of the acting context. -/
def execFetchFillComplete (s : State) : Host.Outcome State Fault Refusal := .next (s.fetchFill s.cur)

/-! ### Bundle boundaries -/

/-- Whether an imprecise fault is taken now (R258). -/
def State.takesImprecise (s : State) (x : Nat) : Bool :=
  let c := s.ctx x
  s.mayPresent x && !c.sup && !c.impq.isEmpty

/-- IMPRECISE_FAULT_TAKE (R258): the oldest imprecise fault is taken before the next bundle issues. -/
def execImpreciseFaultTake (s : State) : Host.Outcome State Fault Refusal :=
  .next (
    let x := s.cur
    let c := s.ctx x
    match c.impq with
    | [] => s
    | f :: r =>
      if s.takesImprecise x then
        (s.setCtx x { c with impq := r }).takeTrap x ⟨f.cls, f.cause, 0, f.va, f.scale⟩ false f.qix f.eng.code c.fetch.pc f.ba
          (s.nextRep x) 0
      else s)

/-- Whether a bundle with WAITI has been presented and is held: the bundle issues before an interrupt is taken (R385). -/
def State.waitsBundle (s : State) (x : Nat) : Bool :=
  match (s.ctx x).stall with
  | none => false
  | some .fetch => false
  | some _ =>
    match s.fetchBundle x with
    | .ok i => i.slots.any fun p => p.2 == .waiti
    | .error _ => false

/-- Whether a user interrupt is taken now (R34): enabled, no handler running, the next issue known and not a repeat's. -/
def State.takesUser (s : State) (x : Nat) : Bool :=
  let c := s.ctx x
  s.mayPresent x && !c.sup && c.uien && !c.uiact && !c.uiq.isEmpty && c.fetch.rep == 0 && !s.waitsBundle x &&
    match s.fetchWord x with
    | .ok w => !isRepeat w
    | .error (.fault _) => true
    | .error _ => false

/-- USER_INTERRUPT_TAKE (R31, R34, R162, R351): the shadow bank, its cause word and return address, the handler's address,
FLOOR. A request for a token of the bundle that is no longer presented is withdrawn (R228). -/
def execUserInterruptTake (s : State) : Host.Outcome State Fault Refusal :=
  .next (
    let x := s.cur
    let c := s.ctx x
    match c.uiq with
    | [] => s
    | w :: r =>
      if s.takesUser x then
        (s.dropToken x).setCtx x { (c.setS .shadow 56 w).setS .shadow 57 (BitVec.ofNat 64 c.fetch.pc) with
          uiq := r
          ctxctl := c.ctxctl ||| 8
          loops := { c.loops with floor := c.loops.depth }
          fetch := ⟨c.uivec.toNat, none, 0⟩ }
      else s)

/-! ### The end of a bundle -/

/-- The slots that some words of a bundle occupy, as PRES has them (R56). -/
def presMask (b : Bundle) : BitVec 9 := b.foldl (fun m p => m ||| (1 <<< p.1.index)) 0

/-- Whether a bundle pushed the top loop: its LOOP stands at the bundle's end (R349). -/
def Iss.pushed (i : Iss) (l : Loops) : Bool :=
  i.slots.any fun p => match p.2 with
    | .loop _ _ w => l.depth != 0 && l.top.1 == i.nextBa && l.top.2 == i.nextBa + 2 * w.toNat
    | _ => false

/-- A bundle counted by a loop (R288). -/
def LoopStat.count (l : LoopStat) (m : BitVec 9) : LoopStat :=
  { l with bund := l.bund + 1, fill := l.fill.mapFinIdx fun i n _ => if m.getLsbD i then n + 1 else n }

/-- The active loops of a context count a bundle; one that the bundle has pushed does not. -/
def Ctx.countBundle (c : Ctx) (i : Iss) : Ctx :=
  let l := c.stack
  let m := presMask i.slots
  let st := if i.pushed l then l.stat.take 1 ++ (l.stat.drop 1).map (·.count m) else l.stat.map (·.count m)
  c.setStack { l with stat := st }

/-- The dictionary entry of an index word as a pinned loop holds it, if its bytes can be fetched (R55). -/
def State.heldEntry (s : State) (x w : Nat) : Option HeldEntry :=
  let k := (s.ctx x).stream
  if k.dictn ≤ w then none
  else
    match (List.range 12).mapM fun i => s.codePa x (k.dictva + 48 * w + 4 * i) with
    | .ok pas => if pas.any fun a => s.poison.contains (a / 128) then none else some ⟨w, pas.headD 0, byteWords (pas.flatMap fun a => Memory.readN s.mem a 4)⟩
    | .error _ => none

/-- The end of the first iteration of a pinned loop (R55): the code words of its body stand in the loop buffer, and the dictionary
entries they name are held. A word whose page cannot be fetched from stays out, and its fetch faults as any other. -/
def State.fillBuffer (s : State) (x : Nat) : State :=
  let c := s.ctx x
  let l := c.stack
  if !l.pin.toList.getD (l.depth - 1) false || (l.stat.headD LoopStat.start).iter != 2 then s
  else
    let s := s.setCtx x (c.setStack { l with buf := [], ents := [] })
    let words := (List.range ((l.top.2 - l.top.1) / 2)).filterMap fun i =>
      (s.codeWord x (l.top.1 + 2 * i)).toOption.map fun w => (l.top.1 + 2 * i, w)
    s.setCtx x (c.setStack { l with buf := words, ents := (words.map (·.2)).eraseDups.filterMap (s.heldEntry x) })

/-- Where a bundle that has committed goes on (R51, R52, R321, R350, R351). After a loop's return to its start the preceding
bundle of the stream is the LOOP's. -/
def State.goOn (s : State) (x : Nat) (i : Iss) : State :=
  let c := s.ctx x
  match i.target with
  | some t =>
    let s := s.popFor x i.ba t 5
    s.setCtx x { s.ctx x with fetch := ⟨t, none, 0⟩ }
  | none =>
    if i.rep < i.reps then s.setCtx x { c with fetch := { c.fetch with rep := i.rep } }
    else
      let r := s.loopEnd x i.ba i.nextBa 5
      let t := if r.2.2 then r.1.fillBuffer x else r.1
      let last : Prev := if r.2.2 then ⟨[(Slot.S, Instr.loop false 0 1)], i.origin, none⟩ else ⟨i.slots, i.origin, i.skip⟩
      t.setCtx x { t.ctx x with fetch := ⟨r.2.1, some last, 0⟩ }

/-- What BRK does with a debugger attached (R256, R280): the context halts, WHY is 4. -/
def Ctx.stopped (c : Ctx) (why : Nat) : Ctx :=
  { c with dbgctl := (c.dbgctl &&& ~~~0x1C) ||| BitVec.ofNat 32 (why * 4) ||| 1, dstep := false }

/-- A bundle that has committed in full: counted, gone on from, its LIVE marked (R264), its ending begun. A trap after it and
RFT's return wait for the end of its core cycle. -/
def State.finishBundle (s : State) (x : Nat) : State :=
  let c := s.ctx x
  match c.iss with
  | none => s
  | some i =>
    let k := s.core (coreOf x)
    let s := s.setCore (coreOf x) { k with cyc := k.cyc ||| i.banks }
    let late := i.after.isSome || i.ending == .rft
    let c := { c.countBundle i with
      iss := if late then some { i with todo := [] } else none, snap := none, adv := true, stall := none }
    let s := s.setCtx x c
    let s := if i.ending = .rfui then s.leaveHandler x i.ba else s
    let s := if i.ending = .rft then s else s.goOn x i
    let s := if i.ending = .halt then s.finish x i.ba .halt else s
    let c := s.ctx x
    match i.live with
    | some e => if c.grace.isSome && c.run == .running then s.setCtx x { c with savept := some e, run := .saving } else s
    | none => s

/-- The end of the core cycle of a bundle that a trap follows or that returns from one (R255, R256). -/
def State.endBundle (s : State) (x : Nat) : State :=
  let c := s.ctx x
  match c.iss with
  | some i =>
    if !i.todo.isEmpty then s
    else
      let s := s.setCtx x { c with iss := none }
      match i.after with
      | some t =>
        if t.cls = 16 ∧ c.attached ∧ !c.sup then (s.setCtx x ((s.ctx x).stopped 4)).traceOpen x 4 i.ba
        else s.takeTrap x t true 0 0 c.fetch.pc c.fetch.pc i.rep 9
      | none => if i.ending = .rft then s.leaveTrap x i.ba else s
  | none => s

end Sys2Proof.Machine
end

