-- ==== Sys2Proof/Machine/Links.lean ====
section
/-! DEFINITION. The package's links (R231, R232, R237, R238), the link FIFOs with their watchdog (R239 to R241), channel
arrivals and credits (R245). -/

namespace Sys2Proof

/-! ### Views and registers -/

/-- Lanes that a lane map holds. -/
def laneCount (m : BitVec 8) : Nat := ((List.range 8).filter fun i => m.getLsbD i).length

/-- The width in use: the largest of 8, 4 and 2 that the lane map holds (R232, R238). -/
def LinkView.width (v : LinkView) : Nat :=
  let n := laneCount v.lanes
  if 8 ≤ n then 8 else if 4 ≤ n then 4 else if 2 ≤ n then 2 else 0

/-- The common minimum of two views (R238): the AND of the lane maps, the lower speed, error correction if either has it. -/
def LinkView.common (a b : LinkView) : LinkView :=
  ⟨a.lanes &&& b.lanes, if a.speed < b.speed then b.speed else a.speed, a.fec || b.fec⟩

namespace Machine

/-- LNKSTAT (R232). -/
def Link.stat (k : Link) : Nat :=
  k.st.code * 2 ^ 26 + k.tries * 2 ^ 24 + k.view.lanes.toNat * 2 ^ 16 + k.view.width * 2 ^ 12 + k.view.speed.val * 2 ^ 10 +
    ofBit k.view.fec * 2 ^ 9 + k.drop

/-- A link whose CRC failures and replays are counted from zero: the model begins them anew when the link leaves ACTIVE and when it comes
back, which R237 does not say (log entry 43). -/
def Link.uncounted (k : Link) : Link := { k with crcs := [], flits := 0, retry := k.retry.map fun r => { r with reps := 0 } }

/-- A link that leaves ACTIVE for TRAIN (R237, R238). -/
def Link.retrain (k : Link) : Link := { k.uncounted with st := .train, tries := 0, min := none }

/-! ### DOWN (R238, R241) -/

/-- The packets in a retry buffer, whole or in part, in order. -/
def Link.unsent (k : Link) : List Packet :=
  ((k.retry.zip (List.range k.retry.length)).filter fun r => r.2 == 0 || r.1.ix == 0).map (·.1.pkt)

/-- Words and credits that a link FIFO packet carries (log entry 19): FIFO number, words, credits. -/
def Hdr.fifo (h : Hdr) : Nat × Nat × Nat := (field h.ext 7 0, field h.ext 15 8, field h.ext 31 16)

/-- The communication context of a cluster that a place names on this part, if the cluster exists. -/
def State.commAt (s : State) (loc : Nat) : Option Nat :=
  let y := ctxOfLoc loc
  let c := s.commOf y
  if s.exists? c && s.isComm c then some c else none

/-- Discarded words counted in DROP (R232, R241). -/
def Link.dropWords (k : Link) (n : Nat) : Link := { k with drop := Nat.min 511 (k.drop + n) }

/-- What the loss of a retry buffer does with one request (R238, R241): it completes at its source with a fabric error; words are discarded and counted, the room they were to take is free again, and credits are owed
again. -/
def State.losePacket (s : State) (l : Fin 16) (p : Packet) : State :=
  let h := Hdr.of p.hdr
  if p.isFifo then
    let f := h.fifo
    let s := s.closeReq h.tag
    match s.commAt h.sloc with
    | some x =>
      let c := s.ctx x
      let s := s.setCtx x { c with
        lcred := c.lcred.set l.val (c.lcred.get l + f.2.1) l.isLt
        lpop := c.lpop.set l.val (c.lpop.get l + f.2.2) l.isLt }
      s.setLink l ((s.link l).dropWords f.2.1)
    | none => s
  else s.stranded p

/-- Whether a packet is a response. -/
def Packet.isResponse (p : Packet) : Bool := (Hdr.of p.hdr).cls == 1

/-- A link goes DOWN (R232, R238, R241): LNKVEC is sent, the event is logged, requests in the retry buffer fail, its responses and what is
queued for it go by its route's alternate or fail, before what was injected later (R234); the words that wait in lout are discarded. -/
def State.linkDown (s : State) (l : Fin 16) : State :=
  let k := s.link l
  let s := s.setLink l { k with
    st := .down, tries := if k.st = .active then 0 else k.tries, min := none, crcs := [], flits := 0
    retry := [], txseq := 0, rxseq := 0, rx := [], vcs := Vector.replicate 12 [] }
  let s := (k.unsent.filter (!·.isResponse)).foldl (fun s p => s.losePacket l p) s
  let s : State := { s with hub := { s.hub with outq := k.unsent.filter (·.isResponse) ++ k.vcs.toList.flatten ++ s.hub.outq } }
  let s := s.ctxs.foldl (fun s p =>
    if s.isComm p.1 then
      let s := s.setLink l ((s.link l).dropWords (p.2.lout.get l).length)
      let c := s.ctx p.1
      s.setCtx p.1 { c with lout := c.lout.set l.val [] l.isLt }
    else s) s
  let s := s.logged (.linkDown l.val)
  { s with toHost := s.toHost ++ [.msix (field s.hub.lnkvec.toNat 10 0)] }

/-! ### Flits (R231, R233) -/

/-- A packet that has come in whole (R233): a malformed header is discarded, anything else stands with the hub. -/
def State.receivePacket (s : State) (p : Packet) : State :=
  let h := Hdr.of p.hdr
  if 6 ≤ h.hix ∨ 32 < h.nflit ∨ (PType.ofCode h.typ).isNone then s.discard p
  else { s with hub := { s.hub with inq := s.hub.inq ++ [p] } }

/-- A flit accepted: it joins the packet under way, which is over when its payload has come. -/
def State.takeFlit (s : State) (l : Fin 16) (f : BitVec 512) : State :=
  let k := s.link l
  let rx := k.rx ++ [f]
  match rx with
  | [] => s
  | h :: pay =>
    let n := (Hdr.of h).nflit
    if n ≤ 32 ∧ pay.length < n then s.setLink l { k with rx := rx }
    else (s.setLink l { k with rx := [] }).receivePacket ⟨h, pay, some l⟩

/-- The place of a flit in the retry buffer. -/
def Link.place (k : Link) (q : BitVec 12) : Option Nat := (k.retry.map (·.seq)).idxOf? q

/-- The retry buffer without the flits that an acknowledgement covers (R231): there is room for others. -/
def Link.acked (k : Link) (a : BitVec 12) : Link :=
  match k.place a with
  | some i => { k with retry := k.retry.drop (i + 1) }.pump
  | none => k

/-- The CRC failures of a link within the last 2^20 flits with one more (R237). -/
def Link.crcFailed (k : Link) : Link := { k with crcs := (k.crcs.filter fun i => k.flits - i < 2 ^ 20) ++ [k.flits] }

/-- LINK_FLIT_RECEIVE (R231): a unit that fails its CRC is dropped and counted; a good one may acknowledge flits, and its flit
is accepted when it is the next in sequence (R237). -/
def execLinkFlitReceive (l : Fin 16) (f : LinkFlit) (s : State) : Host.Outcome State Fault Refusal :=
  .next (
    let k := s.link l
    if k.st ≠ .active then s
    else
      let k := { k with flits := k.flits + 1 }
      if !f.good then s.setLink l k.crcFailed
      else
        let k := match f.ack with
          | some a => k.acked a
          | none => k
        match f.flit with
        | none => s.setLink l k
        | some b =>
          if f.seq = k.rxseq then (s.setLink l { k with rxseq := k.rxseq + 1 }).takeFlit l b
          else s.setLink l k)

/-- LINK_REPLAY (R231): the far end has dropped a flit; it and every flit after it are sent again. What came before it has been
accepted. -/
def execLinkReplay (l : Fin 16) (seq : BitVec 12) (s : State) : Host.Outcome State Fault Refusal :=
  .next (
    let k := s.link l
    match k.place seq with
    | some i =>
      if k.st ≠ .active then s
      else s.setLink l (Link.pump { k with retry := (k.retry.drop i).map fun r => { r with reps := r.reps + 1 } })
    | none => s)

/-! ### Retraining (R237, R238) -/

/-- A link moved on from a state, if it is in that state. -/
def State.linkMove (s : State) (l : Fin 16) (st : LinkState) (f : Link → Link) : State :=
  if (s.link l).st = st then s.setLink l (f (s.link l)) else s

/-- A link's step from a state, if it is in that state. -/
def linkStep (l : Fin 16) (st : LinkState) (f : Link → Link) (s : State) : Host.Outcome State Fault Refusal := .next (s.linkMove l st f)

/-- How many CRC failures a link has had within the last 2^20 flits (R237). -/
def Link.crc (k : Link) : Nat := (k.crcs.filter fun i => k.flits - i < 2 ^ 20).length

/-- How often the retry buffer has replayed the flit that it has replayed most (R237). -/
def Link.replays (k : Link) : Nat := k.retry.foldl (fun m r => max m r.reps) 0

/-- LINK_CRC_THRESHOLD (R237): more than 64 CRC failures within 2^20 flits. -/
def execLinkCrcThreshold (l : Fin 16) (s : State) : Host.Outcome State Fault Refusal :=
  if 64 < (s.link l).crc then linkStep l .active Link.retrain s else .next s

/-- LINK_LANE_LOSS (R237): some lanes are left. -/
def execLinkLaneLoss (l : Fin 16) (lanes : BitVec 8) (s : State) : Host.Outcome State Fault Refusal :=
  linkStep l .active (fun k => { k.retrain with view := { k.view with lanes := k.view.lanes &&& lanes } }) s

/-- LINK_REPLAY_LIMIT (R237): the retry buffer has replayed one flit 8 times. -/
def execLinkReplayLimit (l : Fin 16) (s : State) : Host.Outcome State Fault Refusal :=
  if 8 ≤ (s.link l).replays then linkStep l .active Link.retrain s else .next s

/-- LINK_TRAIN_COMPLETE (R238): the end's view, within the common minimum of a dispute; without a lane the link goes DOWN. -/
def execLinkTrainComplete (l : Fin 16) (v : LinkView) (s : State) : Host.Outcome State Fault Refusal :=
  .next (
    let k := s.link l
    if k.st ≠ .train then s
    else
      let v := match k.min with
        | none => v
        | some m => v.common m
      if v.width = 0 then s.linkDown l else s.setLink l { k with st := .handshake, view := v })

/-- LINK_TRAIN_TIMEOUT (R238): no lane trains within 10 ms. -/
def execLinkTrainTimeout (l : Fin 16) (s : State) : Host.Outcome State Fault Refusal :=
  .next (if (s.link l).st = .train then s.linkDown l else s)

/-- LINK_HANDSHAKE_COMPLETE (R238): ACTIVE when the far view equals the own in both exchanges; otherwise DISPUTED, with the
common minimum. -/
def execLinkHandshakeComplete (l : Fin 16) (far : Option LinkView) (s : State) : Host.Outcome State Fault Refusal :=
  linkStep l .handshake (fun k =>
    match far with
    | some v => if v = k.view then { k.uncounted with st := .active }.pump
      else { k with st := .disputed, min := some (k.view.common v) }
    | none => { k with st := .disputed, min := some k.view }) s

/-- What follows DISPUTED (R238): at most three retrainings at the common minimum, then DOWN. -/
def State.settleDispute (s : State) (l : Fin 16) : State :=
  let k := s.link l
  if k.st ≠ .disputed then s
  else if k.tries < 3 then s.setLink l { k with st := .train, tries := k.tries + 1 }
  else s.linkDown l

/-- LNKCTL_RETRAIN (R232, R237). -/
def execLnkctlRetrain (l : Fin 16) (s : State) : Host.Outcome State Fault Refusal :=
  .next (s.bar fun s => s.linkMove l .active Link.retrain)

/-- LNKCTL_BRING_UP (R232, R238). -/
def execLnkctlBringUp (l : Fin 16) (s : State) : Host.Outcome State Fault Refusal :=
  .next (s.bar fun s => s.linkMove l .down fun k => { k with st := .train, tries := 0, min := none })

/-- LNKCTL_FORCE_DOWN (R232). -/
def execLnkctlForceDown (l : Fin 16) (s : State) : Host.Outcome State Fault Refusal :=
  .next (s.bar fun s => if (s.link l).st = .down then s else s.linkDown l)

/-! ### Link FIFOs (R239, R241) -/

/-- A communication context's words or credits sent to the package at the far end of a link (R239). -/
def State.sendFifo (s : State) (x : Nat) (l : Fin 16) (ws : List Word) (credits : Nat) : State :=
  let r := s.requestOn l (locOf x) .words (l.val + ws.length * 2 ^ 8 + credits * 2 ^ 16)
    (flitsOf (ws.flatMap fun w => leBytes 8 w.toNat)) (s.bankBit x) .none
  r.1.setLink l ((r.1.link l).send { r.2 with via := none })

/-- Words of a context leave lout while the far lin has room, and credits for words popped from lin go back (R239). -/
def State.sendWords (s : State) (x : Nat) (l : Fin 16) : State :=
  let k := s.link l
  if k.st ≠ .active then s
  else
    let c := s.ctx x
    let n := min (c.lout.get l).length (c.lcred.get l)
    if 0 < n ∧ k.room true 5 then
      (s.sendFifo x l ((c.lout.get l).take n) 0).setCtx x { c with
        lout := c.lout.set l.val ((c.lout.get l).drop n) l.isLt
        lcred := c.lcred.set l.val (c.lcred.get l - n) l.isLt }
    else if 0 < c.lpop.get l ∧ k.room true 1 then
      (s.sendFifo x l [] (c.lpop.get l)).setCtx x { c with lpop := c.lpop.set l.val 0 l.isLt }
    else s

/-- The words that a FIFO packet carries. -/
def fifoWords (p : Packet) (n : Nat) : List Word :=
  (List.range n).map fun i => BitVec.ofNat 64 (leNat ((bytesOf (p.pay) (8 * n)).drop (8 * i) |>.take 8))

/-- LINK_FIFO_WORDS (R239, R241): the n-th packet's words enter lin of the context they are for, under the number of the link
that they came through; for a cluster that does not exist they are discarded and counted. -/
def execLinkFifoWords (n : Nat) (s : State) : Host.Outcome State Fault Refusal :=
  .next (match s.arrived n .words with
    | none => s
    | some (h, p) =>
      let f := h.fifo
      match p.via with
      | none => s
      | some l =>
        if f.2.1 = 0 then s
        else
          let t := (s.takePacket n).respond h .ack (respExt stOk 0) []
          match t.commAt h.dloc with
          | some x =>
            let c := t.ctx x
            t.setCtx x { c with lin := c.lin.set l.val (c.lin.get l ++ fifoWords p f.2.1) l.isLt }
          | none => t.setLink l ((t.link l).dropWords f.2.1))

/-- LINK_FIFO_CREDIT (R239): the n-th packet returns room in the far lin. -/
def execLinkFifoCredit (n : Nat) (s : State) : Host.Outcome State Fault Refusal :=
  .next (match s.arrived n .words with
    | none => s
    | some (h, p) =>
      let f := h.fifo
      match p.via with
      | none => s
      | some l =>
        if f.2.1 ≠ 0 then s
        else
          let t := (s.takePacket n).respond h .ack (respExt stOk 0) []
          match t.commAt h.dloc with
          | some x =>
            let c := t.ctx x
            t.setCtx x { c with lcred := c.lcred.set l.val (min 32 (c.lcred.get l + f.2.2)) l.isLt }
          | none => t)

/-! ### The watchdog (R240) -/

/-- The effect of a slot Y instruction. -/
def execY (i : Instr) (s : State) : Host.Outcome State Fault Refusal :=
  match i with
  | .acq c => execAcq c s
  | .rel c => execRel c s
  | .fence c l t p => execFence c l t p s
  | .fpost k n g => execFpost k n g s
  | .fwait k n => execFwait k n s
  | .bara g => execBara g s
  | .barw g => execBarw g s
  | .live e => execLive e s
  | .dead v f n => execDead v f n s
  | .waiti => execWaiti s
  | _ => .next s

/-- Whether the watchdog of a context has run out (R240). -/
def Ctx.watchdog (c : Ctx) : Bool := field c.lfto.toNat 23 0 != 0 && field c.lfto.toNat 23 0 * 1024 ≤ c.linwait

/-- Whether a context may go on with a split bundle at its slot S: running, its pair not stopped, not halted unless it steps. -/
def State.mayResume (s : State) (x : Nat) : Bool :=
  let c := s.ctx x
  c.run == .running && (s.pair (pairOf x)).frozen.isNone && (!c.dbgctl.getLsbD 0 || c.dstep) &&
    c.iss.any fun i => (i.todo.head?).any (·.1 == .S)

/-- LIN_WATCHDOG (R240): a bundle that has waited on an empty lin for TMO·1,024 cycles splits at S with class 11; Y commits, if
nothing holds it. One that RFT has re-entered at S splits there again. -/
def execLinWatchdog (s : State) : Host.Outcome State Fault Refusal :=
  .next (
    let x := s.cur
    if (s.ctx x).watchdog && s.mayResume x then
      ({ s.setCtx x { s.ctx x with stall := none, linwait := 0 } with slot := .S } : State).slotTrap (TrapInfo.of 11 0)
    else if !((s.ctx x).watchdog && s.mayPresent x) then s
    else
      match s.fetchBundle x with
      | .error _ => s
      | .ok i =>
        let rest := i.slots.filter fun p => p.1 != .Y
        let s0 := (s.setCtx x { s.ctx x with iss := some i, snap := some (s.capture x), stall := none, linwait := 0 })
        match i.slots.find? fun p => p.1 == .Y with
        | none => ({ s0 with slot := .S } : State).slotTrap (TrapInfo.of 11 0)
        | some p =>
          match execY p.2 { s0 with slot := .Y } with
          | .next t =>
            let c := t.ctx x
            if c.stall.isSome then s
            else
              match c.iss with
              | some j =>
                ({ (t.setCtx x { c with iss := some { j with todo := rest } }) with slot := .S } : State).slotTrap (TrapInfo.of 11 0)
              | none => t
          | _ => s)

/-! ### Channels (R245) -/

/-- The place of a channel entry of a context (R191, R243). -/
def State.chanLoc (s : State) (x ch : Nat) : Option Loc :=
  let c := s.ctx x
  let va := c.chtab.toNat + 64 * ch
  if inAperture va then (c.localMap.xlate va).map fun r => .sp r.1
  else
    match walkRoot s c.ptroot va with
    | .ok t => s.chanPlace [t.place va]
    | .error _ => none

/-- A count of a channel entry of a context stepped at its point of coherence: CNTA by an arrival, CNTB by a credit. A poisoned entry
is consumed by its context (R300); one beyond its stack's capacity takes no count (R301, log entry 65). -/
def State.stepChannel (s : State) (x ch : Nat) (arrival : Bool) : State :=
  match s.chanLoc x ch with
  | some l =>
    let s := s.enterAll x [l]
    let k := s.chan x l
    match s.poisonOf [l] with
    | some pa => (s.logged (.poison pa)).fatalCtx x
    | none =>
      if !s.locInStack l then s.logged (.flagDiscard x)
      else if arrival then s.setChan x l 383 352 (k.cnta + 1)
      else s.setChan x l 351 320 (k.cntb + 1)
  | none => s.logged (.flagDiscard x)

/-- The arrival or credit of a channel that comes next: the n-th message on its way, or past these the n-th packet, each in the order
of its edge (R230). -/
def channelEvent (n : Nat) (arrival : Bool) (s : State) : Host.Outcome State Fault Refusal :=
  .next (
    if n < s.hub.msgs.length then
      match s.message n with
      | some (.chanArrival x ch) => if arrival then (s.takeMessage n).stepChannel x ch true else s
      | some (.chanCredit x ch) => if arrival then s else (s.takeMessage n).stepChannel x ch false
      | _ => s
    else
      let i := n - s.hub.msgs.length
      match s.arrived i .credit with
      | none => s
      | some (h, _) =>
        if (field h.ext 8 8 == 1) != arrival then s
        else ((s.takePacket i).stepChannel (ctxOfLoc h.dloc) (field h.ext 7 0) arrival).respond h .ack (respExt stOk 0) [])

/-- CHANNEL_ARRIVAL (R245): CNTA of the receiving entry steps. -/
def execChannelArrival (n : Nat) (s : State) : Host.Outcome State Fault Refusal := channelEvent n true s

/-- CHANNEL_CREDIT (R245): CNTB of the sending entry steps. -/
def execChannelCredit (n : Nat) (s : State) : Host.Outcome State Fault Refusal := channelEvent n false s

end Machine

end Sys2Proof
end

