-- ==== Sys2Proof/Machine/VecMem.lean ====
section
/-! DEFINITION. The vector loads and stores (R379 to R382): rows of elements that cross between a page's format and a
view's, with the blocks of tapered pages (R95, R96). -/

namespace Sys2Proof.Machine

/-- The place k bytes after another of the same page. -/
def Loc.plus : Loc → Nat → Loc
  | .sp o, k => .sp (o + k)
  | .mem a, k => .mem (a + k)
  | .peer p a, k => .peer p (a + k)
  | .win w v o b, k => .win w v (o + k) b
  | .mc w o, k => .mc w (o + k)
  | .lit b, _ => .lit b

/-- Whether a vector access may cross between a page format and a view format in a mode (R380). -/
def crossOk (p v : Fmt) (rm : Fin 4) : Bool :=
  p == v || (p != .fx48 && v != .fx48 && (rm == 0 || !(p.isInt && v.isInt)))

/-- Elements of a vector access in ascending order (R379, R381, R382): each aligned, translated, alike in attributes to the
page that gives the format. The elements of one row lie in one local map entry (R201), which `lix` is once an element has found it;
those of an indexed access need not (`row` false). -/
def vecElems (s : State) (acc : Acc) (x0 : Xl) (es : Nat) (row : Bool) : Option Nat → List Word → Slotwise (List ElemLoc)
  | _, [] => .ok []
  | lix, va :: vas => do
    need (va.toNat % es == 0) (alignFault va.toNat)
    let x ← xlate s acc va.toNat false
    need (x.alike x0 && !(row && twoEntries lix x.lix)) (xlateFault 6 va.toNat false)
    let sc ← xlateScale s acc x0.attr va.toNat
    let rest ← vecElems s acc x0 es row (x.lix.or lix) vas
    .ok (⟨(List.range es).map x.loc.plus, sc⟩ :: rest)

/-- The size in memory of an element of a page (R379). -/
def Attr.es (a : Attr) : Nat := a.fmt.memWidth / 8

/-- The addresses of a row's elements (R379). -/
def rowAddrs (base : Word) (off : BitVec 6) (nv es : Nat) : List Word :=
  let a0 := base + off.signExtend 64 * BitVec.ofNat 64 (nv * es)
  (List.range nv).map fun e => a0 + BitVec.ofNat 64 (e * es)

/-- The blocks of a tapered page that elements touch, in order, each with all its elements (R96). -/
def tapBlocks (s : State) (x0 : Xl) (bl : Nat) (vals : List (Word × Word)) : List Nat → Slotwise (List TapBlock)
  | [] => .ok []
  | b :: bs => do
    let base ← xlate s .store b false
    let sc ← xlateScale s .store x0.attr b
    let rest ← tapBlocks s x0 bl vals bs
    .ok (⟨sc.getD base.loc, (List.range bl).map fun k =>
      (base.loc.plus k, ((vals.filter fun v => v.1.toNat == b + k).getLast?).map (·.2)), false⟩ :: rest)

/-- Whether a store gives every word of a block a value: what the block held before does not matter (R96). -/
def TapBlock.whole (b : TapBlock) : Bool := b.cells.all (·.2.isSome)

/-- Whether every byte of a block can be read now: none lies in a peer's memory, or in a window's object without a copy, or is still to
be written by an earlier store of the context. -/
def State.atHand (s : State) (b : TapBlock) : Bool :=
  let ls := blockLocs [b]
  ls.all (fun l => !l.isPeer && (objectsOf [l]).all (s.objReady s.cur false)) &&
  s.me.mops.all fun m => !m.isStore || m.performed || m.locs.all fun l => !ls.contains l

/-- The bytes that a block holds at issue: in the scratchpad with the writes of this cycle, elsewhere as the context reads them. -/
def State.blockNow (s : State) (b : TapBlock) : List Byte :=
  (blockLocs [b]).map fun l => match s.me.spOf l with
    | some o => Memory.read (s.spNow s.cur) o
    | none => (s.getByte s.cur .cluster l).2

/-- Where a block is encoded (R96, R155, R172): at issue when its words stand in the scratchpad and its scale byte is there too, or is at
hand, or does not matter; at the landing of a multicast store when all of it stands in one window's region; else where the posted
store is performed. -/
inductive TapPlace where
  | issue | member (wn : Fin 16) | posted
  deriving DecidableEq, Repr

/-- Where a block is encoded. -/
def State.tapPlace (s : State) (b : TapBlock) : TapPlace :=
  match b.scale with
  | .mc wn _ =>
    if b.cells.all fun c => match c.1 with | .mc w _ => w == wn | _ => false then .member wn
    else if (blockLocs [b]).all fun l => (s.me.spOf l).isSome then .issue else .posted
  | _ => if b.cells.all (fun c => (s.me.spOf c.1).isSome) && (b.whole || s.atHand b) then .issue else .posted

/-- What the blocks of a store leave to be posted: bytes outside the scratchpad of blocks encoded at issue, and blocks. -/
structure TapLeft where
  away : List (Loc × Byte)
  blocks : List TapBlock
  deriving DecidableEq, Repr

/-- A block of a store issued (R95, R96, R157): its banks taken; its bytes written, on their way to the members, or left to be posted.
Its flags are those of the block as it stands at issue; one that cannot be read then raises its flags where it is encoded (R87, log
entry 22). -/
def issueBlock (a : Attr) (v : Fmt) (rm : Rm) (q : State × TapLeft) (b : TapBlock) : Slotwise (State × TapLeft) := do
  let ls := blockLocs [b]
  let s ← useBanks q.1 (ls.filterMap q.1.me.spOf)
  let e := b.encode a.fmt v rm (s.blockNow b)
  let flagged := if e.2 = 0 then s else s.latch .flags 1 e.2
  match s.tapPlace b with
  | .issue =>
    let cells := ls.zip e.1
    .ok (s.storeLocal (cells.filter fun c => (s.me.spOf c.1).isSome) e.2,
      { q.2 with away := q.2.away ++ cells.filter fun c => (s.me.spOf c.1).isNone })
  | .member wn => .ok (flagged.mcastStore s.cur wn [] [(a.fmt, v, rm, b)], q.2)
  | .posted =>
    let told := b.whole || s.atHand b
    .ok (if told then flagged else s, { q.2 with blocks := q.2.blocks ++ [{ b with told := told }] })

/-- What a store has left, posted. -/
def State.postLeft (s : State) (a : Attr) (v : Fmt) (rm : Rm) (q : TapLeft) : Slotwise State := do
  let t ← if q.away.isEmpty then .ok s
    else pushOp s (s.newOp (.store (q.away.map (·.2))) none a (q.away.map fun c => ⟨[c.1], none⟩))
  if q.blocks.isEmpty then .ok t else pushOp t (t.newOp (.tapStore a.fmt v rm q.blocks) none a (blockElems q.blocks))

/-- A store to a blocked tapered page issued (R95, R96). The context's earlier stores are performed first as far as they may be, so that
the old contents of its blocks are at hand. -/
def issueTap (s : State) (a : Attr) (v : Fmt) (rm : Rm) (bs : List TapBlock) : Slotwise State := do
  let q ← bs.foldlM (issueBlock a v rm) (s.sweep s.cur, ⟨[], []⟩)
  q.1.postLeft a v rm q.2

/-- A row stored element by element (R380): vals are the elements with their addresses, in ascending order. -/
def storeElems (s : State) (x0 : Xl) (elems : List ElemLoc) (v : Fmt) (rm : Rm) (vals : List (Word × Nat)) : Slotwise State :=
  let a := x0.attr
  let p := a.fmt
  match a.block with
  | some bl => do
    let bases := (vals.map fun x => x.1.toNat / bl * bl).eraseDups
    let bs ← tapBlocks s x0 bl (vals.map fun x => (x.1, BitVec.ofNat 64 x.2)) bases
    issueTap s a v rm bs
  | none =>
    let ws := vals.map fun x => if p.isTap then encTap p rm (v.viewVal x.2) else cvtStore p v rm x.2
    issueStore s elems a none (ws.flatMap fun w => leBytes a.es w.1) (Flags.all (ws.map (·.2)))

/-- A vector load of elements at addresses (R380, R381). -/
def loadElems (s : State) (d : Fmt × Nat) (base : Word) (addrs : Nat → List Word) (row : Bool) (md : Option Modifier) (lat : Nat) :
    Slotwise State := do
  let x0 ← xlate s .load base.toNat false
  need (crossOk x0.attr.fmt d.1 (rmField md)) (viewFault 2)
  wrRow s d.2
  let es ← vecElems s .load x0 x0.attr.es row none (addrs x0.attr.es)
  issueLoad (s.touched [d.2]) es x0.attr none (.row x0.attr.fmt d.1 (rmOf md) d.2) lat

/-- A vector store of a row's elements at addresses (R380, R381). -/
def storeRow (s : State) (d : Fmt × Nat) (base : Word) (addrs : Nat → List Word) (row : Bool) (md : Option Modifier) :
    Slotwise State := do
  let b ← rdRow s d.2
  let x0 ← xlate s .store base.toNat false
  need (crossOk x0.attr.fmt d.1 (rmField md)) (viewFault 2)
  let as := addrs x0.attr.es
  let es ← vecElems s .store x0 x0.attr.es row none as
  storeElems (s.touched [d.2]) x0 es d.1 (rmOf md) (as.zip (elems d.1 b))

/-- VLD (R379 to R381). -/
def execVld (vd : Fin 64) (row : Row8) (sa : Fin 64) (off : BitVec 6) (md : Option Modifier) (s : State) :
    Host.Outcome State Fault Refusal :=
  slotDo s (predicated s md do
    let i ← row8 s row
    let d ← viewUnit s vd 0 (i + doff md)
    let a ← rdS s sa
    loadElems s d a (rowAddrs a off d.1.perRow) true md 6)

/-- VST (R379 to R381). -/
def execVst (vd : Fin 64) (row : Row8) (sa : Fin 64) (off : BitVec 6) (md : Option Modifier) (s : State) :
    Host.Outcome State Fault Refusal :=
  slotDo s (predicated s md do
    let i ← row8 s row
    let d ← viewUnit s vd 0 (i + doff md)
    let a ← rdS s sa
    storeRow s d a (rowAddrs a off d.1.perRow) true md)

/-- The index units of an indexed access: each an i32 or n32 unit of a vector view (R382). -/
def indexUnits (s : State) (vi : Fin 64) (ix : Nat) : Nat → Slotwise (List (Fmt × Nat))
  | 0 => .ok []
  | n + 1 => do
    let u ← viewUnit s vi 0 ix
    need (u.1 == .i32 || u.1 == .n32) (viewFault 2)
    let us ← indexUnits s vi (ix + 1) n
    .ok (u :: us)

/-- The first n indices of index units (R382): n32 unsigned, i32 signed. -/
def indexList (s : State) (vi : Fin 64) (ix n : Nat) : Slotwise (List Nat × List Int) := do
  let us ← indexUnits s vi ix ((n + 127) / 128)
  let rows ← rdRows s (us.map (·.2))
  let vals := (us.zip rows).flatMap fun u => (elems u.1.1 u.2).map u.1.1.toInt
  .ok (us.map (·.2), vals.take n)

/-- The addresses of an indexed access's elements (R382). -/
def indexAddrs (base : Word) (idx : List Int) (es : Nat) : List Word := idx.map fun i => base + BitVec.ofInt 64 (i * es)

/-- The units that an indexed access names: its row, and as many index units as the row has elements for. -/
def indexNames (s : State) (vd vi : Fin 64) (row : Slotwise Nat) (md : Option Modifier) : List (Fin 64 × Nat × Nat) :=
  let n := match row with
    | .ok i => match viewUnit s vd 0 (i + doff md) with
      | .ok d => (d.1.perRow + 127) / 128
      | .error _ => 1
    | .error _ => 1
  (vd, 0, doff md) :: (List.range n).map fun k => (vi, 0, aoff md + k)

/-- VLDX (R382). -/
def execVldx (vd vi sa : Fin 64) (row : Row8) (md : Option Modifier) (s : State) : Host.Outcome State Fault Refusal :=
  slotDo s (predicated s md do
    sumNames s (row8 s row) (indexNames s vd vi (row8 s row) md)
    let i ← row8 s row
    let d ← viewUnit s vd 0 (i + doff md)
    let a ← rdS s sa
    let ix ← indexList s vi (i + aoff md) d.1.perRow
    loadElems (s.touched ix.1) d a (indexAddrs a ix.2) false md 8)

/-- VSTX (R382): one store whose elements are applied in ascending order. -/
def execVstx (vd vi sa : Fin 64) (row : Row8) (md : Option Modifier) (s : State) : Host.Outcome State Fault Refusal :=
  slotDo s (predicated s md do
    sumNames s (row8 s row) (indexNames s vd vi (row8 s row) md)
    let i ← row8 s row
    let d ← viewUnit s vd 0 (i + doff md)
    let a ← rdS s sa
    let ix ← indexList s vi (i + aoff md) d.1.perRow
    storeRow (s.touched ix.1) d a (indexAddrs a ix.2) false md)

end Sys2Proof.Machine
end

