-- ==== Sys2Proof/Machine/Matrix.lean ====
section
/-! DEFINITION. The matrix array (R115 to R128, R102, R103, R353, R354): operand slots, passes, drains, slot M. -/

namespace Sys2Proof.Machine

/-! ### ARRCFG, names and ownership (R116 to R119) -/

/-- MODE of ARRCFG (R116). -/
def Ctx.amode (c : Ctx) : Nat := field c.arrcfg.toNat 10 9

/-- OMCNT of ARRCFG (R116). -/
def Ctx.omcnt (c : Ctx) : Nat := field c.arrcfg.toNat 8 4

/-- OMBASE of ARRCFG (R116). -/
def Ctx.ombase (c : Ctx) : Nat := field c.arrcfg.toNat 3 0

/-- The beat length in core cycles: 2 in shared mode, 1 in solo mode (R118). -/
def Ctx.beatLen (c : Ctx) : Nat := if c.amode = 1 then 2 else 1

/-- The accumulators a core may name (R118). -/
def ownsAcc (mode core : Nat) (a : Fin 4) : Bool := mode == 2 || (a.val / 2 == core % 2)

/-- Whether the other core of the pair has a worker in solo mode (R118). -/
def State.otherSolo (s : State) (x : Nat) : Bool :=
  let o := coreOf x + 1 - 2 * (coreOf x % 2)
  [2 * o, 2 * o + 1].any fun y => (s.ctx y).occ != .free && (s.ctx y).amode == 2

/-- A pair's operand slot. -/
def PairSt.slot (p : PairSt) (n : Nat) : OSlot := Map.get OSlot.reset p.oslot n

/-- A pair's operand slot replaced. -/
def State.setSlot (s : State) (p n : Nat) (o : OSlot) : State :=
  s.setPair p { s.pair p with oslot := Map.put (s.pair p).oslot n o }

/-- The checks of every M-slot instruction (R128, R257): not in supervisor mode; an array mode. -/
def arrayOk (s : State) : Slotwise Unit := do
  need (!s.me.sup) illegal
  need ((s.me.amode == 1 || s.me.amode == 2) && !s.otherSolo s.cur) schedFault

/-- The physical slot of a name (R116). -/
def physSlot (s : State) (om : Fin 16) : Slotwise (Nat × OSlot) := do
  need (om.val < s.me.omcnt) schedFault
  let n := (s.me.ombase + om.val) % 16
  .ok (n, (s.pair (pairOf s.cur)).slot n)

/-- The passes in flight that read a physical slot (R119): until they complete. -/
def State.reads (s : State) (x n : Nat) : Bool :=
  (s.ctx x).passes.any fun p => !p.zero && (p.oa.val == n || p.ob.val == n)

/-! ### MCLAIM, MREL (R119) -/

/-- MCLAIM (R119): the blocking form is held, with core cycles running; the other form says in pd whether it claimed. -/
def execMclaim (om : Fin 16) (pd : Option (Fin 16)) (s : State) : Host.Outcome State Fault Refusal :=
  slotDo s do
    arrayOk s
    let o ← physSlot s om
    let ready := o.2.claimed || (o.2.fill.isNone && !s.reads s.cur o.1)
    let t := s.setSlot (pairOf s.cur) o.1 { o.2 with claimed := true }
    match pd with
    | none => do
      need ready (.hold .claim [])
      .ok t
    | some p => .ok (putP (if ready then t else s) p ready 1 0)

/-- MREL (R119). -/
def execMrel (om : Fin 16) (s : State) : Host.Outcome State Fault Refusal :=
  slotDo s do
    arrayOk s
    let o ← physSlot s om
    need o.2.claimed schedFault
    .ok (s.setSlot (pairOf s.cur) o.1 { o.2 with claimed := false })

/-! ### MLD (R120 to R122) -/

/-- The formats of operand tiles (R120). -/
def tileFmt (f : Fmt) : Bool :=
  f == .bf16 || f == .f16 || f == .t8 || f == .t6 || f == .i8 || f == .n8

/-- A slot that may be filled (R119, R120): claimed, no fill in flight, no pass reading it. -/
def fillable (s : State) (om : Fin 16) : Slotwise (Nat × OSlot) := do
  let o ← physSlot s om
  need (o.2.claimed && o.2.fill.isNone && !s.reads s.cur o.1) schedFault
  .ok o

/-- Rows numbered from 0. -/
def numbered (l : List α) : Map α := (List.range l.length).zip l

/-- A scratchpad granule of 256 bytes at an address of the local aperture (R120): its first byte and attributes. A later row that
lies outside the aperture is treated as the first (log entry 57). -/
def localGranule (s : State) (acc : Acc) (va : Word) : Slotwise (Nat × Xl) := do
  need (inAperture va.toNat) schedFault
  let x ← xlate s acc va.toNat false
  match s.me.spOf x.loc with
  | some o => .ok (o, x)
  | none => .error schedFault

/-- A row of one or more granules (R201): they lie under alike attributes and one map entry, which pass a check. -/
def localRow (s : State) (acc : Acc) (ok : Attr → Bool) (va : Word) : Nat → Slotwise (List (Nat × Xl))
  | 0 => .ok []
  | n + 1 => do
    let g ← localGranule s acc va
    let gs ← localRow s acc ok (va + 256) n
    need (gs.all fun h => h.2.same g.2) (xlateFault 6 (va + 256).toNat false)
    need (ok g.2.attr) schedFault
    .ok (g :: gs)

/-- The first bytes of the granules of rows, each row checked before the next (log entry 23). -/
def localRows (s : State) (acc : Acc) (ok : Attr → Bool) (n : Nat) : List Word → Slotwise (List Nat)
  | [] => .ok []
  | v :: vs => do
    let g ← localRow s acc ok v n
    let gs ← localRows s acc ok n vs
    .ok (g.map (·.1) ++ gs)

/-- PITCH (R120). -/
def pitchOf (s : State) : Nat := (rdSys s 0x005).toNat % 256

/-- Whether a bank set names every bank of some scratchpad bytes (R120, R127). -/
def coversBanks (banks : BitVec 32) (offs : List Nat) : Bool := bankMask offs &&& ~~~banks == 0

/-- The core-clock cycles of a fill (R120): at most one granule per bank and eight per cycle. -/
def fillTime (offs : List Nat) : Nat :=
  (List.range 32).foldl (fun m b => max m (offs.countP fun o => o / 256 % 32 == b)) (offs.length / 8)

/-- The places of the scale bytes of a tile row's blocks (R93, R121). -/
def rowScales (s : State) (a : Attr) (bl : Nat) (va : Word) : Nat → Slotwise (List Loc)
  | 0 => .ok []
  | n + 1 => do
    let l ← xlateScale s .load a va.toNat
    let ls ← rowScales s a bl (va + BitVec.ofNat 64 bl) n
    .ok (l.toList ++ ls)

/-- The places of the scale bytes of every block that a fill brings (R121); none for pages without blocks. -/
def fillScales (s : State) (a : Attr) : List Word → Slotwise (List Loc)
  | [] => .ok []
  | v :: vs =>
    match a.block with
    | none => .ok []
    | some bl => do
      let l ← rowScales s a bl v (256 / bl)
      let ls ← fillScales s a vs
      .ok (l ++ ls)

/-- The scale bytes of a fill (R93, R121, log entry 57): those in the scratchpad are read at issue; the others by one load, held while
32 loads are pending (R156), which puts them into the fill when it lands. -/
def scaleLoad (s : State) (n : Nat) (a : Attr) (ls : List Loc) : Slotwise (State × List Byte) := do
  let c := s.me
  waitSp s (ls.filterMap c.spOf)
  let here := ls.map fun l => (c.spOf l).elim 0 (Memory.read s.myCore.sp)
  let far := (numbered ls).filter fun p => (c.spOf p.2).isNone
  if far.isEmpty then .ok (s, here)
  else do
    let t ← pushOp s (s.newOp (.load (.scales n (far.map (·.1)))) none a (far.map fun p => ⟨[p.2], none⟩))
    .ok (t, here)

/-- A tile row of the scratchpad. -/
def tileRow (sp : List Host.Cell) (o : Nat) : BitVec 2048 := BitVec.ofNat 2048 (leNat (Memory.readN sp o 256))

/-- A fill put in flight (R120, R122). -/
def State.fill (s : State) (n : Nat) (o : OSlot) (f : Fill) : State :=
  s.setSlot (pairOf s.cur) n { o with fill := some f }

/-- MLD from the scratchpad (R120, R121). -/
def execMldSp (om : Fin 16) (sa : Fin 64) (banks : BitVec 32) (s : State) : Host.Outcome State Fault Refusal :=
  slotDo s do
    arrayOk s
    let o ← fillable s om
    let va ← rdS s sa
    let pitch := pitchOf s
    need (va.toNat % 256 == 0 && pitch != 0) schedFault
    let vas := (List.range 128).map fun r => va + BitVec.ofNat 64 (256 * pitch * r)
    let g ← localGranule s .load va
    let a := g.2.attr
    let offs ← localRows s .load (fun b => b.fmt == a.fmt && b.bl == a.bl && b.sws == a.sws && tileFmt b.fmt) 1 vas
    need (coversBanks banks offs) schedFault
    takeBanks s banks
    waitSp s (offs.flatMap fun o => span o 256)
    let ls ← fillScales s a vas
    let r ← scaleLoad s o.1 a ls
    let sp := s.myCore.sp
    .ok (r.1.fill o.1 o.2 ⟨fillTime offs, banks, coreOf s.cur, offs, a.fmt, if a.fmt.isTap then a.bl else 0,
      offs.map (tileRow sp), r.2⟩)

/-- A register row as two tile rows (R122). -/
def halves (b : RowBits) : List (BitVec 2048) := [b.extractLsb' 0 2048, b.extractLsb' 2048 2048]

/-- MLD from a tile view (R122): read at issue, then written into the slot over the next 16 core-clock cycles. A condition of the schedule
fault comes before a fault of the view or of a row; the spec does not order them (log entry 36). -/
def execMldView (om : Fin 16) (vw : Fin 64) (row : Row8) (s : State) : Host.Outcome State Fault Refusal :=
  slotDo s do
    sumNames s (row8 s row) [(vw, 1, 0)]
    arrayOk s
    let o ← fillable s om
    let i ← row8 s row
    let u ← viewUnit s vw 1 i
    let rs := (List.range 64).map fun k => (u.2 + k) % 512
    let bs ← rdRows s rs
    .ok ((s.touched rs).fill o.1 o.2 ⟨17, 0, coreOf s.cur, [], u.1, 0, bs.flatMap halves, []⟩)

/-- The rows that a fill puts into its slot. A scratchpad granule that another core's multicast write changed while it was
in flight comes with its old or its new bytes, a free choice for each (R354); so does one that a store of the same bundle writes
(log entry 57). -/
def fillRows (s : State) (f : Fill) : List (BitVec 2048) × Nat :=
  if f.src.isEmpty then (f.rows, 0)
  else
    let now := f.src.map (tileRow (s.core f.core).sp)
    if now = f.rows then (f.rows, 0)
    else
      let pick := s.freeNat 2
      ((List.range 128).map fun i => if bit (pick / 2 ^ i) then now.getD i 0 else f.rows.getD i 0, 2)

/-- The scale store of a fill: one byte per block (R121). -/
def scaleStore (l : List Byte) : Map Byte := (numbered l).filter fun p => p.2 != 0

/-- Whether scale bytes of the fill of an operand slot are still to come (R121). -/
def State.scalesOwed (s : State) (p n : Nat) : Bool :=
  (span (4 * p) 4).any fun x => (s.ctx x).mops.any fun m => match m.kind with
    | .load (.scales k _) => k == n
    | _ => false

/-- MLD_FILL_COMPLETE (R120 to R122, R157): its last row has been read and its banks are free; the tile stands in the slot when its
scale bytes have come too. -/
def State.fillComplete (s : State) (p n : Nat) : State :=
  let o := (s.pair p).slot n
  match o.fill with
  | none => s
  | some f =>
    if (s.pair p).frozen.isSome || 1 < f.left then s
    else
      let r := fillRows s f
      if s.scalesOwed p n then (s.useFree r.2).setSlot p n { o with fill := some { f with banks := 0, rows := r.1, src := [] } }
      else (s.useFree r.2).setSlot p n { o with
        rows := (numbered r.1).filter fun q => q.2 != 0, scale := scaleStore f.scale, bl := f.bl, fmt := f.fmt, fill := none }

/-- MLD_FILL_COMPLETE of a pair's slot. -/
def execMldFillComplete (p : PairId) (om : Fin 16) (s : State) : Host.Outcome State Fault Refusal :=
  .next (s.fillComplete p.val om.val)

/-! ### Passes (R102, R103, R123 to R126) -/

/-- An element of a tile row, decoded exactly with the scale of its block (R121). -/
def OSlot.el (o : OSlot) (r k : Nat) : Val × Flags :=
  let row := (Map.get 0 o.rows r).toNat
  if o.fmt.memWidth = 16 then (o.fmt.scalarVal (field row (16 * k + 15) (16 * k)), 0)
  else
    let w := field row (8 * k + 7) (8 * k)
    if o.fmt.isTap then
      let sc := match blockLen o.bl with
        | none => 0
        | some bl => sextNat 8 (Map.get 0 o.scale ((256 * r + k) / bl)).toNat
      decBlk o.fmt w sc
    else (o.fmt.scalarVal w, 0)

/-- The exact term of a cell operation on one pair of elements (R102). -/
def cellTerm (op : Cop) (rm : Rm) (a b : Val) : Val × Flags :=
  match op with
  | .fma => Val.mul a b
  | .abd => let d := Val.add rm a b.negate; (d.1.abs, d.2)
  | _ => Val.add rm a b

/-- The terms of the beat joined: a sum, or for CSX and CSN the larger or smaller (R102). -/
def joinTerms (op : Cop) (rm : Rm) (x y : Val × Flags) : Val × Flags :=
  match op with
  | .csx => if x.1.isNan || y.1.isNan then (.nan false, x.2 ||| y.2) else (if x.1.below y.1 then y.1 else x.1, x.2 ||| y.2)
  | .csn => if x.1.isNan || y.1.isNan then (.nan false, x.2 ||| y.2) else (if y.1.below x.1 then y.1 else x.1, x.2 ||| y.2)
  | _ => let t := Val.add rm x.1 y.1; (t.1, t.2 ||| x.2 ||| y.2)

/-- A cell's update (R102): the FP32 bits and the flags. -/
def cellOp (op : Cop) (rm : Rm) (c : Nat) (t : Val × Flags) : Nat × Flags :=
  let v := fpF32.dec c
  let pick (better : Bool) : Nat × Flags :=
    if v.isNan || t.1.isNan then (fpF32.nan, t.2 ||| sigFlags [v])
    else if better then
      let r := fpF32.rnd rm t.1
      (r.1, r.2 ||| t.2)
    else (c, t.2)
  match op with
  | .csx => pick (v.below t.1)
  | .csn => pick (t.1.below v)
  | _ =>
    let u := Val.add rm v t.1
    let r := fpF32.rnd rm u.1
    (r.1, r.2 ||| u.2 ||| t.2 ||| sigFlags [v])

/-- A row of an accumulator as 128 FP32 values. -/
def accRow (m : Map (BitVec 4096)) (i : Nat) : BitVec 4096 := Map.get 0 m i

/-- The operands of a beat (R123): for each tile row, the element of a 16-bit format, the two of an 8-bit one. -/
def beatEls (o : OSlot) (j : Nat) : List (List (Val × Flags)) :=
  (List.range 128).map fun r => if o.fmt.memWidth = 16 then [o.el r j] else [o.el r (2 * j), o.el r (2 * j + 1)]

/-- The term of a cell from its operands (R102). -/
def beatTerm (op : Cop) (rm : Rm) (a b : List (Val × Flags)) : Val × Flags :=
  let one (x y : Val × Flags) : Val × Flags :=
    let t := cellTerm op rm x.1 y.1
    (t.1, t.2 ||| x.2 ||| y.2 ||| sigFlags [x.1, y.1])
  match a, b with
  | [x, x'], [y, y'] => joinTerms op rm (one x y) (one x' y')
  | x :: _, y :: _ => one x y
  | _, _ => (.nan false, 0)

/-- Beat j of a pass on an accumulator (R123). -/
def beatAcc (op : Cop) (rm : Rm) (a b : OSlot) (j : Nat) (m : Map (BitVec 4096)) : Map (BitVec 4096) × Flags :=
  let bs := beatEls b j
  let rows := ((beatEls a j).zip (List.range 128)).map fun p =>
    let cs := ((splitN 32 128 (accRow m p.2).toNat).zip bs).map fun q => cellOp op rm q.1 (beatTerm op rm p.1 q.2)
    (p.2, BitVec.ofNat 4096 (joinN 32 (cs.map (·.1))), Flags.all (cs.map (·.2)))
  (rows.map fun r => (r.1, r.2.1), Flags.all (rows.map fun r => r.2.2))

/-- The entries of a sequence in MSEQR (R125). -/
def seqOf (w : Word) : List Cop :=
  (List.range (field w.toNat 35 32 + 1)).map fun j =>
    match w.toNat / 4 ^ j % 4 with
    | 0 => .fma | 1 => .abd | 2 => .csx | _ => .csn

/-- An accumulator operation may issue (R118, R124): its accumulator owned, not in the busy window. -/
def accOk (s : State) (acc : Fin 4) : Slotwise Unit :=
  need (ownsAcc s.me.amode (coreOf s.cur) acc && s.me.busy == 0) schedFault

/-- No pass or MZERO on the accumulator is in its tail (R124, R126). -/
def noTail (s : State) (acc : Fin 4) : Slotwise Unit := need (!s.me.passes.any (·.acc == acc)) schedFault

/-- A pass started (R124). -/
def State.startPass (s : State) (p : Pass) : State :=
  let c := s.me
  s.setMe { c with passes := c.passes ++ [p], busy := p.beats * p.len }

/-- Whether metering is off: LIMIT of DIDT is 0 (R227, R297). -/
def DieSt.unmetered (d : DieSt) : Bool := field d.didt.toNat 15 0 == 0

/-- Whether an MMA's token has been served (R228). -/
def State.tokenServed (s : State) (x : Nat) : Bool :=
  let d := s.die (dieOf x)
  d.unmetered || d.reqs.any fun r => r.who == .mma x && r.served

/-- MMA (R123, R124, R128): held by a fill in flight on an operand, and by the token bucket. -/
def execMma (oma omb : Fin 16) (acc : Fin 4) (cop : Cop) (rm : Rm) (beatsm1 : Fin 128) (s : State) :
    Host.Outcome State Fault Refusal :=
  slotDo s do
    arrayOk s
    let a ← physSlot s oma
    let b ← physSlot s omb
    need (a.2.claimed && b.2.claimed) schedFault
    accOk s acc
    need (a.2.fill.isNone && b.2.fill.isNone) (.hold .fill [.token s.cur])
    need (a.2.fmt.memWidth == b.2.fmt.memWidth) schedFault
    need (s.tokenServed s.cur) (.hold .token [.token s.cur])
    let seq := if cop = .seq then seqOf (rdSys s 0x006) else [cop]
    .ok ((s.dropToken s.cur).startPass ⟨acc, Fin.ofNat 16 a.1, Fin.ofNat 16 b.1, false, seq, rm, beatsm1.val + 1, s.me.beatLen,
      0, 0, 0, 0, s.me.ba⟩)

/-- MZERO (R126). -/
def execMzero (acc : Fin 4) (s : State) : Host.Outcome State Fault Refusal :=
  slotDo s do
    arrayOk s
    accOk s acc
    noTail s acc
    .ok (s.startPass ⟨acc, 0, 0, true, [], .ne, 1, s.me.beatLen, 0, 0, 0, 0, s.me.ba⟩)

/-- MSEQ (R125): MSEQR is written at the end of its core cycle. -/
def execMseq (lenm1 : Fin 16) (seq : BitVec 32) (s : State) : Host.Outcome State Fault Refusal :=
  slotDo s do
    arrayOk s
    .ok (s.latch (.sys 0x006 (BitVec.ofNat 64 (lenm1.val * 2 ^ 32 + seq.toNat))) 1 0)

/-- One released beat of a pass executed (R118, R123). -/
def State.beat (s : State) (x n : Nat) (p : Pass) : State :=
  let pr := s.pair (pairOf x)
  let m := Map.get [] pr.acc p.acc.val
  let r := if p.zero then ([], 0)
    else beatAcc (p.seq.getD (p.executed % p.seq.length) .fma) p.rm (pr.slot p.oa.val) (pr.slot p.ob.val) p.executed m
  let s := s.setPair (pairOf x) { pr with acc := Map.put pr.acc p.acc.val r.1 }
  let c := s.ctx x
  s.setCtx x { c with passes := c.passes.set n { p with executed := p.executed + 1, fl := p.fl ||| r.2 } }

/-- Whether an array cycle of the core begins in this die cycle (R118). -/
def State.arrayCycle (s : State) (x : Nat) : Bool :=
  (s.pair (pairOf x)).frozen.isNone && ((s.ctx x).amode != 1 || s.clock % 2 == coreOf x % 2)

/-- The first pass of a context with a released beat that has not been executed. -/
def Ctx.nextBeat (c : Ctx) : Option (Nat × Pass) :=
  ((List.range c.passes.length).zip c.passes).find? fun p => p.2.executed < p.2.released

/-- ARRAY_BEAT (R118): in an array cycle of its core, one released beat of a context's oldest pass. -/
def State.arrayBeat (s : State) (x : Nat) : State :=
  if s.arrayCycle x then
    match (s.ctx x).nextBeat with
    | some p => s.beat x p.1 p.2
    | none => s
  else s

/-- ARRAY_BEAT of the acting context. -/
def execArrayBeat (s : State) : Host.Outcome State Fault Refusal := .next (s.arrayBeat s.cur)

/-- The core cycles from issue to visibility (R124). -/
def Pass.life (p : Pass) : Nat := (p.beats + 12) * p.len

/-- MATRIX_PASS_COMPLETE (R124, R87): a pass whose core cycles are over is no longer in flight; its flags are raised. -/
def State.passComplete (s : State) (x : Nat) : State :=
  let c := s.ctx x
  let ended (p : Pass) : Bool := p.life ≤ p.age && p.executed == p.beats
  s.setCtx x { c with
    passes := c.passes.filter (!ended ·)
    fpflags := c.fpflags ||| Flags.all ((c.passes.filter ended).map (·.fl)) }

/-- MATRIX_PASS_COMPLETE of the acting context. -/
def execMatrixPassComplete (s : State) : Host.Outcome State Fault Refusal := .next (s.passComplete s.cur)

/-! ### MST (R127) -/

/-- A drain started (R127): an array operation of 64 beats. -/
def State.startDrain (s : State) (d : Drain) : State :=
  let c := s.me
  s.setMe { c with drains := c.drains ++ [d], busy := 64 * d.len }

/-- MST to an accumulator view (R127); its schedule faults come first (log entry 36). -/
def execMstView (acc : Fin 4) (vw : Fin 64) (row : Row8) (s : State) : Host.Outcome State Fault Refusal :=
  slotDo s do
    sumNames s (row8 s row) [(vw, 2, 0)]
    arrayOk s
    accOk s acc
    noTail s acc
    let i ← row8 s row
    let u ← viewUnit s vw 2 i
    need (u.1 == .f32) (viewFault 2)
    ((List.range 128).map fun k => (u.2 + k) % 512).forM (wrRow s)
    .ok (s.startDrain ⟨acc, .rows u.2, s.me.beatLen, 0, [], 0, 0, s.me.ba, s.me.cc⟩)

/-- MST to the scratchpad (R127). -/
def execMstSp (acc : Fin 4) (sa : Fin 64) (banks : BitVec 32) (s : State) : Host.Outcome State Fault Refusal :=
  slotDo s do
    arrayOk s
    accOk s acc
    noTail s acc
    let va ← rdS s sa
    let pitch := pitchOf s
    need (va.toNat % 256 == 0 && 2 ≤ pitch) schedFault
    let vas := (List.range 128).map fun r => va + BitVec.ofNat 64 (256 * pitch * r)
    let offs ← localRows s .store (fun b => b.fmt == .f32) 2 vas
    need (coversBanks banks offs) schedFault
    takeBanks s banks
    .ok (s.startDrain ⟨acc, .sp offs, s.me.beatLen, 0, [], 0, banks, s.me.ba, s.me.cc⟩)

/-- What the landing of row j of a drain writes (R127). -/
def DrainTo.write (t : DrainTo) (j : Nat) (b : BitVec 4096) : Write :=
  match t with
  | .rows first => .row ((first + j) % 512) fullMask b
  | .sp offs =>
    let bs := leBytes 512 b.toNat
    .spad (cellsAt (offs.getD (2 * j) 0) (bs.take 256) ++ cellsAt (offs.getD (2 * j + 1) 0) (bs.drop 256))

/-- The drain reads the rows of the beat that this core cycle begins, if one begins (R127). -/
def Drain.sample (d : Drain) (m : Map (BitVec 4096)) : Drain :=
  if d.age % d.len = 0 ∧ d.age / d.len < 64 then
    let b := d.age / d.len
    { d with read := d.read ++ [accRow m (2 * b), accRow m (2 * b + 1)] }
  else d

/-- The next two rows of a drain as latch entries that land now. -/
def Drain.entries (d : Drain) : List Latch :=
  [d.landed, d.landed + 1].map fun j => ⟨d.dst.write j (d.read.getD j 0), 0, 0, .M, d.ba, d.born⟩

/-- MST_ROW_LAND (R127): two due rows of a context's oldest drain land; after the last the drain is over. -/
def State.landRows (s : State) (x : Nat) : State :=
  let c := s.ctx x
  match c.drains.find? Drain.due with
  | none => s
  | some d =>
    let d' := { d with landed := d.landed + 2 }
    let s := s.setCtx x { c with drains := (c.drains.map fun e => if e = d then d' else e).filter (·.landed < 128) }
    s.landAll x d.entries

/-- MST_ROW_LAND of the acting context. -/
def execMstRowLand (s : State) : Host.Outcome State Fault Refusal := .next (s.landRows s.cur)

end Sys2Proof.Machine
end

