-- ==== Sys2Proof/Machine/Reduce.lean ====
section
/-! DEFINITION. The reduction pipeline (R246 to R249, R331): the reduction table, contributions, rounds and their results. -/

namespace Sys2Proof.Machine

/-! ### Entries (R246) -/

/-- A field of an entry. -/
def RedEntry.fld (e : RedEntry) (hi lo : Nat) : Nat := field e.bits.toNat hi lo

/-- Whether an entry is valid: V, reserved fields zero, PARENT and LEN8M1 within their ranges (R246). -/
def RedEntry.ok (e : RedEntry) : Bool :=
  e.fld 0 0 == 1 && e.fld 35 1 == 0 && e.fld 95 90 == 0 && e.fld 63 59 ≤ 16 && e.fld 53 44 < 512

/-- The length in bytes (R246). -/
def RedEntry.len (e : RedEntry) : Nat := 8 * (e.fld 53 44 + 1)

/-- ROUND (R246). -/
def RedEntry.round (e : RedEntry) : Nat := e.fld 127 96

/-- PARENT; none at the root (R246). -/
def RedEntry.parent (e : RedEntry) : Option (Fin 16) := if e.fld 63 59 < 16 then some (Fin.ofNat 16 (e.fld 63 59)) else none

/-- The links of CHILD (R246). -/
def RedEntry.children (e : RedEntry) : List (Fin 16) := (List.finRange 16).filter fun l => (e.fld 79 64).testBit l.val

/-- Whether a round has all it needs: LOCAL contributions and one partial result of each child (R247). -/
def RedEntry.full (e : RedEntry) : Bool := e.fld 89 80 ≤ e.ranks.length && e.kids.toNat == e.fld 79 64

/-- Whether a round is in progress. -/
def RedEntry.running (e : RedEntry) : Bool := !e.ranks.isEmpty || e.kids != 0

/-- An entry of the table. -/
def State.red (s : State) (i : Nat) : RedEntry := Map.get RedEntry.reset s.hub.red i

/-- An entry replaced. -/
def State.setRed (s : State) (i : Nat) (e : RedEntry) : State := { s with hub := { s.hub with red := Map.put s.hub.red i e } }

/-! ### Contributions (R247) -/

/-- What the extension of a contribution or of a result on a link says: entry, operation code, lane code, sequence number,
length, place of the payload, whether the supervisor issued it (log entry 19). -/
structure Contrib where
  rid : Nat
  rop : Nat
  lw : Nat
  seq : Nat
  len : Nat
  off : Nat
  sup : Bool
  deriving DecidableEq, Repr

/-- The fields of an extension. -/
def Contrib.of (x : Nat) : Contrib :=
  ⟨field x 31 22, field x 21 19, field x 18 17, field x 63 32, field x 95 64, field x 126 96, field x 127 127 == 1⟩

/-- Whether a packet is the last of its contribution or result: they carry up to 2 KiB each, at most 4 KiB in all. -/
def Contrib.last (c : Contrib) : Bool := Nat.min c.len 4096 ≤ c.off + 2048

/-- The bytes of packets of one contribution. -/
def contribBytes (ps : List Packet) : List Byte :=
  ps.flatMap fun p =>
    let c := Contrib.of (Hdr.of p.hdr).ext
    bytesOf p.pay (Nat.min 2048 (Nat.min c.len 4096 - c.off))

/-- Whether two packets belong to one contribution or result. -/
def Packet.joins (p q : Packet) : Bool :=
  let a := Hdr.of p.hdr
  let b := Hdr.of q.hdr
  a.typ == b.typ && p.via == q.via && a.spkg == b.spkg && a.sloc == b.sloc

/-- The bytes of a lane of a code (R247). -/
def laneBytes (lw : Nat) : Nat := 2 ^ lw

/-- A lane as the hub holds it: 48-bit values are sign-extended to their container (R247). -/
def laneNorm (lw v : Nat) : Nat := if lw = 3 then wrap 64 (sextNat 48 (v % 2 ^ 48)) else v

/-- An operation on two lanes (R247): add wraps, max and min compare LW 3 as signed and the others as unsigned. -/
def laneOp (rop lw a b : Nat) : Nat :=
  let sg (v : Nat) : Int := if lw = 3 then sextNat 48 (v % 2 ^ 48) else v
  laneNorm lw (match rop with
    | 0 => (a + b) % 2 ^ (8 * laneBytes lw)
    | 1 => if sg a < sg b then b else a
    | 2 => if sg b < sg a then b else a
    | 3 => a &&& b
    | _ => a ||| b)

/-- The lanes of bytes. -/
def lanesOf (lw : Nat) (bs : List Byte) : List Nat :=
  (List.range (bs.length / laneBytes lw)).map fun i => leNat ((bs.drop (laneBytes lw * i)).take (laneBytes lw))

/-- The bytes of lanes. -/
def laneBytesOf (lw : Nat) (ls : List Nat) : List Byte := ls.flatMap (leBytes (laneBytes lw))

/-- A contribution applied to the accumulator (R247). The first of a round stands for itself (log entry 40). -/
def RedEntry.apply (e : RedEntry) (bs : List Byte) : RedEntry :=
  let lw := e.fld 55 54
  let new := lanesOf lw bs
  let acc := lanesOf lw (leBytes e.len e.acc.toNat)
  let out := if e.running then (acc.zip new).map fun p => laneOp (e.fld 58 56) lw p.1 p.2 else new.map (laneNorm lw)
  { e with acc := BitVec.ofNat 32768 (leNat (laneBytesOf lw out)) }

/-- What the sequence check makes of a contribution (R248). -/
inductive SeqFate where
  | apply | latest | older | gap
  deriving DecidableEq, Repr

/-- The sequence check (R248): by d = (s − LAST) mod 2^32. -/
def seqFate (seq last : Nat) : SeqFate :=
  let d := (seq + 2 ^ 32 - last % 2 ^ 32) % 2 ^ 32
  if d = 1 then .apply else if d = 0 then .latest else if 2 ^ 32 - 1023 ≤ d then .older else .gap

/-- The status of an answer to a contribution that only ends the command (R248, log entry 19). -/
def stOlder : Nat := 16

/-- The status of an answer to a packet of a contribution that is not its last: the last one's answer says how it ends. -/
def stPart : Nat := 17

/-- The answer to the packets of a contribution whose command ends without a result: a fault's cause or an older duplicate.
The last packet's answer carries it. -/
def State.endContrib (s : State) (hs : List (BitVec 512)) (st : Nat) : State :=
  match hs with
  | [] => s
  | [h] => s.respond (Hdr.of h) .result (resultExt (Hdr.of h).ext st) []
  | h :: hs => (s.respond (Hdr.of h) .result (resultExt (Hdr.of h).ext stPart) []).endContrib hs st

/-- A result sent to those that wait: each packet of a contribution is answered with the bytes of its place. -/
def State.answerContrib (s : State) (hs : List (BitVec 512)) (bs : List Byte) : State :=
  hs.foldl (fun s h =>
    let g := Hdr.of h
    let part := (bs.drop (Contrib.of g.ext).off).take 2048
    s.respond g .result (resultExt g.ext stOk) (flitsOf part)) s

/-- The extension of a packet of a contribution or result between hubs (R233, log entry 19): reduction word, sequence number, length,
place of the payload. -/
def treeExt (w seq len off : Nat) : Nat := w + seq % 2 ^ 32 * 2 ^ 32 + len * 2 ^ 64 + off * 2 ^ 96

/-- The contribution of a hub to its parent (R247), up to 2 KiB a packet, each a request (R234). -/
def State.sendUp (s : State) (l : Fin 16) (i w seq : Nat) (bs : List Byte) : State :=
  (List.range ((bs.length + 2047) / 2048)).foldl (fun s j =>
    let r := s.requestOn l 0 .contrib (treeExt w seq bs.length (2048 * j)) (flitsOf ((bs.drop (2048 * j)).take 2048)) 0 (.hub i)
    r.1.outOfHub r.2) s

/-- The response to a packet of a child's contribution (R234, R247): the bytes of a result at its place. -/
def State.sendDown (s : State) (l : Fin 16) (hdr : BitVec 512) (w seq : Nat) (bs : List Byte) : State :=
  let h := Hdr.of hdr
  let off := (Contrib.of h.ext).off
  let pay := flitsOf ((bs.drop off).take 2048)
  s.outOfHub ⟨(⟨h.spkg, h.sloc, s.hub.pkgid, h.dloc, 1, 0, pay.length, PType.result.code, h.ta, h.tag, treeExt w seq bs.length off⟩ :
    Hdr).bits, pay, some l⟩

/-- The reduction word of an entry's own number, operation and lanes (R72). -/
def RedEntry.word (e : RedEntry) (i : Nat) : Nat := i * 2 ^ 22 + e.fld 58 56 * 2 ^ 19 + e.fld 55 54 * 2 ^ 17

/-- The end of a round with its result (R247): the children and the local contributors get it, ROUND steps, the accumulator is
zero again. -/
def State.roundDone (s : State) (i : Nat) (e : RedEntry) (bs : List Byte) : State :=
  let s := e.kidWait.foldl (fun s k => s.sendDown k.1 k.2 (e.word i) (e.round + 1) bs) s
  let s := s.answerContrib e.waiters bs
  s.setRed i { e with
    bits := BitVec.ofNat 128 (setField e.bits.toNat 127 96 (e.round + 1))
    acc := 0, ranks := [], kids := 0, waiters := [], kidWait := [], result := BitVec.ofNat 32768 (leNat bs) }

/-- A round that may have become full (R247): the root ends it, another hub sends its accumulator to PARENT. -/
def State.settleRound (s : State) (i : Nat) (was : Bool) (e : RedEntry) : State :=
  if e.full && !was then
    let bs := leBytes e.len e.acc.toNat
    match e.parent with
    | none => s.roundDone i e bs
    | some l => (s.setRed i e).sendUp l i (e.word i) (e.round + 1) bs
  else s.setRed i e

/-- The rank of a local contributor in the entry's group (R246, R247): none for a context that is no member, for a
communication context and for the supervisor. -/
def State.redRank (s : State) (e : RedEntry) (x : Nat) (sup : Bool) : Option Nat :=
  if sup then none
  else
    match s.workerOf x with
    | some (l, i) => gRank (s.group l (e.fld 43 36)) i
    | none => none

/-- Whether a contribution is of its entry's operation, lanes and length (R247, R331). -/
def RedEntry.agrees (e : RedEntry) (c : Contrib) : Bool := c.rop == e.fld 58 56 && c.lw == e.fld 55 54 && c.len == e.len

/-- A whole contribution of a context of this package (R247, R248). -/
def State.localContrib (s : State) (i : Nat) (e : RedEntry) (x : Nat) (c : Contrib) (ps : List Packet) : State :=
  let hs := ps.map (·.hdr)
  let s := s.setRed i e
  if !e.ok then s.endContrib hs 1
  else if !e.agrees c then s.endContrib hs 2
  else
    match s.redRank e x c.sup with
    | none => s.endContrib hs 3
    | some r =>
      match seqFate c.seq (Map.get 0 e.lastRank r) with
      | .apply =>
        let e' := { e.apply (contribBytes ps) with
          ranks := e.ranks ++ [r], lastRank := Map.put e.lastRank r c.seq, waiters := e.waiters ++ hs }
        s.settleRound i e.full e'
      | .latest =>
        if e.ranks.contains r then s.setRed i { e with waiters := e.waiters ++ hs }
        else s.answerContrib hs (leBytes e.len e.result.toNat)
      | .older => s.endContrib hs stOlder
      | .gap => s.endContrib hs 4

/-- A whole partial result of a child link (R247, R248); one that fails a check has no effect, is logged and answered with an error; an
older duplicate is only acknowledged (R234). -/
def State.childContrib (s : State) (i : Nat) (e : RedEntry) (l : Fin 16) (c : Contrib) (ps : List Packet) : State :=
  let s := s.setRed i e
  let mine := ps.map fun p => (l, p.hdr)
  let bad := ps.foldl (fun s p => (s.logged (.packet p.hdr)).respond (Hdr.of p.hdr) .ack (respExt stFabric 0) []) s
  if !(e.ok && e.agrees c && (e.fld 79 64).testBit l.val) then bad
  else
    match seqFate c.seq (Map.get 0 e.lastKid l.val) with
    | .apply =>
      let e' := { e.apply (contribBytes ps) with
        kids := e.kids ||| BitVec.ofNat 16 (2 ^ l.val), lastKid := Map.put e.lastKid l.val c.seq, kidWait := e.kidWait ++ mine }
      s.settleRound i e.full e'
    | .latest =>
      if e.kids.getLsbD l.val then s.setRed i { e with kidWait := e.kidWait ++ mine }
      else mine.foldl (fun s k => s.sendDown k.1 k.2 (e.word i) c.seq (leBytes e.len e.result.toNat)) s
    | .older => ps.foldl (fun s p => s.respond (Hdr.of p.hdr) .ack (respExt stOk 0) []) s
    | .gap => bad

/-- REDUCE_CONTRIBUTION (R247, R248): the n-th packet, a contribution, is taken; with the last of its packets it is checked,
sequence-checked and applied. -/
def execReduceContribution (n : Nat) (s : State) : Host.Outcome State Fault Refusal :=
  .next (match s.arrived n .contrib with
    | none => s
    | some (h, p) =>
      let s := s.takePacket n
      let c := Contrib.of h.ext
      let e := s.red c.rid
      let ps := e.parts ++ [p]
      if c.last then
        let e := { e with parts := ps.filter (!·.joins p) }
        match p.via with
        | none => s.localContrib c.rid e (ctxOfLoc h.sloc) c (ps.filter (·.joins p))
        | some l => s.childContrib c.rid e l c (ps.filter (·.joins p))
      else s.setRed c.rid { e with parts := ps })

/-! ### Results (R247) -/

/-- What an answer does to the CRED that waits for it: bytes of its result, an end without one, a fault. -/
def State.credAnswer (s : State) (core : Nat) (e : Bool) (h : Hdr) (p : Packet) : State :=
  match s.headCmd core e with
  | none => s
  | some c =>
    if c.kind ≠ .cred ∨ c.phase ≠ .waiting then s
    else
      let st := field h.ext 143 128
      if st = stOk then
        let buf := c.inbuf ++ contribBytes [p]
        if Nat.min c.total 4096 ≤ buf.length then s.setHead core e { c with inbuf := buf, raw := some true, phase := .running, done := 0 }
        else s.setHead core e { c with inbuf := buf }
      else if st = stPart then s
      else if st = stLost then s.cmdFault core e { c with tag := none } 14 (10, 0, false)
      else if st = stOlder then
        let t := s.setHead core e { c with phase := .landed, pend := 0, banks := 0 }
        (t.unpend e c c.pend).getD t
      else s.cmdFault core e c 13 (st, 0, false)

/-- An answer that comes to a contributor of this package (R247); it waits at the edge of a stopped pair (R269). -/
def State.resultHere (s : State) (h : Hdr) (p : Packet) : State :=
  match s.hub.reqs.find? (·.tag == h.tag) with
  | some r =>
    match r.who with
    | .copyRead core e =>
      match s.holdResponse (core / 2) p with
      | some t => t
      | none => (s.closeReq h.tag).credAnswer core e h p
    | _ => s
  | none => s

/-- A result from the parent (R247): it ends the round that waits for it; a fabric error ends it without a result (R238). -/
def State.resultDown (s : State) (l : Fin 16) (h : Hdr) (p : Packet) : State :=
  let s := s.closeReq h.tag
  let c := Contrib.of h.ext
  let e := s.red c.rid
  let ps := e.parts ++ [p]
  if field h.ext 143 128 = stLost then s.failRound c.rid
  else if c.last then
    let e := { e with parts := ps.filter (!·.joins p) }
    if e.ok && e.agrees c && e.parent == some l && e.full && c.seq == (e.round + 1) % 2 ^ 32 then
      s.roundDone c.rid e (contribBytes (ps.filter (·.joins p)))
    else (s.setRed c.rid e).logged (.packet p.hdr)
  else s.setRed c.rid { e with parts := ps }

/-- REDUCE_RESULT (R247): the n-th packet, a result, is taken: an answer to a contributor of this package, unless a sealed image
waits for it (R272), or a result from the parent. -/
def execReduceResult (n : Nat) (s : State) : Host.Outcome State Fault Refusal :=
  .next (match s.arrived n .result with
    | none => s
    | some (h, p) =>
      match p.via with
      | none => if s.awaited h.tag then s else (s.takePacket n).resultHere h p
      | some l => (s.takePacket n).resultDown l h p)

/-- A reduction table entry written (R246): V = 1 zeroes ROUND, the accumulator and the sequence records. The result of a round in
progress is undefined: its contributors get free bytes. -/
def State.redEntryWrite (s : State) (i : Nat) (v : BitVec 128) : State :=
  let e := s.red i
  let s := if e.waiters.isEmpty then s else (s.answerContrib e.waiters (leBytes 4096 (s.freeNat 512))).useFree 512
  let s := e.kidWait.foldl (fun s k => s.respond (Hdr.of k.2) .ack (respExt stFabric 0) []) s
  let e := { e with waiters := [], kidWait := [], ranks := [], kids := 0, acc := 0 }
  if v.getLsbD 0 then
    s.setRed i { e with bits := BitVec.ofNat 128 (setField v.toNat 127 96 0), lastRank := [], lastKid := [] }
  else s.setRed i { e with bits := BitVec.ofNat 128 (setField v.toNat 127 96 e.round) }

/-- REDUCTION_TABLE_WRITE (R246). -/
def execReductionTableWrite (i : Fin 1024) (v : BitVec 128) (s : State) : Host.Outcome State Fault Refusal :=
  .next (s.bar fun s => s.redEntryWrite i.val v)

end Sys2Proof.Machine
end

