-- ==== Sys2Proof/Machine/Units.lean ====
section
/-! DEFINITION. Steps of the small units: collision priority (R18, R19), granule retention (R43, R44), the token bucket (R227,
R228), multicast stores (R163), the die's walkers (R197). -/

namespace Sys2Proof.Machine

/-! ### Collisions (R18, R19) -/

/-- The contexts of a core by the fixed priority (R18). -/
def State.fixedOrder (s : State) (core : Nat) : List Nat :=
  if s.isMaster core then [2 * core + 1, 2 * core] else [2 * core, 2 * core + 1]

/-- COLLISION_PRIORITY_SWAP (R19): a context of the core that has been frozen by collision for 15 cycles moves before the other one
in this die cycle. -/
def State.prioritySwap (s : State) (core : Nat) : State :=
  match s.ring.filter fun x => coreOf x == core with
  | [x, y] =>
    if 15 ≤ (s.ctx y).ncol then { s with ring := s.ring.map fun z => if z = x then y else if z = y then x else z } else s
  | _ => s

/-- COLLISION_PRIORITY_SWAP of a core. -/
def execCollisionPrioritySwap (c : CoreId) (s : State) : Host.Outcome State Fault Refusal := .next (s.prioritySwap c.val)

/-! ### Granules (R43, R44) -/

/-- Whether a granule enters retention (R44): powered, awake, unused for 4,096 cycles, its pair's counters running (R268). -/
def State.mayRetain (s : State) (core g : Nat) : Bool :=
  let k := s.core core
  !k.gated g && !k.gret.contains g && (Map.find k.gwake g).isNone && !s.stopped core && Map.get 0 k.gidle g + 4096 ≤ s.clock

/-- GRANULE_RETENTION_ENTRY (R44). -/
def State.retain (s : State) (core g : Nat) : State :=
  if s.mayRetain core g then s.setCore core { s.core core with gret := (s.core core).gret ++ [g] } else s

/-- GRANULE_RETENTION_ENTRY of a granule of a core. -/
def execGranuleRetentionEntry (c : CoreId) (g : Fin 64) (s : State) : Host.Outcome State Fault Refusal := .next (s.retain c.val g.val)

/-- Whether a granule's wake has its token (R44, R228). -/
def State.wakeServed (s : State) (core g : Nat) : Bool := (s.die (core / 40)).reqs.any fun r => r.who == .wake core g && r.served

/-- RETENTION_WAKE_COMPLETE (R43, R44): a wake that has its token and has lasted its cycles ends; the contents are as before. -/
def State.wakeDone (s : State) (core g : Nat) : State :=
  let k := s.core core
  if Map.find k.gwake g = some 0 && s.wakeServed core g && !s.stopped core then
    let d := s.die (core / 40)
    let s := s.setDie (core / 40) { d with reqs := d.reqs.filter (·.who != .wake core g) }
    s.setCore core { k with gret := k.gret.filter (· != g), gwake := Map.drop k.gwake g, gidle := Map.put k.gidle g s.clock }
  else s

/-- RETENTION_WAKE_COMPLETE of a granule of a core. -/
def execRetentionWakeComplete (c : CoreId) (g : Fin 64) (s : State) : Host.Outcome State Fault Refusal :=
  .next (s.wakeDone c.val g.val)

/-- The wakes of a core that have their token are one core-clock cycle older (R43). -/
def State.wakeTick (s : State) (core : Nat) : State :=
  let k := s.core core
  if s.stopped core then s
  else s.setCore core { k with gwake := k.gwake.map fun p => (p.1, if s.wakeServed core p.1 then p.2 - 1 else p.2) }

/-! ### The token bucket (R227, R228) -/

/-- LIMIT (R297). -/
def DieSt.limit (d : DieSt) : Nat := field d.didt.toNat 15 0

/-- DEPTH (R297). -/
def DieSt.depth (d : DieSt) : Nat := field d.didt.toNat 23 16

/-- The die cycles of a token (R227). -/
def DieSt.period (d : DieSt) : Nat := Nat.max 1 (10000 / d.limit)

/-- TOKEN_REFILL (R227): a token when its cycles have passed; tokens beyond DEPTH are discarded. -/
def State.refill (s : State) (d : Nat) : State :=
  let b := s.die d
  if b.limit ≠ 0 ∧ b.period ≤ b.refill then s.setDie d { b with tokens := Nat.min b.depth (b.tokens + 1), refill := 0 } else s

/-- TOKEN_REFILL of a die. -/
def execTokenRefill (d : Fin 4) (s : State) : Host.Outcome State Fault Refusal := .next (s.refill d.val)

/-- The oldest request served, if the bucket holds its tokens (R228). -/
def serveFirst (free : Bool) : List TokReq → Nat → List TokReq × Nat
  | [], t => ([], t)
  | r :: rs, t =>
    if r.served then
      let q := serveFirst free rs t
      (r :: q.1, q.2)
    else if free then ({ r with served := true } :: rs, t)
    else if r.n ≤ t then ({ r with served := true } :: rs, t - r.n)
    else (r :: rs, t)

/-- TOKEN_REQUEST_SERVED (R228): the first request that waits draws its tokens. -/
def State.serveTokens (s : State) (d : Nat) : State :=
  let b := s.die d
  let q := serveFirst b.unmetered b.reqs b.tokens
  s.setDie d { b with reqs := q.1, tokens := q.2 }

/-- The tokens that requests of a die can be served now (R228). -/
def State.serveAll (s : State) (d : Nat) : State := (s.die d).reqs.foldl (fun s _ => s.serveTokens d) s

/-- TOKEN_REQUEST_SERVED of a die. -/
def execTokenRequestServed (d : Fin 4) (s : State) : Host.Outcome State Fault Refusal := .next (s.serveTokens d.val)

/-! ### Multicast stores (R163, R325) -/

/-- The members of a multicast window on a die: contexts of a launch that declared its number before this cycle, whose WDECLs take
effect at its end (R163, R386). -/
def State.mcMembers (s : State) (d launch : Nat) (wn : Fin 16) : List (Nat × Win) :=
  s.ctxs.filterMap fun p =>
    if dieOf p.1 = d && p.2.launchKey == launch then
      match Map.find p.2.wins wn.val with
      | some w => if w.mcast && w.live && (w.since = 0 || w.since < s.clock) then some (p.1, w) else none
      | none => none
    else none

/-- Bytes that come to a core's scratchpad from outside: they wait at the edge of a stopped pair (R163, R269); `src` is the core and
the engine of a CMCAST that they come from (R325). -/
def State.spadIn (s : State) (core : Nat) (cs : List Host.Cell) (src : Option (Nat × Bool)) : State :=
  match s.holdRequest (core / 2) (.cells core cs src) with
  | some t => t
  | none => s.setCore core { s.core core with sp := Memory.writeAll (s.core core).sp cs }

/-- A core's scratchpad with the bytes that wait at the edge of its stopped pair. -/
def State.spAhead (s : State) (core : Nat) : List Host.Cell :=
  match (s.pair (core / 2)).frozen with
  | none => (s.core core).sp
  | some f => f.held.foldl (fun m h => match h with
    | .cells c cs _ => if c = core then Memory.writeAll m cs else m
    | _ => m) (s.core core).sp

/-- What a multicast store writes in a member (R96, R163, R172): its bytes, and its blocks encoded from what the member's copy holds. -/
def State.mcWrites (s : State) (core : Nat) (w : Win) (m : McStore) : List Host.Cell :=
  let place (l : Loc) : Nat := match l with | .mc _ o => w.mcByte o | _ => 0
  m.cells.map (fun c => (w.mcByte c.1, c.2)) ++ m.taps.flatMap fun t =>
    let at_ := (blockLocs [t.2.2.2]).map place
    at_.zip (t.2.2.2.encode t.1 t.2.1 t.2.2.1 (at_.map (Memory.read (s.spAhead core)))).1

/-- MULTICAST_STORE_LAND (R163, R325): the n-th multicast store or CMCAST piece of a die, its cycles over, lands in every member; of
those that land in one cycle the one from the lower core number comes last. For a member whose stopped pair grants no credit it waits
(R269). -/
def State.mcastLand (s : State) (d n : Nat) : State :=
  let b := s.die d
  match b.mcast[n]? with
  | none => s
  | some m =>
    if m.left ≠ 0 || b.mcast.any fun o => o.left == 0 && coreOf m.ctx < coreOf o.ctx && (o.only == none || o.only == m.only) then s
    else
      let src := m.eng.map fun e => (coreOf m.ctx, e)
      match m.only with
      | some core =>
        if s.shut (core / 2) (1 + (m.cells.length + 63) / 64) then s
          else (s.setDie d { b with mcast := b.mcast.eraseIdx n }).spadIn core m.cells src
      | none =>
        let s := s.setDie d { b with mcast := b.mcast.eraseIdx n }
        (s.mcMembers d m.launch m.wn).foldl (fun s p =>
          let cs := (s.mcWrites (coreOf p.1) p.2 m)
          if s.shut (pairOf p.1) (1 + (cs.length + 63) / 64) then
            s.setDie d { s.die d with mcast := (s.die d).mcast ++ [{ m with cells := cs, taps := [], only := some (coreOf p.1) }] }
          else s.spadIn (coreOf p.1) cs src) s

/-- MULTICAST_STORE_LAND of a die. -/
def execMulticastStoreLand (d : Fin 4) (n : Nat) (s : State) : Host.Outcome State Fault Refusal := .next (s.mcastLand d.val n)

/-! ### Walks (R197) -/

/-- The walk of its own that a coalesced miss starts (R197). -/
def Walk.again (w : Walk) (now va : Nat) : Walk := ⟨w.root, w.asid, va, [], w.cores, now⟩

/-- TLB_WALK_COMPLETE (R197): the n-th walk of a die's queue ends, if one of the 64 walkers runs it; the waiting misses that its
translation covers are over, the others start walks of their own. A walk that finds a fault fills nothing: the miss, presented
again, takes it. -/
def State.walkDone (s : State) (d n : Nat) : State :=
  let b := s.die d
  match b.walks[n]? with
  | none => s
  | some w =>
    if 64 ≤ n then s
    else
      let rest := b.walks.eraseIdx n
      match walkFrom s w.asid w.va 4 w.root with
      | .ok t =>
        let s := s.setDie d { b with walks := rest ++ (w.waiting.filter fun va => !t.covers w.asid va).map (w.again s.clock) }
        s.fillTlb d w.cores t
      | .error c => s.setDie d { b with walks := rest ++ w.waiting.map (w.again s.clock), wfaults := b.wfaults ++ [⟨w.asid, w.va, c⟩] }

/-- The faults of walks that ended in the die cycle before: the misses that were to find them have been presented (R197). -/
def State.forgetWalkFaults (s : State) (d : Nat) : State :=
  if (s.die d).wfaults.isEmpty then s else s.setDie d { s.die d with wfaults := [] }

/-- TLB_WALK_COMPLETE of a die. -/
def execTlbWalkComplete (d : Fin 4) (n : Nat) (s : State) : Host.Outcome State Fault Refusal := .next (s.walkDone d.val n)

end Sys2Proof.Machine
end

