-- ==== Sys2Proof/Machine/Sched.lean ====
section
/-! DEFINITION. Scheduling (R9 to R17, R24, R27, R211 to R216, R220 to R226): host queues, packets and their checks, admission,
placement of workers, retirement, task graphs, completions. -/

namespace Sys2Proof.Machine

/-! ### Queues (R211, R212) -/

/-- The address of a queue's descriptor. -/
def State.qpa (s : State) (q : Nat) : Nat := s.hub.qtbase + 64 * q

/-- A queue's descriptor. -/
def State.qdesc (s : State) (q : Nat) : Nat := leNat (Memory.readN s.mem (s.qpa q) 64)

/-- A field of a descriptor written. -/
def State.setQ (s : State) (q hi lo v : Nat) : State :=
  s.memWrite (cellsAt (s.qpa q) (leBytes 64 (setField (s.qdesc q) hi lo v)))

/-- HEAD. -/
def qHead (v : Nat) : Nat := field v 191 160

/-- TAIL. -/
def qTail (v : Nat) : Nat := field v 159 128

/-- RINGLOG2. -/
def qLog (v : Nat) : Nat := field v 127 120

/-- CQLOG2. -/
def cqLog (v : Nat) : Nat := field v 119 112

/-- COAL. -/
def qCoal (v : Nat) : Nat := field v 99 80

/-- WEIGHT. -/
def qWeight (v : Nat) : Nat := field v 79 72

/-- PRIO. -/
def qPrio (v : Nat) : Nat := field v 71 70

/-- Whether a queue is served: EN, and not disabled by an error. -/
def qOn (v : Nat) : Bool := field v 65 65 == 1 && field v 64 64 == 0

/-- Whether a descriptor disables its queue. -/
def qBad (v : Nat) : Bool :=
  field v 511 448 != 0 || field v 447 384 % 64 != 0 || qLog v < 4 || 16 < qLog v || cqLog v < 4 || 16 < cqLog v ||
  field v 111 111 != 0 || 1000 < qCoal v || qWeight v == 0

/-- A queue disabled with queue error: ERR is set, and the management controller's log says so. -/
def State.queueError (s : State) (q : Nat) : State := (s.setQ q 64 64 1).logged (.queueError q)

/-- DOORBELL (R212): from the owning function it sets TAIL; more packets than the ring holds disable the queue. -/
def execDoorbell (fn q : Nat) (v : BitVec 32) (s : State) : Host.Outcome State Fault Refusal :=
  .next (
    if s.hub.boot ≠ .done then { s with toHost := s.toHost ++ [.unsupported] }
    else if 1024 ≤ q ∨ field (s.qdesc q) 69 66 ≠ fn then s.logged (.doorbell fn q)
    else
      let d := s.qdesc q
      let t := s.setQ q 159 128 v.toNat
      if 2 ^ qLog d - 1 < (v.toNat + 2 ^ 32 - qHead d) % 2 ^ 32 then t.queueError q else t)

/-- The queues whose descriptor holds anything, ascending: no other is enabled. -/
def State.queues (s : State) : List Nat :=
  ((s.mem.filter fun c => s.hub.qtbase ≤ c.1 && c.1 < s.hub.qtbase + 65536).map fun c => (c.1 - s.hub.qtbase) / 64).eraseDups

/-! ### Packets and nodes (R213, R222) -/

/-- The fields of a packet or node. -/
structure Task where
  khdr : Nat
  args : Nat
  gtab : Nat
  node : Nat
  user : Nat
  part : List (Nat × Nat)
  x : Nat
  y : Nat
  z : Nat
  rsg : Nat
  spg : Nat
  oms : Nat
  amode : Nat
  prio : Nat
  cohort : Bool
  typ : Nat
  waitprev : Bool
  low : Nat
  deriving DecidableEq, Repr

/-- The fields of 128 bytes. -/
def Task.of (p : Nat) : Task where
  khdr := field p 1023 960
  args := field p 959 896
  gtab := field p 895 832
  node := field p 767 704
  user := field p 703 640
  part := (List.range 4).map fun d => (field p (64 * d + 415) (64 * d + 384), field p (64 * d + 447) (64 * d + 416))
  x := field p 383 360 + 1
  y := field p 359 336 + 1
  z := field p 335 312 + 1
  rsg := field p 311 305
  spg := field p 304 295
  oms := field p 294 290
  amode := field p 289 288
  prio := field p 287 286
  cohort := field p 285 285 == 1
  typ := field p 284 283
  waitprev := field p 282 282 == 1
  low := field p 281 0

/-- N, the product of the extents (R11). -/
def Task.size (t : Task) : Nat := t.x * t.y * t.z

/-- The ranges of the partition vector that are not empty. -/
def Task.ranges (t : Task) : List (Nat × Nat) := t.part.filter (·.2 != 0)

/-- The partition vector's check (R12): disjoint ranges whose union is [0, N), none for a die without a cluster. -/
def Task.partOk (t : Task) (s : State) : Bool :=
  let rs := t.ranges
  rs.all (fun r => r.1 + r.2 ≤ t.size) &&
  (List.range rs.length).all (fun i => (rs.drop (i + 1)).all fun r =>
    let a := rs.getD i (0, 0)
    a.1 + a.2 ≤ r.1 || r.1 + r.2 ≤ a.1) &&
  (rs.map (·.2)).sum == t.size &&
  (List.range 4).all fun d => (t.part.getD d (0, 0)).2 == 0 || s.coresOf d != 0

/-- Whether the worker's resources fit some core of the part (R14). -/
def Task.fitsPart (t : Task) (s : State) : Bool :=
  (t.amode == 0) == (t.oms == 0) && 1 ≤ t.rsg && t.rsg ≤ 64 && t.spg ≤ 512 && t.oms ≤ 16 &&
  (List.range 4).any fun d => s.coresOf d != 0

/-! ### Live-table entries (R262) -/

/-- A live-table entry: row ranges, scratchpad ranges in units of 256 bytes, operand slots, accumulators. -/
structure LiveEntry where
  rows : List (Nat × Nat)
  sps : List (Nat × Nat)
  om : Nat
  acc : Nat
  deriving DecidableEq, Repr

/-- The entry that 512 bits hold; none where a reserved bit or an unused range is nonzero, or a count is too large. -/
def LiveEntry.of (v : Nat) : Option LiveEntry :=
  let nrr := field v 3 0
  let nsr := field v 6 4
  let rr (i : Nat) : Nat := field v (32 * i + 63) (32 * i + 32)
  let sr (i : Nat) : Nat := field v (64 * i + 319) (64 * i + 256)
  if field v 31 31 ≠ 0 ∨ field v 10 7 ≠ 0 ∨ 4 < nsr ∨ 7 < nrr then none
  else if !(List.range 7).all fun i => if i < nrr then rr i / 2 ^ 18 == 0 else rr i == 0 then none
  else if !(List.range 4).all fun i => if i < nsr then sr i / 2 ^ 26 == 0 else sr i == 0 then none
  else some ⟨(List.range nrr).map fun i => (field (rr i) 8 0, field (rr i) 17 9 + 1),
    (List.range nsr).map fun i => (field (sr i) 12 0, field (sr i) 25 13 + 1), field v 26 11, field v 30 27⟩

/-- Whether an entry stays within declared resources (R262). -/
def LiveEntry.fits (e : LiveEntry) (rsg spg oms amode : Nat) : Bool :=
  e.rows.all (fun r => r.1 + r.2 ≤ 8 * rsg) && e.sps.all (fun r => r.1 + r.2 ≤ 16 * spg) && e.om < 2 ^ oms &&
  (amode != 0 || e.acc == 0)

/-- A kernel's live-table entry. -/
def State.liveEntry (s : State) (ptroot : Word) (k : Code) (e : Nat) : Option LiveEntry :=
  match readVirt s ptroot (k.liveva + 64 * e) 64 with
  | some bs => LiveEntry.of (leNat bs)
  | none => none

/-- A kernel's header, checked under R46, with its ARCH and its views. -/
def State.header (s : State) (ptroot : Word) (khdr : Nat) : Option (Code × Nat × Vector Word 64) :=
  if khdr % 64 ≠ 0 then none
  else
    match readVirt s ptroot khdr 576 with
    | none => none
    | some bs =>
      (Code.ofHeader (leNat (bs.take 64))).map fun q =>
        (q.1, q.2, Vector.ofFn fun i => BitVec.ofNat 64 (leNat ((bs.drop (64 + 8 * i.val)).take 8)))

/-- A kernel's header with its views and live table, checked against declared granules (R39, R46, R262). -/
def State.kernel (s : State) (ptroot : Word) (khdr rsg spg oms amode : Nat) : Option (Code × Nat × Vector Word 64) :=
  (s.header ptroot khdr).filter fun q =>
    (q.2.2.toList.all fun w => let v := ViewReg.of w; v.rsvd == 0 && v.fieldsOk && v.geometryOk rsg) &&
    (List.range q.1.liven).all fun e =>
      match s.liveEntry ptroot q.1 e with
      | some l => l.fits rsg spg oms amode
      | none => false

/-! ### Free contexts and where a worker fits (R10, R13 to R15, R117) -/

/-- The register-space and scratchpad granules that a core's other context holds: a communication context's are fixed. -/
def State.beside (s : State) (x : Nat) : Option ((Nat × Nat) × (Nat × Nat)) :=
  let y := x / 2 * 2 + (1 - x % 2)
  let c := s.ctx y
  if s.isComm y then some ((56, 8), (480, 32))
  else if c.occ = .free then none
  else some ((c.rsbase.toNat, c.rslim.toNat), (c.spbase.toNat, c.splim.toNat))

/-- The lowest place among some bases for n granules of lim beside another's. -/
def lowFit (bases : List Nat) (n lim : Nat) (other : Option (Nat × Nat)) : Option Nat :=
  bases.find? fun b => b + n ≤ lim && match other with
    | none => true
    | some (o, k) => b + n ≤ o || o + k ≤ b

/-- Where a worker fits in a context: register-space base, scratchpad base, first operand slot. -/
structure Fit where
  rs : Nat
  sp : Nat
  om : Nat
  deriving DecidableEq, Repr

/-- The contexts of a pair. -/
def pairCtxs (p : Nat) : List Nat := span (4 * p) 4

/-- The first operand slot of a window that the array's rules give a worker (R15, R117); none where they keep it out. -/
def State.arrayFit (s : State) (l : Launch) (x : Nat) : Option Nat :=
  if l.amode = 0 then some 0
  else
    let there := (pairCtxs (pairOf x)).filter fun y => y != x && (s.ctx y).occ != .free && !s.isComm y
    if there.any fun y => (s.ctx y).amode != 0 && (coreOf y == coreOf x || l.amode == 2 || (s.ctx y).amode == 2) then none
    else (List.range (17 - l.oms)).find? fun b => there.all fun y =>
      (s.ctx y).omcnt == 0 || b + l.oms ≤ (s.ctx y).ombase || (s.ctx y).ombase + (s.ctx y).omcnt ≤ b

/-- Whether a context is free for a worker (R9, R216). -/
def State.freeCtx (s : State) (x : Nat) : Bool :=
  s.exists? x && !s.isComm x && (s.ctx x).occ == .free && (s.pair (pairOf x)).frozen.isNone

/-- Where a launch's worker fits in a free context. -/
def State.fitOf (s : State) (l : Launch) (x : Nat) : Option Fit :=
  if !s.freeCtx x then none
  else
    let b := s.beside x
    let after (o : Option (Nat × Nat)) : List Nat := match o with | none => [0] | some (a, k) => [0, a + k]
    match lowFit (after (b.map (·.1))) l.rsg 64 (b.map (·.1)), lowFit (after (b.map (·.2))) l.spg 512 (b.map (·.2)),
      s.arrayFit l x with
    | some r, some p, some o => some ⟨r, p, o⟩
    | _, _, _ => none

/-! ### Groups at admission and placement (R24) -/

/-- The used groups of a launch with their entries. -/
def State.groups (s : State) (l : Launch) : List (Fin 256 × Nat) :=
  if l.gtab = 0 then []
  else ((List.finRange 256).map fun g => (g, s.group l g.val)).filter fun p => gExpect p.2 != 0

/-- The members of a group: linear indices. -/
def gMembers (v : Nat) : List Nat := (List.range (field v 111 80)).map fun j => field v 143 112 + j * field v 79 64

/-- The last member of a group, if it has one. -/
def gLast (v : Nat) : Option Nat :=
  if field v 111 80 = 0 then none else some (field v 143 112 + (field v 111 80 - 1) * field v 79 64)

/-- The die whose range holds an index. -/
def Launch.dieOfIx (l : Launch) (i : Nat) : Option Nat :=
  (List.range 4).find? fun d => let r := l.part.getD d (0, 0); r.1 ≤ i && i < r.1 + r.2

/-- The workers of a launch that one core that is no communication master holds at once (R14). -/
def Launch.coreCap (l : Launch) : Nat := if l.amode = 0 ∧ 2 * l.rsg ≤ 64 ∧ 2 * l.spg ≤ 512 then 2 else 1

/-- The workers of a launch that a cluster holds at once in its compute contexts (R10, R14). -/
def Launch.clusterCap (l : Launch) (full : Bool) : Nat :=
  let m := if l.rsg ≤ 56 ∧ l.spg ≤ 480 then 1 else 0
  let two := if 2 * l.oms ≤ 16 then 1 else 0
  match l.amode with
  | 0 => if full then 3 * l.coreCap + m else l.coreCap + m
  | 1 => if full then 2 + two + m * two else 1 + m * two
  | _ => if full then 2 else 1

/-- The members of the groups of a list that share members with some, taken together. -/
def together : Nat → List (List Nat) → List Nat → List Nat
  | 0, _, acc => acc
  | n + 1, gs, acc =>
    let near := gs.filter fun g => g.any acc.contains
    together n gs ((acc ++ near.flatten).eraseDups)

/-- The check of a launch's group table (R24). A table that is not aligned or cannot be read, and ISTRIDE 0 in a used entry, fail it too
(log entry 48). -/
def State.groupsOk (s : State) (l : Launch) : Bool :=
  l.gtab == 0 ||
    (l.gtab % 64 == 0 && (List.range 256).all (fun g => (s.groupPa l g).isSome) &&
      let gs := s.groups l
      let n := l.x * l.y * l.z
      let full := (List.range 4).any fun d => (s.clustersOf d).1 != 0
      let sets (sc : Nat) := (gs.filter fun p => field p.2 47 45 == sc).map fun p => gMembers p.2
      let narrow (sc cap : Nat) := (sets sc).all fun g => (together 256 (sets sc) g).length ≤ cap
      gs.all (fun p =>
        let v := p.2
        field v 47 45 ≤ 4 && (field v 47 45 == 4 || field v 44 33 == 0) && field v 32 32 == 0 && field v 79 64 != 0 &&
        (match gLast v with | none => true | some k => k < n) &&
        (3 ≤ field v 47 45 || match gLast v with
          | none => true
          | some k => l.dieOfIx k == l.dieOfIx (field v 143 112) && (l.dieOfIx k).isSome) &&
        (field v 47 45 != 0 || field v 111 80 ≤ l.coreCap) && (field v 47 45 != 1 || field v 111 80 ≤ l.clusterCap full)) &&
      gs.all (fun p => (gMembers p.2).all fun i => (gs.filter fun q => (gRank q.2 i).isSome).length ≤ 4) &&
      narrow 0 l.coreCap && narrow 1 (l.clusterCap full))

/-- Whether an index may be placed in a context: the units of its groups' first placements are this one (R24). -/
def State.unitOk (s : State) (l : Launch) (i x : Nat) : Bool :=
  l.units.all fun u =>
    let v := s.group l u.1
    (gRank v i).isNone || (if gScope v = .core then coreOf x == u.2 else clusterOf x == u.2)

/-! ### Claims on contexts (R24, R27, R216, R273) -/

/-- The first index of a die that is not yet placed. -/
def Launch.next (l : Launch) (d : Nat) : Nat := l.nextIx.getD d 0

/-- Whether a die still has indices of a launch that have not run. -/
def Launch.hasNext (l : Launch) (d : Nat) : Bool :=
  let r := l.part.getD d (0, 0)
  !l.stopped && l.next d < r.1 + r.2

/-- Whether a launch is a cohort with workers to place and none placed. -/
def State.waitingCohort (s : State) (l : Launch) : Bool :=
  l.cohort && ((List.range 4).any l.hasNext || s.hub.saved.any (·.launch == l.id)) &&
  !s.ctxs.any fun p => match p.2.occ with | .worker k _ => k == l.id | _ => false

/-- Whether a launch keeps a context for itself: a cohort that waits (R27), a unit for which a later member of its group waits: the
launch's next index on the die, or a saved worker (R24). -/
def State.keeps (s : State) (l : Launch) (x : Nat) : Bool :=
  (s.waitingCohort l && (l.part.getD (dieOf x) (0, 0)).2 != 0) ||
  l.units.any fun u =>
    let v := s.group l u.1
    (if gScope v = .core then coreOf x == u.2 else clusterOf x == u.2) &&
    ((l.hasNext (dieOf x) && (gRank v (l.next (dieOf x))).isSome) ||
      s.hub.saved.any fun w => w.launch == l.id && (gRank v w.index).isSome)

/-- Whether a pair is kept for an image of a launch (R273). -/
def State.keepsPair (s : State) (l : Launch) (p : Nat) : Bool :=
  s.hub.saved.any fun w => w.launch == l.id && match w.image with
    | some n => match Map.find s.hub.images n with | some m => m.pair == p | none => false
    | none => false

/-- Whether a context is kept from a launch by another that waits for it (R24, R27). -/
def State.keptFrom (s : State) (l : Launch) (x : Nat) : Bool :=
  s.hub.launches.any fun (m : Launch) =>
    m.id != l.id && s.keeps m x && (l.prio < m.prio || (l.prio == m.prio && (!s.keeps l x || m.id < l.id)))

/-- Whether a context is withheld from a launch's workers that are no image's (R24, R27, R273). -/
def State.withheld (s : State) (l : Launch) (x : Nat) : Bool :=
  s.keptFrom l x ||
  s.hub.launches.any fun (m : Launch) => s.keepsPair m (pairOf x) && (l.prio < m.prio || (l.prio == m.prio && m.id ≤ l.id))

/-! ### The dispatcher's choice (R13, R216) -/

/-- How many contexts of a core are occupied (R13). -/
def State.occupied (s : State) (core : Nat) : Nat :=
  ([2 * core, 2 * core + 1].filter fun x => s.isComm x || (s.ctx x).occ != .free).length

/-- Of two contexts the one that the dispatcher prefers (R13). -/
def State.prefer (s : State) (x y : Nat) : Nat :=
  let a := s.occupied (coreOf x)
  let b := s.occupied (coreOf y)
  if b < a || (a == b && y < x) then y else x

/-- The context that the dispatcher prefers among those of a die that pass a test, with the worker's fit. -/
def State.pick (s : State) (l : Launch) (d : Nat) (ok : Nat → Bool) : Option (Nat × Fit) :=
  let xs := (span (80 * d) (2 * s.coresOf d)).filter fun x => (s.fitOf l x).isSome && ok x
  match xs with
  | [] => none
  | y :: ys =>
    let x := ys.foldl s.prefer y
    (s.fitOf l x).map fun f => (x, f)

/-- ARRCFG of a worker (R116). -/
def arrcfgOf (l : Launch) (f : Fit) : BitVec 32 := BitVec.ofNat 32 (l.amode * 2 ^ 9 + l.oms * 2 ^ 4 + f.om)

/-- The units of a worker's groups of core and cluster scope noted at its placement (R24). -/
def State.noteUnits (s : State) (l : Launch) (i x : Nat) : Launch :=
  (s.groups l).foldl (fun (l : Launch) p =>
    if (gRank p.2 i).isSome && (gScope p.2).code ≤ 1 && !l.units.any (·.1 == p.1.val) then
      { l with units := l.units ++ [(p.1.val, if gScope p.2 = .core then coreOf x else clusterOf x)] }
    else l) l

/-- A context given to a worker: its partitions and operand slots. -/
def State.reserve (s : State) (x : Nat) (l : Launch) (i : Nat) (f : Fit) : State :=
  let c := s.ctx x
  let s := s.setCtx x { c with
    occ := .worker l.id i
    rsbase := BitVec.ofNat 32 f.rs, rslim := BitVec.ofNat 32 l.rsg
    spbase := BitVec.ofNat 64 f.sp, splim := BitVec.ofNat 64 l.spg
    arrcfg := arrcfgOf l f }
  s.setLaunch (s.noteUnits ((s.launch l.id).getD l) i x)

/-- Whether a saved worker may be restored in a context (R24, R219, R267). -/
def State.savedOk (s : State) (l : Launch) (w : SavedW) (x : Nat) : Bool :=
  s.unitOk l w.index x &&
  match w.lean with
  | some r => l.amode != 1 || coreOf x % 2 == r.core % 2
  | none => true

/-- Whether an image may be restored now: final, and every context of its pair free (R272, R273). -/
def State.imageReady (s : State) (n : Nat) : Bool :=
  match Map.find s.hub.images n with
  | some m => m.final && (pairCtxs m.pair).all fun x => (s.ctx x).occ == .free
  | none => false

/-- What the dispatcher does next: an index placed, a saved worker rerun or restored, an image restored. -/
inductive Job where
  | fresh (x l : Nat)
  | rerun (x n : Nat)
  | lean (x n : Nat)
  | image (p n : Nat)
  deriving DecidableEq, Repr

/-- One step of a whole cohort's placement: an index or a saved worker, in order. -/
structure Seat where
  index : Nat
  saved : Option Nat
  x : Nat
  fit : Fit
  deriving DecidableEq, Repr

/-- The indices of a launch, die by die. -/
def Launch.indices (l : Launch) : List Nat := l.part.flatMap fun r => span r.1 r.2

/-- What a cohort's placement seats: a linear index, and the saved worker of it with its place among the saved. -/
abbrev Item := Nat × Option (Nat × SavedW)

/-- Whether an item may take a context. -/
def State.itemOk (s : State) (l : Launch) (it : Item) (x : Nat) : Bool :=
  !s.withheld l x && match it.2 with
    | none => s.unitOk l it.1 x
    | some (_, w) => s.savedOk l w x

/-- The contexts that are tried for an item: where its choice bears on others (a group of core or cluster scope, a saved worker bound
to one half of a pair), one of each core that can hold it; else the one that the dispatcher prefers. -/
def State.places (s : State) (l : Launch) (it : Item) (all : Bool) (d : Nat) : List (Nat × Fit) :=
  if !all then (s.pick l d (s.itemOk l it)).toList
  else
    (span (40 * d) (s.coresOf d)).filterMap fun c =>
      [2 * c, 2 * c + 1].findSome? fun x => if s.itemOk l it x then (s.fitOf l x).map fun f => (x, f) else none

/-- Seats for items (R27): the first assignment of those tried that seats them all. `free` says which items are tried in one
place only. -/
def State.seatBy (s : State) (l : Launch) (free : Item → Bool) : List Item → Option (List Seat)
  | [] => some []
  | it :: is =>
    let l' := (s.launch l.id).getD l
    match l.dieOfIx it.1 with
    | none => none
    | some d => (s.places l' it (!free it) d).findSome? fun q =>
      ((s.reserve q.1 l' it.1 q.2).seatBy l free is).map fun r => ⟨it.1, it.2.map (·.1), q.1, q.2⟩ :: r

/-- Whether an item's place does not bear on the places of others: the workers of a launch are alike but for their groups. -/
def State.loose (s : State) (l : Launch) (it : Item) : Bool :=
  (match it.2 with
    | some (_, w) => w.lean.isNone || l.amode != 1
    | none => true) &&
  (s.groups l).all fun p => 2 ≤ (gScope p.2).code || (gRank p.2 it.1).isNone

/-- The seats of all of a cohort's items (R27): by R13 one after the other where that seats them, else by search, the items that
bear on others first. -/
def State.seatItems (s : State) (l : Launch) (is : List Item) : Option (List Seat) :=
  match s.seatBy l (fun _ => true) is with
  | some r => some r
  | none =>
    let free := s.loose l
    if is.all free then none else s.seatBy l free (is.filter (!free ·) ++ is.filter free)

/-- The seats of indices (R27); none where they cannot be placed together. -/
def State.seatAll (s : State) (l : Launch) (is : List Nat) : Option (List Seat) := s.seatItems l (is.map fun i => (i, none))

/-- The seats of saved workers of a cohort (R27), those of images apart, which keep their place. -/
def State.seatSaved (s : State) (l : Launch) (ws : List (Nat × SavedW)) : Option (List Seat) :=
  s.seatItems l ((ws.filter (·.2.image.isNone)).map fun p => (p.2.index, some p))

/-- The saved workers of a launch with their places in the order of saving. -/
def State.savedOf (s : State) (l : Nat) : List (Nat × SavedW) :=
  ((List.range s.hub.saved.length).zip s.hub.saved).filter fun p => p.2.launch == l

/-- Images of a launch's saved workers. -/
def State.imagesOf (s : State) (l : Nat) : List Nat := ((s.savedOf l).filterMap fun p => p.2.image).eraseDups

/-- Cohorts and images that are restored together (R27, R396): cohorts with workers in the images, and all images of those cohorts. -/
def State.restoreUnit (s : State) : Nat → List Launch × List Nat → List Launch × List Nat
  | 0, u => u
  | n + 1, u =>
    let ls := s.hub.launches.filter fun (l : Launch) =>
      u.1.any (·.id == l.id) || (l.cohort && (s.imagesOf l.id).any u.2.contains)
    s.restoreUnit n (ls, (u.2 ++ ls.flatMap fun l => s.imagesOf l.id).eraseDups)

/-- What is restored together with a launch. -/
def State.unitOfLaunch (s : State) (l : Launch) : List Launch × List Nat := s.restoreUnit (s.hub.launches.length + 1) ([l], [])

/-- What is restored together with an image. -/
def State.unitOfImage (s : State) (n : Nat) : List Launch × List Nat := s.restoreUnit (s.hub.launches.length + 1) ([], [n])

/-- Whether some images may be restored now (R216, R272, R273): they are final, their pairs are free and not kept from the launch. -/
def State.imagesReady (s : State) (l : Launch) (ids : List Nat) : Bool :=
  ids.all fun n => s.imageReady n && match Map.find s.hub.images n with
    | some m => !(pairCtxs m.pair).any (s.keptFrom l)
    | none => true

/-- The pairs of some images taken: no other worker is seated there. -/
def State.takePairs (s : State) (ids : List Nat) : State :=
  ids.foldl (fun s n => match Map.find s.hub.images n with
    | some m => s.setPair m.pair { s.pair m.pair with frozen := some ⟨s.clock, [], [], [], false⟩ }
    | none => s) s

/-- The seats of the saved workers of some cohorts that are restored together (R27, R396), each with its launch. -/
def State.seatUnit (s : State) : List Launch → Option (List (Launch × Seat))
  | [] => some []
  | l :: ls =>
    match s.seatSaved l (s.savedOf l.id) with
    | none => none
    | some seats =>
      let t := seats.foldl (fun t q => t.reserve q.x ((t.launch l.id).getD l) q.index q.fit) s
      (t.seatUnit ls).map fun r => (seats.map fun q => (l, q)) ++ r

/-- The seats of a unit whose images may be restored now. -/
def State.seatsOf (s : State) (l : Launch) (u : List Launch × List Nat) : Option (List (Launch × Seat)) :=
  if s.imagesReady l u.2 then (s.takePairs u.2).seatUnit u.1 else none

/-- What a cohort asks of a die's dispatcher: all of it at once, begun by the die of its first worker (R27). -/
def State.cohortJob (s : State) (l : Launch) (d : Nat) : Option Job :=
  match s.savedOf l.id with
  | [] =>
    if !s.waitingCohort l || 320 < l.x * l.y * l.z then none
    else
      match s.seatAll l l.indices with
      | some (q :: _) => if dieOf q.x = d then some (.fresh q.x l.id) else none
      | _ => none
  | ws =>
    if !s.waitingCohort l then none
    else
      match s.seatsOf l (s.unitOfLaunch l) with
      | some (q :: _) =>
        if dieOf q.2.x = d then
          q.2.saved.map fun n => if (((s.hub.saved[n]?).bind (·.rerun)).isSome) then .rerun q.2.x n else .lean q.2.x n
        else none
      | some [] =>
        ws.findSome? fun p => p.2.image.bind fun n => (Map.find s.hub.images n).bind fun m =>
          if m.pair / 20 = d then some (.image m.pair n) else none
      | none => none

/-- What a launch that is no cohort asks of a die's dispatcher: its saved workers in order, then its next index (R216). -/
def State.launchJob (s : State) (l : Launch) (d : Nat) : Option Job :=
  let saved := (s.savedOf l.id).findSome? fun p =>
    let w := p.2
    match w.image with
    | some n => (Map.find s.hub.images n).bind fun m =>
      if m.pair / 20 = d && (s.seatsOf l (s.unitOfImage n)).isSome then some (Job.image m.pair n) else none
    | none =>
      if l.dieOfIx w.index ≠ some d then none
      else (s.pick l d fun x => s.savedOk l w x && !s.withheld l x).map fun q =>
        if w.rerun.isSome then .rerun q.1 p.1 else .lean q.1 p.1
  match saved with
  | some j => some j
  | none =>
    if !l.hasNext d then none
    else (s.pick l d fun x => s.unitOk l (l.next d) x && !s.withheld l x).map fun q => .fresh q.1 l.id

/-- Whether a launch comes before another (R216). -/
def Launch.before (a b : Launch) : Bool := b.prio < a.prio || (a.prio == b.prio && a.id < b.id)

/-- A launch put into its place. -/
def insertLaunch (l : Launch) : List Launch → List Launch
  | [] => [l]
  | m :: ms => if l.before m then l :: m :: ms else m :: insertLaunch l ms

/-- The launches in the order in which contexts are offered to them (R216). -/
def State.claims (s : State) : List Launch := s.hub.launches.foldr insertLaunch []

/-- What a die's dispatcher does next (R13, R216). -/
def State.dispatch (s : State) (d : Nat) : Option Job :=
  s.claims.findSome? fun (l : Launch) => if l.cohort then s.cohortJob l d else s.launchJob l d

/-! ### The start of a worker (R16) -/

/-- The bits of a worker's placement set in its groups' masks (R24). -/
def State.markMembers (s : State) (l : Launch) (i x : Nat) : State :=
  (s.groups l).foldl (fun s p =>
    if (gRank p.2 i).isSome then s.setGroup l p.1.val (p.2 ||| 2 ^ (192 + 80 * dieOf x + x % 80)) else s) s

/-- s5: the numbers of a worker's groups (R16). -/
def groupWord (gs : List Nat) : Word :=
  BitVec.ofNat 64 ((List.range 4).foldl (fun n k => n + gs.getD k 0xFFFF * 2 ^ (16 * k)) 0)

/-- The rows of a partition live, zero and powered (R16). -/
def CoreSt.freshRows (k : CoreSt) (now base n : Nat) : CoreSt :=
  let mine (g : Nat) : Bool := base ≤ g && g < base + n
  { k with
    rows := k.rows.filter fun p => !mine (p.1 / 8)
    gret := k.gret.filter fun g => !mine g
    gwake := k.gwake.filter fun p => !mine p.1
    gidle := (span base n).foldl (fun m g => Map.put m g now) (k.gidle.filter fun p => !mine p.1) }

/-- The bytes of a scratchpad partition, counted from its start. -/
def CoreSt.spPart (k : CoreSt) (base n : Nat) : List Host.Cell :=
  (k.sp.filter fun c => 4096 * base ≤ c.1 && c.1 < 4096 * (base + n)).map fun c => (c.1 - 4096 * base, c.2)

/-- Scratchpad granules zeroed. -/
def CoreSt.clearSp (k : CoreSt) (base n : Nat) : CoreSt :=
  { k with sp := k.sp.filter fun c => c.1 < 4096 * base || 4096 * (base + n) ≤ c.1 }

/-- The accumulators that a worker of a mode owns (R118). -/
def ownAccs (mode core : Nat) : List Nat := if mode = 0 then [] else (List.range 4).filter fun a => mode == 2 || a / 2 == core % 2

/-- Operand slots of a window and owned accumulators as a worker finds them at its start (R115). -/
def PairSt.freshArray (p : PairSt) (mode om n core : Nat) : PairSt :=
  { p with
    oslot := p.oslot.filter fun o => o.1 < om || om + n ≤ o.1
    acc := p.acc.filter fun a => !(ownAccs mode core).contains a.1 }

/-- The context of a new worker (R16); the debugger's registers, trace sequence and last launch are not the worker's. -/
def Ctx.fresh (c : Ctx) : Ctx :=
  { Ctx.reset with
    dbgctl := c.dbgctl, attached := c.attached, dstep := c.dstep, bpaddr := c.bpaddr, bpctl := c.bpctl, tseq := c.tseq
    rsbase := c.rsbase, rslim := c.rslim, spbase := c.spbase, splim := c.splim, arrcfg := c.arrcfg, occ := c.occ
    lastLaunch := c.lastLaunch, spkeep := c.spkeep, lin := c.lin, lout := c.lout, lcred := c.lcred, lpop := c.lpop }

/-- The state that a worker starts with (R16); the reserved bits of PTROOT read as zero (R192). -/
def workerCtx (c : Ctx) (l : Launch) (i now : Nat) (bars : List Bar) : Ctx :=
  let w (n : Nat) : Word := BitVec.ofNat 64 n
  let regs : List Word := [w i, w (i % l.x), w (i / l.x % l.y), w (i / (l.x * l.y)), l.args, groupWord (bars.map (·.g.val))]
  { c.fresh with
    s := Vector.ofFn fun r => regs.getD r.val 0
    vw := l.views
    ptroot := l.ptroot &&& ~~~0x1FFF#64
    tvec := l.tvec
    code := l.code
    fetch := ⟨l.code.codeva + 2 * l.code.entry, none, 0⟩
    bars := bars
    lastLaunch := some l.id
    spkeep := []
    placed := now
    run := .running }

/-- A worker started in a context (R16, R24): its scratchpad partition holds what the previous worker of the context left, if that one
was of the same launch, else zero. -/
def State.startWorker (s : State) (x : Nat) (l : Launch) (i : Nat) (f : Fit) : State :=
  let old := s.ctx x
  let left := if old.lastLaunch = some l.id then old.spkeep else []
  let s := s.reserve x l i f
  let l := (s.launch l.id).getD l
  let s := s.markMembers l i x
  let mine := (s.groups l).filter fun p => (gRank p.2 i).isSome
  let bars := (mine.map fun p => (⟨p.1, BitVec.ofNat 16 (gPhase p.2), BitVec.ofNat 16 (gPhase p.2)⟩ : Bar)).take 4
  let k := (s.core (coreOf x)).freshRows s.clock f.rs l.rsg
  let k := k.clearSp f.sp l.spg
  let s := s.setCore (coreOf x) { k with sp := Memory.writeAll k.sp (left.map fun b => (4096 * f.sp + b.1, b.2)) }
  let s := s.setPair (pairOf x) ((s.pair (pairOf x)).freshArray l.amode f.om l.oms (coreOf x))
  s.setCtx x (workerCtx (s.ctx x) l i s.clock bars)

/-- The next index of a die counted as placed. -/
def Launch.step (l : Launch) (d : Nat) : Launch := { l with nextIx := l.nextIx.mapIdx fun k n => if k = d then n + 1 else n }

/-- Whether a launch has a worker, or a member of a cohort, that could be placed in a context now (R24, R216, R218). -/
def State.canTake (s : State) (l : Launch) (x : Nat) : Bool :=
  let d := dieOf x
  (s.fitOf l x).isSome && !s.withheld l x &&
  ((l.hasNext d && (if l.cohort then (span (l.next d) (let r := l.part.getD d (0, 0); r.1 + r.2 - l.next d)).any (s.unitOk l · x)
      else s.unitOk l (l.next d) x)) ||
    (s.savedOf l.id).any fun p => p.2.image.isNone && l.dieOfIx p.2.index == some d && s.savedOk l p.2 x)

/-- A context has become free (R216): the waits of launches with a worker that could be placed there start anew (R218). -/
def State.freed (s : State) (x : Nat) : State :=
  { s with hub := { s.hub with launches := s.hub.launches.map fun (l : Launch) =>
      if (s.canTake l x) then { l with waited := l.waited.mapIdx fun k n => if k = dieOf x then 0 else n } else l } }

/-- A rerun worker enters TVEC at its start with class 17 (R273). -/
def State.enterRerun (s : State) (x cause : Nat) : State :=
  s.takeTrap x (TrapInfo.of 17 cause) true 0 0 (s.ctx x).fetch.pc (s.ctx x).fetch.pc 0 0

/-- A saved worker that reruns from its start in a context (R219, R273). -/
def State.startRerun (s : State) (x : Nat) (l : Launch) (w : SavedW) (f : Fit) : State :=
  (s.startWorker x l w.index f).enterRerun x (w.rerun.getD 0)

/-- A saved worker of the list, taken off it. -/
def State.dropSaved (s : State) (n : Nat) : State := { s with hub := { s.hub with saved := s.hub.saved.eraseIdx n } }

/-- A launch's fresh index placed in a context, or all of a cohort (R27). -/
def State.placeFresh (s : State) (x : Nat) (l : Launch) : State :=
  if l.cohort then
    match s.seatAll l l.indices with
    | some seats =>
      let s := s.setLaunch { l with nextIx := l.part.map fun r => r.1 + r.2 }
      seats.foldl (fun s q => s.startWorker q.x ((s.launch l.id).getD l) q.index q.fit) s
    | none => s
  else
    let d := dieOf x
    match s.fitOf l x with
    | some f => (s.setLaunch (l.step d)).startWorker x (l.step d) (l.next d) f
    | none => s

/-! ### Retirement (R13, R341, R342, R261) -/

/-- Whether a debugger has halted a context. -/
def Ctx.halted (c : Ctx) : Bool := c.dbgctl.getLsbD 0

/-- Whether nothing of a context is in flight any more (R265, R341). -/
def State.drained (s : State) (x : Nat) : Bool :=
  let c := s.ctx x
  let k := s.core (coreOf x)
  let p := s.pair (pairOf x)
  c.lat.isEmpty && c.parked.lat.isEmpty && c.iss.isNone && c.passes.isEmpty && c.drains.isEmpty && c.mops.isEmpty &&
  (match k.sumop with | some o => o.ctx != x | none => true) &&
  !(k.c0 ++ k.c1).any (·.ctx == x) &&
  (span c.ombase c.omcnt).all fun n => (p.slot n).fill.isNone

/-- The worker's operand slots released, as by MREL (R342). -/
def PairSt.release (p : PairSt) (om n : Nat) : PairSt :=
  { p with oslot := p.oslot.map fun o => if om ≤ o.1 && o.1 < om + n then (o.1, { o.2 with claimed := false }) else o }

/-- A context without a worker; what the worker leaves in its scratchpad is kept for the launch's next one there (R16). -/
def State.freeWorker (s : State) (x : Nat) : State :=
  let c := s.ctx x
  let s := s.setPair (pairOf x) ((s.pair (pairOf x)).release c.ombase c.omcnt)
  s.setCtx x { c with
    spkeep := (s.core (coreOf x)).spPart c.spbase.toNat c.splim.toNat
    occ := .free, run := .idle, iss := none, snap := none, lat := [], mops := [], uiq := [], impq := [], bars := [], sup := false
    parked := Parked.none, passes := [], drains := [], grace := none, savept := none, stall := none, adv := false
    arrcfg := 0, wsaved := [] }

/-- The retirement of a context's worker, when everything of it has ended (R341, R342): its context takes the launch's next index
if one remains that may be placed there (R13), else it is free. A pending imprecise fault makes it a fatal context error. A
context stopped by one is free when its copies and windows are over. A context that a debugger has halted does nothing (R279). -/
def State.retire (s : State) (x : Nat) : State :=
  let c := s.ctx x
  if (s.pair (pairOf x)).frozen.isSome || (c.halted && !c.dstep) then s
  else
    match c.run with
    | .retiring =>
      if !c.impq.isEmpty then s.fatalCtx x
      else if !s.drained x then s
      else if !c.wins.isEmpty then (if c.dropping then s else s.setCtx x c.dropWins)
      else
        match s.workerOf x with
        | some (l, _) =>
          let t := s.freeWorker x
          let d := dieOf x
          match t.launch l.id with
          | some l' =>
            if !l'.cohort && l'.hasNext d && t.unitOk l' (l'.next d) x then
              match t.fitOf l' x with
              | some f => (t.setLaunch (l'.step d)).startWorker x (l'.step d) (l'.next d) f
              | none => t.freed x
            else t.freed x
          | none => t.freed x
        | none => (s.freeWorker x).freed x
    | .fatal =>
      match c.occ with
      | .worker _ _ =>
        if c.mops.isEmpty && c.wins.isEmpty && !((s.core (coreOf x)).c0 ++ (s.core (coreOf x)).c1).any (·.ctx == x) then
          (s.freeWorker x).freed x
        else s
      | _ => s
    | _ => s

/-- WORKER_RETIRE of the acting context. -/
def execWorkerRetire (s : State) : Host.Outcome State Fault Refusal := .next (s.retire s.cur)

/-! ### Completions (R225, R226) -/

/-- The message of a queue's vector after an entry (R226): at once, or when its window ends. -/
def State.signalEntry (s : State) (q v : Nat) : State :=
  if qCoal v = 0 then { s with toHost := s.toHost ++ [.msix (field v 110 100)] }
  else if s.hub.coal.any (·.q == q) then s
  else { s with hub := { s.hub with coal := s.hub.coal ++ [⟨q, s.clock + qCoal v * s.hub.mhz⟩] } }

/-- Whether a completion queue has room (R225). -/
def cqRoom (v : Nat) : Bool := (field v 31 0 + 2 ^ 32 - field v 63 32) % 2 ^ 32 != 2 ^ cqLog v

/-- A completion entry written (R225). -/
def State.writeEntry (s : State) (c : Completion) : State :=
  let v := s.qdesc c.q
  let t := field v 31 0
  let e := c.user.toNat * 2 ^ 192 + c.pktidx % 2 ^ 32 * 2 ^ 160 + c.status * 2 ^ 128 + c.detail * 2 ^ 96 + c.version.toNat * 2 ^ 64 +
    (1 - t / 2 ^ cqLog v % 2)
  let s := s.memWrite (cellsAt (field v 319 256 + 32 * (t % 2 ^ cqLog v)) (leBytes 32 e))
  (s.setQ c.q 31 0 (t + 1)).signalEntry c.q v

/-- A completion (R225): written, or held in its order while its queue is full. -/
def State.complete (s : State) (c : Completion) : State :=
  if s.hub.heldc.any (·.q == c.q) || !cqRoom (s.qdesc c.q) then { s with hub := { s.hub with heldc := s.hub.heldc ++ [c] } }
  else s.writeEntry c

/-- HELD_COMPLETION_WRITE (R225): the oldest held entry of a queue, when there is room. -/
def State.writeHeld (s : State) (q : Nat) : State :=
  match (List.range s.hub.heldc.length).find? fun i => (s.hub.heldc.getD i ⟨q + 1, 0, 0, 0, 0, 0⟩).q == q with
  | none => s
  | some i =>
    match s.hub.heldc[i]? with
    | some c =>
      if cqRoom (s.qdesc q) then ({ s with hub := { s.hub with heldc := s.hub.heldc.eraseIdx i } } : State).writeEntry c else s
    | none => s

/-- HELD_COMPLETION_WRITE of a queue. -/
def execHeldCompletionWrite (q : Nat) (s : State) : Host.Outcome State Fault Refusal := .next (s.writeHeld q)

/-- MSIX_COALESCE_EXPIRY (R226). -/
def State.coalesced (s : State) (q : Nat) : State :=
  match s.hub.coal.find? (·.q == q) with
  | some c =>
    if c.due ≤ s.clock then
      { s with toHost := s.toHost ++ [.msix (field (s.qdesc q) 110 100)]
               hub := { s.hub with coal := s.hub.coal.filter (·.q != q) } }
    else s
  | none => s

/-- MSIX_COALESCE_EXPIRY of a queue. -/
def execMsixCoalesceExpiry (q : Nat) (s : State) : Host.Outcome State Fault Refusal := .next (s.coalesced q)

/-- Whether every worker of a launch has retired (R225), a marker's earlier packets have completed (R213). -/
def State.launchOver (s : State) (l : Launch) : Bool :=
  if l.x = 0 then
    !(s.hub.launches.any fun (m : Launch) => m.q == l.q && m.id < l.id) && !(s.hub.replays.any fun r => r.q == l.q && r.id < l.id)
  else
    !(s.ctxs.any fun p => match p.2.occ with | .worker k _ => k == l.id | _ => false) &&
    !(s.hub.saved.any (·.launch == l.id)) && !(List.range 4).any l.hasNext

/-- The caches of some dies written back: the writes of a launch or replay come before its completion at package scope (R226). -/
def State.cleanDies (s : State) (on : Nat → Bool) : State :=
  (List.range 4).foldl (fun s d => if on d then ((span (10 * d) 10).foldl State.cleanAll s).drainAbuf d else s) s

/-- Whether a partition vector gives a die some indices. -/
def runsOn (part : List (Nat × Nat)) (d : Nat) : Bool := (part.getD d (0, 0)).2 != 0

/-- A node's task with NOUT and NPRED (R222). -/
def State.node (s : State) (ptroot : Word) (nodes i : Nat) : Option (Task × Nat × Nat) :=
  ((readVirt s ptroot (nodes + 128 * i) 128).map leNat).map fun p => (Task.of p, field p 255 240, field p 239 224)

/-- A replay whose nodes have completed, or whose failure has let its running nodes run out, completes (R224, R225). A node's own
completion cleans only the regions of its edges (R189). -/
def State.settleReplay (s : State) (i : Nat) : State :=
  match s.hub.replays.find? (·.id == i) with
  | none => s
  | some r =>
    if r.started.length ≠ r.ended.length ∨ (r.ended.length < r.nnode ∧ r.failed.isNone) then s
    else
      let s := s.cleanDies fun d => r.ended.any fun n => match s.node r.ptroot r.nodes n with
        | some q => runsOn q.1.part d
        | none => false
      let s : State := { s with hub := { s.hub with replays := s.hub.replays.filter (·.id != i) } }
      s.complete ⟨r.q, r.user, r.pktidx, if r.failed.isSome then 7 else 0, r.failed.getD 0, r.version⟩

/-- LAUNCH_COMPLETE (R225). -/
def State.launchComplete (s : State) (i : Nat) : State :=
  match s.launch i with
  | none => s
  | some l =>
    if !s.launchOver l then s
    else
      let s := if l.replay.isNone then s.cleanDies (runsOn l.part) else s
      let s : State := { s with hub := { s.hub with launches := s.hub.launches.filter (·.id != i) } }
      match l.replay with
      | none => s.complete ⟨l.q, l.user, l.pktidx, if l.failed then 7 else 0, 0, 0⟩
      | some (r, n) =>
        ({ s with hub := { s.hub with replays := s.hub.replays.map fun (p : Replay) =>
            if p.id = r then { p with ended := p.ended ++ [n], failed := if l.failed && p.failed.isNone then some n else p.failed }
            else p } } : State).settleReplay r

/-- LAUNCH_COMPLETE of a launch. -/
def execLaunchComplete (l : Nat) (s : State) : Host.Outcome State Fault Refusal := .next (s.launchComplete l)

/-! ### The checks of a packet (R214) -/

/-- The launch that a task makes. -/
def Task.launch (t : Task) (id q pktidx : Nat) (replay : Option (Nat × Nat)) (k : Code) (vw : Vector Word 64) (ptroot tvec args : Word) :
    Launch where
  id := id
  q := q
  pktidx := pktidx
  user := BitVec.ofNat 64 t.user
  prio := t.prio
  replay := replay
  code := k
  views := vw
  ptroot := ptroot
  tvec := tvec
  args := args
  gtab := t.gtab
  x := t.x
  y := t.y
  z := t.z
  part := t.part
  nextIx := t.part.map (·.1)
  rsg := t.rsg
  spg := t.spg
  oms := t.oms
  amode := t.amode
  cohort := t.cohort
  units := []
  failed := false
  stopped := false
  waited := [0, 0, 0, 0]

/-- The part with every compute context free and one launch. -/
def State.emptyPart (s : State) (l : Launch) : State :=
  { s with ctxs := [], pairs := [], hub := { s.hub with launches := [l], saved := [], images := [] } }

/-- The first check that a launch or node fails, or the launch (R214). -/
def checkTask (s : State) (t : Task) (low : Nat) (nodeOk : Bool) (prio : Nat) (ptroot : Word) (mk : Code → Vector Word 64 → Launch) :
    Except Nat Launch :=
  if low ≠ 0 ∨ t.typ = 3 ∨ t.amode = 3 ∨ t.prio ≠ prio ∨ 2 ^ 32 < t.size ∨ (!nodeOk && t.node != 0) then .error 9
  else
    match s.kernel ptroot t.khdr t.rsg t.spg t.oms t.amode with
    | none => .error 3
    | some (k, arch, vw) =>
      if s.hub.fuse.arch < arch then .error 5
      else if !t.fitsPart s then .error 2
      else if !t.partOk s then .error 1
      else
        let l := mk k vw
        if !s.groupsOk l then .error 4
        else if l.cohort && (320 < t.size || ((s.emptyPart l).seatAll l l.indices).isNone) then .error 6
        else .ok l

/-- The groups of a launch at its admission: masks, ARRIVED and PHASE of the used entries are zero (R24). -/
def State.startGroups (s : State) (l : Launch) : State :=
  (s.groups l).foldl (fun s p => s.setGroup l p.1.val (setField (setField p.2 511 192 0) 31 0 0)) s

/-- A launch admitted. -/
def State.enterLaunch (s : State) (l : Launch) : State :=
  { s.startGroups l with hub := { s.hub with launches := s.hub.launches ++ [l], admitted := s.hub.admitted + 1 } }

/-! ### Task graphs (R189, R220 to R224) -/

/-- Bytes of a graph as a number. -/
def State.virtNat (s : State) (ptroot : Word) (va n : Nat) : Option Nat := (readVirt s ptroot va n).map leNat

/-- A region of an edge: base, length, scope (R223). -/
abbrev Region := Nat × Nat × Nat

/-- Whether a region is one that R189 allows, shared windows apart. -/
def regionOk (v : Nat) : Bool :=
  let base := field v 127 64
  let len := field v 63 24
  field v 23 3 == 0 && base % 128 == 0 && len % 128 == 0 && len != 0 && 1 ≤ field v 2 0 && field v 2 0 ≤ 4 &&
  !overlap base len apertureBase (2 ^ 30)

/-- An out-edge: its consumer and regions; none where it is malformed (R223). -/
def State.edge (s : State) (ptroot : Word) (arr e : Nat) : Option (Nat × List Region) :=
  match s.virtNat ptroot (arr + 144 * e) 144 with
  | none => none
  | some v =>
    let n := field v 19 16
    let rs := (List.range n).map fun i => field v (128 * i + 255) (128 * i + 128)
    if field v 127 20 ≠ 0 ∨ 8 < n ∨ !rs.all regionOk then none
    else some (field v 15 0, rs.map fun r => (field r 127 64, field r 63 24, field r 2 0))

/-- The out-edges of a node. -/
def State.edgesOf (s : State) (ptroot : Word) (nodes i : Nat) : Option (List (Nat × List Region)) :=
  match s.node ptroot nodes i with
  | some (t, nout, _) => (List.range nout).mapM fun e => s.edge ptroot t.node e
  | none => none

/-- Nodes that can be taken off a graph, consumers last: one round. -/
def peel (edges : List (Nat × Nat)) (gone left : List Nat) : List Nat × List Nat :=
  let now := left.filter fun n => edges.all fun e => e.2 != n || gone.contains e.1
  (gone ++ now, left.filter fun n => !now.contains n)

/-- Whether a graph is without a cycle (R222). -/
def acyclic (edges : List (Nat × Nat)) : Nat → List Nat × List Nat → Bool
  | 0, q => q.2.isEmpty
  | n + 1, q => acyclic edges n (peel edges q.1 q.2)

/-- Whether a region touches no shared window that a context has declared in its address space (R189). -/
def State.regionClear (s : State) (ptroot : Word) (r : Region) : Bool :=
  s.ctxs.all fun p => p.2.ptroot != ptroot || p.2.wins.all fun w => !w.2.live || !overlap r.1 r.2.1 w.2.base w.2.len

/-- The check of one node (R222, R223): its task, its edges. -/
def State.nodeOk (s : State) (ptroot : Word) (prio nodes nnode i : Nat) : Bool :=
  match s.node ptroot nodes i, s.edgesOf ptroot nodes i with
  | some (t, nout, _), some es =>
    nout ≤ 4096 && es.all (fun e => e.1 < nnode && e.2.all (s.regionClear ptroot)) &&
    (checkTask s { t with typ := 0 } (field t.low 281 256 + field t.low 223 0) true prio ptroot
      (fun k vw => { t with prio := prio }.launch s.hub.admitted 0 0 none k vw ptroot 0 0)).toBool
  | _, _ => false

/-- The check of a graph's nodes and edges (R214, R222): the node at fault, if one is; 0 for a cycle (log entry 48). -/
def State.graphFault (s : State) (ptroot : Word) (prio nodes nnode : Nat) : Option Nat :=
  match (List.range nnode).find? fun i => !s.nodeOk ptroot prio nodes nnode i with
  | some i => some i
  | none =>
    let edges := (List.range nnode).flatMap fun i => ((s.edgesOf ptroot nodes i).getD []).map fun e => (i, e.1)
    match (List.range nnode).find? fun i =>
      (edges.filter (·.2 == i)).length != ((s.node ptroot nodes i).map (·.2.2)).getD 0 with
    | some i => some i
    | none => if acyclic edges nnode ([], List.range nnode) then none else some 0

/-- The replay of a packet of TYPE 1 (R220, R221), or the node that refuses it; 0 where the descriptor itself does (log entry 48). -/
def State.replayOf (s : State) (q pktidx : Nat) (t : Task) (ptroot tvec : Word) : Except Nat Replay :=
  match s.virtNat ptroot t.node 64 with
  | none => .error 0
  | some g =>
    let nnode := field g 191 176
    let nodes := field g 255 192
    let ver := field g 31 0
    if nnode = 0 ∨ 4096 < nnode ∨ field g 175 32 ≠ 0 ∨ nodes % 128 ≠ 0 then .error 0
    else
      match s.graphFault ptroot t.prio nodes nnode with
      | some i => .error i
      | none => .ok ⟨s.hub.admitted, q, pktidx, BitVec.ofNat 64 t.user, t.prio, ptroot, tvec, BitVec.ofNat 32 ver,
          BitVec.ofNat 64 (field g (64 * (ver % 4) + 319) (64 * (ver % 4) + 256)), nodes, nnode, [], [], [], none⟩

/-- The in-edges of a node: producer, number among its edges, regions. -/
def State.inEdges (s : State) (r : Replay) (n : Nat) : List (Nat × Nat × List Region) :=
  (List.range r.nnode).flatMap fun i =>
    let es := (s.edgesOf r.ptroot r.nodes i).getD []
    ((List.range es.length).zip es).filterMap fun p => if p.2.1 = n then some (i, p.1, p.2.2) else none

/-- The physical ranges of a virtual range, leaf by leaf. -/
def State.physRanges (s : State) (ptroot : Word) : Nat → Nat → Nat → List (Nat × Nat)
  | 0, _, _ => []
  | f + 1, va, len =>
    if len = 0 then []
    else
      match walkRoot s ptroot va with
      | .ok t =>
        let n := Nat.min len (t.size - (va57 va - t.va))
        let rest := s.physRanges ptroot f (va + n) (len - n)
        if t.attr.ap then rest else (t.pa va, n) :: rest
      | .error _ =>
        let n := Nat.min len (4096 - va % 4096)
        s.physRanges ptroot f (va + n) (len - n)

/-- Whether a line lies in some ranges. -/
def lineIn (rs : List (Nat × Nat)) (n : Nat) : Bool := rs.any fun r => r.1 ≤ 128 * n && 128 * n < r.1 + r.2

/-- A region cleaned in the caches of a die (R189): written back to the point of coherence of its scope, which from die scope on is
the memory-side cache (R151): the atomic buffer stands above it. -/
def State.cleanRegion (s : State) (d sc : Nat) (rs : List (Nat × Nat)) : State :=
  let s := if sc < 2 then s
    else (span (10 * d) 10).foldl (fun s cl =>
      (s.cluster cl).lines.foldl (fun s p => if lineIn rs p.1 then s.cleanLine cl p.1 else s) s) s
  if sc < 2 then s else (s.die d).abuf.foldl (fun s p => if lineIn rs p.1 then s.evictAbuf d p.1 else s) s

/-- The copies of a region below the point of coherence of its scope discarded in the caches of a die (R189). -/
def State.discardRegion (s : State) (d sc : Nat) (rs : List (Nat × Nat)) : State :=
  let s := if sc < 2 then s
    else (span (10 * d) 10).foldl (fun s cl =>
      (s.cluster cl).lines.foldl (fun s p => if lineIn rs p.1 then s.discardLine cl p.1 else s) s) s
  if sc < 2 then s else (s.die d).abuf.foldl (fun s p => if lineIn rs p.1 then s.evictAbuf d p.1 else s) s

/-- A step over the regions of an edge for the dies of a task. -/
def State.overRegions (s : State) (f : State → Nat → Nat → List (Nat × Nat) → State) (r : Replay) (t : Task) (rs : List Region) : State :=
  (List.range 4).foldl (fun s d =>
    if !runsOn t.part d then s
    else rs.foldl (fun s g => f s d g.2.2 (s.physRanges r.ptroot (g.2.1 / 4096 + 2) g.1 g.2.1)) s) s

/-- GRAPH_EDGE_COMPLETE (R189, R224): edge e mod 4,096 of node e / 4,096, whose producer has completed, is cleaned. -/
def State.edgeComplete (s : State) (i e : Nat) : State :=
  let n := e / 4096
  let k := e % 4096
  match s.hub.replays.find? (·.id == i) with
  | none => s
  | some r =>
    if !r.ended.contains n || r.edges.contains (n, k) then s
    else
      match s.node r.ptroot r.nodes n, (s.edgesOf r.ptroot r.nodes n).getD [] with
      | some (t, _, _), es =>
        match es[k]? with
        | none => s
        | some g =>
          let s := s.overRegions State.cleanRegion r t g.2
          { s with hub := { s.hub with replays := s.hub.replays.map fun (p : Replay) =>
              if p.id = i then { p with edges := p.edges ++ [(n, k)] } else p } }
      | none, _ => s

/-- GRAPH_EDGE_COMPLETE of an edge of a replay. -/
def execGraphEdgeComplete (r e : Nat) (s : State) : Host.Outcome State Fault Refusal := .next (s.edgeComplete r e)

/-- Whether a node can start (R224). -/
def State.startable (s : State) (r : Replay) (n : Nat) : Bool :=
  n < r.nnode && !r.started.contains n && r.failed.isNone && (s.inEdges r n).all fun e => r.edges.contains (e.1, e.2.1)

/-- How many launches the front end holds (R215, R224, R225). -/
def Hub.holding (h : Hub) : Nat := h.launches.length + h.replays.length + h.heldc.length

/-- NODE_START (R224): the lowest node that can start is admitted as a launch; the regions of its in-edges are discarded in the
dies that will run it. A node that no longer passes its checks fails the replay. -/
def State.nodeStart (s : State) (i n : Nat) : State :=
  match s.hub.replays.find? (·.id == i) with
  | none => s
  | some r =>
    if 64 ≤ s.hub.holding || !s.startable r n || (List.range n).any (s.startable r) then s
    else
      let note (ended : Bool) (s : State) : State :=
        { s with hub := { s.hub with replays := s.hub.replays.map fun (p : Replay) =>
            if p.id = i then { p with started := p.started ++ [n], ended := if ended then p.ended ++ [n] else p.ended
                                      failed := if ended then some n else p.failed } else p } }
      match s.node r.ptroot r.nodes n with
      | none => (note true s).settleReplay i
      | some (t, _, _) =>
        match checkTask s { t with typ := 0 } (field t.low 281 256 + field t.low 223 0) true r.prio r.ptroot
            (fun k vw => t.launch s.hub.admitted r.q r.pktidx (some (i, n)) k vw r.ptroot r.tvec (r.pb + BitVec.ofNat 64 t.args)) with
        | .error _ => (note true s).settleReplay i
        | .ok l =>
          let s := (s.inEdges r n).foldl (fun s e => s.overRegions State.discardRegion r t e.2.2) s
          note false (s.enterLaunch l)

/-- NODE_START of a node of a replay. -/
def execNodeStart (r n : Nat) (s : State) : Host.Outcome State Fault Refusal := .next (s.nodeStart r n)

/-! ### Admission (R213 to R215) -/

/-- The packet at a queue's HEAD. -/
def State.headPacket (s : State) (v : Nat) : Task :=
  Task.of (leNat (Memory.readN s.mem (field v 255 192 + 128 * (qHead v % 2 ^ qLog v)) 128))

/-- Whether a queue has a packet that may be admitted (R215). -/
def State.eligible (s : State) (q : Nat) : Bool :=
  let v := s.qdesc q
  qOn v && !qBad v && qHead v != qTail v &&
  (!(s.headPacket v).waitprev || !((s.hub.launches.any (·.q == q)) || (s.hub.replays.any (·.q == q))))

/-- The queue served next at a priority (R215): the one whose turn it is while its weight lasts, else the next in ascending
order. -/
def nextQueue (qs : List Nat) (cur used weight : Nat) : Option Nat :=
  if qs.contains cur && used < weight then some cur
  else
    match qs.find? (cur < ·) with
    | some q => some q
    | none => qs.head?

/-- The queue from which the next packet is admitted, with its priority (R215). -/
def State.chooseQueue (s : State) : Option (Nat × Fin 4) :=
  let qs := s.queues.filter s.eligible
  [(3 : Fin 4), 2, 1, 0].findSome? fun p =>
    let mine := qs.filter fun q => qPrio (s.qdesc q) == p.val
    let t := s.hub.turn.get p
    (nextQueue mine t.1 t.2 (qWeight (s.qdesc t.1))).map fun q => (q, p)

/-- A packet taken from its queue and admitted or refused (R214, R215). Of a marker only the checks of STATUS 9 are made, since it starts
no worker (log entry 48). -/
def State.takePkt (s : State) (q : Nat) (p : Fin 4) : State :=
  let v := s.qdesc q
  let t := s.headPacket v
  let s := s.setQ q 191 160 (qHead v + 1)
  let turn := s.hub.turn.get p
  let used := if turn.1 = q ∧ turn.2 < qWeight v then turn.2 + 1 else 1
  let ptroot : Word := BitVec.ofNat 64 (field v 383 320)
  let tvec : Word := BitVec.ofNat 64 (field v 447 384)
  let ok (s : State) : State := { s with hub := { s.hub with turn := s.hub.turn.set p.val (q, used) p.isLt } }
  let no (st dt : Nat) : State := s.complete ⟨q, BitVec.ofNat 64 t.user, qHead v, st, dt, 0⟩
  match t.typ with
  | 1 =>
    if t.low ≠ 0 ∨ t.prio ≠ qPrio v then no 9 0
    else
      match s.replayOf q (qHead v) t ptroot tvec with
      | .error i => no 8 i
      | .ok r => ok { s with hub := { s.hub with replays := s.hub.replays ++ [r], admitted := s.hub.admitted + 1 } }
  | 2 =>
    if t.low ≠ 0 ∨ t.amode = 3 ∨ t.prio ≠ qPrio v ∨ 2 ^ 32 < t.size ∨ t.node ≠ 0 then no 9 0
    else
      let l := t.launch s.hub.admitted q (qHead v) none Code.none (Vector.replicate 64 0) ptroot tvec 0
      ok { s with hub := { s.hub with
        launches := s.hub.launches ++ [{ l with x := 0, y := 0, z := 0, part := [], nextIx := [], gtab := 0, cohort := false }]
        admitted := s.hub.admitted + 1 } }
  | _ =>
    match checkTask s t t.low false (qPrio v) ptroot
        (fun k vw => t.launch s.hub.admitted q (qHead v) none k vw ptroot tvec (BitVec.ofNat 64 t.args)) with
    | .error st => no st 0
    | .ok l => ok (s.enterLaunch l)

/-- ADMIT_LAUNCH (R211, R214, R215): a queue with a malformed descriptor is disabled; else, while fewer than 64 launches are held, the
next packet is taken. -/
def State.admitNext (s : State) : State :=
  match s.queues.find? fun q => qOn (s.qdesc q) && qBad (s.qdesc q) with
  | some q => s.queueError q
  | none =>
    if 64 ≤ s.hub.holding then s
    else
      match s.chooseQueue with
      | some (q, p) => s.takePkt q p
      | none => s

/-- ADMIT_LAUNCH. -/
def execAdmitLaunch (s : State) : Host.Outcome State Fault Refusal := .next s.admitNext

end Sys2Proof.Machine
end

