-- ==== Sys2Proof/Machine/Preempt.lean ====
section
/-! DEFINITION. Pre-emption (R217 to R219), lean saves and restores (R264 to R267), the kiln and its images (R268 to R277,
R395, R396). -/

namespace Sys2Proof.Machine

/-! ### SCHEDCTL (R217) -/

/-- GRACE in die cycles. -/
def Hub.grace (h : Hub) : Nat := 16 * field h.schedctl.toNat 31 16

/-- PREWAIT in die cycles; 0 disables pre-emption. -/
def Hub.prewait (h : Hub) : Nat := field h.schedctl.toNat 15 0 * h.mhz

/-! ### The kiln's freeze (R268, R269) -/

/-- Whether a pair holds a communication context (R219). -/
def State.pairHasComm (s : State) (p : Nat) : Bool := (pairCtxs p).any fun x => s.exists? x && s.isComm x

/-- A lean save that the kiln's freeze abandons (R277): the context stands at its save point, with the windows that the save had dropped
declared again. -/
def Ctx.abandonSave (c : Ctx) : Ctx :=
  if c.run = .saving then
    { c with
      run := .running, savept := none, wsaved := []
      wins := if c.wsaved.isEmpty then c.wins else c.wsaved.map fun o => (o.1, { winOf c o.2.1 o.2.2.1 o.2.2.2 with live := true }) }
  else c

/-- A pair frozen at the end of this die cycle (R268): token requests of its contexts are withdrawn (R228), no grace window is
left to run, a lean save is abandoned (R277). -/
def State.freezePair (s : State) (p : Nat) : State :=
  let q := s.pair p
  if q.frozen.isSome then s
  else
    let s := s.setPair p { q with frozen := some ⟨s.clock, [], [], [], false⟩ }
    (pairCtxs p).foldl (fun s x =>
      if (s.ctx x).occ = .free then s
      else
        let s := (s.dropToken x).traceOpen x 6 (s.ctx x).fetch.pc
        s.setCtx x { (s.ctx x).abandonSave with grace := none }) s

/-- Whether the kiln refuses to freeze a pair for pre-emption: it holds a communication context, or its other bank is sealed
(R219, R269). -/
def State.kilnRefuses (s : State) (p : Nat) : Bool := s.pairHasComm p || (s.pair p).bankBusy

/-- A frozen pair's release asked for: it draws 16 tokens (R227). -/
def State.askRelease (s : State) (p : Nat) : State :=
  let q := s.pair p
  match q.frozen with
  | some f => (s.setPair p { q with frozen := some { f with release := true } }).askTokens (p / 20) 16 (.pair p) (320 + p)
  | none => s

/-- Whether the pairs of a cohort may start their clocks (R396): nothing of it is still saved, and every frozen pair of it has
been asked to go on. -/
def State.cohortTogether (s : State) (l : Nat) : Bool :=
  !(s.hub.saved.any (·.launch == l)) &&
  s.ctxs.all fun p => match p.2.occ with
    | .worker k _ => k != l || match (s.pair (pairOf p.1)).frozen with | some f => f.release | none => true
    | _ => true

/-- A request that waits at a pair's edge delivered (R269, R274). -/
def State.deliverHeld (s : State) (h : Held) : State :=
  match h with
  | .flag x k n sc => s.bumpFlag x k n sc
  | .cells core cs src => s.spadIn core cs src
  | .signal x g ph => s.tellPhase x g ph

/-- A response that waits at a pair's edge delivered (R269, R274). -/
def State.deliverPacket (s : State) (p : Packet) : State :=
  let h := Hdr.of p.hdr
  if h.typ = PType.result.code then s.resultHere h p else s.answered h p

/-- The granules' last accesses moved by the cycles that a core stood still (R268). -/
def CoreSt.shift (k : CoreSt) (n : Nat) : CoreSt := { k with gidle := k.gidle.map fun p => (p.1, p.2 + n) }

/-- The loops of a context have been frozen for some cycles (R21, R288). -/
def Ctx.frozenFor (c : Ctx) (n : Nat) : Ctx :=
  if c.run = .running then c.setStack { c.stack with stat := c.stack.stat.map fun t => { t with froz := t.froz + n } } else c

/-- A pair's clock starts (R274): it has been asked for, its tokens are drawn, its cohorts are together. What waits at its edge comes
in: the captured responses, the requests, the responses that came later; the input buffer is then empty again. -/
def State.thaw (s : State) (p : Nat) : State :=
  let q := s.pair p
  match q.frozen with
  | none => s
  | some f =>
    let d := s.die (p / 20)
    let served := d.reqs.any fun r => r.who == .pair p && r.served
    let together := (pairCtxs p).all fun x => match s.workerOf x with
      | some (l, _) => !l.cohort || s.cohortTogether l.id
      | none => true
    if !(f.release && served && together) then s
    else
      let s := s.setDie (p / 20) { d with reqs := d.reqs.filter (·.who != .pair p) }
      let s := s.setPair p { q with frozen := none, edge := { q.edge with occ := 0, grant := edgeCap } }
      let n := s.clock - f.cycle
      let s := [2 * p, 2 * p + 1].foldl (fun s c => s.setCore c ((s.core c).shift n)) s
      let s := (pairCtxs p).foldl (fun s x => s.setCtx x ((s.ctx x).frozenFor n)) s
      f.late.foldl State.deliverPacket (f.held.foldl State.deliverHeld (f.packets.foldl State.deliverPacket s))

/-! ### Victims (R218, R219) -/

/-- Whether a launch has workers to place on a die. -/
def State.hasWork (s : State) (l : Launch) (d : Nat) : Bool :=
  l.hasNext d || s.hub.saved.any fun w => w.launch == l.id && l.dieOfIx w.index == some d

/-- Whether a context's worker may be sent a save request: it runs, none is pending, and no context of its pair is halted by a
debugger (R279). -/
def State.mayAsk (s : State) (x : Nat) : Bool :=
  let c := s.ctx x
  c.run == .running && c.grace.isNone && (s.pair (pairOf x)).frozen.isNone &&
  !((pairCtxs (pairOf x)).any fun y => (s.ctx y).dbgctl.getLsbD 0) && match c.occ with | .worker _ _ => true | _ => false

/-- The contexts of a launch's workers. -/
def State.membersOf (s : State) (l : Nat) : List Nat :=
  s.ctxs.filterMap fun p => match p.2.occ with | .worker k _ => if k = l then some p.1 else none | _ => none

/-- What is saved as a unit (R219, R27): a worker, or the workers of a cohort on every die. -/
structure Victim where
  prio : Nat
  placed : Nat
  xs : List Nat
  deriving DecidableEq, Repr

/-- The victims on a die for a launch of some priority, one for each worker or cohort. -/
def State.victims (s : State) (prio d : Nat) (avoid : Nat → Bool) : List Victim :=
  ((span (80 * d) (2 * s.coresOf d)).filterMap fun x =>
    match s.workerOf x with
    | some (l, _) =>
      let xs := if l.cohort then (s.membersOf l.id).filter fun y => (s.ctx y).run == .running else [x]
      if l.prio < prio && xs.all s.mayAsk && !xs.any avoid then
        some ⟨l.prio, xs.foldl (fun n y => max n (s.ctx y).placed) 0, xs⟩
      else none
    | none => none).eraseDups

/-- Whether a victim is taken before another: lowest priority first, then the latest placed (R218). -/
def Victim.before (a b : Victim) : Bool := a.prio < b.prio || (a.prio == b.prio && b.placed ≤ a.placed)

/-- A victim put into its place. -/
def insertVictim (v : Victim) : List Victim → List Victim
  | [] => [v]
  | u :: us => if v.before u then v :: u :: us else u :: insertVictim v us

/-- The choices of n out of a list, in order. -/
def combos : Nat → List α → List (List α)
  | 0, _ => [[]]
  | _ + 1, [] => []
  | n + 1, a :: as => (combos n as).map (a :: ·) ++ combos (n + 1) as

/-- The state with some contexts given up. -/
def State.without (s : State) (xs : List Nat) : State :=
  xs.foldl (fun s x =>
    (s.setPair (pairOf x) { s.pair (pairOf x) with frozen := none }).setCtx x { s.ctx x with occ := .free }) s

/-- Whether a launch's next worker on a die, or all a cohort has there, could be placed. -/
def State.room (s : State) (l : Launch) (d : Nat) : Bool :=
  if !l.cohort then (s.launchJob l d).isSome
  else
    match (s.savedOf l.id).filter fun p => l.dieOfIx p.2.index == some d with
    | [] => let r := l.part.getD d (0, 0); (s.seatAll l (span r.1 r.2)).isSome
    | ws => s.imagesReady l (ws.filterMap fun p => p.2.image) && (s.seatSaved l ws).isSome

/-- The fewest victims on a die that make room for a launch (R218). -/
def State.pickVictims (s : State) (l : Launch) (d : Nat) (avoid : Nat → Bool) : Option (List Nat) :=
  let vs := (s.victims l.prio d avoid).foldr insertVictim []
  (List.range vs.length).findSome? fun n =>
    ((combos (n + 1) vs).find? fun c => (s.without (c.flatMap (·.xs))).room l d).map fun c => c.flatMap (·.xs)

/-- A save request to each victim (R219), which opens its grace window: with GRACE 0 the window is over at once, and each pair is
frozen at the end of its die's next cycle (R217, R395). -/
def State.requestSave (s : State) (xs : List Nat) : State :=
  xs.foldl (fun s x => s.setCtx x { s.ctx x with grace := some s.hub.grace }) s

/-- The wait count of a launch whose trigger has fired: it starts anew when a context becomes free. -/
def fired : Nat := 2 ^ 64

/-- A launch's trigger on a die (R218): its victims are chosen and sent their requests. -/
def State.trigger (s : State) (l : Launch) (d : Nat) (avoid : Nat → Bool) : Option State :=
  let out (x : Nat) : Bool := avoid x || (s.hub.grace == 0 && s.kilnRefuses (pairOf x))
  (s.pickVictims l d out).map fun xs =>
    (s.setLaunch { l with waited := l.waited.mapIdx fun k n => if k = d then fired else n }).requestSave xs

/-- Whether a launch's wait on a die has lasted PREWAIT (R218). -/
def State.waitedOut (s : State) (l : Launch) (d : Nat) : Bool :=
  s.hub.prewait != 0 && s.hub.prewait ≤ l.waited.getD d 0 && l.waited.getD d 0 < fired && s.hasWork l d

/-- PREEMPT_TRIGGER (R218) of a launch: on the first die where it has waited long enough and victims make room. -/
def State.preempt (s : State) (i : Nat) : State :=
  match s.launch i with
  | none => s
  | some l =>
    ((List.range 4).findSome? fun d => if s.waitedOut l d then s.trigger l d (fun _ => false) else none).getD s

/-- PREEMPT_TRIGGER of a launch. -/
def execPreemptTrigger (l : Nat) (s : State) : Host.Outcome State Fault Refusal := .next (s.preempt l)

/-- The next die cycle of the waits (R218): a launch with a worker to place on a die waits one cycle more. -/
def State.waitTick (s : State) : State :=
  { s with hub := { s.hub with launches := s.hub.launches.map fun (l : Launch) =>
      { l with waited := l.waited.mapIdx fun d n => if s.hasWork l d && n < fired then n + 1 else n } } }

/-! ### The end of a grace window (R219) -/

/-- The victims that a context's save request came with: itself, or its cohort. -/
def State.unitOf (s : State) (x : Nat) : List Nat :=
  match s.workerOf x with
  | some (l, _) => if l.cohort then s.membersOf l.id else [x]
  | none => [x]

/-- Victims released (R219): those stopped at a save point go on from it with their windows, frozen pairs are restored in place. -/
def State.releaseVictims (s : State) (xs : List Nat) : State :=
  xs.foldl (fun s x =>
    let s := s.setCtx x { (s.ctx x).abandonSave with grace := none, savept := none }
    s.askRelease (pairOf x)) s

/-- The contexts that are being saved: asked and in their window, at a save point, in a pair that is frozen for its image. -/
def State.beingSaved (s : State) : List Nat :=
  s.ctxs.filterMap fun p =>
    if p.2.occ != .free && (p.2.grace.isSome || p.2.run == .saving || match (s.pair (pairOf p.1)).frozen with
      | some f => !f.release
      | none => false) then some p.1 else none

/-- The next victims after some were released (R219): for the first launch whose trigger on one of some dies is out and for which the
victims that are still being saved make no room. -/
def State.nextVictims (s : State) (ds : List Nat) (avoid : Nat → Bool) : State :=
  let t := s.without s.beingSaved
  (s.claims.findSome? fun (l : Launch) => ds.findSome? fun d =>
    if l.waited.getD d 0 = fired && s.hasWork l d && !t.room l d then s.trigger l d avoid else none).getD s

/-- The contexts that must be saved with a pair that has been frozen: the other members of the cohorts whose workers it holds (R27), of
which each that runs and has no request yet gets one. -/
def State.mates (s : State) (p : Nat) : List Nat :=
  (((pairCtxs p).flatMap s.unitOf).filter fun y =>
    (s.ctx y).run == .running && (s.ctx y).grace.isNone && (s.pair (pairOf y)).frozen.isNone).eraseDups

/-- GRACE_WINDOW_EXPIRY (R219): the victim has marked no save point. Its pair is frozen; a pair that the kiln refuses lets its
victim, or the victim's whole cohort, run on, and the next victim is chosen on another pair, or outside the cohort and its pairs. The
rest of a cohort of which a frozen pair holds a member is saved with it (R27). -/
def State.graceExpiry (s : State) (x : Nat) : State :=
  let c := s.ctx x
  if c.grace ≠ some 0 ∨ c.run ≠ .running ∨ (s.pair (pairOf x)).frozen.isSome then s
  else if s.kilnRefuses (pairOf x) then
    let xs := s.unitOf x
    let whole := (s.workerOf x).elim false fun w => w.1.cohort
    (s.releaseVictims xs).nextVictims (xs.map dieOf).eraseDups fun y =>
      if whole then xs.any (fun z => pairOf z == pairOf y) else pairOf y == pairOf x
  else
    let t := s.freezePair (pairOf x)
    t.requestSave (t.mates (pairOf x))

/-- GRACE_WINDOW_EXPIRY of the acting context. -/
def execGraceWindowExpiry (s : State) : Host.Outcome State Fault Refusal := .next (s.graceExpiry s.cur)

/-- One core-clock cycle of the grace windows, whatever freezes their contexts (R217). -/
def Ctx.graceTick (c : Ctx) : Ctx :=
  match c.grace with
  | some n => if c.run = .running then { c with grace := some (n - 1) } else { c with grace := none }
  | none => c

/-- Whether a saved worker's cohort is ready to be saved as a unit (R27, R219): no member still runs in its window. -/
def State.cohortStill (s : State) (x : Nat) : Bool :=
  match s.workerOf x with
  | some (l, _) => !l.cohort || (s.membersOf l.id).all fun y => (s.ctx y).run != .running || (s.pair (pairOf y)).frozen.isSome
  | none => true

/-! ### Lean saves (R265, R266) -/

/-- The phases on their way to a context taken into its barrier mailbox (R26). -/
def State.takeMail (s : State) (x : Nat) : State × List (Fin 256 × BitVec 16) :=
  ({ s with hub := { s.hub with msgs := s.hub.msgs.filter fun m => match m with | .signal y _ _ => y != x | _ => true } },
    s.hub.msgs.filterMap fun m => match m with | .signal y g ph => if y = x then some (g, ph) else none | _ => none)

/-- The record of a context at a save point of a live-table entry (R266): places count from its partitions and its window. -/
def State.leanRec (s : State) (x : Nat) (e : LiveEntry) : LeanRec :=
  let c := s.ctx x
  let k := s.core (coreOf x)
  let p := s.pair (pairOf x)
  let r0 := 8 * c.rsbase.toNat
  let sp0 := 4096 * c.spbase.toNat
  { s := c.s, sui := c.sui, p := c.p, k := c.k, ktag := c.ktag, vw := c.vw, ctxctl := c.ctxctl, fpflags := c.fpflags
    fxgrid := c.fxgrid, scwb := c.scwb, lmap := c.lmap, xpat := c.xpat, mpitch := c.mpitch, mseqr := c.mseqr, uivec := c.uivec
    fetch := c.fetch, uiq := c.uiq, impq := c.impq, bars := c.bars
    dead := (List.range (8 * c.rslim.toNat)).filter fun r => (k.row (r0 + r)).dead
    rows := e.rows.flatMap fun q => (span q.1 q.2).map fun r => (r, (k.row (r0 + r)).bits)
    sp := (k.sp.filter fun b => e.sps.any fun q => sp0 + 256 * q.1 ≤ b.1 && b.1 < sp0 + 256 * (q.1 + q.2)).map fun b => (b.1 - sp0, b.2)
    oslot := ((List.range c.omcnt).filter fun n => e.om.testBit n).map fun n => (n, p.slot (c.ombase + n))
    acc := ((List.range 4).filter fun n => e.acc.testBit n).map fun n => (n, Map.get [] p.acc n)
    wins := c.wsaved
    core := coreOf x }

/-- LEAN_SAVE (R265): when everything in flight has ended its windows are dropped and noted, then the record is written and the
context is free. A context that a debugger has halted does nothing (R279). -/
def State.leanSave (s : State) (x : Nat) : State :=
  let c := s.ctx x
  if c.run ≠ .saving ∨ (s.pair (pairOf x)).frozen.isSome ∨ (c.halted && !c.dstep) ∨ !s.drained x ∨ !s.cohortStill x then s
  else if !c.wins.isEmpty then
    if c.dropping then s else s.setCtx x { c.dropWins with wsaved := c.wins.map fun p => (p.1, p.2.ops) }
  else
    match s.workerOf x, c.savept with
    | some (l, i), some e =>
      match s.liveEntry c.ptroot l.code e.val with
      | some le =>
        let r := s.leanRec x le
        let m := (s.traceOpen x 5 c.fetch.pc).takeMail x
        let t : State := { m.1 with hub := { m.1.hub with saved := m.1.hub.saved ++ [⟨l.id, i, some r, none, none, m.2⟩] } }
        (t.freeWorker x).freed x
      | none => s.fatalCtx x
    | _, _ => s

/-- LEAN_SAVE of the acting context. -/
def execLeanSave (s : State) : Host.Outcome State Fault Refusal := .next (s.leanSave s.cur)

/-! ### Lean restores (R26, R45, R267) -/

/-- The phases of a barrier mailbox replayed (R26). -/
def replayMail (bars : List Bar) (mail : List (Fin 256 × BitVec 16)) : List Bar :=
  mail.foldl (fun bs m => bs.map fun (b : Bar) => if b.g = m.1 then { b with phase := m.2 } else b) bars

/-- The rows of a partition after a lean restore (R45, R267): the named ones hold their saved contents, every other is dead. A named
row that was dead at the save is dead again: R266 saves the dead marks (log entry 49). -/
def CoreSt.leanRows (k : CoreSt) (base n : Nat) (r : LeanRec) : CoreSt :=
  { k with rows := (List.range (8 * n)).foldl (fun m i =>
      match Map.find r.rows i with
      | some b => Map.put m (8 * base + i) ⟨b, r.dead.contains i⟩
      | none => Map.put m (8 * base + i) ⟨0, true⟩) k.rows }

/-- A context's registers from a record (R266, R267). -/
def Ctx.leanRegs (c : Ctx) (r : LeanRec) : Ctx :=
  { c with
    s := r.s, sui := r.sui, p := r.p, k := r.k, ktag := r.ktag, vw := r.vw, ctxctl := r.ctxctl, fpflags := r.fpflags
    fxgrid := r.fxgrid, scwb := r.scwb, lmap := r.lmap, xpat := r.xpat, mpitch := r.mpitch, mseqr := r.mseqr, uivec := r.uivec
    fetch := r.fetch, uiq := r.uiq, impq := r.impq }

/-- A lean save restored in a context (R267): registers, named state, windows declared again, the mailbox replayed. -/
def State.leanRestore (s : State) (x : Nat) (l : Launch) (w : SavedW) (r : LeanRec) (f : Fit) : State :=
  let s := s.reserve x l w.index f
  let l := (s.launch l.id).getD l
  let s := s.markMembers l w.index x
  let k := ((s.core (coreOf x)).freshRows s.clock f.rs l.rsg).leanRows f.rs l.rsg r
  let k := k.clearSp f.sp l.spg
  let s := s.setCore (coreOf x) { k with sp := Memory.writeAll k.sp (r.sp.map fun b => (4096 * f.sp + b.1, b.2)) }
  let p := (s.pair (pairOf x)).freshArray l.amode f.om l.oms (coreOf x)
  let p := { p with
    oslot := r.oslot.foldl (fun m o => Map.put m (f.om + o.1) o.2) p.oslot
    acc := r.acc.foldl (fun m a => if (ownAccs l.amode (coreOf x)).contains a.1 then Map.put m a.1 a.2 else m) p.acc }
  let s := s.setPair (pairOf x) p
  let c := (workerCtx (s.ctx x) l w.index s.clock (replayMail r.bars w.mail)).leanRegs r
  s.setCtx x { c with wins := r.wins.map fun o => (o.1, { winOf c o.2.1 o.2.2.1 o.2.2.2 with live := true }) }

/-! ### Images (R268 to R276) -/

/-- The workers of a pair: context number in the pair, launch, linear index. -/
def State.pairWorkers (s : State) (p : Nat) : List (Nat × Nat × Nat) :=
  (List.range 4).filterMap fun j => match (s.ctx (4 * p + j)).occ with
    | .worker l i => some (j, l, i)
    | _ => none

/-- Place of a launch among the admitted ones. -/
def State.launchSlot (s : State) (l : Nat) : Nat :=
  ((List.range s.hub.launches.length).find? fun i => (s.hub.launches[i]?).map (·.id) == some l).getD 0

/-- MAGIC (R271). -/
def imageMagic : Nat := 0x51534942

/-- FUSEDIG of a die (R271). -/
def State.fuseDigest (s : State) (d : Nat) : BitVec 384 := s.hub.digest.getD d 0

/-- The header without digests, signature and MAGIC (R271). -/
def State.imageHdr (s : State) (p cycle : Nat) : Nat :=
  let ws := s.pairWorkers p
  ws.foldl (fun n w => n + (w.2.2 + s.launchSlot w.2.1 % 64 * 2 ^ 32) * 2 ^ (1024 + 64 * w.1)) 0 +
  (s.fuseDigest (p / 20)).toNat * 2 ^ 256 + cycle % 2 ^ 64 * 2 ^ 96 + ws.foldl (fun n w => n + 2 ^ (83 + w.1)) 0 + p % 2 * 2 ^ 82 +
  p / 2 % 10 * 2 ^ 78 + p / 20 * 2 ^ 76 + s.hub.pkgid % 4096 * 2 ^ 64 + s.hub.fuse.arch % 2 ^ 16 * 2 ^ 48 + 2 ^ 32

/-- The bytes of a core's register space (R270). -/
def CoreSt.spaceBytes (k : CoreSt) : List Byte := (List.range 512).flatMap fun r => leBytes 512 (k.row r).bits.toNat

/-- The bytes of a pair's operand slots, then of their scale stores (R270). -/
def PairSt.slotBytes (p : PairSt) : List Byte :=
  ((List.range 16).flatMap fun n => (List.range 128).flatMap fun r => leBytes 256 (Map.get 0 (p.slot n).rows r).toNat) ++
  (List.range 16).flatMap fun n => (List.range 2048).map fun i => Map.get 0 (p.slot n).scale i

/-- The bytes of a pair's accumulators (R270). -/
def PairSt.accBytes (p : PairSt) : List Byte :=
  (List.range 4).flatMap fun a => (List.range 128).flatMap fun r => leBytes 512 (Map.get 0 (Map.get [] p.acc a) r).toNat

/-- The 64-bit words of the sections that the spec gives a size and no layout: caches, scan state, edge (R270). -/
def openWords : Nat := (384 + 64 + 32) * 1024 / 8

/-- A held packet's 2,112 bytes: its header flit and 32 payload flits (R270). -/
def Packet.imageBytes (p : Packet) : List Byte := leBytes 64 p.hdr.toNat ++ (span 0 32).flatMap fun i => leBytes 64 (p.pay.getD i 0).toNat

/-- The bytes of an image from 4,096 on (R270): register spaces, scratchpads, operand slots, accumulators, the sections without a
layout, whose bytes are free values (log entry 12), the held packets. -/
def Image.body (m : Image) : List Byte :=
  m.cores.flatMap CoreSt.spaceBytes ++ (m.cores.flatMap fun k => Memory.readN k.sp 0 (2 ^ 21)) ++ m.arr.slotBytes ++ m.arr.accBytes ++
  ((List.range openWords).flatMap fun i => leBytes 8 (Config.freeWord (m.seed + i)).toNat) ++ m.packets.flatMap Packet.imageBytes

/-- BODYDIG of an image (R271). -/
def Image.digest (m : Image) : BitVec 384 := Config.sha384 m.body

/-- An image made final (R272): NHELD, LEN, BODYDIG, the signature, and MAGIC last. -/
def Image.seal (m : Image) : Image :=
  let n := m.packets.length
  let h := m.hdr.toNat + n % 2 ^ 32 * 2 ^ 160 + (6033408 + 2112 * n) * 2 ^ 192 + m.digest.toNat * 2 ^ 640 + imageMagic
  let sg := Config.imageSign (Config.sha384 (leBytes 416 h))
  { m with hdr := BitVec.ofNat 4096 (h + sg.toNat * 2 ^ 3328), final := true }

/-- The tag of a packet. -/
def Packet.tag (p : Packet) : Nat := (Hdr.of p.hdr).tag

/-- The tags of a pair's requests that have left it and wait for their response (R272): not of those that still stand at its edge, nor
of those whose response has been captured there. -/
def State.awaitedTags (s : State) (p : Nat) (f : Frozen) : List Nat :=
  ((s.hub.reqs.filter fun r => r.who.pair == some p).map (·.tag)).filter fun t =>
    !((s.pair p).edge.outq ++ f.packets).any (·.tag == t)

/-- Whether a frozen pair may be sealed: it was frozen for a save, its cohorts are still, its contributions have left (R247). -/
def State.sealable (s : State) (p : Nat) : Bool :=
  (match (s.pair p).frozen with | some f => !f.release | none => false) && !s.kilnRefuses p &&
  (pairCtxs p).all s.cohortStill &&
  !s.hub.inq.any fun q => let h := Hdr.of q.hdr; h.typ == PType.contrib.code && q.via.isNone && pairOf (ctxOfLoc h.sloc) == p

/-- The wakes of a core that an image takes (R44): one whose token has been drawn is over, any other is asked for anew. -/
def CoreSt.sealWakes (k : CoreSt) (served : Nat → Bool) : CoreSt :=
  { k with gret := k.gret.filter fun g => !((Map.find k.gwake g).isSome && served g), gwake := [] }

/-- A pair sealed (R269, R270): everything of it goes into the image, its workers are saved workers, its contexts are free, and
its other bank is active. What each worker leaves in its scratchpad stays for the launch's next one there (R16). -/
def State.sealPair (s : State) (p : Nat) (f : Frozen) : State :=
  let q := s.pair p
  let ws := s.pairWorkers p
  let tags := s.awaitedTags p f
  let id := s.hub.nextImage
  let img : Image :=
    { pair := p, hdr := BitVec.ofNat 4096 (s.imageHdr p f.cycle), ctxs := (pairCtxs p).map s.ctx
      cores := [2 * p, 2 * p + 1].map fun c => (s.core c).sealWakes (s.wakeServed c), arr := { q with frozen := none, bankBusy := false }
      held := f.held, captured := f.packets, packets := [], seed := s.free, awaited := tags, final := false, bank := q.bank, occ := ws }
  let m := if tags.isEmpty then img.seal else img
  let s := s.useFree openWords
  let s : State := { s with hub := { s.hub with images := Map.put s.hub.images id m, nextImage := id + 1 } }
  let s := ws.foldl (fun s w =>
    let t := s.takeMail (4 * p + w.1)
    { t.1 with hub := { t.1.hub with saved := t.1.hub.saved ++ [⟨w.2.1, w.2.2, none, some id, none, t.2⟩] } }) s
  let s := (pairCtxs p).foldl (fun s x =>
    let c := s.ctx x
    let left := if c.occ = .free then c.spkeep else (s.core (coreOf x)).spPart c.spbase.toNat c.splim.toNat
    s.setCtx x { c.fresh with occ := .free, spkeep := left }) s
  let s := (s.setCore (2 * p) CoreSt.reset).setCore (2 * p + 1) CoreSt.reset
  let d := s.die (p / 20)
  let s := s.setDie (p / 20) { d with reqs := d.reqs.filter fun r => match r.who with | .wake c _ => c / 2 != p | _ => true }
  let s := s.setPair p { PairSt.reset with bank := !q.bank, bankBusy := true }
  ws.foldl (fun s w => s.freed (4 * p + w.1)) s

/-- IMAGE_SEAL (R269): window copies are first given back, then the pair is sealed. -/
def State.imageSeal (s : State) (p : Nat) : State :=
  match (s.pair p).frozen with
  | none => s
  | some f =>
    if !s.sealable p then s
    else
      let copies := [2 * p, 2 * p + 1].flatMap fun c => (s.core c).wcopy
      if copies.isEmpty then s.sealPair p f else copies.foldl State.evictCopy s

/-- IMAGE_SEAL of a pair. -/
def execImageSeal (p : PairId) (s : State) : Host.Outcome State Fault Refusal := .next (s.imageSeal p.val)

/-- HELD_RESPONSE_APPEND (R272): the first response that a pair's image waits for is appended; the last one makes it final. -/
def State.appendHeld (s : State) (p : Nat) : State :=
  match s.hub.images.find? fun m => m.2.pair == p && !m.2.final with
  | none => s
  | some (id, m) =>
    match (List.range s.hub.inq.length).find? fun i => match s.hub.inq[i]? with
      | some q => let h := Hdr.of q.hdr; h.dpkg == s.hub.pkgid && h.cls == 1 && m.awaited.contains h.tag
      | none => false with
    | none => s
    | some i =>
      match s.hub.inq[i]? with
      | none => s
      | some q =>
        let m := { m with packets := m.packets ++ [q], awaited := m.awaited.filter (· != (Hdr.of q.hdr).tag) }
        let t := s.takePacket i
        { t with hub := { t.hub with images := Map.put t.hub.images id (if m.awaited.isEmpty then m.seal else m) } }

/-- HELD_RESPONSE_APPEND of a pair. -/
def execHeldResponseAppend (p : PairId) (s : State) : Host.Outcome State Fault Refusal := .next (s.appendHeld p.val)

/-- The cause for which an image is refused, if one of the checks of R273 fails: revision, fuse digest, signature and BODYDIG,
place. -/
def State.imageFault (s : State) (m : Image) : Option Nat :=
  let h := m.hdr.toNat
  let body := h % 2 ^ 3328
  if field h 63 48 ≠ s.hub.fuse.arch % 2 ^ 16 then some 1
  else if field h 639 256 ≠ (s.fuseDigest (m.pair / 20)).toNat then some 2
  else if field h 31 0 ≠ imageMagic ∨ field h 47 32 ≠ 1 ∨ field h 3327 1280 ≠ 0 ∨ field h 95 87 ≠ 0 ∨
      field h 1023 640 ≠ m.digest.toNat ∨
      field h 4095 3328 ≠ (Config.imageSign (Config.sha384 (leBytes 416 body))).toNat then some 3
  else if field h 75 64 ≠ s.hub.pkgid % 4096 ∨ !(pairCtxs m.pair).all s.exists? then some 4
  else none

/-- Images discarded (R273, R396): every worker in them reruns from its start, and so does every worker of their cohorts, one that has
retired too. -/
def State.discardImages (s : State) (ids : List Nat) (cause : Nat) : State :=
  let ls := s.hub.launches.filter fun (l : Launch) => l.cohort && (s.imagesOf l.id).any ids.contains
  let s := ids.foldl (fun s n => match Map.find s.hub.images n with
    | some m => s.setPair m.pair { s.pair m.pair with bankBusy := false }
    | none => s) s
  let s := ls.foldl (fun s l => (s.groups l).foldl (fun s g => s.setGroup l g.1.val (setField g.2 31 16 0)) s) s
  { s with hub := { s.hub with
    images := s.hub.images.filter fun m => !ids.contains m.1
    saved := (s.hub.saved.map fun (w : SavedW) =>
      if (match w.image with | some n => ids.contains n | none => false) || ls.any (·.id == w.launch) then
        { w with lean := none, image := none, rerun := some cause, mail := [] }
      else w) ++ ls.flatMap fun l => (l.indices.filter fun i => !s.hub.saved.any fun w => w.launch == l.id && w.index == i).map
        fun i => ⟨l.id, i, none, none, some cause, []⟩ } }

/-- The edge of a pair into which an image has been streamed (R274, R275): the flits placed in the input buffer, captured and held, count
against its capacity; what the hub's buffer offers is the outbound credit; the captured outbound packets stand where they stood. -/
def Image.edge (m : Image) : Edge :=
  let n := m.arr.edge.occ + (m.packets.map Packet.flits).sum
  { Edge.reset with outq := m.arr.edge.outq, occ := n, grant := edgeCap - n }

/-- The phases in the barrier mailboxes of an image's workers, as signals that come in behind the requests held before the seal
(R26, R274). -/
def State.mailSignals (s : State) (n : Nat) (m : Image) : List Held :=
  m.occ.flatMap fun o => (s.hub.saved.filter fun w => w.image == some n && w.launch == o.2.1 && w.index == o.2.2).flatMap fun w =>
    w.mail.map fun g => .signal (4 * m.pair + o.1) g.1 g.2

/-- An image streamed back into its pair (R274): its clock stays stopped until the pair's release. A context's trace sequence goes on
from the records written meanwhile (R289). A context that held no worker keeps what its workers have left since (R16). -/
def State.streamImage (s : State) (n : Nat) : State :=
  match Map.find s.hub.images n with
  | none => s
  | some m =>
    let cold (k : CoreSt) : CoreSt := { k with l1 := [], dict := [], cline := [], tlb := [] }
    let s := (List.range 4).foldl (fun s j =>
      match m.ctxs[j]? with
      | some c =>
        if c.occ = .free then s
        else s.setCtx (4 * m.pair + j) { c with grace := none, tseq := (s.ctx (4 * m.pair + j)).tseq }
      | none => s) s
    let s := (s.setCore (2 * m.pair) (cold (m.cores.getD 0 CoreSt.reset))).setCore (2 * m.pair + 1) (cold (m.cores.getD 1 CoreSt.reset))
    let s := s.setPair m.pair { m.arr with
      bank := m.bank, bankBusy := false, edge := m.edge
      frozen := some ⟨field m.hdr.toNat 159 96, m.held ++ s.mailSignals n m, m.captured, m.packets, true⟩ }
    let s : State := { s with hub := { s.hub with
      images := s.hub.images.filter (·.1 != n)
      saved := s.hub.saved.filter fun w => w.image != some n } }
    s.askRelease m.pair

/-- Cohorts and images restored together (R27, R396): the first refusal of an image discards them all; else the images are streamed and
the other saved workers of the cohorts take their seats. -/
def State.restoreTogether (s : State) (u : List Launch × List Nat) : State :=
  match (s.takePairs u.2).seatUnit u.1 with
  | none => s
  | some seats =>
    match u.2.findSome? fun n => (Map.find s.hub.images n).bind s.imageFault with
    | some c => s.discardImages u.2 c
    | none =>
      let saved := s.hub.saved
      let s := u.2.foldl State.streamImage s
      let s := u.1.foldl (fun (s : State) l => { s with hub := { s.hub with saved := s.hub.saved.filter (·.launch != l.id) } }) s
      seats.foldl (fun s q =>
        match q.2.saved.bind (saved[·]?) with
        | some w =>
          match w.lean with
          | some r => s.leanRestore q.2.x ((s.launch q.1.id).getD q.1) w r q.2.fit
          | none => s.startRerun q.2.x ((s.launch q.1.id).getD q.1) w q.2.fit
        | none => s) s

/-- WORKER_PLACE (R13, R216): the worker that the dispatcher places next, if it goes into this context. -/
def execWorkerPlace (x : CtxId) (s : State) : Host.Outcome State Fault Refusal :=
  .next (match s.dispatch (dieOf x.val) with
    | some (.fresh y i) =>
      match s.launch i with
      | some l => if y = x.val then s.placeFresh y l else s
      | none => s
    | some (.rerun y n) =>
      match s.hub.saved[n]? with
      | some w =>
        match s.launch w.launch with
        | some l =>
          if y ≠ x.val then s
          else if l.cohort then s.restoreTogether (s.unitOfLaunch l)
          else
            match s.fitOf l y with
            | some f => (s.dropSaved n).startRerun y l w f
            | none => s
        | none => s
      | none => s
    | _ => s)

/-- LEAN_RESTORE (R267): the saved worker that the dispatcher restores next, if it goes into this context. -/
def execLeanRestore (x : CtxId) (n : Nat) (s : State) : Host.Outcome State Fault Refusal :=
  .next (
    if s.dispatch (dieOf x.val) ≠ some (.lean x.val n) then s
    else
      match s.hub.saved[n]? with
      | none => s
      | some w =>
        match s.launch w.launch, w.lean with
        | some l, some r =>
          if l.cohort then s.restoreTogether (s.unitOfLaunch l)
          else
            match s.fitOf l x.val with
            | some f => (s.dropSaved n).leanRestore x.val l w r f
            | none => s
        | _, _ => s)

/-- RESTORE_IMAGE (R273, R274): the clock of a pair that waits for its release starts; or the image that the dispatcher restores
next is checked, with what is restored together with it, and discarded or streamed in. -/
def execRestoreImage (p : PairId) (n : Nat) (s : State) : Host.Outcome State Fault Refusal :=
  .next (
    if (s.pair p.val).frozen.isSome then s.thaw p.val
    else if s.dispatch (p.val / 20) ≠ some (.image p.val n) then s
    else
      match Map.find s.hub.images n with
      | none => s
      | some _ => s.restoreTogether (s.unitOfImage n))

end Sys2Proof.Machine
end

