-- ==== Sys2Proof/Machine/Sys.lean ====
section
/-! DEFINITION. The system registers and the view registers: SYSR, SYSW, VIEWSET, the TLB invalidations and the write of
TBA (R199, R251, R365 to R368, R377). -/

namespace Sys2Proof.Machine

/-- Whether only the supervisor may read a register (R366). -/
def sysReadSup (n : Nat) : Bool := (0x110 ≤ n && n ≤ 0x119) || (0x120 ≤ n && n ≤ 0x12F)

/-- Whether user code may write a register (R366). -/
def sysWriteUser (n : Nat) : Bool :=
  (0x001 ≤ n && n ≤ 0x006) || n == 0x009 || (0x010 ≤ n && n ≤ 0x017) || (0x020 ≤ n && n ≤ 0x03F) || n == 0x080 || n == 0x081

/-- Whether no SYSW writes a register (R366). -/
def sysReadOnly (n : Nat) : Bool := n == 0x000 || n == 0x007 || n == 0x008 || (0x112 ≤ n && n ≤ 0x114)

/-- The value of a system register (R365, R366); in supervisor mode the loop registers name the user's stack (R352). -/
def sysRead (s : State) (x n : Nat) : Word :=
  let c := s.ctx x
  if n = 0x000 then BitVec.ofNat 64 (s.ctxid x)
  else if n = 0x001 then c.ctxctl.setWidth 64
  else if n = 0x002 then c.fpflags.setWidth 64
  else if n = 0x003 then c.uivec
  else if n = 0x004 then c.xpat.setWidth 64
  else if n = 0x005 then c.mpitch.setWidth 64
  else if n = 0x006 then c.mseqr
  else if n = 0x007 then c.arrcfg.setWidth 64
  else if n = 0x008 then atomcap
  else if n = 0x009 then c.fxgrid.setWidth 64
  else if 0x010 ≤ n ∧ n ≤ 0x017 then c.scwb.toList.getD (n - 0x010) 0
  else if 0x020 ≤ n ∧ n ≤ 0x03F then c.lmap.toList.getD (n - 0x020) 0
  else if n = 0x040 then BitVec.ofNat 64 (c.loops.floor * 8 + c.loops.depth)
  else if 0x041 ≤ n ∧ n ≤ 0x044 then (c.loops.count.toList.getD (n - 0x041) 0).setWidth 64
  else if 0x045 ≤ n ∧ n ≤ 0x048 then c.loops.start.toList.getD (n - 0x045) 0
  else if 0x049 ≤ n ∧ n ≤ 0x04C then c.loops.fin.toList.getD (n - 0x049) 0
  else if n = 0x080 then c.lfto.setWidth 64
  else if n = 0x081 then c.chtab
  else if n = 0x100 then c.rsbase.setWidth 64
  else if n = 0x101 then c.rslim.setWidth 64
  else if n = 0x102 then c.spbase
  else if n = 0x103 then c.splim
  else if n = 0x104 then c.ptroot
  else if n = 0x110 then c.tvec
  else if n = 0x111 then c.tba
  else if n = 0x112 then c.tcba
  else if n = 0x113 then c.taddr
  else if n = 0x114 then c.tsw
  else if h : 0x120 ≤ n ∧ n ≤ 0x12F then
    let r : Fin 64 := ⟨n - 0x120 + 48, by omega⟩
    c.getS (c.userBank r) r
  else 0

/-- Whether a value meets a register's layout: its reserved fields are zero, and no field holds a value the layout refuses
(R368). R33 and R203 give the granules of RSBASE, RSLIM, SPBASE and SPLIM their ranges and no trap for a value beyond them: the model
takes it (log entry 78). Only sA[31:0] counts for a 32-bit register. -/
def sysLayout (n : Nat) (v : Word) : Bool :=
  let lo := v.toNat % 2 ^ 32
  if n = 0x001 then lo / 16 == 0
  else if n = 0x002 then lo / 32 == 0
  else if n = 0x003 then v.toNat % 2 == 0
  else if n = 0x004 then lo / 2 ^ 10 == 0
  else if n = 0x005 then lo / 2 ^ 8 == 0
  else if n = 0x006 then v.toNat / 2 ^ 36 == 0
  else if n = 0x009 then lo / 2 ^ 16 == 0 && -150 ≤ sextNat 16 lo && sextNat 16 lo ≤ 127
  else if 0x020 ≤ n ∧ n ≤ 0x03F then field v.toNat 63 60 == 0 && field v.toNat 30 18 == 0 && field v.toNat 52 49 ≤ 13
  else if n = 0x040 then lo / 64 == 0 && lo % 8 ≤ 4
  else if n = 0x080 then lo / 2 ^ 24 == 0
  else if n = 0x081 then v.toNat % 64 == 0
  else if n = 0x100 ∨ n = 0x101 then lo / 128 == 0
  else if n = 0x102 ∨ n = 0x103 then v.toNat / 1024 == 0
  else if n = 0x104 then v.toNat % 8192 == 0
  else if n = 0x110 then v.toNat % 64 == 0
  else true

/-- The dies in the scope of a TLBINV command (R199). -/
def invDies (x scope : Nat) : List Nat := if scope = 1 then [dieOf x] else [0, 1, 2, 3]

/-- Whether a TLB entry matches a command (R199). -/
def TlbEntry.matches (t : TlbEntry) (kind asid va : Nat) : Bool :=
  if kind = 0 then t.covers asid va
  else if kind = 1 then t.asid == asid
  else true

/-- Whether a command of a copy engine has an access translated up to a die cycle that is not yet performed (R199, R206): a request to
a peer under way, a source byte that waits for its copy, or bytes of a piece at hand or still to be written. A reduction's result is no
access yet (log entry 8). -/
def Cmd.midAccess (c : Cmd) (t : Nat) : Bool :=
  (c.phase == .running || c.phase == .queued) && (c.tag.isSome || c.out.isSome || !c.inbuf.isEmpty || !c.asking.isEmpty) && c.tr ≤ t

/-- Whether every access of the dies' contexts and of their copy engines that was translated up to a die cycle has been performed, and
every walk of theirs has ended (R199). -/
def State.accessesDone (s : State) (ds : List Nat) (t : Nat) : Bool :=
  (s.ctxs.all fun p => !ds.contains (dieOf p.1) ||
    p.2.mops.all fun m => t < m.born || match m.phase with
      | .waiting _ => false
      | .sent _ _ => false
      | _ => true) &&
  (s.cores.all fun k => !ds.contains (k.1 / 40) || (k.2.c0 ++ k.2.c1).all fun c => !c.midAccess t) &&
  ds.all fun d => (s.die d).walks.all fun w => t < w.born

/-- A TLB without the entries that match a command. -/
def keepTlb (kind asid va : Nat) (l : List TlbEntry) : List TlbEntry := l.filter fun t => !t.matches kind asid va

/-- The entries gone from every TLB in a command's scope; a package-scope command also reaches the hub's export TLB (R199). -/
def State.invalidate (s : State) (scope kind asid va : Nat) : State :=
  let ds := invDies s.cur scope
  { s with
    cores := s.cores.map fun p => (p.1, if ds.contains (p.1 / 40) then { p.2 with tlb := keepTlb kind asid va p.2.tlb } else p.2)
    clusters := s.clusters.map fun p =>
      (p.1, if ds.contains (p.1 / 10) then { p.2 with tlb := keepTlb kind asid va p.2.tlb } else p.2)
    dies := s.dies.map fun p =>
      (p.1, if ds.contains p.1 then { p.2 with tlb := keepTlb kind asid va p.2.tlb } else p.2)
    hub := if scope = 2 then { s.hub with xtlb := [] } else s.hub }

/-- The entries that the acting context's later slots still use when its TLBINV drops them (R200). -/
def Ctx.keepDropped (c : Ctx) (l : List TlbEntry) : Ctx := { c with iss := c.iss.map fun i => { i with inv := i.inv ++ l } }

/-- A TLBINV command of a kind (R199): its checks; it drops the entries, then waits at slot S until the accesses translated by then have
been performed and the walks in flight have ended. A walk reads its tables when it ends, so what it fills from then on is of the new
tables (log entries 8, 18). -/
def tlbinv (s : State) (v : Word) (kind : Nat) : Slotwise State := do
  let n := v.toNat
  need (n / 2 ^ 16 == 0 && (field n 3 2 == 1 || field n 3 2 == 2) && kind < 3) illegal
  let va := s.me.tlbiva.toNat
  need (kind != 0 || canonical va) (xlateFault 1 va false)
  let t := if s.me.inv.isSome then s
    else ((s.setMe { s.me.keepDropped (s.tlbs s.cur) with inv := some s.clock }).invalidate (field n 3 2) kind (field n 15 4) va)
  need (t.accessesDone (invDies s.cur (field n 3 2)) (t.me.inv.getD s.clock)) (.wait t)
  .ok (t.setMe { t.me with inv := none })

/-- TLBINV with KIND 0: the entry that maps TLBIVA (R199). -/
def execTlbinvEntry (sa : Fin 64) (s : State) : Host.Outcome State Fault Refusal :=
  slotDo s do
    need s.me.sup privilege
    let v ← rdS s sa
    tlbinv s v 0

/-- TLBINV with KIND 1: every entry of ASID (R199). -/
def execTlbinvAsid (sa : Fin 64) (s : State) : Host.Outcome State Fault Refusal :=
  slotDo s do
    need s.me.sup privilege
    let v ← rdS s sa
    tlbinv s v 1

/-- TLBINV with KIND 2: every entry (R199). -/
def execTlbinvAll (sa : Fin 64) (s : State) : Host.Outcome State Fault Refusal :=
  slotDo s do
    need s.me.sup privilege
    let v ← rdS s sa
    tlbinv s v 2

/-- The user's register that a UBANK register names (R367). -/
def ubankReg (n : Nat) : Option (Fin 64) := if h : 0x120 ≤ n ∧ n ≤ 0x12F then some ⟨n - 0x120 + 48, by omega⟩ else none

/-- Whether a UBANK register stands for a register that a load of the user is to write (R156, R367). -/
def Ctx.pendingBank (c : Ctx) (n : Nat) : Bool := (ubankReg n).any fun r => c.pendingS (c.userBank r) r

/-- A SYSW that has its value (R365 to R368): privilege, then the read-only registers, then the layout; the write lands at
the end of the issue cycle. -/
def sysWrite (s : State) (n : Nat) (v : Word) : Slotwise State := do
  need (s.me.sup || sysWriteUser n) privilege
  need (!sysReadOnly n) illegal
  if n = 0x119 then tlbinv s v (v.toNat % 4)
  else
    need (sysLayout n v) illegal
    need (!s.me.pendingBank n) pendHold
    .ok (s.latch (.sys n v) 1 0)

/-- The write of TBA (R251): it also sets RESUME and REP to 0 and discards the operand latch. -/
def execTbaWrite (sa : Fin 64) (s : State) : Host.Outcome State Fault Refusal :=
  slotDo s do
    let v ← rdS s sa
    sysWrite s 0x111 v

/-- SYSR (R365, R368). -/
def execSysr (sd : Fin 64) (n : Fin 4096) (s : State) : Host.Outcome State Fault Refusal :=
  slotDo s do
    need (s.me.sup || !sysReadSup n.val) privilege
    need (!s.me.pendingBank n.val) pendHold
    putS s sd (sysRead s s.cur n.val) 2 0

/-- SYSW (R365, R368). -/
def execSysw (sa : Fin 64) (n : Fin 4096) (s : State) : Host.Outcome State Fault Refusal :=
  slotDo s do
    let v ← rdS s sa
    sysWrite s n.val v

/-- VIEWSET (R377): the view takes effect at the end of the issue cycle. -/
def execViewset (vw sa : Fin 64) (s : State) : Host.Outcome State Fault Refusal :=
  slotDo s do
    let v ← rdS s sa
    let r := ViewReg.of v
    need (r.rsvd == 0) illegal
    need r.fieldsOk (viewFault 3)
    need (r.geometryOk (rdSys s 0x101).toNat) (viewFault 3)
    .ok (s.latch (.view vw v) 1 0)

end Sys2Proof.Machine
end

