-- ==== Sys2Proof/Machine/Debug.lean ====
section
/-! DEFINITION. The debugger (R279 to R284), trace samples (R285 to R289). The debug port's layout is log entry 45's. -/

namespace Sys2Proof.Machine

/-! ### Halting and stepping (R280) -/

/-- A context stopped for a cause (R280): it makes no token request any more (R228), and a stop record is written (R285). -/
def State.stopCtx (s : State) (x why : Nat) : State :=
  let s := s.dropToken x
  (s.setCtx x ((s.ctx x).stopped why)).traceOpen x 4 (s.ctx x).ba

/-- HALT written: 1 halts the context at its next boundary or slot, 0 resumes it. The debugger is then attached. -/
def State.dbgHalt (s : State) (x : Nat) (h : Bool) : State :=
  let c : Ctx := { s.ctx x with attached := true }
  if !s.exists? x then s
  else if !h then s.setCtx x { c with dbgctl := c.dbgctl &&& ~~~1, dstep := false }
  else if c.halted then s.setCtx x c
  else (s.setCtx x c).stopCtx x 1

/-- DBG_HALT (R280). -/
def execDbgHalt (x : CtxId) (h : Bool) (s : State) : Host.Outcome State Fault Refusal := .next (s.bar fun s => s.dbgHalt x.val h)

/-- STEP written (R280): a halted context issues one bundle and halts again. -/
def State.dbgStep (s : State) (x : Nat) : State :=
  let c := s.ctx x
  if c.halted then s.setCtx x { c with dstep := true, attached := true } else s

/-- DBG_STEP (R280). -/
def execDbgStep (x : CtxId) (s : State) : Host.Outcome State Fault Refusal := .next (s.bar fun s => s.dbgStep x.val)

/-! ### Writes and edits (R281, R282) -/

/-- The destination of a load whose value is to be discarded, or replaced by what a debugger wrote (R281, R282). -/
def MemOp.redirect (m : MemOp) (w : Write) : MemOp :=
  match m.kind with
  | .load _ => { m with kind := .load (.lit w) }
  | .atomic op ty b _ => { m with kind := .atomic op ty b (.lit w) }
  | _ => m

/-- The pending loads of a destination cancelled (R282). -/
def Ctx.cancelLoads (c : Ctx) (dest : MemOp → Bool) : Ctx :=
  if c.mops.any dest then
    { c with mops := c.mops.map fun m => if dest m then m.redirect .flags else m, dbgctl := c.dbgctl ||| 0x20 }
  else c

/-- A debugger's write to a register or a row of the partition of a halted context (R282): UBANK names the user's register (R367). A granule
in retention is woken for its row, and draws its token (R44, R227). -/
def State.dbgWrite (s : State) (x : Nat) (r : DbgDest) (v : BitVec 4096) : State :=
  let c := s.ctx x
  if !c.halted then s
  else
    let c := { c with attached := true }
    match r with
    | .sreg r =>
      let b := c.bankOf r
      s.setCtx x ((c.cancelLoads fun m => m.pendS == some (b, r)).setS b r (v.setWidth 64))
    | .pred p => s.setCtx x { c with p := c.p.set p.val (v.getLsbD 0) p.isLt }
    | .view w => s.setCtx x { c with vw := c.vw.set w.val (v.setWidth 64) w.isLt }
    | .sys n =>
      let c := match ubankReg n.val with
        | some r => c.cancelLoads fun m => m.pendS == some (c.userBank r, r)
        | none => c
      s.setCtx x (c.setSys n.val (v.setWidth 64))
    | .row r =>
      if 8 * c.rslim.toNat ≤ r.val then s
      else
        let a := 8 * c.rsbase.toNat + r.val
        let s := s.setCtx x (c.cancelLoads fun m => m.pendRow == some a)
        let k := s.core (coreOf x)
        if k.retained a then
          (s.setCore (coreOf x) { k with rows := Map.put k.rows a ((k.row a).write (BitVec.allOnes 512) v) }).wakeNext x (a / 8)
        else s.setCore (coreOf x) (k.putRow s.clock a (BitVec.allOnes 512) v)

/-- DBG_REGISTER_WRITE (R282). -/
def execDbgRegisterWrite (x : CtxId) (r : DbgDest) (v : BitVec 4096) (s : State) : Host.Outcome State Fault Refusal :=
  .next (s.bar fun s => s.dbgWrite x.val r v)

/-- A write with another VALUE (R281). -/
def Write.edit (w : Write) (v : BitVec 4096) : Write :=
  match w with
  | .sreg b r _ => .sreg b r (v.setWidth 64)
  | .pred p _ => .pred p (v.getLsbD 0)
  | .row r m _ => .row r m v
  | .view i _ => .view i (v.setWidth 64)
  | .sys n _ => .sys n (v.setWidth 64)
  | .lout n _ => .lout n (v.setWidth 64)
  | .mail _ => .mail (v.setWidth 64)
  | .scales n cs => .scales n cs
  | o => o

/-- The write of a pending load's destination, with a VALUE (R281). -/
def MemOp.pendWrite (m : MemOp) (v : BitVec 4096) : Option Write :=
  match m.pendS, m.pendRow, (List.finRange 16).find? m.toLout with
  | some (b, r), _, _ => some (.sreg b r (v.setWidth 64))
  | none, some r, _ => some (.row r (BitVec.allOnes 512) v)
  | none, none, some n => some (.lout n (v.setWidth 64))
  | none, none, none => none

/-- The write of a pending load's destination with the bits that will land: those that a debugger has put there, those of a load that has
been performed, zero while they have not come (R281, log entry 45). -/
def MemOp.shown (m : MemOp) : Option Write :=
  let held : Option Write := match m.kind, m.phase with
    | .load (.lit w), _ => some w
    | .atomic _ _ _ (.lit w), _ => some w
    | _, .done bs => (m.result bs).map Prod.fst
    | _, _ => none
  (m.pendWrite 0).map fun w => held.getD w

/-- An entry of latches edited. -/
def editLatch (ls : List Latch) (n : Nat) (v : BitVec 4096) : List Latch := ls.modify n fun l => { l with w := l.w.edit v }

/-- The n-th pending load edited. -/
def editLoad (v : BitVec 4096) : List MemOp → Nat → List MemOp
  | [], _ => []
  | m :: ms, n =>
    match m.pendWrite v with
    | some w => if n = 0 then m.redirect w :: ms else m :: editLoad v ms (n - 1)
    | none => m :: editLoad v ms n

/-- The n-th row that drains have read and not yet landed, edited. -/
def editDrain (v : BitVec 4096) : List Drain → Nat → List Drain
  | [], _ => []
  | d :: ds, n =>
    let k := d.read.length - d.landed
    if n < k then { d with read := d.read.set (d.landed + n) v } :: ds else d :: editDrain v ds (n - k)

/-- The VALUE of an entry edited (R281): the exposed results, those that a trap has parked, the pending loads, the rows of
drains, numbered one after another. -/
def State.dbgEdit (s : State) (x n : Nat) (v : BitVec 4096) : State :=
  let c := s.ctx x
  if !c.halted then s
  else
    let a := c.lat.length
    let b := a + c.parked.lat.length
    let d := b + (c.mops.filter fun m => (m.pendWrite 0).isSome).length
    s.setCtx x (
      if n < a then { c with lat := editLatch c.lat n v }
      else if n < b then { c with parked := { c.parked with lat := editLatch c.parked.lat (n - a) v } }
      else if n < d then { c with mops := editLoad v c.mops (n - b) }
      else { c with drains := editDrain v c.drains (n - d) })

/-- DBG_LATCH_EDIT (R281). -/
def execDbgLatchEdit (x : CtxId) (n : Nat) (v : BitVec 4096) (s : State) : Host.Outcome State Fault Refusal :=
  .next (s.bar fun s => s.dbgEdit x.val n v)

/-! ### The latch entries that the port lists (R281) -/

/-- A latch entry: KIND, the write whose place is DEST and whose bits are VALUE, LEFT. -/
structure LatchEntry where
  kind : Nat
  w : Write
  left : Nat
  deriving DecidableEq, Repr

/-- KIND of an exposed result: 2 for the write of a summary operation that occupies the core's unit, else 0. -/
def State.latchKind (s : State) (x : Nat) (l : Latch) : Nat :=
  match (s.core (coreOf x)).sumop with
  | some o => if o.ctx = x && o.ba == l.ba && l.slot == .V1 then 2 else 0
  | none => 0

/-- The rows that a drain has read and not yet landed, with the core cycles until they land (R127). -/
def Drain.inFlight (d : Drain) : List LatchEntry :=
  (List.range (d.read.length - d.landed)).map fun k =>
    let j := d.landed + k
    ⟨2, d.dst.write j (d.read.getD j 0), (j / 2 + 13) * d.len - d.age⟩

/-- The results in flight of a context, as the debug port lists them while it is halted (R281), numbered as `State.dbgEdit` numbers
them. -/
def State.entries (s : State) (x : Nat) : List LatchEntry :=
  let c := s.ctx x
  if !c.halted then []
  else (c.lat ++ c.parked.lat).map (fun l => ⟨s.latchKind x l, l.w, l.left⟩) ++
    (c.mops.filterMap MemOp.shown).map (fun w => ⟨1, w, 0⟩) ++ c.drains.flatMap Drain.inFlight

/-- DEST of a write as the port shows it (log entry 45): its kind and number; a row counts from the partition's start. -/
def Write.dest (w : Write) (base : Nat) : Nat :=
  match w with
  | .sreg b r _ => r.val + (match b with | .main => 0 | .shadow => 64 | .sup => 128)
  | .pred p _ => 2 ^ 32 + p.val
  | .row r _ _ => 2 * 2 ^ 32 + (r - 8 * base)
  | .view i _ => 3 * 2 ^ 32 + i.val
  | .sys n _ => 4 * 2 ^ 32 + n
  | .lout n _ => 5 * 2 ^ 32 + n.val
  | .mail _ => 6 * 2 ^ 32
  | _ => 7 * 2 ^ 32

/-- The byte mask of a write's DEST: of a row that it names. -/
def Write.destMask : Write → Nat
  | .row _ m _ => m.toNat
  | _ => 0

/-- VALUE of a write: the bits that will land. -/
def Write.value : Write → Nat
  | .sreg _ _ v => v.toNat
  | .pred _ v => ofBit v
  | .row _ _ v => v.toNat
  | .view _ v => v.toNat
  | .sys _ v => v.toNat
  | .lout _ v => v.toNat
  | .mail v => v.toNat
  | .spad cs => leNat (cs.map (·.2))
  | _ => 0

/-- What the port shows of the entry that its index register names (log entry 45): the index; how many there are; KIND, DEST, LEFT; the
byte mask and VALUE, 64 bits at a time. -/
def State.entryRead (s : State) (x o : Nat) : Nat :=
  let es := s.entries x
  let i := (s.ctx x).dbgix
  if o = 0 then i
  else if o = 8 then es.length
  else
    match es[i]? with
    | none => 0
    | some e =>
      if o = 16 then e.kind
      else if o = 24 then e.w.dest (s.ctx x).rsbase.toNat
      else if o = 32 then e.left
      else if 64 ≤ o ∧ o < 128 then e.w.destMask / 2 ^ (8 * (o - 64)) % 2 ^ 64
      else if 320 ≤ o ∧ o < 832 then e.w.value / 2 ^ (8 * (o - 320)) % 2 ^ 64
      else 0

/-- A write to the port's part for latch entries (log entry 45): the index, or 64 bits of the entry's VALUE. -/
def State.entryWrite (s : State) (a x o : Nat) (v : Word) : State :=
  let i := (s.ctx x).dbgix
  if o = 0 then s.setCtx x { s.ctx x with dbgix := v.toNat, attached := true }
  else if 320 ≤ o ∧ o < 832 ∧ o % 8 = 0 then
    match (s.entries x)[i]? with
    | some e => s.dbgEdit x i (BitVec.ofNat 4096 (setField e.w.value (8 * (o - 320) + 63) (8 * (o - 320)) v.toNat))
    | none => s.logged (.ignored a v)
  else s.logged (.ignored a v)

/-! ### The debug port (R279, R283, R398) -/

/-- A write of DBGCTL (R280): a reserved bit ignores it. -/
def State.dbgctlWrite (s : State) (a x : Nat) (v : BitVec 32) : State :=
  if v.toNat / 64 ≠ 0 then s.logged (.ignored a (v.setWidth 64))
  else
    let c := s.ctx x
    let s := if v.getLsbD 5 then s.setCtx x { c with dbgctl := c.dbgctl &&& ~~~0x20 } else s
    if v.getLsbD 1 && c.halted then s.dbgStep x else s.dbgHalt x (v.getLsbD 0)

/-- A write through the debug port: the registers of context x from 2,048·x on. -/
def State.debugPort (s : State) (a off : Nat) (v : Word) : State :=
  let x := off / 2048
  let o := off % 2048
  let c := s.ctx x
  if !s.exists? x then s.logged (.ignored a v)
  else if o = 0 then s.dbgctlWrite a x (v.setWidth 32)
  else if o = 8 then s.setCtx x { c with attached := v.getLsbD 0 }
  else if 64 ≤ o ∧ o < 128 ∧ o % 8 = 0 then s.setCtx x { c with bpaddr := c.bpaddr.setIfInBounds ((o - 64) / 8) v, attached := true }
  else if 128 ≤ o ∧ o < 192 ∧ o % 8 = 0 then
    if v.toNat % 2 ^ 32 / 2 ^ 10 ≠ 0 then s.logged (.ignored a v)
    else s.setCtx x { c with bpctl := c.bpctl.setIfInBounds ((o - 128) / 8) (v.setWidth 32), attached := true }
  else if 192 ≤ o then s.entryWrite a x (o - 192) v
  else s.logged (.ignored a v)

/-! ### Breakpoints (R283, R284) -/

/-- Whether a breakpoint matches before a slot of a bundle's issue; not again at the slot at which it has stopped that issue. -/
def Ctx.breaks (c : Ctx) (i : Iss) (sl : Slot) : Bool :=
  (List.range 8).any fun n =>
    let a := c.bpaddr.toList.getD n 0
    let w := (c.bpctl.toList.getD n 0).toNat
    let rep := field w 9 5
    i.passed != some sl && w % 2 == 1 && a.toNat % 2 == 0 && a.toNat == i.ba && field w 4 1 == sl.index && i.slots.any (·.1 == sl) &&
    (rep == 0 || (rep ≤ 16 && rep == i.rep))

/-! ### Trace samples (R285, R287) -/

/-- The code of a cause that keeps a context from issuing (R287). -/
def Stall.code : Stall → Nat
  | .kiln => 1
  | .halted => 2
  | .collision => 3
  | .bank => 4
  | .drain => 4
  | .fetch => 5
  | .memory => 6
  | .answer => 6
  | .order => 7
  | .queue => 8
  | .link => 9
  | .lout => 9
  | .flag => 10
  | .barrier => 11
  | .group => 11
  | .claim => 12
  | .fill => 12
  | .retention => 13
  | .token => 14
  | .summary => 15
  | .mailbox => 16
  | .waiti => 18
  | .landing => 20

/-- Whether a context's bundle has issued in this die cycle: it was presented, nothing held it, and no trap or breakpoint stopped it. -/
def Ctx.issued (c : Ctx) : Bool := c.pba.isSome && c.stall.isNone && !c.entering && c.iss.isNone

/-- The code of what kept a context from issuing (R287), the lowest of those that hold; 0 when it issued. -/
def State.stallCode (s : State) (x : Nat) : Nat :=
  let c := s.ctx x
  let held := if c.run == .running || c.stall == some .retention then c.stall.toList.map Stall.code else []
  let all := if c.issued then [] else held ++ ([((s.pair (pairOf x)).frozen.isSome, 1), (c.halted && !c.dstep, 2), (c.dropping, 17), (c.run == .retiring, 19),
    (c.entering, 20), (c.run == .saving, 21)].filter (·.1)).map (·.2)
  match all with
  | [] => 0
  | k :: ks => ks.foldl min k

/-- TRACE_SAMPLE (R285): when PERIOD cycles have passed, a record for each context of the die that holds a worker and for each
communication context. -/
def State.traceSample (s : State) (d : Nat) : State :=
  let t := s.die d
  let period := field t.trcctl.toNat 31 8
  if t.trcctl.toNat % 2 = 0 ∨ period = 0 ∨ t.trctick < period then s
  else
    let s := s.setDie d { t with trctick := 0 }
    s.ctxs.foldl (fun s p =>
      if dieOf p.1 = d && p.2.occ != .free then
        s.trace p.1 1 ((s.ctx p.1).pba.getD (s.ctx p.1).ba) ((s.ctx p.1).pres.toNat + s.stallCode p.1 * 2 ^ 9)
      else s) s

/-- TRACE_SAMPLE of a die. -/
def execTraceSample (d : Fin 4) (s : State) : Host.Outcome State Fault Refusal := .next (s.traceSample d.val)

end Sys2Proof.Machine
end

