-- ==== Sys2Proof/Machine/Platform.lean ====
section
/-! DEFINITION. The platform (R8, R9, R290 to R301, R398): boot, the registers of BAR0, peer windows, the communication kernel's
start, telemetry, power, soft errors, attestation. -/

namespace Sys2Proof.Machine

/-! ### Boot (R8, R9, R293) -/

/-- The logical clusters of a die from its fuses (R8): full ones, and whether a half one follows. -/
def logicalClusters (ps : List (Bool × Bool)) : Nat × Nat :=
  ((ps.filter fun p => p.1 && p.2).length, if ps.any fun p => p.1 != p.2 then 1 else 0)

/-- The bytes of a die's fuse map, whose digest is FUSEDIG (R271): a byte for each physical cluster, then one for each of its stacks. -/
def Fuse.bytes (f : Fuse) (d : Nat) : List Byte :=
  ((f.pairs.getD d []).map fun p => BitVec.ofNat 8 (ofBit p.1 + 2 * ofBit p.2)) ++ ((f.gib.drop (2 * d)).take 2).map (BitVec.ofNat 8)

/-- A communication context resident and idle (R9). -/
def State.appoint (s : State) : State :=
  ((List.range 320).filter fun x => s.exists? x && s.isComm x).foldl (fun s x => s.setCtx x { s.ctx x with occ := .comm }) s

/-- A DIDT value in effect (R227, R297): the bucket is filled when LIMIT leaves 0, and tokens beyond DEPTH are discarded. -/
def DieSt.setDidt (d : DieSt) (v : Word) : DieSt :=
  let e := { d with didt := v, didtNext := none }
  if d.unmetered && !e.unmetered then { e with tokens := e.depth, refill := 0 } else { e with tokens := Nat.min e.tokens e.depth }

/-- What DIDT holds after a write (R297): a DEPTH of 0 is taken as 1. -/
def didtOf (v : Word) : Word := if field v.toNat 23 16 = 0 then v + 0x10000 else v

/-- The board's DIDT, as the management controller writes it: a write whose reserved bits are not zero is ignored (R297). -/
def DieSt.bootDidt (d : DieSt) (v : Word) : DieSt := if v.toNat / 2 ^ 24 ≠ 0 then d else d.setDidt (didtOf v)

/-- The management controller's write of the board's DIDT to a die (R297, R398): one that is ignored is logged. -/
def State.bootDidt (s : State) (d : Nat) : State :=
  let v := s.hub.fuse.board
  let t := s.setDie d ((s.die d).bootDidt v)
  if v.toNat / 2 ^ 24 ≠ 0 then t.logged (.ignored (0x10100 + 8 * d) v) else t

/-- The boot chain (R293): the firmware is verified; it numbers units, appoints the masters and loads DIDT, or the part stays in
recovery. -/
def State.bootChain (s : State) : State :=
  if s.hub.boot ≠ .rom then s
  else
    let f := s.hub.fuse
    if !Config.firmwareVerifies f.firmware then { s with hub := { s.hub with boot := .recovery } }
    else
      let s : State := { s with hub := { s.hub with
        boot := .done, nclu := f.pairs.map logicalClusters, digest := (List.range 4).map fun d => Config.sha384 (f.bytes d)
        qtbase := f.qtbase, exproot := f.exproot, wbase := f.wbase } }
      (List.range 4).foldl State.bootDidt s.appoint

/-- BOOT (R293). -/
def execBoot (s : State) : Host.Outcome State Fault Refusal := .next s.bootChain

/-- A write that is ignored as a whole and logged (R398). -/
def State.ignore (s : State) (a : Nat) (v : Word) : State := s.logged (.ignored a v)

/-! ### Registers with steps of their own -/

/-- DIDT written (R297, R398): in effect at the next die cycle. -/
def State.didtWrite (s : State) (d : Nat) (v : Word) : State :=
  if v.toNat / 2 ^ 24 ≠ 0 then s.ignore (0x10100 + 8 * d) v
  else
    s.setDie d { s.die d with didtNext := some (didtOf v) }

/-- DIDT_WRITE (R297). -/
def execDidtWrite (d : Fin 4) (v : BitVec 64) (s : State) : Host.Outcome State Fault Refusal := .next (s.bar fun s => s.didtWrite d.val v)

/-- The die cycle in which a DIDT write takes effect (R297). -/
def State.didtTick (s : State) (d : Nat) : State :=
  match (s.die d).didtNext with
  | some v => s.setDie d ((s.die d).setDidt v)
  | none => s

/-- Whether a communication context runs its kernel (R295). -/
def Ctx.commRuns (c : Ctx) : Bool := c.occ == .comm && c.run != .idle && c.run != .fatal

/-- PKGID written (R296): only while no queue has EN and no communication context runs. -/
def State.pkgidWrite (s : State) (v : Word) : State :=
  if 3072 ≤ v.toNat || s.queues.any (fun q => field (s.qdesc q) 65 65 == 1) || s.ctxs.any (fun p => p.2.commRuns) then
    s.ignore 0x10050 v
  else { s with hub := { s.hub with pkgid := v.toNat } }

/-- PKGID_WRITE (R296). -/
def execPkgidWrite (v : BitVec 64) (s : State) : Host.Outcome State Fault Refusal := .next (s.bar fun s => s.pkgidWrite v)

/-- The state in which a communication context starts its kernel (R10, R16, R295). -/
def State.startComm (s : State) (x : Nat) (k : Code) (vw : Vector Word 64) : State :=
  let c := s.ctx x
  let core := ((s.core (coreOf x)).freshRows s.clock 56 8).clearSp 480 32
  let s := s.setCore (coreOf x) core
  let regs : List Word := [BitVec.ofNat 64 (s.ctxid x), 0, 0, 0, s.hub.commarg, BitVec.allOnes 64]
  s.setCtx x { c.fresh with
    s := Vector.ofFn fun r => regs.getD r.val 0
    vw := vw
    rsbase := 56, rslim := 8, spbase := 480, splim := 32, arrcfg := 0
    ptroot := s.hub.commpt
    tvec := s.hub.commtv
    code := k
    fetch := ⟨k.codeva + 2 * k.entry, none, 0⟩
    mops := c.mops
    occ := .comm
    placed := s.clock
    run := .running }

/-- COMMCTL written (R295): START checks the header under R46 and starts every communication context that is not running. -/
def State.commStart (s : State) (v : Word) : State :=
  if v.toNat / 4 ≠ 0 then s.ignore 0x10520 v
  else if v.toNat % 2 = 0 then s
  else
    match s.header s.hub.commpt s.hub.commkh.toNat with
    | some (k, arch, vw) =>
      if s.hub.fuse.arch < arch then s.logged .commHeader
      else
        ((List.range 320).filter fun x => s.exists? x && s.isComm x && !(s.ctx x).commRuns).foldl (fun s x => s.startComm x k vw) s
    | none => s.logged .commHeader

/-- COMMCTL_START (R295). -/
def execCommctlStart (v : BitVec 64) (s : State) : Host.Outcome State Fault Refusal := .next (s.bar fun s => s.commStart v)

/-- TRCCTL written (R286): EN from 0 to 1 sets WR to RD and LOST to 0. -/
def State.trcctlWrite (s : State) (d : Nat) (v : Word) : State :=
  let n := v.toNat
  let t := s.die d
  let old := t.trcctl.toNat
  if field n 63 56 ≠ 0 ∨ field n 7 1 ≠ 0 then s.ignore (0x10418 + 32 * d) v
  else
    let rise := old % 2 = 0 ∧ n % 2 = 1
    let lost := if rise then 0 else field old 55 32
    s.setDie d { t with
      trcctl := BitVec.ofNat 64 (setField n 55 32 lost)
      trcptr := if rise then BitVec.ofNat 64 (setField t.trcptr.toNat 63 32 (field t.trcptr.toNat 31 0)) else t.trcptr
      trctick := if rise then 0 else t.trctick }

/-- TRCCTL_WRITE (R286). -/
def execTrcctlWrite (d : Fin 4) (v : BitVec 64) (s : State) : Host.Outcome State Fault Refusal :=
  .next (s.bar fun s => s.trcctlWrite d.val v)

/-! ### The other registers of BAR0 (R291, R398) -/

/-- LNKCTL written (R232): a command to a link's end. -/
def State.lnkctlWrite (s : State) (l : Fin 16) (a : Nat) (v : Word) : State :=
  let run (o : Host.Outcome State Fault Refusal) : State := match o with | .next t => t | _ => s
  if v.toNat % 2 ^ 32 / 4 ≠ 0 then s.ignore a v
  else
    match v.toNat % 4 with
    | 1 => run (execLnkctlRetrain l s)
    | 2 => run (execLnkctlBringUp l s)
    | 3 => run (execLnkctlForceDown l s)
    | _ => s

/-- A trace register of a die other than TRCCTL (R286). -/
def State.trcWrite (s : State) (d o a : Nat) (v : Word) : State :=
  let n := v.toNat
  let t := s.die d
  if o = 0 then (if n % 64 ≠ 0 then s.ignore a v else s.setDie d { t with trcbase := v })
  else if o = 8 then
    if (List.range 13).any fun k => n == 2 ^ (k + 4) then s.setDie d { t with trclen := v } else s.ignore a v
  else s.setDie d { t with trcptr := BitVec.ofNat 64 (setField t.trcptr.toNat 31 0 (field n 31 0)) }

/-- A half of a reduction table entry written (R246). -/
def State.redWrite (s : State) (o : Nat) (v : Word) : State :=
  let i : Fin 1024 := Fin.ofNat 1024 (o / 16)
  let lo := if o % 16 = 0 then 0 else 64
  match execReductionTableWrite i (BitVec.ofNat 128 (setField (s.red i.val).bits.toNat (lo + 63) lo v.toNat)) s with
  | .next t => t
  | _ => s

/-- A write to an offset of BAR0 by the physical function's driver (R291, R398): an unnamed offset and a read-only register drop it,
and it is logged. -/
def State.registerWrite (s : State) (a : Nat) (v : Word) : State :=
  if a = 0x10000 then { s with hub := { s.hub with schedctl := v.setWidth 32 } }
  else if a = 0x10040 then { s with hub := { s.hub with lnkvec := BitVec.ofNat 64 (field v.toNat 10 0) } }
  else if a = 0x10050 then s.pkgidWrite v
  else if 0x10100 ≤ a ∧ a < 0x10120 ∧ a % 8 = 0 then s.didtWrite ((a - 0x10100) / 8) v
  else if a = 0x10200 then { s with hub := { s.hub with telbase := v } }
  else if a = 0x10208 then { s with hub := { s.hub with tellen := v } }
  else if 0x10400 ≤ a ∧ a < 0x10480 ∧ a % 8 = 0 then
    if a % 32 = 24 then s.trcctlWrite ((a - 0x10400) / 32) v else s.trcWrite ((a - 0x10400) / 32) (a % 32) a v
  else if a = 0x10500 then { s with hub := { s.hub with commkh := v } }
  else if a = 0x10508 then { s with hub := { s.hub with commpt := v } }
  else if a = 0x10510 then { s with hub := { s.hub with commtv := v } }
  else if a = 0x10518 then { s with hub := { s.hub with commarg := v } }
  else if a = 0x10520 then s.commStart v
  else if 0x11080 ≤ a ∧ a < 0x11100 ∧ a % 8 = 0 then s.lnkctlWrite (Fin.ofNat 16 ((a - 0x11080) / 8)) a v
  else if 0x20000 ≤ a ∧ a < 0x20000 + 4 * 3072 ∧ a % 4 = 0 then s.routeWrite ((a - 0x20000) / 4) (v.setWidth 32)
  else if 0x30000 ≤ a ∧ a < 0x34000 ∧ a % 8 = 0 then s.redWrite (a - 0x30000) v
  else if 0x100000 ≤ a then s.debugPort a (a - 0x100000) v
  else s.ignore a v

/-- REGISTER_WRITE (R398): the doorbell page's offsets are doorbells of the physical function (R212). -/
def execRegisterWrite (a : Nat) (v : BitVec 64) (s : State) : Host.Outcome State Fault Refusal :=
  if a < 0x2000 ∧ a % 8 = 0 then execDoorbell 0 (a / 8) (v.setWidth 32) s
  else .next (s.bar fun s => s.registerWrite a v)

/-! ### Reads of BAR0 (R291) -/

/-- DEVCFG (R301): the clusters of each die, the GiB of each stack, the links that are ACTIVE now. -/
def State.devcfg (s : State) : Nat :=
  let sum (l : List Nat) : Nat := l.foldl (· + ·) 0
  sum ((List.range 4).map fun d => ((s.clustersOf d).1 + (s.clustersOf d).2) % 16 * 2 ^ (4 * d)) +
  sum ((List.range 8).map fun k => s.hub.fuse.gib.getD k 0 % 256 * 2 ^ (16 + 8 * k)) +
  sum ((List.finRange 16).map fun l => ofBit ((s.link l).st == .active) * 2 ^ (80 + l.val))

/-- RUNNING of COMMCTL (R295): every communication context runs. -/
def State.commRunning (s : State) : Bool :=
  ((List.range 320).filter fun x => s.exists? x && s.isComm x).all fun x => (s.ctx x).commRuns

/-- A debug register of a context as the debug port reads it (R279, R280, R281, R283, log entry 45). -/
def State.debugRead (s : State) (off : Nat) : Nat :=
  let c := s.ctx (off / 2048)
  let o := off % 2048
  if !s.exists? (off / 2048) then 0
  else if o = 0 then c.dbgctl.toNat
  else if o = 8 then ofBit c.attached
  else if 64 ≤ o ∧ o < 128 ∧ o % 8 = 0 then (c.bpaddr.toList.getD ((o - 64) / 8) 0).toNat
  else if 128 ≤ o ∧ o < 192 ∧ o % 8 = 0 then (c.bpctl.toList.getD ((o - 128) / 8) 0).toNat
  else if 192 ≤ o then s.entryRead (off / 2048) (o - 192)
  else 0

/-- What the physical function's driver reads at an offset of BAR0 (R291): a read changes nothing, an unnamed offset and the doorbell
page read as zero; none stands for Unsupported Request in recovery (R293). -/
def State.registerRead (s : State) (a : Nat) : Option Word :=
  if s.hub.boot ≠ .done then none
  else some (
    if a = 0x10000 then s.hub.schedctl.setWidth 64
    else if a = 0x10040 then s.hub.lnkvec.setWidth 64
    else if a = 0x10050 then BitVec.ofNat 64 s.hub.pkgid
    else if 0x10100 ≤ a ∧ a < 0x10120 ∧ a % 8 = 0 then
      let d := s.die ((a - 0x10100) / 8)
      d.didtNext.getD d.didt
    else if a = 0x10200 then s.hub.telbase
    else if a = 0x10208 then s.hub.tellen
    else if a = 0x10300 then BitVec.ofNat 64 s.devcfg
    else if a = 0x10308 then BitVec.ofNat 64 (s.devcfg / 2 ^ 64)
    else if 0x10400 ≤ a ∧ a < 0x10480 ∧ a % 8 = 0 then
      let d := s.die ((a - 0x10400) / 32)
      [d.trcbase, d.trclen, d.trcptr, d.trcctl].getD (a % 32 / 8) 0
    else if a = 0x10500 then s.hub.commkh
    else if a = 0x10508 then s.hub.commpt
    else if a = 0x10510 then s.hub.commtv
    else if a = 0x10518 then s.hub.commarg
    else if a = 0x10520 then BitVec.ofNat 64 (2 * ofBit s.commRunning)
    else if 0x11000 ≤ a ∧ a < 0x11080 ∧ a % 8 = 0 then BitVec.ofNat 64 (s.link (Fin.ofNat 16 ((a - 0x11000) / 8))).stat
    else if 0x20000 ≤ a ∧ a < 0x20000 + 4 * 3072 ∧ a % 4 = 0 then (Map.get 0 s.hub.route ((a - 0x20000) / 4)).setWidth 64
    else if 0x30000 ≤ a ∧ a < 0x34000 ∧ a % 8 = 0 then
      BitVec.ofNat 64 ((s.red ((a - 0x30000) / 16)).bits.toNat / 2 ^ (8 * (a % 16)))
    else if 0x100000 ≤ a then BitVec.ofNat 64 (s.debugRead (a - 0x100000))
    else 0)

/-! ### Peer windows (R292) -/

/-- PEER_WRITE (R292): the bytes land at WBASE plus the offset at the memory-side cache; a write beyond local memory is dropped and
logged. -/
def State.peerWrite (s : State) (fn off : Nat) (bs : List Byte) : State :=
  let a := Map.get 0 s.hub.wbase fn + off
  if 16 ≤ fn || 2 ^ 36 < off + bs.length || !(List.range bs.length).all fun i => s.inStack (a + i) then s.logged (.peer fn off)
  else s.memWrite (cellsAt a bs)

/-- PEER_WRITE through a function's window. -/
def execPeerWrite (fn off : Nat) (bytes : List Byte) (s : State) : Host.Outcome State Fault Refusal :=
  .next (s.bar fun s => s.peerWrite fn off bytes)

/-- PEER_READ (R292): Unsupported Request, and nothing changes. -/
def execPeerRead (_fn _off : Nat) (s : State) : Host.Outcome State Fault Refusal :=
  .next { s with toHost := s.toHost ++ [.unsupported] }

/-! ### Attestation (R294) -/

/-- ATTESTATION_REQUEST (R294): the digests of what was loaded, FUSEDIG, the revision and the nonce, signed with the identity key. -/
def State.attest (s : State) (nonce : BitVec 256) : State :=
  let f := s.hub.fuse
  let stages := [Config.sha384 f.firmware]
  let msg := stages.flatMap (fun d => leBytes 48 d.toNat) ++ s.hub.digest.flatMap (fun d => leBytes 48 d.toNat) ++ leBytes 8 f.arch ++ leBytes 32 nonce.toNat
  { s with toHost := s.toHost ++ [.report stages s.hub.digest f.arch nonce (Config.identitySign (Config.sha384 msg))] }

/-- ATTESTATION_REQUEST with a nonce. -/
def execAttestationRequest (nonce : BitVec 256) (s : State) : Host.Outcome State Fault Refusal :=
  .next (s.bar fun s => s.attest nonce)

/-! ### Telemetry, power, soft errors (R298 to R300) -/

/-- TELEMETRY_RECORD (R299): a die's record for the interval that its sensors report, at the ring's next place. -/
def State.telemetry (s : State) (d : Nat) (v : Sensors) : State :=
  let t := s.die d
  let n := (List.range 4).foldl (fun n d => n + (s.die d).teln) 0
  let r := t.corr % 2 ^ 32 * 2 ^ 288 + t.bktw % 2 ^ 32 * 2 ^ 256 + s.hub.mhz * 2 ^ 224 + v.temp.toNat * 2 ^ 192 + v.amps.toNat * 2 ^ 160 +
    v.mw.toNat * 2 ^ 128 + v.usec.toNat * 2 ^ 64 + d
  let s := if s.hub.tellen = 0 then s
    else s.memWrite (cellsAt (s.hub.telbase.toNat + 64 * (n % s.hub.tellen.toNat)) (leBytes 64 r))
  s.setDie d { s.die d with teln := t.teln + 1, corr := 0, bktw := 0 }

/-- TELEMETRY_RECORD of a die. -/
def execTelemetryRecord (d : Fin 4) (v : Sensors) (s : State) : Host.Outcome State Fault Refusal := .next (s.telemetry d.val v)

/-- POWER_THROTTLE (R1, R298): above 2,800 W the clocks go down by a step of 100 MHz; below it they are restored. The spec gives no
lowest clock; the model's is 100 MHz (log entry 51). -/
def State.throttle (s : State) (watts : Nat) : State :=
  { s with hub := { s.hub with mhz := if 2800 < watts then Nat.max 100 (s.hub.mhz - 100) else if watts < 2800 then 2500 else s.hub.mhz } }

/-- POWER_THROTTLE at a power averaged over 1 ms. -/
def execPowerThrottle (watts : Nat) (s : State) : Host.Outcome State Fault Refusal := .next (s.throttle watts)

/-- UNCORRECTABLE_ERROR (R300): in a context's own state it is a fatal context error, in memory or a cache it poisons the line; a
corrected error is counted. -/
def State.softError (s : State) (e : ErrSite) : State :=
  match e with
  | .context x => if (s.ctx x.val).occ = .free then s else s.fatalCtx x.val
  | .line a => if s.poison.contains (a / 128) then s else { s with poison := s.poison ++ [a / 128] }
  | .corrected d => s.setDie d.val { s.die d.val with corr := (s.die d.val).corr + 1 }

/-- UNCORRECTABLE_ERROR at a site. -/
def execUncorrectableError (e : ErrSite) (s : State) : Host.Outcome State Fault Refusal := .next (s.softError e)

end Sys2Proof.Machine
end

