-- ==== Sys2Proof/Machine/Cycle.lean ====
section
/-! DEFINITION. The die cycle: a context's turn (R18 to R21, R60), the end of its core cycle (R23, R41), and the steps that the
units of the package take between one die cycle and the next, in the order of log entry 6. A turn is given the meaning of
the instructions. -/

namespace Sys2Proof.Machine

/-- The meaning of the instructions, as a turn is given it. -/
abbrev Exec := Instr → State → Host.Outcome State Fault Refusal

/-- The state that an outcome goes on with; the state before where there is none. -/
def goes (o : Host.Outcome State Fault Refusal) (s : State) : State :=
  match o with
  | .next t => t
  | _ => s

/-- A step taken for a context. -/
def State.doFor (s : State) (x : Nat) (f : State → Host.Outcome State Fault Refusal) : State :=
  let t : State := { s with cur := x }
  goes (f t) t

/-! ### The end of a core cycle -/

/-- The next core cycle of a pass: a beat is released at the start of each beat's cycles (R21, R123). -/
def Pass.tick (p : Pass) : Pass :=
  { p with released := if p.age % p.len = 0 ∧ p.released < p.beats then p.released + 1 else p.released, age := p.age + 1 }

/-- The next core cycle of a drain (R127). -/
def Drain.tick (acc : Map (Map (BitVec 4096))) (d : Drain) : Drain :=
  let e := d.sample (Map.get [] acc d.acc.val)
  { e with age := e.age + 1 }

/-- The matrix operations of a context one core cycle on; in supervisor mode they stand still (R250). -/
def State.arrayTick (s : State) (x : Nat) : State :=
  let c := s.ctx x
  if c.sup then s
  else
    let acc := (s.pair (pairOf x)).acc
    s.setCtx x { c with passes := c.passes.map Pass.tick, drains := c.drains.map (Drain.tick acc), busy := c.busy - 1 }

/-- The rows of a context's drains that land at the end of this core cycle, and the drains after it. -/
def drainRows (ds : List Drain) : List Latch × List Drain :=
  (ds.flatMap fun d => if d.due then d.entries else [],
    (ds.map fun d => if d.due then { d with landed := d.landed + 2 } else d).filter (·.landed < 128))

/-- The operation of a context in its core's summary unit one core cycle on; after its last beat the unit is free (R136). -/
def State.sumTick (s : State) (x : Nat) : State :=
  let k := s.core (coreOf x)
  match k.sumop with
  | some o =>
    if o.ctx ≠ x || (s.ctx x).sup then s
    else s.setCore (coreOf x) { k with sumop := if o.left ≤ 1 then none else some { o with left := o.left - 1 } }
  | none => s

/-- The counters of a context one core cycle on; the results due at the end of the cycle, and the context without them. -/
def State.dueNow (s : State) (x : Nat) : State × List Latch :=
  let s := (s.arrayTick x).sumTick x
  let c := s.ctx x
  let r := if c.sup then ([], c.drains) else drainRows c.drains
  let keep := (c.lat.filter (1 < ·.left)).map fun l => { l with left := l.left - 1 }
  (s.setCtx x { c with lat := keep, drains := r.2, adv := false, cc := c.cc + 1 }, c.lat.filter (·.left ≤ 1) ++ r.1)

/-- The wakes of granules asked for by a context (R44). -/
def State.wakesNext (s : State) (x : Nat) (gs : List Nat) : State := gs.foldl (fun s g => s.wakeNext x g) s

/-- A core cycle of a context over: what is due has landed, and every counter is one cycle on. -/
def State.passCycle (s : State) (x : Nat) : State :=
  let q := s.dueNow x
  let s := q.1.landAll x q.2
  if (s.ctx x).sup then s else s.passComplete x

/-- RESULT_WRITEBACK (R23, R41, R43, R87): the end of a core cycle of a context that has not been frozen. What is due lands, every
counter is one cycle on, and a trap or return that waits for the cycle's end is taken. A result that lands on a granule in
retention freezes the context until the granule is awake, and the cycle ends then (R43). After RFT the core cycle of a split
bundle that the supervisor has given up ends too (log entry 11). -/
def State.endCycle (s : State) (x : Nat) : State :=
  if !(s.ctx x).adv then s
  else
    match (s.core (coreOf x)).asleep (s.dueNow x).2 with
    | [] =>
      let s := s.setCtx x { s.ctx x with waking := false, stall := if (s.ctx x).waking then none else (s.ctx x).stall }
      let s := (s.passCycle x).endBundle x
      let c := s.ctx x
      if c.parked.spent && !c.sup then (s.setCtx x { c with parked := { c.parked with spent := false } }).passCycle x else s
    | gs => (s.setCtx x { s.ctx x with waking := true, stall := some .retention }).wakesNext x gs

/-- RESULT_WRITEBACK of the acting context. -/
def execResultWriteback (s : State) : Host.Outcome State Fault Refusal := .next (s.endCycle s.cur)

/-! ### A bundle's issue -/

/-- Whether a stall leaves the context's core cycles running: a hold that is no freeze (R21, R119, R136, R255; log entry 24). -/
def Stall.runs : Stall → Bool
  | .claim => true
  | .summary => true
  | .landing => true
  | .drain => true
  | _ => false

/-- The slots of a bundle up to the one that holds RFT: no later one issues with it. -/
def untilRft : Bundle → Bundle
  | [] => []
  | p :: ps => match p.2 with
    | .rft => [p]
    | _ => p :: untilRft ps

/-- The state with the cause of a hold taken away, to see what else holds a slot; none for a cause that cannot be told from the
others. A retention hold is lifted for the granules whose wake has been asked for. -/
def State.lift (s : State) (x : Nat) (c : Stall) : Option State :=
  let k := s.core (coreOf x)
  let m := s.ctx x
  match c with
  | .retention => some (s.setCore (coreOf x) { k with gret := k.gret.filter fun g => (Map.find k.gwake g).isNone })
  | .summary => some (s.setCore (coreOf x) { k with sumop := none })
  | .memory => if m.mops.isEmpty then none else some (s.setCtx x { m with mops := [] })
  | .queue => some (s.setCore (coreOf x) { k with c0 := [], c1 := [] })
  | .bank => some ((s.setCore (coreOf x) { k with cyc := 0 }).setCtx x { m with iss := m.iss.map fun i => { i with held := 0 } })
  | .drain => some ((s.setCore (coreOf x) { k with cyc := 0 }).setCtx x { m with iss := m.iss.map fun i => { i with held := 0 } })
  | _ => none

/-- What lifting has taken away put back; what has been asked of other units stays. -/
def State.unlift (s old : State) (x : Nat) : State :=
  let k := old.core (coreOf x)
  let m := old.ctx x
  (s.setCore (coreOf x) { s.core (coreOf x) with gret := k.gret, sumop := k.sumop, cyc := k.cyc, c0 := k.c0, c1 := k.c1 }).setCtx x
    { s.ctx x with mops := m.mops, iss := m.iss, stall := none }

/-- The causes that hold one slot, each found with the ones before it taken away (R287). -/
def State.slotHolds (ex : Exec) (x : Nat) (i : Instr) : Nat → State → State × List Stall
  | 0, s => (s, [])
  | f + 1, s =>
    let t := goes (ex i s) s
    match (t.ctx x).stall with
    | some .answer => (s, [])
    | some c =>
      let t := t.setCtx x { t.ctx x with stall := none }
      match t.lift x c with
      | none => (t, [c])
      | some u =>
        let q := u.slotHolds ex x i f
        (q.1.unlift t x, c :: q.2)
    | none => (s, [])

/-- The holds of a bundle's slots, each asked as the state stands at issue; what they need of other units is asked for. -/
def State.holds (ex : Exec) (x : Nat) : Bundle → State → State × List Stall
  | [], s => (s, [])
  | (sl, i) :: r, s =>
    let t := State.slotHolds ex x i 72 { s with cur := x, slot := sl }
    let q := State.holds ex x r t.1
    (q.1, t.2 ++ q.2)

/-- The cause a held bundle shows: of several the one of the lowest code (R287). -/
def stallOf : List Stall → Option Stall
  | [] => none
  | c :: cs => match stallOf cs with
    | some d => some (if d.code < c.code then d else c)
    | none => some c

/-- What a bundle's issue came to. -/
inductive Issued where
  | held | waits | done
  deriving DecidableEq, Repr

/-- The slots of a bundle executed in commit order (R60): to the end, to a trap, to a breakpoint (R284), to a slot that waits
for an answer (R208). -/
def State.runSlots (ex : Exec) (x : Nat) : Bundle → State → State × Issued
  | [], s => (s.finishBundle x, .done)
  | (sl, i) :: r, s =>
    let c := s.ctx x
    match c.iss with
    | none => (s, .done)
    | some iss =>
      let s : State := { s.setCtx x { c with iss := some { iss with todo := (sl, i) :: r } } with cur := x, slot := sl }
      if c.breaks iss sl then
        ((s.setCtx x { s.ctx x with iss := some { iss with todo := (sl, i) :: r, passed := some sl } }).stopCtx x 3, .waits)
      else if iss.ending = .rft then (s.slotTrap (TrapInfo.of 1 2), .done)
      else
        let t := goes (ex i s) s
        match (t.ctx x).stall with
        | some .answer => (t, .waits)
        | some _ => (t, .held)
        | none => if (t.ctx x).iss.isNone then (t, .done) else State.runSlots ex x r t

/-- A bundle that does not issue in this cycle, with every cause that holds it: a fresh one is presented anew in the next (R18,
R21). The context is frozen when one of the causes freezes it (R217). `waited` is how many cycles in a row it had waited on an
empty `lin` (R240). -/
def State.holdBundle (s : State) (x : Nat) (fresh : Bool) (waited : Nat) (cs : List Stall) : State :=
  let k := s.ctx x
  s.setCtx x { k with
    iss := if fresh then none else k.iss
    stall := stallOf cs
    adv := cs.all (·.runs)
    linwait := if cs.contains .link then waited + 1 else 0
    ncol := if cs.contains .collision then k.ncol + 1 else k.ncol }

/-- Whether a context waits at a slot for the answer to an atomic that it has sent (R208): frozen as for memory, its bundle is not
ready and collides with nothing (R18). -/
def Ctx.awaits (c : Ctx) : Bool :=
  match c.iss with
  | some i => match i.todo with
    | (sl, _) :: _ => match c.openAtomic sl with
      | some m => match m.phase with
        | .waiting _ => true
        | .sent _ _ => true
        | _ => false
      | none => false
    | [] => false
  | none => false

/-- The word at the fetch address presented. -/
def State.presentWord (s : State) (x : Nat) : State :=
  match s.fetchWord x with
  | .ok w => s.doFor x (if w = 0xFFFF then execLiteralIssue else if isRepeat w then execRepeatIssue else execDictIssue)
  | .error _ => s.doFor x execDictIssue

/-- Whether a context is frozen because a load lands on a granule in retention (R43). -/
def State.landsAsleep (s : State) (x : Nat) : Bool :=
  (s.ctx x).mops.any fun m => m.landing && match m.pendRow with
    | some r => (s.core (coreOf x)).retained r
    | none => false

/-- The state in which a context has its bundle open for this die cycle, if it presents one: a split bundle goes on, a fresh one is
fetched. -/
def State.opened (s : State) (x : Nat) : Option State :=
  let c := s.ctx x
  if c.run != .running || (s.pair (pairOf x)).frozen.isSome || (c.halted && !c.dstep) || c.waking || s.landsAsleep x then none
  else
    match c.iss with
    | some i => if c.awaits then none else some (s.setCtx x { c with iss := some { i with banks := 0, held := s.heldBanks (coreOf x) } })
    | none =>
      if c.dropping || c.watchdog || s.takesImprecise x || s.takesUser x then none
      else
        let t := s.presentWord x
        if (t.ctx x).iss.isSome then some t else none

/-- A number put into its place of an ascending list. -/
def insertNat (n : Nat) : List Nat → List Nat
  | [] => [n]
  | m :: ms => if n ≤ m then n :: m :: ms else m :: insertNat n ms

/-- The requests for tokens that a context makes in this die cycle: for its MMA, and for the granules that its bundle wakes (R228). -/
def State.foresee (ex : Exec) (s : State) (y : Nat) : State :=
  match s.opened y with
  | none => s
  | some t =>
    match (t.ctx y).iss with
    | none => s
    | some i =>
      let r := State.holds ex y (untilRft i.todo) t
      let new := (r.1.die (dieOf y)).reqs.filter fun q => !(s.die (dieOf y)).reqs.any (·.who == q.who)
      new.foldl (fun s q => match q.who with
        | .mma x => s.askTokens (dieOf x) 1 (.mma x) x
        | .wake k g => { ({ s with cur := y } : State).applyNeed (.wake k g) with cur := s.cur }
        | .pair _ => s) s

/-- The requests of a die cycle made in their order: by ascending core, context A before B, whichever moves first (R18, R19, R228). -/
def State.foreseeAll (ex : Exec) (s : State) : State :=
  (s.ring.foldr insertNat []).foldl (fun s x => if (s.die (dieOf x)).unmetered then s else s.foresee ex x) s

/-- The open bundle of a context presented (R18, R20, R21): it is held, or loses a collision, or issues. -/
def State.presentBundle (ex : Exec) (s : State) (x : Nat) (fresh : Bool) : State × Issued :=
  match (s.ctx x).iss with
  | none => (s, .done)
  | some iss =>
    let waited := (s.ctx x).linwait
    let s := s.setCtx x { s.ctx x with stall := none, pres := presMask iss.slots, pba := some iss.ba, linwait := 0 }
    let ask := untilRft iss.todo
    let r := State.holds ex x ask s
    let r := if (r.1.die (dieOf x)).reqs.any (!·.served) then State.holds ex x ask (r.1.serveAll (dieOf x)) else r
    if (s.ctx x).awaits then (s.setCtx x { s.ctx x with stall := some .answer }, .waits)
    else if !r.2.isEmpty then (r.1.holdBundle x fresh waited r.2, .held)
    else
      let s := r.1
      let k := s.core (coreOf x)
      if presMask iss.todo &&& k.mask != 0 then (s.holdBundle x fresh waited [.collision], .held)
      else
        let c := s.ctx x
        let t := s.setCtx x { c with snap := some (s.capture x), ncol := 0 }
        let q := t.runSlots ex x iss.todo
        match q.2 with
        | .held => (s.holdBundle x fresh waited [((q.1.ctx x).stall).getD .order], .held)
        | o =>
          let k := q.1.core (coreOf x)
          (q.1.setCore (coreOf x) { k with mask := k.mask ||| presMask iss.todo }, o)

/-! ### A context's turn -/

/-- What a running context does in its turn (R18, R34, R240, R258): it goes on with a split or waiting bundle, or takes a trap or an
interrupt at the bundle boundary, or presents its next bundle. -/
def State.runTurn (ex : Exec) (s : State) (x : Nat) : State × Issued :=
  let c := s.ctx x
  match c.iss with
  | some i =>
    if c.watchdog then (s.doFor x execLinWatchdog, .waits)
    else
      let i := { i with banks := 0, held := s.heldBanks (coreOf x) }
      (s.setCtx x { c with iss := some i }).presentBundle ex x false
  | none =>
    if c.dropping then (s, .held)
    else if c.watchdog then
      let t := s.doFor x execLinWatchdog
      (t, if (t.ctx x).linwait = 0 then .done else .held)
    else if s.takesImprecise x then (s.doFor x execImpreciseFaultTake, .waits)
    else if s.takesUser x then (s.doFor x execUserInterruptTake, .waits)
    else
      let t := s.presentWord x
      match (t.ctx x).iss with
      | some _ => t.presentBundle ex x true
      | none => (t, if (t.ctx x).stall.isSome then .held else .done)

/-- The turn of a context in a die cycle. A context that is retiring or at a save point issues nothing, and its core cycles go on
(R265, R341). A context on whose granule in retention a result lands is frozen until it is awake (R43). One that a debugger has
halted is frozen whole (R279); a stepped one halts again when its bundle is over (R280). -/
def State.turn (ex : Exec) (s : State) (x : Nat) : State :=
  let c := s.ctx x
  if (s.pair (pairOf x)).frozen.isSome || (c.halted && !c.dstep) then s
  else if c.waking then s.setCtx x { c with adv := true }
  else if s.landsAsleep x then s.setCtx x { c with stall := some .retention }
  else
    match c.run with
    | .retiring => s.setCtx x { c with adv := true, stall := none }
    | .saving => s.setCtx x { c with adv := true, stall := none }
    | .running =>
        let r := s.runTurn ex x
        if c.dstep && r.2 == .done && (r.1.ctx x).dstep then r.1.stopCtx x 2 else r.1
    | _ => s

/-! ### Between die cycles -/

/-- A step over the listed contexts, ascending: by core, A before B (R242). -/
def State.eachCtx (s : State) (f : State → Nat → State) : State :=
  (s.ctxs.foldr (fun p l => insertNat p.1 l) []).foldl f s

/-- A step over the listed cores. -/
def State.eachCore (s : State) (f : State → Nat → State) : State := s.cores.foldl (fun s p => f s p.1) s

/-- A step over the listed pairs. -/
def State.eachPair (s : State) (f : State → Nat → State) : State := s.pairs.foldl (fun s p => f s p.1) s

/-- A step over the four dies. -/
def State.eachDie (s : State) (f : State → Nat → State) : State := (List.range 4).foldl f s

/-- Steps over the entries of a list of the state, which may take the entry off it. -/
def overList (len : State → Nat) (f : State → Nat → State) : Nat → Nat → State → State
  | 0, _, s => s
  | k + 1, i, s =>
    let t := f s i
    if len t < len s then overList len f k i t else overList len f k (i + 1) t

/-- Steps over every entry of a list of the state. -/
def State.eachOf (s : State) (len : State → Nat) (f : State → Nat → State) : State := overList len f (len s) 0 s

/-- The first of some steps that takes an entry off a list of the state. -/
def State.firstOf (s : State) (len : State → Nat) (fs : List (State → Host.Outcome State Fault Refusal)) : State :=
  fs.foldl (fun t f => if len t < len s then t else goes (f t) t) s

/-- The matrix array in this die cycle (R118): the beats released, whether or not their contexts are frozen. -/
def State.arrays (s : State) : State :=
  s.eachCtx fun s x => if s.stopped (coreOf x) then s else s.arrayBeat x

/-- The counters of a context that run on while it is frozen (R217, R288). -/
def State.wallTick (s : State) (x : Nat) : State :=
  if s.stopped (coreOf x) then s
  else
    let c := s.ctx x
    let frozen := c.run == .running && (c.waking || (!c.adv && (c.stall.isSome || c.dropping || (c.halted && !c.dstep))))
    let l := c.stack
    let c := if frozen then c.setStack { l with stat := l.stat.map fun t => { t with froz := t.froz + 1 } } else c
    s.setCtx x c.graceTick

/-- One core-clock cycle of the fills of a pair's operand slots (R120). -/
def State.fillTick (s : State) (p : Nat) : State :=
  if (s.pair p).frozen.isSome then s
  else (s.pair p).oslot.foldl (fun s o =>
    match o.2.fill with
    | some f =>
      if f.left ≤ 1 then s.fillComplete p o.1
      else
        let q := s.pair p
        s.setPair p { q with oslot := Map.put q.oslot o.1 { o.2 with fill := some { f with left := f.left - 1 } } }
    | none => s) s

/-- What the granules of a core do in a core-clock cycle (R43, R44). -/
def State.granuleTick (s : State) (core : Nat) : State :=
  let s := s.wakeTick core
  let s := ((s.core core).gwake.map (·.1)).foldl (fun s g => s.wakeDone core g) s
  (List.range 64).foldl (fun s g => s.retain core g) s

/-- What the token bucket of a die does in a die cycle (R227, R228, R297, R299). -/
def State.bucketTick (s : State) (d : Nat) : State :=
  let s := s.didtTick d
  let b := s.die d
  let s := (s.setDie d { b with refill := b.refill + 1 }).refill d
  let s := s.serveAll d
  let b := s.die d
  if b.reqs.any (!·.served) then s.setDie d { b with bktw := b.bktw + 1 } else s

/-- The multicast stores of a die one cycle on (R163). -/
def State.mcastTick (s : State) (d : Nat) : State :=
  let b := s.die d
  if b.mcast.isEmpty then s else s.setDie d { b with mcast := b.mcast.map fun m => { m with left := m.left - 1 } }

/-- Multicast stores and CMCAST pieces of a die whose cycles are over land, those of higher cores first (R163, R325). -/
def State.mcastLands (s : State) (d : Nat) : State :=
  (s.die d).mcast.foldl (fun s _ =>
    (List.range (s.die d).mcast.length).foldl (fun t n =>
      if (t.die d).mcast.length < (s.die d).mcast.length then t else t.mcastLand d n) s) s

/-- An operation's data in flits: what its answer brings to the edge of a stopped pair. -/
def MemOp.answerFlits (m : MemOp) : Nat :=
  match m.kind with
  | .load _ => 1 + (m.locs.length + 63) / 64
  | .atomic .. => 2
  | _ => 1

/-- An operation of a stopped pair on its package's own memory that is performed while the edge holds (R269; log entry 49): its answer
is a captured inbound flit, and it lands after the thaw. -/
def State.holdAccess (s : State) (x n : Nat) : State :=
  match (s.ctx x).mops[n]? with
  | none => s
  | some m =>
    let away := m.locs.any fun l => match l with
      | .mem _ => false
      | .lit _ => false
      | _ => true
    if away || (s.poisonedBy m).isSome then s
    else
      let t := s.access x n
      if t.ctx x == s.ctx x then s
      else
        let q := t.pair (pairOf x)
        t.setPair (pairOf x) { q with edge := q.edge.take m.answerFlits }

/-- The memory operations of a context in flight: performed where they may be, landed where they have been (R156, R172). -/
def State.memTick (s : State) (x : Nat) : State :=
  if s.stopped (coreOf x) then (List.range (s.ctx x).mops.length).foldl (fun s n => s.holdAccess x n) s
  else
    let n := (s.ctx x).mops.length
    let s := (List.range n).foldl (fun s i => s.access x i) s
    s.eachOf (fun s => (s.ctx x).mops.length) fun s i =>
      let t := s.landLoad x i
      if (t.ctx x).mops.length < (s.ctx x).mops.length then t else s.endStore x i

/-- A step of both copy engines of a core. -/
def State.engines (s : State) (core : Nat) : State :=
  [false, true].foldl (fun s e => ((s.copyStart core e).copyGather core e).copyLand core e) s

/-- The messages about tile objects (R167 to R170). -/
def State.windowNet (s : State) : State :=
  s.eachOf (fun s => s.hub.wnet.length) fun s n => s.firstOf (fun s => s.hub.wnet.length)
    [execWindowRead n, execWindowReadForOwnership n, execWindowUpgrade n, execWindowForwardedRequest n, execWindowInvalidation n,
     execWindowAcknowledgement n, execWindowData n, execWindowNotBusy n, execWindowWriteback n, execWindowHomeAck n]

/-- The recalls of directories that are full (R167). -/
def State.recalls (s : State) : State :=
  ((List.finRange 12).filter fun d => d.val < 4 || 262144 ≤ s.hub.homes.length).foldl
    (fun s d => goes (execDirectoryRecall d s) s) s

/-- The messages on their way within the package (R25, R245, R317, R338). -/
def State.messages (s : State) : State :=
  s.eachOf (fun s => s.hub.msgs.length) fun s n => s.firstOf (fun s => s.hub.msgs.length)
    [execBarrierArrival (.listed n), execBarrierSignal (.listed n), execFlagIncrement n, execChannelArrival n, execChannelCredit n]

/-- The packets that have come to the hub (R233). -/
def State.packets (s : State) : State :=
  s.eachOf (fun s => s.hub.inq.length) fun s n =>
    let m := s.hub.msgs.length + n
    s.firstOf (fun s => s.hub.inq.length)
      [execRemoteRead n, execRemoteWrite n, execRemoteAtomic n, execReadData n, execAtomicAnswer n, execAcknowledgement n,
       execFlagIncrement m, execChannelArrival m, execChannelCredit m, execReduceContribution n, execReduceResult n,
       execLinkFifoWords n, execLinkFifoCredit n]

/-- The packets that leave the package or pass through it (R236), link by link the words of the communication contexts (R239), the
links' own steps (R237, R238), the route table (R235). -/
def State.fabric (s : State) : State :=
  let s := s.eachOf (fun s => s.hub.outq.length + s.hub.inq.length) fun s n => s.forward n
  let s := s.eachOf (fun s => s.hub.routeq.length) fun s n => s.routeApply n
  (List.finRange 16).foldl (fun s l =>
    let s := s.eachCtx fun s x => if s.isComm x then s.sendWords x l else s
    let s := goes (execLinkCrcThreshold l s) s
    let s := goes (execLinkReplayLimit l s) s
    s.settleDispute l) s

/-- What a dispatcher does next, done (R13, R216, R267, R274). -/
def State.dispatchOne (s : State) (d : Nat) : State :=
  match s.dispatch d with
  | some (.fresh x _) => goes (execWorkerPlace (Fin.ofNat 320 x) s) s
  | some (.rerun x _) => goes (execWorkerPlace (Fin.ofNat 320 x) s) s
  | some (.lean x n) => goes (execLeanRestore (Fin.ofNat 320 x) n s) s
  | some (.image p n) => goes (execRestoreImage (Fin.ofNat 80 p) n s) s
  | none => s

/-- The edges of a replay's nodes that have completed, cleaned; then the nodes that can start (R189, R224). -/
def State.graph (s : State) (i : Nat) : State :=
  match s.hub.replays.find? (·.id == i) with
  | none => s
  | some r =>
    let s := r.ended.foldl (fun s n =>
      (List.range ((s.edgesOf r.ptroot r.nodes n).getD []).length).foldl (fun s k => s.edgeComplete i (4096 * n + k)) s) s
    (List.range r.nnode).foldl (fun s n => s.nodeStart i n) s

/-- The front end, the dispatchers, pre-emption, the kiln and completions in a die cycle (R211 to R226, R264 to R277). -/
def State.schedule (s : State) : State :=
  let s := s.eachCtx State.retire
  let s := s.eachCtx State.leanSave
  let s := s.eachPair State.appendHeld
  let s := s.eachPair State.imageSeal
  let s := s.eachPair State.thaw
  let s := s.eachCtx State.graceExpiry
  let s := s.admitNext
  let s := (s.hub.replays.map (·.id)).foldl State.graph s
  let s := s.eachDie State.dispatchOne
  let s := s.waitTick
  let s := (s.hub.launches.map (·.id)).foldl State.preempt s
  let s := (s.hub.launches.map (·.id)).foldl State.launchComplete s
  let s := (s.hub.heldc.map (·.q)).foldl State.writeHeld s
  (s.hub.coal.map (·.q)).foldl State.coalesced s

/-- The trace unit of a die in a die cycle (R285). -/
def State.traceTick (s : State) (d : Nat) : State :=
  let t := s.die d
  (s.setDie d { t with trctick := t.trctick + 1 }).traceSample d

/-- The contexts that move in the next die cycle (R18, R19, R228): by core, and within a core by priority. -/
def State.lineUp (s : State) : State :=
  let cores := (List.range 160).filter fun k => s.ctxs.any fun p => coreOf p.1 == k && p.2.occ != .free
  let s : State := { s with ring := (cores.flatMap s.fixedOrder).filter fun x => (s.ctx x).occ != .free }
  cores.foldl State.prioritySwap s

/-- What is counted anew in every die cycle. -/
def State.nextCycle (s : State) : State :=
  { s with
    clock := s.clock + 1
    cores := s.cores.map fun p => (p.1, { p.2 with mask := 0, cyc := 0, gnew := [] })
    ctxs := s.ctxs.map fun p => (p.1, { p.2 with pres := 0, pba := none, entering := false, adv := false }) }

/-- The end of a die cycle, and the start of the next: every step that is enabled is taken in the order of log entry 6. -/
def State.tick (ex : Exec) (s : State) : State :=
  if s.hub.boot = .rom then s.bootChain
  else
    let s := s.eachDie State.traceTick
    let s := s.eachCtx State.wallTick
    let s := s.eachCtx State.endCycle
    let s := s.arrays
    let s := s.eachPair State.fillTick
    let s := s.eachCore State.granuleTick
    let s := s.eachCtx fun s x => if (s.ctx x).waking then s.endCycle x else s
    let s := s.eachCtx fun s x => if (s.ctx x).stall = some .fetch then s.fetchFill x else s
    let s := s.eachDie fun s d => (s.forgetWalkFaults d).eachOf (fun s => (s.die d).walks.length) fun s n => s.walkDone d n
    let s := s.eachCtx State.memTick
    let s := s.eachDie State.mcastTick
    let s := s.eachCore State.engines
    let s := s.eachDie State.mcastLands
    let s := s.eachCore fun s k => (s.copyComplete k false).copyComplete k true
    let s := s.windowNet
    let s := s.recalls
    let s := s.eachCtx State.settleDrops
    let s := s.messages
    let s := s.eachPair State.edgeSend
    let s := s.packets
    let s := s.fabric
    let s := s.schedule
    let s := (s.nextCycle.lineUp).foreseeAll ex
    s.eachDie State.bucketTick

/-- One step (log entry 6): the next step lined up, else the turn of the next context of this die cycle, else the end of the
cycle. -/
def stepWith (ex : Exec) (s : State) : Host.Outcome State Fault Refusal :=
  match s.todo with
  | (x, e) :: r => ex e { s with todo := r, cur := x }
  | [] =>
    match s.ring with
    | x :: r => .next (State.turn ex { s with ring := r } x)
    | [] => .next (s.tick ex)

end Sys2Proof.Machine
end

