-- ==== Sys2Proof/Machine/Float.lean ====
section
/-! DEFINITION. The scalar floating instructions and conversions (R334 to R336, R304). -/

namespace Sys2Proof.Machine

/-- A rounded scalar result of two or three operands (R334). -/
def fpReg (op : FpFmt → Rm → Val → Val → Val → Nat × Flags) (ty : Ty) (rm : Rm) (sd sa sb : Fin 64) (useD : Bool) (lat : Nat)
    (s : State) : Host.Outcome State Fault Refusal :=
  slotDo s do
    let a ← rdS s sa
    let b ← rdS s sb
    let d ← if useD then rdS s sd else .ok 0
    let f := ty.base
    let v := fun (w : Word) => f.fp.dec (f.low w)
    let r := op f.fp rm (v a) (v b) (v d)
    putS s sd (f.extend r.1) lat r.2

/-- FADD (R334). -/
def execFadd (ty : Ty) (rm : Rm) (sd sa sb : Fin 64) (s : State) : Host.Outcome State Fault Refusal :=
  fpReg (fun f rm a b _ => fpAdd f rm a b) ty rm sd sa sb false 4 s

/-- FMUL (R334). -/
def execFmul (ty : Ty) (rm : Rm) (sd sa sb : Fin 64) (s : State) : Host.Outcome State Fault Refusal :=
  fpReg (fun f rm a b _ => fpMul f rm a b) ty rm sd sa sb false 4 s

/-- FMA, with sD read at issue as the addend (R334). -/
def execFma (ty : Ty) (rm : Rm) (sd sa sb : Fin 64) (s : State) : Host.Outcome State Fault Refusal :=
  fpReg fpFma ty rm sd sa sb true 4 s

/-- FCMP (R335): the predicate lands with latency 2. -/
def execFcmp (ty : Ty) (c : Cond) (pd : Fin 16) (sa sb : Fin 64) (s : State) : Host.Outcome State Fault Refusal :=
  slotDo s do
    let a ← rdS s sa
    let b ← rdS s sb
    let f := ty.base
    let r := fpCond c (f.fp.dec (f.low a)) (f.fp.dec (f.low b))
    .ok (putP s pd r.1 2 r.2)

/-- The conversion of a scalar between two types (R336). -/
def fcvt (dst src : Fmt) (rm : Rm) (w : Word) : Nat × Flags :=
  let n := src.low w
  let v := src.scalarVal n
  if dst.isInt then
    if src.isInt then (wrap dst.opWidth (satInt dst (src.toInt n)), 0)
    else
      let r := toIntFmt dst rm v
      (wrap dst.opWidth r.1, r.2)
  else if dst.isTap then
    let r := encTap dst rm v
    (r.1, r.2 ||| sigFlags [v])
  else
    let r := dst.fp.rnd rm v
    (r.1, r.2 ||| sigFlags [v])

/-- FCVT (R336). -/
def execFcvt (dst src : Fmt) (rm : Rm) (sd sa : Fin 64) (s : State) : Host.Outcome State Fault Refusal :=
  slotDo s do
    let a ← rdS s sa
    let r := fcvt dst src rm a
    putS s sd (dst.extend r.1) 3 r.2

end Sys2Proof.Machine
end

