-- ==== Sys2Proof/Machine/Scalar.lean ====
section
/-! DEFINITION. The integer, bit-field, select, compare and move instructions of slot S (R303, R304, R312 to R313, R319,
R328, R329, R333, R355 to R357, R361). -/

namespace Sys2Proof.Machine

/-! ### Results on w bits (R313, R333, R356, R328, R357) -/

/-- ADD (R313). -/
def iAdd (f : Fmt) (a b : Nat) : Nat := (a + b) % 2 ^ f.opWidth

/-- SUB (R313). -/
def iSub (f : Fmt) (a b : Nat) : Nat := wrap f.opWidth ((a : Int) - b)

/-- MUL, the low bits (R313). -/
def iMul (f : Fmt) (a b : Nat) : Nat := a * b % 2 ^ f.opWidth

/-- MIN (R313). -/
def iMin (f : Fmt) (a b : Nat) : Nat := if f.toInt b < f.toInt a then b else a

/-- MAX (R313). -/
def iMax (f : Fmt) (a b : Nat) : Nat := if f.toInt a < f.toInt b then b else a

/-- AND (R313). -/
def iAnd (_ : Fmt) (a b : Nat) : Nat := a &&& b

/-- OR (R313). -/
def iOr (_ : Fmt) (a b : Nat) : Nat := a ||| b

/-- XOR (R313). -/
def iXor (_ : Fmt) (a b : Nat) : Nat := a ^^^ b

/-- SHL by b[7:0] (R313). -/
def iShl (f : Fmt) (a b : Nat) : Nat :=
  let n := b % 256
  if f.opWidth ≤ n then 0 else a * 2 ^ n % 2 ^ f.opWidth

/-- SHR by b[7:0] (R313). -/
def iShr (f : Fmt) (a b : Nat) : Nat :=
  let n := b % 256
  if f.opWidth ≤ n then 0 else a / 2 ^ n

/-- SHRA by b[7:0] (R313). -/
def iShra (f : Fmt) (a b : Nat) : Nat :=
  let n := b % 256
  wrap f.opWidth (sextNat f.opWidth a / (2 ^ (min n f.opWidth) : Nat))

/-- MULH (R356). -/
def iMulh (f : Fmt) (a b : Nat) : Nat := wrap f.opWidth (f.toInt a * f.toInt b / (2 ^ f.opWidth : Nat))

/-- DIV, rounded toward zero; a divisor of 0 gives ones (R333). -/
def iDiv (f : Fmt) (a b : Nat) : Nat :=
  if b = 0 then 2 ^ f.opWidth - 1 else wrap f.opWidth (Int.tdiv (f.toInt a) (f.toInt b))

/-- REM, with the sign of a; a divisor of 0 gives a (R333). -/
def iRem (f : Fmt) (a b : Nat) : Nat :=
  if b = 0 then a else wrap f.opWidth (Int.tmod (f.toInt a) (f.toInt b))

/-- Leading zeros of w bits (R328). -/
def iClz (f : Fmt) (a : Nat) : Nat := if a = 0 then f.opWidth else f.opWidth - 1 - Nat.log2 a

/-- Set bits of the lowest n bits (R357). -/
def popCount (a : Nat) : Nat → Nat
  | 0 => 0
  | n + 1 => popCount a n + a / 2 ^ n % 2

/-- The result of an operation on two operands, in its register form (R303). -/
def aluResult (op : Fmt → Nat → Nat → Nat) (f : Fmt) (a b : Word) : Word := f.extend (op f (f.low a) (f.low b))

/-- The register form of the integer mould (R312). -/
def aluReg (op : Fmt → Nat → Nat → Nat) (lat : Nat) (ty : Ty) (sd sa sb : Fin 64) (s : State) :
    Host.Outcome State Fault Refusal :=
  slotDo s do
    let a ← rdT s ty sa
    let b ← rdT s ty sb
    putT (popT s ty [sa, sb]) ty sd (aluResult op ty.base a b) lat 0

/-- The immediate form of the integer mould (R312). -/
def aluImm (op : Fmt → Nat → Nat → Nat) (lat : Nat) (ty : Ty) (sd sa : Fin 64) (imm : Imm9) (s : State) :
    Host.Outcome State Fault Refusal :=
  slotDo s do
    let a ← rdT s ty sa
    putT (popT s ty [sa]) ty sd (aluResult op ty.base a imm.value) lat 0

/-- A form with one source whose result is an unsigned count (R328, R357). -/
def aluCount (op : Fmt → Nat → Nat) (ty : Ty) (sd sa : Fin 64) (s : State) : Host.Outcome State Fault Refusal :=
  slotDo s do
    let a ← rdT s ty sa
    putT (popT s ty [sa]) ty sd (BitVec.ofNat 64 (op ty.base (ty.base.low a))) 1 0

/-- ADD, register form (R313, R304). -/
def execAdd (ty : Ty) (sd sa sb : Fin 64) (s : State) : Host.Outcome State Fault Refusal := aluReg iAdd 1 ty sd sa sb s

/-- ADD, immediate form (R313, R304). -/
def execAddImm (ty : Ty) (sd sa : Fin 64) (imm : Imm9) (s : State) : Host.Outcome State Fault Refusal :=
  aluImm iAdd 1 ty sd sa imm s

/-- SUB, register form (R313, R304). -/
def execSub (ty : Ty) (sd sa sb : Fin 64) (s : State) : Host.Outcome State Fault Refusal := aluReg iSub 1 ty sd sa sb s

/-- SUB, immediate form (R313, R304). -/
def execSubImm (ty : Ty) (sd sa : Fin 64) (imm : Imm9) (s : State) : Host.Outcome State Fault Refusal :=
  aluImm iSub 1 ty sd sa imm s

/-- MUL, register form (R313, R304). -/
def execMul (ty : Ty) (sd sa sb : Fin 64) (s : State) : Host.Outcome State Fault Refusal := aluReg iMul 3 ty sd sa sb s

/-- MUL, immediate form (R313, R304). -/
def execMulImm (ty : Ty) (sd sa : Fin 64) (imm : Imm9) (s : State) : Host.Outcome State Fault Refusal :=
  aluImm iMul 3 ty sd sa imm s

/-- MIN, register form (R313, R304). -/
def execMin (ty : Ty) (sd sa sb : Fin 64) (s : State) : Host.Outcome State Fault Refusal := aluReg iMin 1 ty sd sa sb s

/-- MIN, immediate form (R313, R304). -/
def execMinImm (ty : Ty) (sd sa : Fin 64) (imm : Imm9) (s : State) : Host.Outcome State Fault Refusal :=
  aluImm iMin 1 ty sd sa imm s

/-- MAX, register form (R313, R304). -/
def execMax (ty : Ty) (sd sa sb : Fin 64) (s : State) : Host.Outcome State Fault Refusal := aluReg iMax 1 ty sd sa sb s

/-- MAX, immediate form (R313, R304). -/
def execMaxImm (ty : Ty) (sd sa : Fin 64) (imm : Imm9) (s : State) : Host.Outcome State Fault Refusal :=
  aluImm iMax 1 ty sd sa imm s

/-- AND, register form (R313, R304). -/
def execAnd (ty : Ty) (sd sa sb : Fin 64) (s : State) : Host.Outcome State Fault Refusal := aluReg iAnd 1 ty sd sa sb s

/-- AND, immediate form (R313, R304). -/
def execAndImm (ty : Ty) (sd sa : Fin 64) (imm : Imm9) (s : State) : Host.Outcome State Fault Refusal :=
  aluImm iAnd 1 ty sd sa imm s

/-- OR, register form (R313, R304). -/
def execOr (ty : Ty) (sd sa sb : Fin 64) (s : State) : Host.Outcome State Fault Refusal := aluReg iOr 1 ty sd sa sb s

/-- OR, immediate form (R313, R304). -/
def execOrImm (ty : Ty) (sd sa : Fin 64) (imm : Imm9) (s : State) : Host.Outcome State Fault Refusal :=
  aluImm iOr 1 ty sd sa imm s

/-- XOR, register form (R313, R304). -/
def execXor (ty : Ty) (sd sa sb : Fin 64) (s : State) : Host.Outcome State Fault Refusal := aluReg iXor 1 ty sd sa sb s

/-- XOR, immediate form (R313, R304). -/
def execXorImm (ty : Ty) (sd sa : Fin 64) (imm : Imm9) (s : State) : Host.Outcome State Fault Refusal :=
  aluImm iXor 1 ty sd sa imm s

/-- SHL, register form (R313, R304). -/
def execShl (ty : Ty) (sd sa sb : Fin 64) (s : State) : Host.Outcome State Fault Refusal := aluReg iShl 1 ty sd sa sb s

/-- SHL, immediate form (R313, R304). -/
def execShlImm (ty : Ty) (sd sa : Fin 64) (imm : Imm9) (s : State) : Host.Outcome State Fault Refusal :=
  aluImm iShl 1 ty sd sa imm s

/-- SHR, register form (R313, R304). -/
def execShr (ty : Ty) (sd sa sb : Fin 64) (s : State) : Host.Outcome State Fault Refusal := aluReg iShr 1 ty sd sa sb s

/-- SHR, immediate form (R313, R304). -/
def execShrImm (ty : Ty) (sd sa : Fin 64) (imm : Imm9) (s : State) : Host.Outcome State Fault Refusal :=
  aluImm iShr 1 ty sd sa imm s

/-- SHRA, register form (R313, R304). -/
def execShra (ty : Ty) (sd sa sb : Fin 64) (s : State) : Host.Outcome State Fault Refusal := aluReg iShra 1 ty sd sa sb s

/-- SHRA, immediate form (R313, R304). -/
def execShraImm (ty : Ty) (sd sa : Fin 64) (imm : Imm9) (s : State) : Host.Outcome State Fault Refusal :=
  aluImm iShra 1 ty sd sa imm s

/-- MULH (R356, R340). -/
def execMulh (ty : Ty) (sd sa sb : Fin 64) (s : State) : Host.Outcome State Fault Refusal := aluReg iMulh 3 ty sd sa sb s

/-- DIV (R333, R304). -/
def execDiv (ty : Ty) (sd sa sb : Fin 64) (s : State) : Host.Outcome State Fault Refusal := aluReg iDiv 12 ty sd sa sb s

/-- REM (R333, R304). -/
def execRem (ty : Ty) (sd sa sb : Fin 64) (s : State) : Host.Outcome State Fault Refusal := aluReg iRem 12 ty sd sa sb s

/-- CLZ (R328). -/
def execClz (ty : Ty) (sd sa : Fin 64) (s : State) : Host.Outcome State Fault Refusal := aluCount iClz ty sd sa s

/-- POPC (R357). -/
def execPopc (ty : Ty) (sd sa : Fin 64) (s : State) : Host.Outcome State Fault Refusal :=
  aluCount (fun f a => popCount a f.opWidth) ty sd sa s

/-- CMP (R329): the predicate lands with latency 1. -/
def execCmp (ty : Ty) (c : Cond) (pd : Fin 16) (sa sb : Fin 64) (s : State) : Host.Outcome State Fault Refusal :=
  slotDo s do
    let a ← rdT s ty sa
    let b ← rdT s ty sb
    .ok (putP (popT s ty [sa, sb]) pd (intCond c (ty.base.toInt a.toNat) (ty.base.toInt b.toNat)) 1 0)

/-- SEL (R361). -/
def execSel (p : Fin 16) (sd sa sb : Fin 64) (s : State) : Host.Outcome State Fault Refusal :=
  slotDo s do
    let a ← rdS s sa
    let b ← rdS s sb
    putS s sd (if rdP s p then a else b) 1 0

/-- A bit field of a register: its bits from pos, of lenm1 + 1 bits (R319). -/
def bitField (v : Word) (pos lenm1 : Nat) : Nat := v.toNat / 2 ^ pos % 2 ^ (lenm1 + 1)

/-- BFX (R319). -/
def execBfx (sx : Bool) (sd sa pos lenm1 : Fin 64) (s : State) : Host.Outcome State Fault Refusal :=
  slotDo s do
    let a ← rdS s sa
    let v := bitField a pos.val lenm1.val
    putS s sd (if sx then BitVec.ofInt 64 (sextNat (lenm1.val + 1) v) else BitVec.ofNat 64 v) 1 0

/-- BFI (R319). -/
def execBfi (sd sa pos lenm1 : Fin 64) (s : State) : Host.Outcome State Fault Refusal :=
  slotDo s do
    let a ← rdS s sa
    let d ← rdS s sd
    let mask : Word := BitVec.ofNat 64 ((2 ^ (lenm1.val + 1) - 1) * 2 ^ pos.val)
    putS s sd ((d &&& ~~~mask) ||| ((a <<< pos.val) &&& mask)) 1 0

/-- MOVI (R355). -/
def execMovi (sd : Fin 64) (imm : Imm19) (s : State) : Host.Outcome State Fault Refusal := slotDo s (putS s sd imm.value 1 0)

/-- MOVHI (R355): the low half is kept as read at issue. -/
def execMovhi (sd : Fin 64) (w : BitVec 32) (s : State) : Host.Outcome State Fault Refusal :=
  slotDo s do
    let d ← rdS s sd
    putS s sd (w ++ (d.setWidth 32)) 1 0

end Sys2Proof.Machine
end

