-- ==== Sys2Proof/Machine/Special.lean ====
section
/-! DEFINITION. The special functions of R104 on FP32: the exact result is known to within 2^24 units of 256 fraction bits, and
rounded once. No operand's exact result lies so near a rounding boundary that this could round it wrongly (log entry 10). -/

namespace Sys2Proof.Machine

/-- Fraction bits of the fixed-point work. -/
def wkBits : Nat := 256

/-- One in fixed point. -/
def wkOne : Nat := 2 ^ wkBits

/-- The sum of z^(2k+1)/(2k+1) for k from i on, z and the running power in fixed point: atanh z (n terms). -/
def atanhTerms (z2 : Nat) : Nat → Nat → Nat → Nat
  | 0, _, _ => 0
  | n + 1, i, pw => pw / (2 * i + 1) + atanhTerms z2 n (i + 1) (pw * z2 / wkOne)

/-- atanh of a/b for a/b at most 1/3, in fixed point. -/
def atanhFix (a b : Nat) : Nat :=
  let z := a * wkOne / b
  atanhTerms (z * z / wkOne) 90 0 z

/-- ln 2 in fixed point: 2 atanh(1/3). -/
def ln2Fix : Nat := 2 * atanhFix 1 3

/-- The sum of t^k/k! for k from i on, t in fixed point below 1 (n terms). -/
def expTerms (t : Nat) : Nat → Nat → Nat → Nat
  | 0, _, _ => 0
  | n + 1, i, term => term + expTerms t n (i + 1) (term * t / wkOne / (i + 1))

/-- exp t for t below 1, in fixed point. -/
def expFix (t : Nat) : Nat := expTerms t 70 0 wkOne

/-- exp(−t) for t below 1, in fixed point. -/
def expNegFix (t : Nat) : Nat := wkOne * wkOne / expFix t

/-- The natural logarithm of a/b, for b ≤ a < 2b, in fixed point. -/
def lnFix (a b : Nat) : Nat := 2 * atanhFix (a - b) (a + b)

/-- floor(log2) of a positive rational. -/
def lgRat (a b : Nat) : Int :=
  let l : Int := (Nat.log2 a : Int) - Nat.log2 b
  if a * 2 ^ (-l).toNat < b * 2 ^ l.toNat then l - 1 else l

/-- A positive rational a/b · 2^e rounded to p bits on the grid 2^qmin, ties to even (R99): significand, grid, exact. -/
def roundRat (a b : Nat) (e : Int) (p : Nat) (qmin : Int) : Nat × Int × Bool :=
  let l := lgRat a b + e
  let q0 := l - p + 1
  let q := if q0 < qmin then qmin else q0
  let sh := e - q
  let n := a * 2 ^ sh.toNat
  let d := b * 2 ^ (-sh).toNat
  (roundUp .ne false (n / d) (n % d) d, q, n % d == 0)

/-- The bits and flags of a rounded result n · 2^q: overflow to infinity, UF below the smallest normal when inexact. -/
def spOut (neg : Bool) (n : Nat) (q : Int) (exact tiny : Bool) : Nat × Flags :=
  if n ≠ 0 ∧ fpF32.emax < (Nat.log2 n : Int) + q then (fpF32.inf neg, flOF ||| flNX)
  else (fpF32.encExact neg n q, Flags.when (!exact) flNX ||| Flags.when (!exact && tiny) flUF)

/-- An irrational result of which c, in units of 2^(k − wkBits), is the fixed-point value, rounded to 16 bits (log entry 10). -/
def spNear (neg : Bool) (c : Nat) (k : Int) : Nat × Flags :=
  let e := k - wkBits
  let r := roundG false c e 16 (-149) .ne
  spOut neg r.1 r.2.1 false ((Nat.log2 c : Int) + e < -126)

/-- The floor of the square root: the largest r of n bits whose square is at most v, built from r0. -/
def isqrtBits (v : Nat) : Nat → Nat → Nat
  | 0, r => r
  | n + 1, r => isqrtBits v n (if (r + 2 ^ n) * (r + 2 ^ n) ≤ v then r + 2 ^ n else r)

/-- A NaN input of a special function (R104). -/
def spNan (sig : Bool) : Nat × Flags := (fpF32.nan, Flags.when sig flNV)

/-- VRCP (R104). -/
def spRcp (w : Nat) : Nat × Flags :=
  match fpF32.dec w with
  | .nan s => spNan s
  | .inf n => (fpF32.bits n 0 0, 0)
  | .fin neg m e =>
    if m = 0 then (fpF32.inf neg, flDZ)
    else if 126 ≤ (Nat.log2 m : Int) + e then (fpF32.bits neg 0 0, flUF ||| flNX)
    else
      let r := roundRat 1 m (-e) 12 (-149)
      spOut neg r.1 r.2.1 r.2.2 false

/-- VRSQ (R104). -/
def spRsq (w : Nat) : Nat × Flags :=
  match fpF32.dec w with
  | .nan s => spNan s
  | .inf n => if n then (fpF32.nan, flNV) else (fpF32.bits false 0 0, 0)
  | .fin neg m e =>
    if m = 0 then (fpF32.inf neg, flDZ)
    else if neg then (fpF32.nan, flNV)
    else
      -- y = 1 / sqrt (m · 2^e); y² = 2^(−e) / m; n on the grid 2^q
      let l2 := lgRat 1 m - e
      let k := l2 / 2
      let q := k - 11
      -- y² · 4^(−q) = num / den
      let sh := -e - 2 * q
      let num := 2 ^ sh.toNat
      let den := m * 2 ^ (-sh).toNat
      let n := isqrtBits (num / den) 13 0
      let c := (2 * n + 1) * (2 * n + 1) * den
      let up := c < 4 * num || (c == 4 * num && n % 2 == 1)
      let r := if up then n + 1 else n
      spOut false r q (r * r * den == num) false

/-- VEXP2 (R104). -/
def spExp2 (w : Nat) : Nat × Flags :=
  match fpF32.dec w with
  | .nan s => spNan s
  | .inf n => if n then (fpF32.bits false 0 0, 0) else (fpF32.inf false, 0)
  | .fin neg m e =>
    if m = 0 then (fpF32.bits false (fpF32.expMax / 2) 0, 0)
    else if 8 ≤ (Nat.log2 m : Int) + e then
      if neg then (fpF32.bits false 0 0, flUF ||| flNX) else (fpF32.inf false, flOF ||| flNX)
    else
      let v := alignTo neg m e (if e < 0 then e else 0)
      let d : Int := (2 ^ (-e).toNat : Nat)
      let i := v / d
      let f := (v % d).toNat
      if f = 0 then
        let r := roundG false 1 i 16 (-149) .ne
        spOut false r.1 r.2.1 r.2.2 (i < -126)
      else spNear false (expFix (f * ln2Fix / d.toNat)) i

/-- VLOG2 (R104). The rule gives no sign to the zero that log2 1 is: the model's is + (log entry 73). -/
def spLog2 (w : Nat) : Nat × Flags :=
  match fpF32.dec w with
  | .nan s => spNan s
  | .inf n => if n then (fpF32.nan, flNV) else (fpF32.inf false, 0)
  | .fin neg m e =>
    if m = 0 then (fpF32.inf true, flDZ)
    else if neg then (fpF32.nan, flNV)
    else
      let k := Nat.log2 m
      let E : Int := (k : Int) + e
      if m = 2 ^ k then
        if E = 0 then (fpF32.bits false 0 0, 0)
        else
          let r := roundG false E.natAbs 0 16 (-149) .ne
          spOut (E < 0) r.1 r.2.1 r.2.2 false
      else
        let frac := lnFix m (2 ^ k) * wkOne / ln2Fix
        let t : Int := E * wkOne + frac
        spNear (t < 0) t.natAbs 0

/-- VTANH (R104). Below 2^−12 the result is rounded from a point just below |x|, from 2^5 on from a point just below 1:
no rounding boundary lies between that point and the exact result. The result lies below |x|, so it is below 2^−126 where |x| is at most
that. -/
def spTanh (w : Nat) : Nat × Flags :=
  match fpF32.dec w with
  | .nan s => spNan s
  | .inf n => (fpF32.bits n (fpF32.expMax / 2) 0, 0)
  | .fin neg m e =>
    if m = 0 then (fpF32.bits neg 0 0, 0)
    else
      let l : Int := (Nat.log2 m : Int) + e
      if l < -12 then
        let r := roundG false (m * 4096 - 1) (e - 12) 16 (-149) .ne
        spOut neg r.1 r.2.1 false (l < -126 || (l == -126 && m == 2 ^ Nat.log2 m))
      else if 5 ≤ l then (fpF32.bits neg (fpF32.expMax / 2) 0, flNX)
      else
        -- t = |x| / 64 in fixed point, u = exp(−2|x|) = exp(−t)^128
        let t := m * 2 ^ (e - 6 + wkBits).toNat
        let sq (v : Nat) : Nat := v * v / wkOne
        let u := sq (sq (sq (sq (sq (sq (sq (expNegFix t)))))))
        spNear neg ((wkOne - u) * wkOne / (wkOne + u)) 0

end Sys2Proof.Machine
end

