-- ==== Sys2Proof/Machine/Vector.lean ====
section
/-! DEFINITION. The vector instructions of slots V0 and V1 on rows (R105 to R109, R370 to R376, R378, R383, R384). -/

namespace Sys2Proof.Machine

/-! ### Latencies (R106) -/

/-- The latency of VADD, VSUB, VMIN, VMAX, VCMP and VCLAMP (R106). -/
def latAdd (f : Fmt) : Nat := if f.isFp then 4 else 2

/-! ### Elements (R372, R373) -/

/-- Integer and fx48 views (R372). -/
def intView (f : Fmt) : Bool := !f.isFp

/-- A rounding mode is nonzero only on floating views (R371). -/
def rmFloat (f : Fmt) (rm : Fin 4) : Bool := f.isFp || rm == 0

/-- The value of a floating element. -/
def fpElem (f : Fmt) (n : Nat) : Val := f.fp.dec n

/-- VADD (R372). -/
def elAdd (f : Fmt) (rm : Fin 4) (a b _ : Nat) : Nat × Flags :=
  if f.isFp then fpAdd f.fp (Rm.ofCode rm.val) (fpElem f a) (fpElem f b) else (elemOfInt f (f.toInt a + f.toInt b), 0)

/-- VSUB (R372). -/
def elSub (f : Fmt) (rm : Fin 4) (a b _ : Nat) : Nat × Flags :=
  if f.isFp then fpAdd f.fp (Rm.ofCode rm.val) (fpElem f a) (fpElem f b).negate else (elemOfInt f (f.toInt a - f.toInt b), 0)

/-- VMUL (R372). -/
def elMul (f : Fmt) (rm : Fin 4) (a b _ : Nat) : Nat × Flags :=
  if f.isFp then fpMul f.fp (Rm.ofCode rm.val) (fpElem f a) (fpElem f b) else (elemOfInt f (f.toInt a * f.toInt b), 0)

/-- VFMA (R372). -/
def elFma (f : Fmt) (rm : Fin 4) (a b d : Nat) : Nat × Flags :=
  if f.isFp then fpFma f.fp (Rm.ofCode rm.val) (fpElem f a) (fpElem f b) (fpElem f d)
  else (elemOfInt f (f.toInt a * f.toInt b + f.toInt d), 0)

/-- The larger or the smaller of two elements (R373). -/
def elPick (gt : Bool) (f : Fmt) (a b : Nat) : Nat × Flags :=
  if f.isFp then
    ((f.fp.rnd .ne (fpSelect gt (fpElem f a) (fpElem f b))).1, sigFlags [fpElem f a, fpElem f b])
  else
    let x := f.toInt a
    let y := f.toInt b
    (elemOfInt f (if gt then (if x < y then y else x) else (if y < x then y else x)), 0)

/-- VMAX (R373). -/
def elMax (f : Fmt) (_ : Fin 4) (a b _ : Nat) : Nat × Flags := elPick true f a b

/-- VMIN (R373). -/
def elMin (f : Fmt) (_ : Fin 4) (a b _ : Nat) : Nat × Flags := elPick false f a b

/-- VCLAMP: the VMAX rule, then the VMIN rule (R372, R373). -/
def elClamp (f : Fmt) (_ : Fin 4) (a b d : Nat) : Nat × Flags :=
  let lo := elPick true f d a
  let hi := elPick false f lo.1 b
  (hi.1, lo.2 ||| hi.2)

/-- VAND (R372). -/
def elAnd (f : Fmt) (_ : Fin 4) (a b _ : Nat) : Nat × Flags := (elemOfInt f (a &&& b : Nat), 0)

/-- VOR (R372). -/
def elOr (f : Fmt) (_ : Fin 4) (a b _ : Nat) : Nat × Flags := (elemOfInt f (a ||| b : Nat), 0)

/-- VXOR (R372). -/
def elXor (f : Fmt) (_ : Fin 4) (a b _ : Nat) : Nat × Flags := (elemOfInt f (a ^^^ b : Nat), 0)

/-- VSHL by b[7:0] (R372). -/
def elShl (f : Fmt) (_ : Fin 4) (a b _ : Nat) : Nat × Flags :=
  let n := b % 256
  (if f.opWidth ≤ n then 0 else elemOfInt f (a * 2 ^ n : Nat), 0)

/-- VSHR by b[7:0] (R372): zeros for n types, the sign for i types and fx48. -/
def elShr (f : Fmt) (_ : Fin 4) (a b _ : Nat) : Nat × Flags :=
  (elemOfInt f (f.toInt a / (2 ^ (min (b % 256) f.opWidth) : Nat)), 0)

/-- The condition that VCMP's RM names (R373). -/
def vcond (rm : Fin 4) : Cond := match rm with | 0 => .eq | 1 => .ne | 2 => .lt | 3 => .le

/-- VCMP: every bit of the element one where the condition holds (R372, R373). -/
def elCmp (f : Fmt) (rm : Fin 4) (a b _ : Nat) : Nat × Flags :=
  let r := if f.isFp then fpCond (vcond rm) (fpElem f a) (fpElem f b) else (intCond (vcond rm) (f.toInt a) (f.toInt b), 0)
  (if r.1 then 2 ^ f.viewWidth - 1 else 0, r.2)

/-- VNEG (R372, R373): a NaN gives the canonical NaN. -/
def elNeg (f : Fmt) (_ : Fin 4) (a _ _ : Nat) : Nat × Flags :=
  if f.isFp then ((f.fp.rnd .ne (fpElem f a).negate).1, sigFlags [fpElem f a]) else (elemOfInt f (-f.toInt a), 0)

/-- VABS (R372, R373). -/
def elAbs (f : Fmt) (_ : Fin 4) (a _ _ : Nat) : Nat × Flags :=
  if f.isFp then ((f.fp.rnd .ne (fpElem f a).abs).1, sigFlags [fpElem f a]) else (elemOfInt f (f.toInt a).natAbs, 0)

/-- VSEL: B where every bit of the mask is zero, else A; the bits move raw (R384). -/
def elSel (f : Fmt) (_ : Fin 4) (a b d : Nat) : Nat × Flags := (if d % 2 ^ min f.viewWidth (if f == .fx48 then 48 else 64) = 0 then b else a, 0)

/-! ### The mould (R370) -/

/-- Operand B: a unit of a view, a scalar broadcast, or none. -/
inductive OpB where
  | view (w : Fin 64)
  | scalar (r : Fin 64)
  | none
  deriving DecidableEq, Repr

/-- The rows read for operand B and its elements. -/
def OpB.read (b : OpB) (s : State) (ix : Nat) (d : Fmt) : Slotwise (List Nat × List Nat) :=
  match b with
  | .view w => (vecOperand s w ix d).map fun u => ([u.1], u.2)
  | .scalar r => (scalarOperand s r d).map fun l => ([], l)
  | .none => .ok ([], List.replicate d.perRow 0)

/-- The view that operand B names, with its index offset. -/
def OpB.names (b : OpB) (off : Nat) : List (Fin 64 × Nat × Nat) :=
  match b with
  | .view w => [(w, 0, off)]
  | _ => []

/-- An elementwise operation on three lists. -/
def zip3 (f : Nat → Nat → Nat → Nat × Flags) : List Nat → List Nat → List Nat → List (Nat × Flags)
  | a :: as, b :: bs, d :: ds => f a b d :: zip3 f as bs ds
  | _, _, _ => []

/-- An instruction of the vector mould (R370 to R373): which formats and RM it allows, whether it reads its destination,
its latency, its elements. -/
def vmould (ok : Fmt → Fin 4 → Bool) (useD : Bool) (lat : Fmt → Nat) (f : Fmt → Fin 4 → Nat → Nat → Nat → Nat × Flags)
    (vd va : Fin 64) (b : OpB) (row : Row8) (md : Option Modifier) (s : State) : Host.Outcome State Fault Refusal :=
  slotDo s (predicated s md do
    sumNames s (row8 s row) ([(vd, 0, doff md), (va, 0, aoff md)] ++ b.names (boff md))
    let i ← row8 s row
    let d ← viewUnit s vd 0 (i + doff md)
    need (ok d.1 (rmField md)) (viewFault 2)
    let a ← vecOperand s va (i + aoff md) d.1
    let bs ← b.read s (i + boff md) d.1
    let ds ← if useD then (rdRow s d.2).map (elems d.1) else .ok (List.replicate d.1.perRow 0)
    let r := zip3 (f d.1 (rmField md)) a.2 bs.2 ds
    putRowT s (a.1 :: bs.1) d.2 (rowOf d.1 (r.map (·.1))) (lat d.1) (Flags.all (r.map (·.2))))

/-- Every format, no rounding mode. -/
def anyFmt (_ : Fmt) (_ : Fin 4) : Bool := true

/-- The formats of VMUL and VFMA: all but fx48 (R372). -/
def mulFmt (f : Fmt) (rm : Fin 4) : Bool := f != .fx48 && rmFloat f rm

/-- The formats of the shifts: integers and fx48 (R372). -/
def shiftFmt (f : Fmt) (_ : Fin 4) : Bool := intView f

/-- VADD on views (R372). -/
def execVadd (vd va vb : Fin 64) (row : Row8) (md : Option Modifier) (s : State) : Host.Outcome State Fault Refusal :=
  vmould rmFloat false latAdd elAdd vd va (.view vb) row md s

/-- VADD with a broadcast scalar (R370, R372). -/
def execVaddS (vd va sb : Fin 64) (row : Row8) (md : Option Modifier) (s : State) : Host.Outcome State Fault Refusal :=
  vmould rmFloat false latAdd elAdd vd va (.scalar sb) row md s

/-- VSUB on views (R372). -/
def execVsub (vd va vb : Fin 64) (row : Row8) (md : Option Modifier) (s : State) : Host.Outcome State Fault Refusal :=
  vmould rmFloat false latAdd elSub vd va (.view vb) row md s

/-- VSUB with a broadcast scalar (R370, R372). -/
def execVsubS (vd va sb : Fin 64) (row : Row8) (md : Option Modifier) (s : State) : Host.Outcome State Fault Refusal :=
  vmould rmFloat false latAdd elSub vd va (.scalar sb) row md s

/-- VMUL on views (R372). -/
def execVmul (vd va vb : Fin 64) (row : Row8) (md : Option Modifier) (s : State) : Host.Outcome State Fault Refusal :=
  vmould mulFmt false (fun _ => 4) elMul vd va (.view vb) row md s

/-- VMUL with a broadcast scalar (R370, R372). -/
def execVmulS (vd va sb : Fin 64) (row : Row8) (md : Option Modifier) (s : State) : Host.Outcome State Fault Refusal :=
  vmould mulFmt false (fun _ => 4) elMul vd va (.scalar sb) row md s

/-- VMAX on views (R372). -/
def execVmax (vd va vb : Fin 64) (row : Row8) (md : Option Modifier) (s : State) : Host.Outcome State Fault Refusal :=
  vmould anyFmt false latAdd elMax vd va (.view vb) row md s

/-- VMAX with a broadcast scalar (R370, R372). -/
def execVmaxS (vd va sb : Fin 64) (row : Row8) (md : Option Modifier) (s : State) : Host.Outcome State Fault Refusal :=
  vmould anyFmt false latAdd elMax vd va (.scalar sb) row md s

/-- VMIN on views (R372). -/
def execVmin (vd va vb : Fin 64) (row : Row8) (md : Option Modifier) (s : State) : Host.Outcome State Fault Refusal :=
  vmould anyFmt false latAdd elMin vd va (.view vb) row md s

/-- VMIN with a broadcast scalar (R370, R372). -/
def execVminS (vd va sb : Fin 64) (row : Row8) (md : Option Modifier) (s : State) : Host.Outcome State Fault Refusal :=
  vmould anyFmt false latAdd elMin vd va (.scalar sb) row md s

/-- VAND on views (R372). -/
def execVand (vd va vb : Fin 64) (row : Row8) (md : Option Modifier) (s : State) : Host.Outcome State Fault Refusal :=
  vmould anyFmt false (fun _ => 2) elAnd vd va (.view vb) row md s

/-- VAND with a broadcast scalar (R370, R372). -/
def execVandS (vd va sb : Fin 64) (row : Row8) (md : Option Modifier) (s : State) : Host.Outcome State Fault Refusal :=
  vmould anyFmt false (fun _ => 2) elAnd vd va (.scalar sb) row md s

/-- VOR on views (R372). -/
def execVor (vd va vb : Fin 64) (row : Row8) (md : Option Modifier) (s : State) : Host.Outcome State Fault Refusal :=
  vmould anyFmt false (fun _ => 2) elOr vd va (.view vb) row md s

/-- VOR with a broadcast scalar (R370, R372). -/
def execVorS (vd va sb : Fin 64) (row : Row8) (md : Option Modifier) (s : State) : Host.Outcome State Fault Refusal :=
  vmould anyFmt false (fun _ => 2) elOr vd va (.scalar sb) row md s

/-- VXOR on views (R372). -/
def execVxor (vd va vb : Fin 64) (row : Row8) (md : Option Modifier) (s : State) : Host.Outcome State Fault Refusal :=
  vmould anyFmt false (fun _ => 2) elXor vd va (.view vb) row md s

/-- VXOR with a broadcast scalar (R370, R372). -/
def execVxorS (vd va sb : Fin 64) (row : Row8) (md : Option Modifier) (s : State) : Host.Outcome State Fault Refusal :=
  vmould anyFmt false (fun _ => 2) elXor vd va (.scalar sb) row md s

/-- VSHL on views (R372). -/
def execVshl (vd va vb : Fin 64) (row : Row8) (md : Option Modifier) (s : State) : Host.Outcome State Fault Refusal :=
  vmould shiftFmt false (fun _ => 2) elShl vd va (.view vb) row md s

/-- VSHL with a broadcast scalar (R370, R372). -/
def execVshlS (vd va sb : Fin 64) (row : Row8) (md : Option Modifier) (s : State) : Host.Outcome State Fault Refusal :=
  vmould shiftFmt false (fun _ => 2) elShl vd va (.scalar sb) row md s

/-- VSHR on views (R372). -/
def execVshr (vd va vb : Fin 64) (row : Row8) (md : Option Modifier) (s : State) : Host.Outcome State Fault Refusal :=
  vmould shiftFmt false (fun _ => 2) elShr vd va (.view vb) row md s

/-- VSHR with a broadcast scalar (R370, R372). -/
def execVshrS (vd va sb : Fin 64) (row : Row8) (md : Option Modifier) (s : State) : Host.Outcome State Fault Refusal :=
  vmould shiftFmt false (fun _ => 2) elShr vd va (.scalar sb) row md s

/-- VFMA on views (R372). -/
def execVfma (vd va vb : Fin 64) (row : Row8) (md : Option Modifier) (s : State) : Host.Outcome State Fault Refusal :=
  vmould mulFmt true (fun _ => 4) elFma vd va (.view vb) row md s

/-- VFMA with a broadcast scalar (R370, R372). -/
def execVfmaS (vd va sb : Fin 64) (row : Row8) (md : Option Modifier) (s : State) : Host.Outcome State Fault Refusal :=
  vmould mulFmt true (fun _ => 4) elFma vd va (.scalar sb) row md s

/-- VCMP on views (R372). -/
def execVcmp (vd va vb : Fin 64) (row : Row8) (md : Option Modifier) (s : State) : Host.Outcome State Fault Refusal :=
  vmould anyFmt false latAdd elCmp vd va (.view vb) row md s

/-- VCMP with a broadcast scalar (R370, R372). -/
def execVcmpS (vd va sb : Fin 64) (row : Row8) (md : Option Modifier) (s : State) : Host.Outcome State Fault Refusal :=
  vmould anyFmt false latAdd elCmp vd va (.scalar sb) row md s

/-- VCLAMP on views (R372). -/
def execVclamp (vd va vb : Fin 64) (row : Row8) (md : Option Modifier) (s : State) : Host.Outcome State Fault Refusal :=
  vmould anyFmt true latAdd elClamp vd va (.view vb) row md s

/-- VCLAMP with a broadcast scalar (R370, R372). -/
def execVclampS (vd va sb : Fin 64) (row : Row8) (md : Option Modifier) (s : State) : Host.Outcome State Fault Refusal :=
  vmould anyFmt true latAdd elClamp vd va (.scalar sb) row md s

/-- VNEG (R372). -/
def execVneg (vd va : Fin 64) (row : Row8) (md : Option Modifier) (s : State) : Host.Outcome State Fault Refusal :=
  vmould anyFmt false (fun _ => 2) elNeg vd va .none row md s

/-- VABS (R372). -/
def execVabs (vd va : Fin 64) (row : Row8) (md : Option Modifier) (s : State) : Host.Outcome State Fault Refusal :=
  vmould anyFmt false (fun _ => 2) elAbs vd va .none row md s

/-- VSEL (R384). -/
def execVsel (vd va vb : Fin 64) (row : Row8) (md : Option Modifier) (s : State) : Host.Outcome State Fault Refusal :=
  vmould anyFmt true (fun _ => 2) elSel vd va (.view vb) row md s

/-- VMOV: the 512 bytes of A's row, whatever its format (R370, R372). -/
def execVmov (vd va : Fin 64) (row : Row8) (md : Option Modifier) (s : State) : Host.Outcome State Fault Refusal :=
  slotDo s (predicated s md do
    sumNames s (row8 s row) [(vd, 0, doff md), (va, 0, aoff md)]
    let i ← row8 s row
    let d ← viewUnit s vd 0 (i + doff md)
    let a ← viewUnit s va 0 (i + aoff md)
    let b ← rdRow s a.2
    putRowT s [a.2] d.2 b 2 0)

/-- An element of VIOTA (R378). -/
def iotaElem (f : Fmt) (e : Nat) : Nat := if f.isFp then (f.fp.rnd .ne (.fin false e 0)).1 else elemOfInt f e

/-- VIOTA (R378). -/
def execViota (vd : Fin 64) (row : Row8) (md : Option Modifier) (s : State) : Host.Outcome State Fault Refusal :=
  slotDo s (predicated s md do
    let i ← row8 s row
    let d ← viewUnit s vd 0 (i + doff md)
    putRowT s [] d.2 (rowOf d.1 ((List.range d.1.perRow).map (iotaElem d.1))) 2 0)

/-! ### VCVT (R374, R375) -/

/-- The grid exponent in FXGRID (R374). -/
def gridExp (s : State) : Int := sextNat 16 (rdSys s 0x009).toNat

/-- The conversions and RM that VCVT allows (R375). -/
def cvtOk (src dst : Fmt) (rm : Fin 4) : Bool :=
  !((src == .fx48 && dst.isInt) || (src.isInt && dst == .fx48)) &&
  (rm == 0 || !(dst == .fx48 || (src.isInt && dst.isInt)))

/-- The conversion of an element between view formats (R375). -/
def elCvt (src dst : Fmt) (rm : Rm) (b : Int) (n : Nat) : Nat × Flags :=
  if dst == .fx48 then
    if src == .fx48 then (n, 0)
    else
      let r := toFx48 b (src.viewVal n)
      (elemOfInt dst r.1, r.2)
  else if dst.isFp then
    if src == .fx48 then dst.fp.rnd rm (fx48Val (src.toInt n) b)
    else
      let r := dst.fp.rnd rm (src.viewVal n)
      (r.1, r.2 ||| sigFlags [src.viewVal n])
  else if src.isInt then (elemOfInt dst (satInt dst (src.toInt n)), 0)
  else
    let r := toIntFmt dst rm (src.viewVal n)
    (elemOfInt dst r.1, r.2)

/-- The units of consecutive indices of a vector view. -/
def unitsFrom (s : State) (vw : Fin 64) (ix : Nat) : Nat → Slotwise (List (Fmt × Nat))
  | 0 => .ok []
  | n + 1 => do
    let u ← viewUnit s vw 0 ix
    let us ← unitsFrom s vw (ix + 1) n
    .ok (u :: us)

/-- The elements that a vector cluster holds in units, one after another (R375). -/
def clusterSeq (f : Fmt) (rows : List RowBits) (c : Nat) : List Nat :=
  let k := f.perRow / 8
  rows.flatMap fun b => ((elems f b).drop (k * c)).take k

/-- The units whose clusters hold given sequences (R375). -/
def fromClusters (f : Fmt) (units : Nat) (seqs : List (List Nat)) : List RowBits :=
  let k := f.perRow / 8
  (List.range units).map fun u => rowOf f (seqs.flatMap fun q => (q.drop (k * u)).take k)

/-- Whole rows that land together, the flags with the first (R375). -/
def putRows (s : State) (lat : Nat) (fl : Flags) : List (Nat × RowBits) → Slotwise State
  | [] => .ok s
  | (r, v) :: rest => do
    let t ← putRowT s [] r v lat fl
    putRows t lat 0 rest

/-- VCVT (R375): elements never leave their vector cluster. -/
def execVcvt (vd va : Fin 64) (row : Row8) (md : Option Modifier) (s : State) : Host.Outcome State Fault Refusal :=
  slotDo s (predicated s md do
    sumNames s (row8 s row) [(vd, 0, doff md), (va, 0, aoff md)]
    let i ← row8 s row
    let d ← viewUnit s vd 0 (i + doff md)
    let a ← viewUnit s va 0 (i + aoff md)
    need (cvtOk a.1 d.1 (rmField md)) (viewFault 2)
    let e := max a.1.perRow d.1.perRow
    sumNames s (.ok i) ((List.range (e / d.1.perRow)).map (fun k => (vd, 0, doff md + k)) ++
      (List.range (e / a.1.perRow)).map fun k => (va, 0, aoff md + k))
    let ds ← unitsFrom s vd (i + doff md) (e / d.1.perRow)
    let as ← unitsFrom s va (i + aoff md) (e / a.1.perRow)
    let rows ← rdRows s (as.map (·.2))
    let conv := (List.range 8).map fun c => (clusterSeq a.1 rows c).map (elCvt a.1 d.1 (rmOf md) (gridExp s))
    let out := fromClusters d.1 ds.length (conv.map fun q => q.map (·.1))
    putRows (s.touched (as.map (·.2))) 4 (Flags.all ((conv.flatten).map (·.2))) ((ds.map (·.2)).zip out))

/-! ### VRED (R108, R383) -/

/-- The elements of a cluster combined in ascending order (R108). -/
def redSeq (f : Nat → Nat → Nat × Flags) : Nat → List Nat → Nat × Flags
  | acc, [] => (acc, 0)
  | acc, x :: xs =>
    let r := f acc x
    let t := redSeq f r.1 xs
    (t.1, r.2 ||| t.2)

/-- A row reduced within each cluster: the result in the lowest element, zero elsewhere (R108). -/
def redRow (f : Fmt) (op : Nat → Nat → Nat × Flags) (es : List Nat) : List Nat × Flags :=
  let k := f.perRow / 8
  let rs := (List.range 8).map fun c =>
    match (es.drop (k * c)).take k with
    | [] => (0, 0)
    | x :: xs => redSeq op x xs
  (rs.flatMap fun r => r.1 :: List.replicate (k - 1) 0, Flags.all (rs.map (·.2)))

/-- A member of VRED (R383). -/
def vred (ok : Fmt → Fin 4 → Bool) (op : Fmt → Fin 4 → Nat → Nat → Nat × Flags) (vd va : Fin 64) (row : Row8)
    (md : Option Modifier) (s : State) : Host.Outcome State Fault Refusal :=
  slotDo s (predicated s md do
    sumNames s (row8 s row) [(vd, 0, doff md), (va, 0, aoff md)]
    let i ← row8 s row
    let d ← viewUnit s vd 0 (i + doff md)
    need (ok d.1 (rmField md)) (viewFault 2)
    let a ← vecOperand s va (i + aoff md) d.1
    let r := redRow d.1 (op d.1 (rmField md)) a.2
    putRowT s [a.1] d.2 (rowOf d.1 r.1) 6 r.2)

/-- VRED.add (R383). -/
def execVredAdd (vd va : Fin 64) (row : Row8) (md : Option Modifier) (s : State) : Host.Outcome State Fault Refusal :=
  vred rmFloat (fun f rm a b => elAdd f rm a b 0) vd va row md s

/-- VRED.max (R383). -/
def execVredMax (vd va : Fin 64) (row : Row8) (md : Option Modifier) (s : State) : Host.Outcome State Fault Refusal :=
  vred anyFmt (fun f _ a b => elPick true f a b) vd va row md s

/-- VRED.min (R383). -/
def execVredMin (vd va : Fin 64) (row : Row8) (md : Option Modifier) (s : State) : Host.Outcome State Fault Refusal :=
  vred anyFmt (fun f _ a b => elPick false f a b) vd va row md s

/-! ### Special functions (R104, R109, R376) -/

/-- A special function on f32 views (R376). -/
def special (f : Nat → Nat × Flags) (lat : Nat) (vd va : Fin 64) (row : Row8) (md : Option Modifier) (s : State) :
    Host.Outcome State Fault Refusal :=
  slotDo s (predicated s md do
    sumNames s (row8 s row) [(vd, 0, doff md), (va, 0, aoff md)]
    let i ← row8 s row
    let d ← viewUnit s vd 0 (i + doff md)
    need (d.1 == .f32) (viewFault 2)
    let a ← viewUnit s va 0 (i + aoff md)
    need (a.1 == .f32) (viewFault 2)
    let b ← rdRow s a.2
    let r := (elems .f32 b).map f
    putRowT s [a.2] d.2 (rowOf .f32 (r.map (·.1))) lat (Flags.all (r.map (·.2))))

/-- VRCP (R104, R376). -/
def execVrcp (vd va : Fin 64) (row : Row8) (md : Option Modifier) (s : State) : Host.Outcome State Fault Refusal :=
  special spRcp 6 vd va row md s

/-- VRSQ (R104, R376). -/
def execVrsq (vd va : Fin 64) (row : Row8) (md : Option Modifier) (s : State) : Host.Outcome State Fault Refusal :=
  special spRsq 6 vd va row md s

/-- VEXP2 (R104, R376). -/
def execVexp2 (vd va : Fin 64) (row : Row8) (md : Option Modifier) (s : State) : Host.Outcome State Fault Refusal :=
  special spExp2 8 vd va row md s

/-- VLOG2 (R104, R376). -/
def execVlog2 (vd va : Fin 64) (row : Row8) (md : Option Modifier) (s : State) : Host.Outcome State Fault Refusal :=
  special spLog2 8 vd va row md s

/-- VTANH (R104, R376). -/
def execVtanh (vd va : Fin 64) (row : Row8) (md : Option Modifier) (s : State) : Host.Outcome State Fault Refusal :=
  special spTanh 8 vd va row md s

end Sys2Proof.Machine
end

