-- ==== Sys2Proof/Machine/Summary.lean ====
section
/-! DEFINITION. Mergeable summaries (R129 to R143, R362, R363): objects, the arithmetic of the summary unit, the SK family. -/

namespace Sys2Proof.Machine

/-! ### Objects -/

/-- An object as the number of its 4,096 bytes (R129). -/
abbrev SumObj := Nat

/-- The object that eight rows hold. -/
def objOf (rows : List RowBits) : SumObj := joinN 4096 (rows.map (·.toNat))

/-- The eight rows of an object. -/
def objRows (o : SumObj) : List RowBits := (splitN 4096 8 o).map (BitVec.ofNat 4096)

/-- A value raised to at most the greatest of w bits. -/
def satN (w v : Nat) : Nat := min v (2 ^ w - 1)

/-- The kind that byte 0 gives (R129). -/
def kindOf (o : SumObj) : Option SumKind :=
  let b := o % 256
  if b = 0xA1 then some .quantile else if b = 0xA2 then some .heavy else if b ≤ 0x35 then some .distinct else none

/-- A list sorted by an order, elements that are equal in it keeping theirs. -/
def insertBy (le : α → α → Bool) (x : α) : List α → List α
  | [] => [x]
  | y :: ys => if le x y then x :: y :: ys else y :: insertBy le x ys

/-- A list sorted by an order, elements that are equal in it keeping theirs. -/
def sortBy (le : α → α → Bool) : List α → List α
  | [] => []
  | x :: xs => insertBy le x (sortBy le xs)

/-- The order of keys (R131): IEEE totalOrder, through tot_key. -/
def keyOf (k : Nat) : Nat := (totKey (BitVec.ofNat 32 k)).toNat

/-! ### Quantile summaries (R130 to R132) -/

/-- A quantile summary (R130), with the halvings made since its instruction issued. -/
structure Quant where
  max : Nat
  min : Nat
  nans : Nat
  count : Nat
  totw : Nat
  coin : Nat
  fill : List Nat
  exp : List Nat
  lev : List (List Nat)
  halvings : Nat
  deriving DecidableEq, Repr

/-- The fields of a quantile summary (R130). -/
def Quant.of (o : SumObj) : Quant where
  max := field o 447 416
  min := field o 415 384
  nans := field o 383 320
  count := field o 319 256
  totw := field o 255 192
  coin := field o 191 128
  fill := splitN 8 7 (o / 2 ^ 64)
  exp := splitN 8 7 (o / 2 ^ 8)
  lev := (List.range 7).map fun l => splitN 32 128 (o / 2 ^ (2048 + 4096 * l))
  halvings := 0

/-- The bytes of a quantile summary; reserved fields are zero (R130). -/
def Quant.obj (q : Quant) : SumObj :=
  0xA1 + joinN 8 q.exp * 2 ^ 8 + joinN 8 q.fill * 2 ^ 64 + q.coin % 2 ^ 64 * 2 ^ 128 + q.totw % 2 ^ 64 * 2 ^ 192 +
  q.count % 2 ^ 64 * 2 ^ 256 + q.nans % 2 ^ 64 * 2 ^ 320 + q.min % 2 ^ 32 * 2 ^ 384 + q.max % 2 ^ 32 * 2 ^ 416 +
  joinN 4096 (q.lev.map (joinN 32)) * 2 ^ 2048

/-- A quantile summary that is not malformed (R130). -/
def Quant.wellFormed (q : Quant) : Bool :=
  q.fill.all (· ≤ 128) && (q.exp.take 6 == [0, 1, 2, 3, 4, 5]) && 6 ≤ q.exp.getD 6 0 && q.exp.getD 6 0 ≤ 56

/-- The seed that stands for 0 (R132). -/
def zeroSeed : Nat := 0x2545F4914F6CDD1D

/-- A fresh quantile summary (R130, R132, R139). -/
def Quant.fresh (seed : Nat) : Quant :=
  ⟨0xFF800000, 0x7F800000, 0, 0, 0, if seed = 0 then zeroSeed else seed, List.replicate 7 0, List.range 7,
    List.replicate 7 (List.replicate 128 0), 0⟩

/-- The coin's next state (R132). -/
def xs64 (c : BitVec 64) : BitVec 64 :=
  let a := c ^^^ (c <<< 13)
  let b := a ^^^ (a >>> 7)
  b ^^^ (b <<< 17)

/-- Every other element of a list, from the first or from the second. -/
def everyOther : Bool → List α → List α
  | _, [] => []
  | false, x :: xs => x :: everyOther true xs
  | true, _ :: xs => everyOther false xs

/-- A halving (R132): the summary with its coin advanced, the keys kept. -/
def Quant.halve (q : Quant) (ks : List Nat) : Quant × List Nat :=
  let sorted := sortBy (fun a b => keyOf a ≤ keyOf b) ks
  let c := xs64 (BitVec.ofNat 64 q.coin)
  ({ q with coin := c.toNat, halvings := q.halvings + 1 }, everyOther (c.getLsbD 0) sorted)

/-- Keys padded with zeros to a level's 128. -/
def padLevel (ks : List Nat) : List Nat := ks ++ List.replicate (128 - ks.length) 0

/-- The FILL of a level. -/
def Quant.fillOf (q : Quant) (l : Nat) : Nat := q.fill.getD l 0

/-- The EXP of a level. -/
def Quant.expOf (q : Quant) (l : Nat) : Nat := q.exp.getD l 0

/-- The keys held in a level. -/
def Quant.held (q : Quant) (l : Nat) : List Nat := (q.lev.getD l []).take (q.fillOf l)

/-- A level's keys and FILL replaced. -/
def Quant.setLevel (q : Quant) (l : Nat) (ks : List Nat) : Quant :=
  { q with lev := q.lev.set l (padLevel ks), fill := q.fill.set l ks.length }

/-- A key appended to a level that has room. -/
def Quant.append (q : Quant) (l : Nat) (x : Nat) : Quant :=
  { q with lev := q.lev.set l ((q.lev.getD l []).set (q.fillOf l) x), fill := q.fill.set l (q.fillOf l + 1) }

/-- A compaction of level 6 − k, the pushes into the level above it given (R132). -/
def Quant.compactWith (up : Quant → Nat → Quant) (k : Nat) (q : Quant) : Quant :=
  let l := 6 - k
  let h := q.halve (q.lev.getD l [])
  if k = 0 then
    let t := h.1.setLevel 6 h.2
    { t with exp := t.exp.set 6 (Nat.min (t.expOf 6 + 1) 56) }
  else h.2.foldl up (h.1.setLevel l [])

/-- A push of a key into level 6 − k (R132). -/
def Quant.pushK : Nat → Quant → Nat → Quant
  | 0, q, x =>
    let q := if q.fillOf 6 = 128 then q.compactWith (fun q _ => q) 0 else q
    let q := q.append 6 x
    if q.fillOf 6 = 128 then q.compactWith (fun q _ => q) 0 else q
  | k + 1, q, x =>
    let l := 5 - k
    let q := if q.fillOf l = 128 then q.compactWith (Quant.pushK k) (k + 1) else q
    let q := q.append l x
    if q.fillOf l = 128 then q.compactWith (Quant.pushK k) (k + 1) else q

/-- A push of a key into a level (R132). -/
def Quant.push (q : Quant) (l x : Nat) : Quant := Quant.pushK (6 - l) q x

/-- The retained weight (R130, R132). -/
def Quant.weight (q : Quant) : Quant :=
  { q with totw := ((List.range 7).map fun l => q.fillOf l * 2 ^ q.expOf l).sum }

/-- Whether 32 bits are a NaN. -/
def isNan32 (k : Nat) : Bool := (fpF32.dec k).isNan

/-- One lane of SKQ (R132). -/
def Quant.lane (q : Quant) (x : Nat) : Quant :=
  if isNan32 x then { q with nans := satN 64 (q.nans + 1) }
  else
    Quant.push { q with
      count := satN 64 (q.count + 1)
      min := if keyOf x < keyOf q.min then x else q.min
      max := if keyOf q.max < keyOf x then x else q.max } 0 x

/-- SKQ's row (R132). -/
def Quant.row (q : Quant) (xs : List Nat) : Quant := (xs.foldl Quant.lane q).weight

/-- Level 6 of the into-summary raised to an exponent (R140), n halvings at most. -/
def Quant.raise (e : Nat) : Nat → Quant → Quant
  | 0, q => q
  | n + 1, q =>
    if q.expOf 6 < e then
      let h := q.halve (q.held 6)
      let t := h.1.setLevel 6 h.2
      Quant.raise e n { t with exp := t.exp.set 6 (t.expOf 6 + 1) }
    else q

/-- The source's top keys halved n times (R140). -/
def Quant.lower : Nat → Quant → List Nat → Quant × List Nat
  | 0, q, ks => (q, ks)
  | n + 1, q, ks =>
    let h := q.halve ks
    Quant.lower n h.1 h.2

/-- SKMERGE of quantile summaries: the source into d (R140). -/
def Quant.merge (d s : Quant) : Quant :=
  let d := { d with
    nans := satN 64 (d.nans + s.nans)
    count := satN 64 (d.count + s.count)
    min := if keyOf s.min < keyOf d.min then s.min else d.min
    max := if keyOf d.max < keyOf s.max then s.max else d.max }
  let d := d.raise (s.expOf 6) 50
  let top := d.lower (d.expOf 6 - s.expOf 6) (s.held 6)
  let d := (List.range 6).foldl (fun d l => (s.held l).foldl (fun d x => d.push l x) d) top.1
  (top.2.foldl (fun d x => d.push 6 x) d).weight

/-- The key at which the running weight reaches num/den of a weight (R141), if one does. -/
def rankKey (num den : Nat) : Nat → List (Nat × Nat) → Option Nat
  | _, [] => none
  | w, (k, g) :: ks => if num ≤ (w + g) * den then some k else rankKey num den (w + g) ks

/-- SKQRY (R141): the key, the flags, and whether it is a free value: the spec gives no result where the weights of the
retained keys do not reach q·TOTW. -/
def Quant.query (q : Quant) (w : Nat) : Option Nat × Flags :=
  match fpF32.dec w with
  | .nan _ => (some fpF32.nan, flNV)
  | v =>
    if q.totw = 0 then (some fpF32.nan, 0)
    else
      match v with
      | .fin false m e =>
        if m = 0 then (some q.min, 0)
        else
          let num := m * 2 ^ e.toNat
          let den := 2 ^ (-e).toNat
          if den ≤ num then (some q.max, 0)
          else
            let ks := (List.range 7).flatMap fun l => (q.held l).map fun k => (k, 2 ^ q.expOf l)
            (rankKey (num * q.totw) den 0 (sortBy (fun a b => keyOf a.1 ≤ keyOf b.1) ks), 0)
      | .inf false => (some q.max, 0)
      | _ => (some q.min, 0)

/-! ### Heavy-hitter lists (R133, R134) -/

/-- A slot of a heavy-hitter list (R133). -/
structure HSlot where
  key : Nat
  cnt : Nat
  err : Nat
  deriving DecidableEq, Repr

/-- The 128 bits of a slot (R133). -/
def HSlot.bits (h : HSlot) : Nat := h.key % 2 ^ 32 + h.cnt % 2 ^ 48 * 2 ^ 32 + h.err % 2 ^ 48 * 2 ^ 80

/-- A heavy-hitter list (R133). -/
structure Heavy where
  total : Nat
  slots : List HSlot
  deriving DecidableEq, Repr

/-- The fields of a heavy-hitter list (R133). -/
def Heavy.of (o : SumObj) : Heavy :=
  ⟨field o 127 64, (splitN 128 252 (o / 2 ^ 512)).map fun s => ⟨field s 31 0, field s 79 32, field s 127 80⟩⟩

/-- The bytes of a heavy-hitter list (R133). -/
def Heavy.obj (h : Heavy) : SumObj := 0xA2 + h.total % 2 ^ 64 * 2 ^ 64 + joinN 128 (h.slots.map HSlot.bits) * 2 ^ 512

/-- The empty slot (R133). -/
def HSlot.empty : HSlot := ⟨0, 0, 0⟩

/-- A key counted in the lowest slot that holds it (R134). -/
def bumpKey (k c : Nat) : List HSlot → List HSlot
  | [] => []
  | h :: hs => if h.cnt != 0 && h.key == k then { h with cnt := satN 48 (h.cnt + c) } :: hs else h :: bumpKey k c hs

/-- Whether a nonempty slot holds a key. -/
def hasKey (hs : List HSlot) (k : Nat) : Bool := hs.any fun h => h.cnt != 0 && h.key == k

/-- The least count of a list of slots. -/
def leastCnt : List HSlot → Nat
  | [] => 2 ^ 48
  | h :: hs => min h.cnt (leastCnt hs)

/-- The lowest slot of a count replaced. -/
def replaceCnt (m : Nat) (n : HSlot) : List HSlot → List HSlot
  | [] => []
  | h :: hs => if h.cnt = m then n :: hs else h :: replaceCnt m n hs

/-- A key that no slot held takes the lowest slot of the least count (R134). -/
def placeKey (hs : List HSlot) (k c : Nat) : List HSlot :=
  let m := leastCnt hs
  replaceCnt m ⟨k, satN 48 (m + c), m⟩ hs

/-- SKH's row: the list after it, and the number of keys left unmatched (R134). -/
def Heavy.row (h : Heavy) (ks : List Nat) : Heavy × Nat :=
  let keys := ks.eraseDups.map fun k => (k, ks.count k)
  let old := h.slots
  let hit := (keys.filter fun k => hasKey old k.1).foldl (fun hs k => bumpKey k.1 k.2 hs) old
  let miss := keys.filter fun k => !hasKey old k.1
  (⟨satN 64 (h.total + 128), miss.foldl (fun hs k => placeKey hs k.1 k.2) hit⟩, miss.length)

/-- The order of hmerge: CNT descending, then KEY ascending (R140). -/
def HSlot.before (a b : HSlot) : Bool := b.cnt < a.cnt || (a.cnt == b.cnt && a.key ≤ b.key)

/-- The nonempty slots in the order of hmerge (R140, R143). Of two slots of equal CNT and KEY, which only software can write, the lower one
comes first: the spec does not order them (log entry 74). -/
def sortSlots (hs : List HSlot) : List HSlot := sortBy HSlot.before (hs.filter (·.cnt != 0))

/-- SKMERGE of heavy-hitter lists: the source into d (R140). -/
def Heavy.merge (d s : Heavy) : Heavy :=
  let all := (d.slots ++ s.slots).filter (·.cnt != 0)
  let u := (all.map (·.key)).eraseDups.map fun k =>
    let own := all.filter (·.key == k)
    (⟨k, satN 48 (own.map (·.cnt)).sum, satN 48 (own.map (·.err)).sum⟩ : HSlot)
  let top := (sortSlots u).take 252
  ⟨satN 64 (d.total + s.total), top ++ List.replicate (252 - top.length) HSlot.empty⟩

/-- SKTOP's eight rows (R143). -/
def Heavy.top (h : Heavy) : List RowBits :=
  let hs := sortSlots h.slots
  (splitN 4096 8 (joinN 128 (hs.map HSlot.bits))).map (BitVec.ofNat 4096)

/-! ### Distinct-count arrays (R135) -/

/-- dc_hash (R135). -/
def dcHash (x : BitVec 64) : BitVec 64 :=
  let h := x * 0x9E3779B97F4A7C15
  let h := h ^^^ (h >>> 29)
  let h := h * 0xBF58476D1CE4E5B9
  h ^^^ (h >>> 32)

/-- The rank of a hash (R135). -/
def dcRank (h : Nat) : Nat := if h % 2 ^ 52 = 0 then 53 else 52 - Nat.log2 (h % 2 ^ 52)

/-- SKD's row (R135). -/
def dcRow (d : List Nat) (ks : List (BitVec 64)) : List Nat :=
  ks.foldl (fun d k =>
    let h := (dcHash k).toNat
    let j := h / 2 ^ 52
    d.set j (max (d.getD j 0) (dcRank h))) d

/-- The registers of an array. -/
def dcOf (o : SumObj) : List Nat := splitN 8 4096 o

/-- The bytes of an array. -/
def dcObj (d : List Nat) : SumObj := joinN 8 d

/-- Registers merged (R140). -/
def dcMerge : List Nat → List Nat → List Nat
  | a :: as, b :: bs => max a b :: dcMerge as bs
  | _, _ => []

/-- The natural logarithm of 4,096/v for v from 1 to 4,095, in fixed point: to within 2^29 units (log entry 10). -/
def lnRatio (v : Nat) : Nat :=
  let n := Nat.log2 v
  if v = 2 ^ n then (12 - n) * ln2Fix else (11 - n) * ln2Fix + lnFix (2 ^ (n + 1)) v

/-- SKEST (R142): E, with NX where it is inexact. -/
def dcEstimate (d : List Nat) : Nat × Flags :=
  let z := (d.map fun r => 2 ^ (53 - min r 53)).sum
  let v := d.count 0
  -- α·m²/Z with α = 7213·4096000 / (10000·4097079) and Z = z / 2^53
  let num := 7213 * 4096000 * 2 ^ 24 * 2 ^ 53
  let den := 10000 * 4097079 * z
  if num ≤ 10240 * den ∧ 0 < v then
    if v = 4096 then (0, 0)
    else
      let r := roundG false (lnRatio v) (12 - wkBits) 24 (-149) .ne
      (fpF32.encExact false r.1 r.2.1, flNX)
  else
    let r := roundRat num den 0 24 (-149)
    (fpF32.encExact false r.1 r.2.1, Flags.when (!r.2.2) flNX)

/-! ### The summary unit (R136 to R138) -/

/-- The view fault of the summary cause (R138). -/
def sumFault : Stop := viewFault 4

/-- A check of a view made at an SK instruction raises the summary cause (R138). -/
def asSum (m : Slotwise α) : Slotwise α :=
  match m with
  | .error (.trap ⟨3, _, _, _, _⟩) => .error sumFault
  | r => r

/-- The first row of an object in a summary view (R136, R138). -/
def sumUnit (s : State) (vw : Fin 64) (ix : Nat) : Slotwise Nat := do
  let u ← asSum (viewUnit s vw 3 ix)
  need (u.1 == .n8) sumFault
  .ok u.2

/-- A row of a vector view of one of some formats (R136, R138). -/
def sumRow (s : State) (vw : Fin 64) (ix : Nat) (ok : Fmt → Bool) : Slotwise (Fmt × Nat) := do
  let u ← asSum (viewUnit s vw 0 ix)
  need (ok u.1) sumFault
  .ok u

/-- The eight rows of an object. -/
def objSpan (r : Nat) : List Nat := (List.range 8).map fun i => (r + i) % 512

/-- What an SK instruction has read (R138): its operand rows, or nothing where a dead row ends it in an imprecise trap. -/
abbrev SumRead := Option (List RowBits)

/-- The result of an operation: beats, rows with their bytes, flags. -/
structure SumOut where
  beats : Nat
  rows : List (Nat × RowBits)
  fl : Flags
  deriving DecidableEq, Repr

/-- The operation started (R136, R137): its writes land at the end of the core cycle of its last beat. -/
def startSum (s : State) (reads : List Nat) (o : SumOut) : Slotwise State := do
  o.rows.forM fun r => wrRow s r.1
  let k := s.myCore
  let s := s.setCore (coreOf s.cur) { k with sumop := some ⟨s.cur, o.beats, o.rows.map (·.1), s.me.ba⟩ }
  putRows (s.touched reads) o.beats o.fl o.rows

/-- The rows of the operands whose views name rows; what is wrong with another is found by the checks that come after (R138). -/
def namedRows : List (Slotwise (List Nat)) → Slotwise (List Nat)
  | [] => .ok []
  | m :: ms => do
    let r ← match m with
      | .error (.trap _) => .ok []
      | o => o
    let rs ← namedRows ms
    .ok (r ++ rs)

/-- The mould of the SK family (R136 to R138): in supervisor mode illegal where its predicate holds (R67, R257), held while the unit
is occupied (the double trap of the supervisor comes first: the spec does not order the two, log entry 75), its reads made at issue; with a dead operand row that may not be read it is not checked and has no effect but its
imprecise trap. -/
def summary (md : Option Modifier) (s : State) (reads : List (Slotwise (List Nat)))
    (f : List RowBits → Slotwise (SumOut × Nat)) : Host.Outcome State Fault Refusal :=
  slotDo s do
    need (!(s.me.sup && predOn s md)) illegal
    need (s.myCore.sumop.all fun o => s.me.sup && o.ctx == s.cur) (.hold .summary [])
    predicated s md do
      let rs ← namedRows reads
      match ← rdRowsEng s rs with
      | none => .ok (s.faulted 4 0 .summary s.me.ba)
      | some bs => do
        let o ← f bs
        startSum (s.useFree o.2) rs o.1

/-- An object written whole. -/
def writeObj (r : Nat) (o : SumObj) : List (Nat × RowBits) := (objSpan r).zip (objRows o)

/-- A value in all 128 lanes of a row. -/
def allLanes (v : Nat) : RowBits := rowOf .f32 (List.replicate 128 v)

/-- SKINIT (R139). -/
def execSkinit (vd : Fin 64) (kind : SumKind) (sb : Fin 64) (row : Row8) (md : Option Modifier) (s : State) :
    Host.Outcome State Fault Refusal :=
  summary md s [] fun _ => do
    let i ← row8 s row
    let d ← sumUnit s vd (i + doff md)
    let seed ← rdS s sb
    let o := match kind with
      | .quantile => (Quant.fresh seed.toNat).obj
      | .heavy => (Heavy.mk 0 (List.replicate 252 HSlot.empty)).obj
      | .distinct => 0
    .ok (⟨8, writeObj d o, 0⟩, 0)

/-- The mould of the three ingesting instructions (R136): the object at VD and a row of keys. -/
def ingest (k : SumKind) (ok : Fmt → Bool) (f : SumObj → Fmt → RowBits → SumObj × Nat) (vd va : Fin 64) (row : Row8)
    (md : Option Modifier) (s : State) : Host.Outcome State Fault Refusal :=
  let obj : Slotwise Nat := do
    let i ← row8 s row
    sumUnit s vd (i + doff md)
  let keys : Slotwise (Fmt × Nat) := do
    let i ← row8 s row
    sumRow s va (i + aoff md) ok
  summary md s [obj.map objSpan, keys.map fun a => [a.2]] fun bs => do
    let d ← obj
    let a ← keys
    let u : Nat × Fmt × Nat := (d, a.1, a.2)
    let o := objOf (bs.take 8)
    need (kindOf o == some k) sumFault
    need (k != .quantile || (Quant.of o).wellFormed) sumFault
    let r := f o u.2.1 (bs.getD 8 0)
    .ok (⟨r.2, writeObj u.1 r.1, 0⟩, 0)

/-- SKQ (R132, R136): one beat, and nine for each halving. -/
def execSkq (vd va : Fin 64) (row : Row8) (md : Option Modifier) (s : State) : Host.Outcome State Fault Refusal :=
  ingest .quantile holdsF32 (fun o _ b =>
    let q := (Quant.of o).row (elems .f32 b)
    (q.obj, 1 + 9 * q.halvings)) vd va row md s

/-- SKH (R134, R136): one beat, and one for each key left unmatched. -/
def execSkh (vd va : Fin 64) (row : Row8) (md : Option Modifier) (s : State) : Host.Outcome State Fault Refusal :=
  ingest .heavy (fun f => f == .i32 || f == .n32 || f == .f32) (fun o _ b =>
    let h := (Heavy.of o).row (elems .f32 b)
    (h.1.obj, 1 + h.2)) vd va row md s

/-- SKD's key of an element (R363). -/
def dcKey (f : Fmt) (e : Nat) : BitVec 64 := if f == .i32 then BitVec.ofInt 64 (sextNat 32 e) else BitVec.ofNat 64 e

/-- SKD (R135, R136). -/
def execSkd (vd va : Fin 64) (row : Row8) (md : Option Modifier) (s : State) : Host.Outcome State Fault Refusal :=
  ingest .distinct (fun f => f == .i32 || f == .n32 || f == .f32 || f == .i64 || f == .n64) (fun o f b =>
    (dcObj (dcRow (dcOf o) ((elems f b).map (dcKey f))), 1)) vd va row md s

/-- The merge of two objects of one kind, source into `d`, and its beats (R136, R140); none for objects of other kinds. -/
def mergeObjs (d o : SumObj) : Option (SumObj × Nat) :=
  match kindOf d, kindOf o with
  | some .quantile, some .quantile =>
    let qs := Quant.of o
    let qd := Quant.of d
    if qs.wellFormed && qd.wellFormed then
      let q := qd.merge qs
      some (q.obj, 8 + (qs.fill.filter (· != 0)).length + 9 * q.halvings)
    else none
  | some .heavy, some .heavy => some (((Heavy.of d).merge (Heavy.of o)).obj, 24)
  | some .distinct, some .distinct => some (dcObj (dcMerge (dcOf d) (dcOf o)), 8)
  | _, _ => none

/-- SKMERGE (R140): VA the source, VB the object merged into. -/
def execSkmerge (vd va vb : Fin 64) (row : Row8) (md : Option Modifier) (s : State) : Host.Outcome State Fault Refusal :=
  let unit (vw : Fin 64) (off : Nat) : Slotwise Nat := do
    let i ← row8 s row
    sumUnit s vw (i + off)
  let src := unit va (aoff md)
  let into := unit vb (boff md)
  summary md s [src.map objSpan, into.map objSpan] fun bs => do
    let d ← unit vd (doff md)
    let _ ← src
    let _ ← into
    match mergeObjs (objOf (bs.drop 8)) (objOf (bs.take 8)) with
    | some r => .ok (⟨r.2, writeObj d r.1, 0⟩, 0)
    | none => .error sumFault

/-- The mould of the instructions that read an object and write rows (R136): the checked destination rows, the object. Where STRIDE 0
makes several destination indices one row, the row of the highest index stands (log entry 63). -/
def examine (k : SumKind) (ok : Fmt → Bool) (n : Nat) (f : SumObj → Slotwise ((List RowBits × Nat × Flags) × Nat)) (vd va : Fin 64)
    (row : Row8) (md : Option Modifier) (s : State) : Host.Outcome State Fault Refusal :=
  let rows : Slotwise (List Nat) := do
    let i ← row8 s row
    let ds ← (List.range n).mapM fun j => sumRow s vd (i + doff md + j) ok
    .ok (ds.map (·.2))
  let src : Slotwise Nat := do
    let i ← row8 s row
    sumUnit s va (i + aoff md)
  summary md s [src.map objSpan] fun bs => do
    let ds ← rows
    let _ ← src
    let o := objOf bs
    need (kindOf o == some k) sumFault
    need (k != .quantile || (Quant.of o).wellFormed) sumFault
    let r ← f o
    .ok (⟨r.1.2.1, ds.zip r.1.1, r.1.2.2⟩, r.2)

/-- SKQRY (R141): a rank that no key reaches gives a free value. -/
def execSkqry (vd va sb : Fin 64) (row : Row8) (md : Option Modifier) (s : State) : Host.Outcome State Fault Refusal :=
  examine .quantile (· == .f32) 1 (fun o => do
    let q ← rdS s sb
    let r := (Quant.of o).query (q.toNat % 2 ^ 32)
    match r.1 with
    | some k => .ok (([allLanes k], 16, r.2), 0)
    | none => .ok (([allLanes (s.freeNat 1 % 2 ^ 32)], 16, r.2), 1)) vd va row md s

/-- SKEST (R142). -/
def execSkest (vd va : Fin 64) (row : Row8) (md : Option Modifier) (s : State) : Host.Outcome State Fault Refusal :=
  examine .distinct (· == .f32) 1 (fun o =>
    let e := dcEstimate (dcOf o)
    .ok (([allLanes e.1], 12, e.2), 0)) vd va row md s

/-- SKTOP (R143): its destination is a view of any format whose elements take 32 bits in the register space, t8 and t6 among them
(log entry 63). -/
def execSktop (vd va : Fin 64) (row : Row8) (md : Option Modifier) (s : State) : Host.Outcome State Fault Refusal :=
  examine .heavy (fun f => f.viewWidth == 32) 8 (fun o => .ok (((Heavy.of o).top, 16, 0), 0)) vd va row md s

/-- SUMMARY_OP_COMPLETE (R136): in the core cycle of its last beat an operation's writes land, after the older ones that are due with them
(R41), and the unit is free. A parked operation waits for RFT (R250), and all wait for a granule in retention (R43). -/
def State.sumComplete (s : State) (core : Nat) : State :=
  let k := s.core core
  match k.sumop with
  | none => s
  | some o =>
    let c := s.ctx o.ctx
    if c.sup || !c.adv || 1 < o.left || (s.pair (core / 2)).frozen.isSome then s
    else
      let mine (l : Latch) : Bool := l.ba == o.ba && l.slot == .V1 && l.left ≤ 1
      let born := ((c.lat.filter mine).map (·.born)).headD 0
      let first (l : Latch) : Bool := mine l || (l.left ≤ 1 && l.born < born)
      let due := c.lat.filter first
      if c.waking || !(k.asleep due).isEmpty || c.drains.any fun d => d.due && d.born < born then s
      else
        let s := s.setCtx o.ctx { c with lat := c.lat.filter (!first ·) }
        let t := s.landAll o.ctx due
        t.setCore core { t.core core with sumop := none }

/-- SUMMARY_OP_COMPLETE of a core's unit. -/
def execSummaryOpComplete (c : CoreId) (s : State) : Host.Outcome State Fault Refusal := .next (s.sumComplete c.val)

end Sys2Proof.Machine
end

