-- ==== Sys2Proof/Machine/Xbar.lean ====
section
/-! DEFINITION. The lane crossbar of slot X (R110 to R113, R387). -/

namespace Sys2Proof.Machine

/-- The latency of every X instruction (R112). -/
def xLat : Nat := 6

/-- The lanes of a row (R35). -/
def lanes (b : RowBits) : List Nat := splitN 32 128 b.toNat

/-- A row of lanes. -/
def ofLanes (l : List Nat) : RowBits := BitVec.ofNat 4096 (joinN 32 l)

/-- The illegal-schedule trap (R113, R253). -/
def illegalSchedule : Stop := .trap (TrapInfo.of 6 0)

/-- An X instruction: the destination's and the source's rows, and the lanes written (R111). Of several traps in one slot the model takes
a dead source row's first, then the pattern table's, then that of two entries with one destination (log entry 33). -/
def xbar (f : List Nat → Slotwise (List Nat × List Nat)) (vd va : Fin 64) (row : Row7) (md : Option Modifier) (s : State) :
    Host.Outcome State Fault Refusal :=
  slotDo s (predicated s md do
    sumNames s (row7 s row) [(vd, 0, doff md), (va, 0, aoff md)]
    let i ← row7 s row
    let d ← viewUnit s vd 0 (i + doff md)
    let a ← viewUnit s va 0 (i + aoff md)
    let b ← rdRow s a.2
    let out ← f (lanes b)
    putRowT s (a.2 :: out.1) d.2 (ofLanes out.2) xLat 0)

/-- A pattern's entries: whether a source lane is sent, and where (R110). -/
def pattern (b : RowBits) (p : Nat) : List (Bool × Nat) :=
  ((splitN 8 512 b.toNat).drop (128 * (p % 4))).take 128 |>.map fun e => (e / 128 % 2 == 1, e % 128)

/-- The row of the pattern table that holds a pattern (R110): a view fault, cause 1, where the table leaves the partition. -/
def patternRow (s : State) (p : Nat) : Slotwise Nat := do
  let x := (rdSys s 0x004).toNat % 1024
  need (x + 15 < 8 * (rdSys s 0x101).toNat) (viewFault 1)
  .ok ((8 * (rdSys s 0x100).toNat + x + p / 4) % 512)

/-- Whether no two enabled entries name one destination (R113). -/
def patternOk : List (Bool × Nat) → Bool
  | [] => true
  | (en, d) :: es => (!en || es.all fun e => !e.1 || e.2 != d) && patternOk es

/-- The lanes that a pattern writes: each enabled source lane to its destination, zero elsewhere (R111). -/
def permute (pat : List (Bool × Nat)) (a : List Nat) : List Nat :=
  (List.range 128).map fun l =>
    match (pat.zip a).find? fun e => e.1.1 && e.1.2 == l with
    | some e => e.2
    | none => 0

/-- XPERM (R110, R111, R113). -/
def execXperm (vd va : Fin 64) (sel : Fin 64) (row : Row7) (md : Option Modifier) (s : State) :
    Host.Outcome State Fault Refusal :=
  xbar (fun a => do
    let r ← patternRow s sel.val
    let b ← rdRow s r
    let pat := pattern b sel.val
    need (patternOk pat) illegalSchedule
    .ok ([r], permute pat a)) vd va row md s

/-- XBCAST (R111). -/
def execXbcast (vd va : Fin 64) (sel : Fin 128) (row : Row7) (md : Option Modifier) (s : State) :
    Host.Outcome State Fault Refusal :=
  xbar (fun a => .ok ([], List.replicate 128 (a.getD sel.val 0))) vd va row md s

/-- XROT (R111): lane l goes to lane (l + r) mod 128. -/
def execXrot (vd va : Fin 64) (sel : Fin 128) (row : Row7) (md : Option Modifier) (s : State) :
    Host.Outcome State Fault Refusal :=
  xbar (fun a => .ok ([], (List.range 128).map fun l => a.getD ((l + 128 - sel.val) % 128) 0)) vd va row md s

end Sys2Proof.Machine
end

