-- ==== Sys2Proof/Machine/Dispatch.lean ====
section
/-! DEFINITION. One arm per constructor of Instr: the meaning it calls. -/

namespace Sys2Proof.Machine

def exec (i : Instr) (s : State) : Host.Outcome State Fault Refusal :=
  match i with
  | .doorbell fn q v => Sys2Proof.Machine.execDoorbell fn q v s
  | .workerPlace x => Sys2Proof.Machine.execWorkerPlace x s
  | .launchComplete l => Sys2Proof.Machine.execLaunchComplete l s
  | .heldCompletionWrite q => Sys2Proof.Machine.execHeldCompletionWrite q s
  | .msixCoalesceExpiry q => Sys2Proof.Machine.execMsixCoalesceExpiry q s
  | .graphEdgeComplete r e => Sys2Proof.Machine.execGraphEdgeComplete r e s
  | .nodeStart r n => Sys2Proof.Machine.execNodeStart r n s
  | .preemptTrigger l => Sys2Proof.Machine.execPreemptTrigger l s
  | .imageSeal p => Sys2Proof.Machine.execImageSeal p s
  | .heldResponseAppend p => Sys2Proof.Machine.execHeldResponseAppend p s
  | .leanRestore x n => Sys2Proof.Machine.execLeanRestore x n s
  | .restoreImage p n => Sys2Proof.Machine.execRestoreImage p n s
  | .collisionPrioritySwap c => Sys2Proof.Machine.execCollisionPrioritySwap c s
  | .granuleRetentionEntry c g => Sys2Proof.Machine.execGranuleRetentionEntry c g s
  | .retentionWakeComplete c g => Sys2Proof.Machine.execRetentionWakeComplete c g s
  | .tokenRefill d => Sys2Proof.Machine.execTokenRefill d s
  | .tokenRequestServed d => Sys2Proof.Machine.execTokenRequestServed d s
  | .mldFillComplete p om => Sys2Proof.Machine.execMldFillComplete p om s
  | .summaryOpComplete c => Sys2Proof.Machine.execSummaryOpComplete c s
  | .loadLand n => Sys2Proof.Machine.execLoadLand n s
  | .multicastStoreLand d n => Sys2Proof.Machine.execMulticastStoreLand d n s
  | .tlbWalkComplete d n => Sys2Proof.Machine.execTlbWalkComplete d n s
  | .copyEngineStart c e => Sys2Proof.Machine.execCopyEngineStart c e s
  | .copyDataLand c e => Sys2Proof.Machine.execCopyDataLand c e s
  | .copyComplete c e => Sys2Proof.Machine.execCopyComplete c e s
  | .barrierArrival m => Sys2Proof.Machine.execBarrierArrival m s
  | .flagIncrement n => Sys2Proof.Machine.execFlagIncrement n s
  | .windowRead n => Sys2Proof.Machine.execWindowRead n s
  | .windowReadForOwnership n => Sys2Proof.Machine.execWindowReadForOwnership n s
  | .windowUpgrade n => Sys2Proof.Machine.execWindowUpgrade n s
  | .windowForwardedRequest n => Sys2Proof.Machine.execWindowForwardedRequest n s
  | .windowInvalidation n => Sys2Proof.Machine.execWindowInvalidation n s
  | .windowAcknowledgement n => Sys2Proof.Machine.execWindowAcknowledgement n s
  | .windowData n => Sys2Proof.Machine.execWindowData n s
  | .windowNotBusy n => Sys2Proof.Machine.execWindowNotBusy n s
  | .windowWriteback n => Sys2Proof.Machine.execWindowWriteback n s
  | .windowHomeAck n => Sys2Proof.Machine.execWindowHomeAck n s
  | .directoryRecall d => Sys2Proof.Machine.execDirectoryRecall d s
  | .remoteRead n => Sys2Proof.Machine.execRemoteRead n s
  | .remoteWrite n => Sys2Proof.Machine.execRemoteWrite n s
  | .remoteAtomic n => Sys2Proof.Machine.execRemoteAtomic n s
  | .readData n => Sys2Proof.Machine.execReadData n s
  | .atomicAnswer n => Sys2Proof.Machine.execAtomicAnswer n s
  | .acknowledgement n => Sys2Proof.Machine.execAcknowledgement n s
  | .fabricForward n => Sys2Proof.Machine.execFabricForward n s
  | .linkFlitReceive l f => Sys2Proof.Machine.execLinkFlitReceive l f s
  | .linkReplay l seq => Sys2Proof.Machine.execLinkReplay l seq s
  | .linkCrcThreshold l => Sys2Proof.Machine.execLinkCrcThreshold l s
  | .linkLaneLoss l lanes => Sys2Proof.Machine.execLinkLaneLoss l lanes s
  | .linkReplayLimit l => Sys2Proof.Machine.execLinkReplayLimit l s
  | .linkTrainComplete l v => Sys2Proof.Machine.execLinkTrainComplete l v s
  | .linkTrainTimeout l => Sys2Proof.Machine.execLinkTrainTimeout l s
  | .linkHandshakeComplete l far => Sys2Proof.Machine.execLinkHandshakeComplete l far s
  | .lnkctlRetrain l => Sys2Proof.Machine.execLnkctlRetrain l s
  | .lnkctlBringUp l => Sys2Proof.Machine.execLnkctlBringUp l s
  | .lnkctlForceDown l => Sys2Proof.Machine.execLnkctlForceDown l s
  | .linkFifoWords n => Sys2Proof.Machine.execLinkFifoWords n s
  | .channelArrival n => Sys2Proof.Machine.execChannelArrival n s
  | .channelCredit n => Sys2Proof.Machine.execChannelCredit n s
  | .reduceContribution n => Sys2Proof.Machine.execReduceContribution n s
  | .reduceResult n => Sys2Proof.Machine.execReduceResult n s
  | .reductionTableWrite n v => Sys2Proof.Machine.execReductionTableWrite n v s
  | .routeTableWrite n v => Sys2Proof.Machine.execRouteTableWrite n v s
  | .routeEntryApply n => Sys2Proof.Machine.execRouteEntryApply n s
  | .didtWrite d v => Sys2Proof.Machine.execDidtWrite d v s
  | .pkgidWrite v => Sys2Proof.Machine.execPkgidWrite v s
  | .commctlStart v => Sys2Proof.Machine.execCommctlStart v s
  | .trcctlWrite d v => Sys2Proof.Machine.execTrcctlWrite d v s
  | .registerWrite a v => Sys2Proof.Machine.execRegisterWrite a v s
  | .peerWrite fn off bytes => Sys2Proof.Machine.execPeerWrite fn off bytes s
  | .peerRead fn off => Sys2Proof.Machine.execPeerRead fn off s
  | .attestationRequest nonce => Sys2Proof.Machine.execAttestationRequest nonce s
  | .telemetryRecord d v => Sys2Proof.Machine.execTelemetryRecord d v s
  | .powerThrottle watts => Sys2Proof.Machine.execPowerThrottle watts s
  | .traceSample d => Sys2Proof.Machine.execTraceSample d s
  | .uncorrectableError e => Sys2Proof.Machine.execUncorrectableError e s
  | .dbgHalt x h => Sys2Proof.Machine.execDbgHalt x h s
  | .dbgStep x => Sys2Proof.Machine.execDbgStep x s
  | .dbgRegisterWrite x r v => Sys2Proof.Machine.execDbgRegisterWrite x r v s
  | .dbgLatchEdit x n v => Sys2Proof.Machine.execDbgLatchEdit x n v s
  | .tlbinvEntry sa => Sys2Proof.Machine.execTlbinvEntry sa s
  | .tlbinvAsid sa => Sys2Proof.Machine.execTlbinvAsid sa s
  | .tlbinvAll sa => Sys2Proof.Machine.execTlbinvAll sa s
  | .tbaWrite sa => Sys2Proof.Machine.execTbaWrite sa s
  | .add ty sd sa sb => Sys2Proof.Machine.execAdd ty sd sa sb s
  | .addImm ty sd sa imm => Sys2Proof.Machine.execAddImm ty sd sa imm s
  | .sub ty sd sa sb => Sys2Proof.Machine.execSub ty sd sa sb s
  | .subImm ty sd sa imm => Sys2Proof.Machine.execSubImm ty sd sa imm s
  | .mul ty sd sa sb => Sys2Proof.Machine.execMul ty sd sa sb s
  | .mulImm ty sd sa imm => Sys2Proof.Machine.execMulImm ty sd sa imm s
  | .mulh ty sd sa sb => Sys2Proof.Machine.execMulh ty sd sa sb s
  | .div ty sd sa sb => Sys2Proof.Machine.execDiv ty sd sa sb s
  | .rem ty sd sa sb => Sys2Proof.Machine.execRem ty sd sa sb s
  | .min ty sd sa sb => Sys2Proof.Machine.execMin ty sd sa sb s
  | .minImm ty sd sa imm => Sys2Proof.Machine.execMinImm ty sd sa imm s
  | .max ty sd sa sb => Sys2Proof.Machine.execMax ty sd sa sb s
  | .maxImm ty sd sa imm => Sys2Proof.Machine.execMaxImm ty sd sa imm s
  | .and ty sd sa sb => Sys2Proof.Machine.execAnd ty sd sa sb s
  | .andImm ty sd sa imm => Sys2Proof.Machine.execAndImm ty sd sa imm s
  | .or ty sd sa sb => Sys2Proof.Machine.execOr ty sd sa sb s
  | .orImm ty sd sa imm => Sys2Proof.Machine.execOrImm ty sd sa imm s
  | .xor ty sd sa sb => Sys2Proof.Machine.execXor ty sd sa sb s
  | .xorImm ty sd sa imm => Sys2Proof.Machine.execXorImm ty sd sa imm s
  | .shl ty sd sa sb => Sys2Proof.Machine.execShl ty sd sa sb s
  | .shlImm ty sd sa imm => Sys2Proof.Machine.execShlImm ty sd sa imm s
  | .shr ty sd sa sb => Sys2Proof.Machine.execShr ty sd sa sb s
  | .shrImm ty sd sa imm => Sys2Proof.Machine.execShrImm ty sd sa imm s
  | .shra ty sd sa sb => Sys2Proof.Machine.execShra ty sd sa sb s
  | .shraImm ty sd sa imm => Sys2Proof.Machine.execShraImm ty sd sa imm s
  | .cmp ty c pd sa sb => Sys2Proof.Machine.execCmp ty c pd sa sb s
  | .sel p sd sa sb => Sys2Proof.Machine.execSel p sd sa sb s
  | .clz ty sd sa => Sys2Proof.Machine.execClz ty sd sa s
  | .popc ty sd sa => Sys2Proof.Machine.execPopc ty sd sa s
  | .bfx sx sd sa pos lenm1 => Sys2Proof.Machine.execBfx sx sd sa pos lenm1 s
  | .bfi sd sa pos lenm1 => Sys2Proof.Machine.execBfi sd sa pos lenm1 s
  | .fadd ty rm sd sa sb => Sys2Proof.Machine.execFadd ty rm sd sa sb s
  | .fmul ty rm sd sa sb => Sys2Proof.Machine.execFmul ty rm sd sa sb s
  | .fma ty rm sd sa sb => Sys2Proof.Machine.execFma ty rm sd sa sb s
  | .fcmp ty c pd sa sb => Sys2Proof.Machine.execFcmp ty c pd sa sb s
  | .fcvt dst src rm sd sa => Sys2Proof.Machine.execFcvt dst src rm sd sa s
  | .movi sd imm => Sys2Proof.Machine.execMovi sd imm s
  | .movhi sd w => Sys2Proof.Machine.execMovhi sd w s
  | .ld ty sc sd m => Sys2Proof.Machine.execLd ty sc sd m s
  | .st ty sc sd m => Sys2Proof.Machine.execSt ty sc sd m s
  | .acas ty sc sd sa sb ext => Sys2Proof.Machine.execAcas ty sc sd sa sb ext s
  | .flush sc sa sb ext => Sys2Proof.Machine.execFlush sc sa sb ext s
  | .inval sc sa sb ext => Sys2Proof.Machine.execInval sc sa sb ext s
  | .zline sc sa sb ext => Sys2Proof.Machine.execZline sc sa sb ext s
  | .wdecl wn sa sb se => Sys2Proof.Machine.execWdecl wn sa sb se s
  | .wdrop wn => Sys2Proof.Machine.execWdrop wn s
  | .atomAdd ty sc sd sa sb ext => Sys2Proof.Machine.execAtomAdd ty sc sd sa sb ext s
  | .atomMax ty sc sd sa sb ext => Sys2Proof.Machine.execAtomMax ty sc sd sa sb ext s
  | .atomMin ty sc sd sa sb ext => Sys2Proof.Machine.execAtomMin ty sc sd sa sb ext s
  | .atomAnd ty sc sd sa sb ext => Sys2Proof.Machine.execAtomAnd ty sc sd sa sb ext s
  | .atomOr ty sc sd sa sb ext => Sys2Proof.Machine.execAtomOr ty sc sd sa sb ext s
  | .atomXor ty sc sd sa sb ext => Sys2Proof.Machine.execAtomXor ty sc sd sa sb ext s
  | .atomSwap ty sc sd sa sb ext => Sys2Proof.Machine.execAtomSwap ty sc sd sa sb ext s
  | .br pn p off => Sys2Proof.Machine.execBr pn p off s
  | .jmp off => Sys2Proof.Machine.execJmp off s
  | .jmpReg sn => Sys2Proof.Machine.execJmpReg sn s
  | .call off => Sys2Proof.Machine.execCall off s
  | .callReg sn => Sys2Proof.Machine.execCallReg sn s
  | .loop pin sa bodyw => Sys2Proof.Machine.execLoop pin sa bodyw s
  | .trap code => Sys2Proof.Machine.execTrap code s
  | .brk code => Sys2Proof.Machine.execBrk code s
  | .sysr sd n => Sys2Proof.Machine.execSysr sd n s
  | .sysw sa n => Sys2Proof.Machine.execSysw sa n s
  | .viewset vw sa => Sys2Proof.Machine.execViewset vw sa s
  | .mbreq sa pd => Sys2Proof.Machine.execMbreq sa pd s
  | .mbtake sd pd => Sys2Proof.Machine.execMbtake sd pd s
  | .acq sc => Sys2Proof.Machine.execAcq sc s
  | .rel sc => Sys2Proof.Machine.execRel sc s
  | .fence sc loads stores copies => Sys2Proof.Machine.execFence sc loads stores copies s
  | .fpost k n target => Sys2Proof.Machine.execFpost k n target s
  | .fwait k n => Sys2Proof.Machine.execFwait k n s
  | .bara g => Sys2Proof.Machine.execBara g s
  | .barw g => Sys2Proof.Machine.execBarw g s
  | .live e => Sys2Proof.Machine.execLive e s
  | .dead vw first cntm1 => Sys2Proof.Machine.execDead vw first cntm1 s
  | .xsvImm vw sn row el => Sys2Proof.Machine.execXsvImm vw sn row el s
  | .xsvScalar vw sn row sm => Sys2Proof.Machine.execXsvScalar vw sn row sm s
  | .xsvBcast vw sn row => Sys2Proof.Machine.execXsvBcast vw sn row s
  | .xvsImm vw sn row el => Sys2Proof.Machine.execXvsImm vw sn row el s
  | .xvsScalar vw sn row sm => Sys2Proof.Machine.execXvsScalar vw sn row sm s
  | .vadd vd va vb row md => Sys2Proof.Machine.execVadd vd va vb row md s
  | .vaddS vd va sb row md => Sys2Proof.Machine.execVaddS vd va sb row md s
  | .vsub vd va vb row md => Sys2Proof.Machine.execVsub vd va vb row md s
  | .vsubS vd va sb row md => Sys2Proof.Machine.execVsubS vd va sb row md s
  | .vmul vd va vb row md => Sys2Proof.Machine.execVmul vd va vb row md s
  | .vmulS vd va sb row md => Sys2Proof.Machine.execVmulS vd va sb row md s
  | .vmax vd va vb row md => Sys2Proof.Machine.execVmax vd va vb row md s
  | .vmaxS vd va sb row md => Sys2Proof.Machine.execVmaxS vd va sb row md s
  | .vmin vd va vb row md => Sys2Proof.Machine.execVmin vd va vb row md s
  | .vminS vd va sb row md => Sys2Proof.Machine.execVminS vd va sb row md s
  | .vand vd va vb row md => Sys2Proof.Machine.execVand vd va vb row md s
  | .vandS vd va sb row md => Sys2Proof.Machine.execVandS vd va sb row md s
  | .vor vd va vb row md => Sys2Proof.Machine.execVor vd va vb row md s
  | .vorS vd va sb row md => Sys2Proof.Machine.execVorS vd va sb row md s
  | .vxor vd va vb row md => Sys2Proof.Machine.execVxor vd va vb row md s
  | .vxorS vd va sb row md => Sys2Proof.Machine.execVxorS vd va sb row md s
  | .vshl vd va vb row md => Sys2Proof.Machine.execVshl vd va vb row md s
  | .vshlS vd va sb row md => Sys2Proof.Machine.execVshlS vd va sb row md s
  | .vshr vd va vb row md => Sys2Proof.Machine.execVshr vd va vb row md s
  | .vshrS vd va sb row md => Sys2Proof.Machine.execVshrS vd va sb row md s
  | .vfma vd va vb row md => Sys2Proof.Machine.execVfma vd va vb row md s
  | .vfmaS vd va sb row md => Sys2Proof.Machine.execVfmaS vd va sb row md s
  | .vcmp vd va vb row md => Sys2Proof.Machine.execVcmp vd va vb row md s
  | .vcmpS vd va sb row md => Sys2Proof.Machine.execVcmpS vd va sb row md s
  | .vclamp vd va vb row md => Sys2Proof.Machine.execVclamp vd va vb row md s
  | .vclampS vd va sb row md => Sys2Proof.Machine.execVclampS vd va sb row md s
  | .vmov vd va row md => Sys2Proof.Machine.execVmov vd va row md s
  | .vneg vd va row md => Sys2Proof.Machine.execVneg vd va row md s
  | .vabs vd va row md => Sys2Proof.Machine.execVabs vd va row md s
  | .vcvt vd va row md => Sys2Proof.Machine.execVcvt vd va row md s
  | .viota vd row md => Sys2Proof.Machine.execViota vd row md s
  | .vsel vd va vb row md => Sys2Proof.Machine.execVsel vd va vb row md s
  | .vredAdd vd va row md => Sys2Proof.Machine.execVredAdd vd va row md s
  | .vredMax vd va row md => Sys2Proof.Machine.execVredMax vd va row md s
  | .vredMin vd va row md => Sys2Proof.Machine.execVredMin vd va row md s
  | .vld vd row sa off md => Sys2Proof.Machine.execVld vd row sa off md s
  | .vst vd row sa off md => Sys2Proof.Machine.execVst vd row sa off md s
  | .vldx vd vi sa row md => Sys2Proof.Machine.execVldx vd vi sa row md s
  | .vstx vd vi sa row md => Sys2Proof.Machine.execVstx vd vi sa row md s
  | .vrcp vd va row md => Sys2Proof.Machine.execVrcp vd va row md s
  | .vrsq vd va row md => Sys2Proof.Machine.execVrsq vd va row md s
  | .vexp2 vd va row md => Sys2Proof.Machine.execVexp2 vd va row md s
  | .vlog2 vd va row md => Sys2Proof.Machine.execVlog2 vd va row md s
  | .vtanh vd va row md => Sys2Proof.Machine.execVtanh vd va row md s
  | .skinit vd kind sb row md => Sys2Proof.Machine.execSkinit vd kind sb row md s
  | .skq vd va row md => Sys2Proof.Machine.execSkq vd va row md s
  | .skh vd va row md => Sys2Proof.Machine.execSkh vd va row md s
  | .skd vd va row md => Sys2Proof.Machine.execSkd vd va row md s
  | .skmerge vd va vb row md => Sys2Proof.Machine.execSkmerge vd va vb row md s
  | .skqry vd va sb row md => Sys2Proof.Machine.execSkqry vd va sb row md s
  | .skest vd va row md => Sys2Proof.Machine.execSkest vd va row md s
  | .sktop vd va row md => Sys2Proof.Machine.execSktop vd va row md s
  | .xperm vd va sel row md => Sys2Proof.Machine.execXperm vd va sel row md s
  | .xbcast vd va sel row md => Sys2Proof.Machine.execXbcast vd va sel row md s
  | .xrot vd va sel row md => Sys2Proof.Machine.execXrot vd va sel row md s
  | .mclaim om pd => Sys2Proof.Machine.execMclaim om pd s
  | .mrel om => Sys2Proof.Machine.execMrel om s
  | .mldSp om sa banks => Sys2Proof.Machine.execMldSp om sa banks s
  | .mldView om vw row => Sys2Proof.Machine.execMldView om vw row s
  | .mma oma omb acc cop rm beatsm1 => Sys2Proof.Machine.execMma oma omb acc cop rm beatsm1 s
  | .mstView acc vw row => Sys2Proof.Machine.execMstView acc vw row s
  | .mstSp acc sa banks => Sys2Proof.Machine.execMstSp acc sa banks s
  | .mzero acc => Sys2Proof.Machine.execMzero acc s
  | .mseq lenm1 seq => Sys2Proof.Machine.execMseq lenm1 seq s
  | .cpy sd sa sb nt => Sys2Proof.Machine.execCpy sd sa sb nt s
  | .cpy2d sd sa sb nt => Sys2Proof.Machine.execCpy2d sd sa sb nt s
  | .cfill sd sa sb nt => Sys2Proof.Machine.execCfill sd sa sb nt s
  | .cgather sd sa sb nt => Sys2Proof.Machine.execCgather sd sa sb nt s
  | .cmcast sd sa sb nt => Sys2Proof.Machine.execCmcast sd sa sb nt s
  | .cred sd sa sb nt rw => Sys2Proof.Machine.execCred sd sa sb nt rw s
  | .chsend ch nt => Sys2Proof.Machine.execChsend ch nt s
  | .chrecv ch nt => Sys2Proof.Machine.execChrecv ch nt s
  | .accessAtPointOfCoherence n => Sys2Proof.Machine.execAccessAtPointOfCoherence n s
  | .storePerformed n => Sys2Proof.Machine.execStorePerformed n s
  | .lineEvictionWriteBack c line => Sys2Proof.Machine.execLineEvictionWriteBack c line s
  | .linkFifoCredit n => Sys2Proof.Machine.execLinkFifoCredit n s
  | .barrierSignal m => Sys2Proof.Machine.execBarrierSignal m s
  | .admitLaunch => Sys2Proof.Machine.execAdmitLaunch s
  | .workerRetire => Sys2Proof.Machine.execWorkerRetire s
  | .graceWindowExpiry => Sys2Proof.Machine.execGraceWindowExpiry s
  | .leanSave => Sys2Proof.Machine.execLeanSave s
  | .dictIssue => Sys2Proof.Machine.execDictIssue s
  | .repeatIssue => Sys2Proof.Machine.execRepeatIssue s
  | .literalIssue => Sys2Proof.Machine.execLiteralIssue s
  | .fetchFillComplete => Sys2Proof.Machine.execFetchFillComplete s
  | .resultWriteback => Sys2Proof.Machine.execResultWriteback s
  | .impreciseFaultTake => Sys2Proof.Machine.execImpreciseFaultTake s
  | .userInterruptTake => Sys2Proof.Machine.execUserInterruptTake s
  | .arrayBeat => Sys2Proof.Machine.execArrayBeat s
  | .matrixPassComplete => Sys2Proof.Machine.execMatrixPassComplete s
  | .mstRowLand => Sys2Proof.Machine.execMstRowLand s
  | .linWatchdog => Sys2Proof.Machine.execLinWatchdog s
  | .boot => Sys2Proof.Machine.execBoot s
  | .ret => Sys2Proof.Machine.execRet s
  | .halt => Sys2Proof.Machine.execHalt s
  | .rft => Sys2Proof.Machine.execRft s
  | .rfui => Sys2Proof.Machine.execRfui s
  | .waiti => Sys2Proof.Machine.execWaiti s

end Sys2Proof.Machine
end

