-- ==== Sys2Proof/Machine/Start.lean ====
section
/-! DEFINITION. How one instruction is placed where the next step fetches it (log entry 14): a literal bundle in memory, the page
that maps it, and a worker that stands before it. -/

namespace Sys2Proof.Machine

/-- The address, virtual and physical, of the placed bundle. -/
def startAt : Nat := 0x100000

/-- The code words of a literal bundle of one slot (R50, R56). -/
def literalOf (sl : Slot) (w : BitVec 32) (ext : List (BitVec 32)) : List Nat :=
  let h : Header := ⟨1 <<< sl.index, ext.length, if ext.isEmpty then 0 else sl.index, 0⟩
  let ws := h.word :: w :: ext
  0xFFFF :: ws.length :: ws.flatMap fun v => [v.toNat % 2 ^ 16, v.toNat / 2 ^ 16]

/-- The bundle of an instruction's bits as the opcode table numbers them; a word that decodes in no slot stands in slot S. -/
def startWords (w : Nat) : List Nat :=
  match decodeTable w with
  | some (sl, ext, _) => literalOf sl (BitVec.ofNat 32 w) ext
  | none => literalOf .S (BitVec.ofNat 32 w) []

/-- The page that maps the placed bundle (R194, R196). -/
def startPage (ptroot : Word) : TlbEntry :=
  ⟨field ptroot.toNat 63 52, startAt, 4096, startAt, ⟨.f32, 0, 0, false, 0, false⟩, true, true, true, true, false⟩

/-- A worker in context 0 stands before a bundle that has been placed in memory, its page and its line of code words at hand. -/
def State.startWith (s : State) (ws : List Nat) : State :=
  let c := s.ctx 0
  let k := s.core 0
  let d := s.die 0
  let s : State := { s with mem := Memory.writeAll s.mem (cellsAt startAt (ws.flatMap (leBytes 2))), todo := [], ring := [0] }
  let s := s.setDie 0 { d with tlb := startPage c.ptroot :: d.tlb }
  let s := s.setCore 0 { k with cline := startAt / 128 :: k.cline }
  s.setCtx 0 { c with
    code := { c.code with codeva := startAt, codew := ws.length }
    fetch := ⟨startAt, none, 0⟩
    iss := none
    snap := none
    sup := false
    occ := .worker 0 0
    run := .running }

end Sys2Proof.Machine
end

