-- ==== Sys2Proof/Machine/Step.lean ====
section
/-! DEFINITION. One step of the package, and the placing of an instruction where the next step fetches it. -/

namespace Sys2Proof.Machine

/-- One step (log entry 6). -/
def step (s : State) : Host.Outcome State Fault Refusal := stepWith exec s

/-- The state with an instruction placed where the very next step fetches and runs it (log entry 14). -/
def State.withFetchWord (s : State) (_nbits w : Nat) : State := s.startWith (startWords w)

end Sys2Proof.Machine
end

