-- ==== Sys2Proof/Safety.lean ====
section
/-! DEFINITION. What counts as a safe run: every step answers a next state, and every byte memory of the package keeps its
canonical form. -/

namespace Sys2Proof.Machine

/-- Every byte memory of the package is in its canonical form: device memory and the scratchpads of the cores. -/
def State.canonicalMem (s : State) : Bool := Memory.wf s.mem && s.cores.all fun k => Memory.wf k.2.sp

/-- A step that answers a next state in which every memory is in its canonical form. -/
def SafeStep (s : State) : Prop := ∃ t, step s = .next t ∧ t.canonicalMem = true

/-- The state after n steps from a state, if every one of them answers a next state. -/
def runFrom : Nat → State → Option State
  | 0, s => some s
  | n + 1, s =>
    match step s with
    | .next t => runFrom n t
    | _ => none

/-- A safe run of n steps from a state. -/
def SafeRun (n : Nat) (s : State) : Prop := ∃ t, runFrom n s = some t ∧ t.canonicalMem = true

end Sys2Proof.Machine
end

