-- ==== Sys2Proof/Certificates/Slice0/Obligations.lean ====
section
/-! DEFINITION. The statements for the provers. The first part names the hypotheses that several of them share: what an
instruction's operands read as in a state, and how a result leaves it. -/

namespace Sys2Proof.Machine

/-- Instructions `mk ty sd sa sb` complete in register form with the value `val` on the types' low bits and a latency. -/
def RegForm (lat : Nat) (mk : Ty → Fin 64 → Fin 64 → Fin 64 → Instr) (val : Fmt → Nat → Nat → Nat) : Prop :=
  ∀ (s : State) (ty : Ty) (sd sa sb : Fin 64) (a b : Word), rdT s ty sa = .ok a → rdT s ty sb = .ok b →
    wrT (popT s ty [sa, sb]) ty sd = .ok () →
    exec (mk ty sd sa sb) s = .next ((popT s ty [sa, sb]).latch
      ((popT s ty [sa, sb]).me.destT ty sd (ty.base.extend (val ty.base (ty.base.low a) (ty.base.low b)))) lat 0)

/-- The same for the immediate form. -/
def ImmForm (lat : Nat) (mk : Ty → Fin 64 → Fin 64 → Imm9 → Instr) (val : Fmt → Nat → Nat → Nat) : Prop :=
  ∀ (s : State) (ty : Ty) (sd sa : Fin 64) (imm : Imm9) (a : Word), rdT s ty sa = .ok a →
    wrT (popT s ty [sa]) ty sd = .ok () →
    exec (mk ty sd sa imm) s = .next ((popT s ty [sa]).latch
      ((popT s ty [sa]).me.destT ty sd (ty.base.extend (val ty.base (ty.base.low a) (ty.base.low imm.value)))) lat 0)

/-- The smaller of two words, compared as the format's numbers. -/
def lesser (f : Fmt) (a b : Nat) : Nat := if f.toInt a ≤ f.toInt b then a else b

/-- The larger of two words, compared as the format's numbers. -/
def greater (f : Fmt) (a b : Nat) : Nat := if f.toInt b ≤ f.toInt a then a else b

/-- A word shifted right by n, filled with the sign of its w bits. -/
def signedRight (w a n : Nat) : Nat := wrap w (sextNat w a / (2 ^ n : Nat))

/-- A sum on w bits. -/
def sumOf (f : Fmt) (a b : Nat) : Nat := (a + b) % 2 ^ f.opWidth

/-- A difference on w bits, its operands on w bits. -/
def differenceOf (f : Fmt) (a b : Nat) : Nat := (a + (2 ^ f.opWidth - b)) % 2 ^ f.opWidth

/-- A slot word in S alone, with or without an extension word, that decodes to no instruction is an illegal-instruction trap with the
slot cause (R60, R253). -/
def failingSlotTraps : Prop :=
  ∀ (ok : Instr → Bool) (w : BitVec 32) (x : List (BitVec 32)), x.length ≤ 1 → decodeSlot .S w x = none →
    decoded ok ((if x.length = 0 then 0x2 else 0xA02) :: w :: x) = .error (.fault (TrapInfo.of 1 2))

/-- The words of an opcode of slot S in format SR with MOD zero and the integer types (R63). -/
def decodesSR (op : Nat) (mk : Ty → Fin 64 → Fin 64 → Fin 64 → Instr) : Prop :=
  ∀ (w : BitVec 32) (x : List (BitVec 32)), w.toNat / 2 ^ 26 = op →
    let t := w.toNat / 2 ^ 3 % 2 ^ 4
    let ok := x = [] ∧ w.getLsbD 25 = false ∧ w.toNat % 2 ^ 3 = 0 ∧ ((5 ≤ t ∧ t ≤ 12) ∨ t = 14)
    decodeSlot .S w x = if ok then (Ty.ofCode t).map fun ty =>
      mk ty (Fin.ofNat 64 (w.toNat / 2 ^ 19)) (Fin.ofNat 64 (w.toNat / 2 ^ 13)) (Fin.ofNat 64 (w.toNat / 2 ^ 7)) else none

/-- Where a bundle in issue goes on when a transfer in it is taken: its target is noted, and nothing else of the state changes. -/
def tookTransfer (s : State) (i : Iss) (t : Nat) : State := s.setMe { s.me with iss := some { i with target := some t } }

/-- An instruction of the vector mould completes: with its predicate on, its units and rows readable and its formats allowed, the
row it writes has in each element the operation `el` on the elements of its operands, with the operation's latency and the flags of
all elements. -/
def VecForm (useD : Bool) (ok : Fmt → Fin 4 → Bool) (lat : Fmt → Nat) (el : Fmt → Fin 4 → Nat → Nat → Nat → Nat × Flags)
    (vd va : Fin 64) (b : OpB) (mk : Row8 → Option Modifier → Instr) : Prop :=
  ∀ (s : State) (row : Row8) (md : Option Modifier) (i : Nat) (d : Fmt × Nat) (a : Nat × List Nat) (bs : List Nat × List Nat)
    (old : RowBits), predOn s md = true → row8 s row = .ok i → viewUnit s vd 0 (i + doff md) = .ok d → ok d.1 (rmField md) = true →
    vecOperand s va (i + aoff md) d.1 = .ok a → b.read s (i + boff md) d.1 = .ok bs → (useD = true → rdRow s d.2 = .ok old) →
    wrRow s d.2 = .ok () →
    let r := (List.range d.1.perRow).map fun e =>
      el d.1 (rmField md) (a.2.getD e 0) (bs.2.getD e 0) (if useD then (elems d.1 old).getD e 0 else 0)
    exec (mk row md) s = .next ((s.touched (d.2 :: a.1 :: bs.1)).latch
      (.row d.2 fullMask (rowOf d.1 (r.map (·.1)))) (lat d.1) (Flags.all (r.map (·.2))))

/-- The state in which a context has one more memory operation in flight, whose translations its TLBs have now used (R196). -/
def withOp (s : State) (k : MemKind) (sc : Option Scope) (a : Attr) (es : List ElemLoc) : State :=
  (s.setMe { s.me with mops := s.me.mops ++ [⟨k, sc, a, es, .waiting [], s.me.ba, s.slot, s.me.sup, s.clock⟩] }).placesUsed
    s.cur (es.flatMap ElemLoc.all)

/-- The loads of a context in flight, and its posted stores. -/
def inFlight (s : State) (loads : Bool) : Nat := (s.me.mops.filter fun m => m.isLoad == loads).length

/-- A load with a byte outside the local aperture completes: its bytes in the scratchpad are read at issue, and it is one more load in
flight, of which at most 32 are. -/
def issuesLoad (s t : State) (i : Instr) (d : LoadTo) (sc : Option Scope) (a : Attr) (es : List ElemLoc) : Prop :=
  let locs := es.flatMap ElemLoc.all
  let offs := locs.filterMap t.me.spOf
  locs.mapM t.me.spOf = none → ∀ u : State, (offs = [] → u = t) → (offs ≠ [] → useBanks t offs = .ok u) →
    exec i s = .next (
      if inFlight t true < 32 then withOp u (.load d) sc a (es.map fun e => ⟨e.bytes.map t.readLoc, e.scale.map t.readLoc⟩)
      else s.heldBy .memory)

/-- An atomic instruction completes: in the scratchpad with its new bytes at the end of the cycle and its old value with latency 4;
elsewhere as one more operation in flight; a format or operation that the unit refuses, and an aperture page without RAP, take the
refused-atomic trap with their reason. -/
def AtomForm (op : Word → AtomOp) (readsD : Bool) (mk : Ty → Scope → Fin 64 → Fin 64 → Fin 64 → Option (BitVec 32) → Instr) : Prop :=
  ∀ (s : State) (ty : Ty) (sc : Scope) (sd sa sb : Fin 64) (ext : Option (BitVec 32)) (a b c : Word) (e : ElemLoc × Attr),
    rdT s ty sa = .ok a → rdT s ty sb = .ok b → (readsD = true → rdT s ty sd = .ok c) → s.me.openAtomic s.slot = none →
    wrT s ty sd = .ok () → scalarAccess s .store ty (some sc) (a + extValue ext) = .ok e →
    let f := ty.base
    let t := popT s ty (if readsD then [sa, sd, sb] else [sa, sb])
    let i := mk ty sc sd sa sb ext
    let va := (a + extValue ext).toNat
    (∀ p ta rest, e.1.bytes = .peer p ta :: rest → e.2.rap = false → exec i s = .next (s.slotTrap ⟨12, 0, 1, va, false⟩)) ∧
    ((∀ p ta rest, e.1.bytes ≠ .peer p ta :: rest) →
      (∀ r, atomRefused atomcap (op c) f = some r → exec i s = .next (s.slotTrap ⟨12, 0, r, va, false⟩)) ∧
      (atomRefused atomcap (op c) f = none →
        (e.1.bytes.mapM t.me.spOf = none → exec i s = .next (
          if inFlight t true < 32 then withOp t (.atomic (op c) ty b (t.me.loadDest ty sd)) (some sc) e.2 [e.1] else s.heldBy .memory)) ∧
        (∀ (offs : List Nat) (u : State), e.1.bytes.mapM t.me.spOf = some offs → useBanks t offs = .ok u → wrT u ty sd = .ok () →
          let old := leNat (offs.map (Memory.read t.myCore.sp))
          let r := atomNew (op c) f old b.toNat
          exec i s = .next ((u.latch (.spad (offs.zip (leBytes (f.memWidth / 8) r.1))) 1 0).latch
            (u.me.destT ty sd (f.extend old)) 4 r.2))))

/-- The pair of a context in array mode 1 or 2, no other worker of the pair's other core in solo mode. -/
def inArrayMode (s : State) : Prop :=
  s.me.sup = false ∧ (s.me.amode = 1 ∨ s.me.amode = 2) ∧ s.otherSolo s.cur = false

/-- The physical slot that a name stands for (R116), and its content. -/
def slotNamed (s : State) (om : Fin 16) (n : Nat) (o : OSlot) : Prop :=
  om.val < s.me.omcnt ∧ n = (s.me.ombase + om.val) % 16 ∧ o = (s.pair (pairOf s.cur)).slot n

/-- An SK instruction completes with `beats` beats: its rows land together at the end of the last, and the unit is occupied. -/
def summed (s : State) (o : SumOut) (t : State) : Prop :=
  t.me.lat = s.me.lat ++ (o.rows.zip (o.fl :: List.replicate o.rows.length 0)).map
    (fun r => ⟨.row r.1.1 fullMask r.1.2, o.beats, r.2, s.slot, s.me.ba, s.me.cc⟩) ∧
  t.myCore.sumop = some ⟨s.cur, o.beats, o.rows.map (·.1), s.me.ba⟩ ∧ t.mem = s.mem

/-- A copy instruction, its operands read in the state u: with an entry of its engine's queue free, its group in use, its local
aperture ranges mapped, its banks free and no earlier store of its context outstanding (R159, R172) it appends one command with its
operands and its context's translation state, in the lowest free entry; with every entry taken it is held. -/
def issues (s u : State) (i : Instr) (k : CmdKind) (d a b b2 : Word) (nt : Notif) (rw : Option RedWord) (entry : Loc) : Prop :=
  let e := engineOf u.slot
  (freeEntry (u.myCore.queue e) = none → exec i s = .next (s.heldBy .queue)) ∧
  ∀ qix : Nat, freeEntry (u.myCore.queue e) = some qix → groupUsed u nt = .ok () →
    let v := u.sweep u.cur
    ∀ n : Cmd, copyCmd v k qix d a b b2 nt rw entry = .ok n → v.storesBefore = false →
    let p := n.probe v (v.myCore.queue e)
    p.rangesOk v = .ok () → (k = .cmcast → inMcast n = true) → takeBanks v (p.allBanks v) = .ok () →
    ∃ (t : State) (c : Cmd), exec i s = .next t ∧ t.myCore.queue e = v.myCore.queue e ++ [c] ∧
      c.kind = k ∧ c.qix = qix ∧ c.ctx = v.cur ∧ c.ba = v.me.ba ∧ c.d = d ∧ c.a = a ∧ c.b = b ∧ c.nt = nt ∧ c.rw = rw ∧
      c.ptroot = v.me.ptroot ∧ c.sup = v.me.sup ∧ c.done = 0 ∧ c.total = copyTotal k b b2 ∧
      (nt.gv = false → c.phase = .queued ∧ c.banks = p.allBanks v ∧ t.me = v.me ∧ t.mem = v.mem)

/-- A bundle presented: in issue from now on, the translation of its address used (R196). -/
def presents (s : State) (i : Iss) : State :=
  let t := s.useTlb s.cur fun e => e.covers (field s.me.ptroot.toNat 63 52) s.me.fetch.pc
  t.setMe { t.me with iss := some i, stall := none }

/-- The slots of a bundle in issue commit one after another (R59, R60): each one's instruction acts on the state that the one before it
left, and the bundle's end follows the last; a slot that traps ends it. No slot meets a breakpoint, waits or is held. -/
def slotsRun (x : Nat) : Bundle → State → State → Prop
  | [], s, t => t = s.finishBundle x
  | (sl, i) :: r, s, t => ∃ b : Iss, (s.ctx x).iss = some b ∧ (s.ctx x).breaks b sl = false ∧ b.ending ≠ .rft ∧
      ∃ v : State, exec i { s.setCtx x { s.ctx x with iss := some { b with todo := (sl, i) :: r } } with cur := x, slot := sl } = .next v ∧
        (v.ctx x).stall = none ∧ (if (v.ctx x).iss = none then t = v else slotsRun x r v t)

end Sys2Proof.Machine

open Sys2Proof Sys2Proof.Machine

/-- R312, R313: the members of the integer mould in register form, on every type, give the table's results with their exposed
latencies (R304) and raise no flag.
R312, R313: the same of the immediate form, the immediate sign-extended.
R328, R357, R361: SEL, CLZ and POPC complete whenever their operands can be read and their destination written: SEL gives sA or sB as
its predicate says, CLZ the leading zeros and POPC the ones of the low w bits, each with latency 1. -/
def Obligations.IntegerForms : Prop :=
  (RegForm 1 .add sumOf ∧ RegForm 1 .sub differenceOf ∧ RegForm 3 .mul (fun f a b => a * b % 2 ^ f.opWidth) ∧
   RegForm 1 .min lesser ∧ RegForm 1 .max greater ∧
   RegForm 1 .and (fun _ a b => a &&& b) ∧ RegForm 1 .or (fun _ a b => a ||| b) ∧ RegForm 1 .xor (fun _ a b => a ^^^ b) ∧
   RegForm 1 .shl (fun f a b => a * 2 ^ (b % 256) % 2 ^ f.opWidth) ∧
   RegForm 1 .shr (fun _ a b => a / 2 ^ (b % 256)) ∧
   RegForm 1 .shra (fun f a b => signedRight f.opWidth a (b % 256))) ∧
  (ImmForm 1 .addImm sumOf ∧ ImmForm 1 .subImm differenceOf ∧ ImmForm 3 .mulImm (fun f a b => a * b % 2 ^ f.opWidth) ∧
   ImmForm 1 .minImm lesser ∧ ImmForm 1 .maxImm greater ∧
   ImmForm 1 .andImm (fun _ a b => a &&& b) ∧ ImmForm 1 .orImm (fun _ a b => a ||| b) ∧ ImmForm 1 .xorImm (fun _ a b => a ^^^ b) ∧
   ImmForm 1 .shlImm (fun f a b => a * 2 ^ (b % 256) % 2 ^ f.opWidth) ∧
   ImmForm 1 .shrImm (fun _ a b => a / 2 ^ (b % 256)) ∧
   ImmForm 1 .shraImm (fun f a b => signedRight f.opWidth a (b % 256))) ∧
  (∀ (s : State) (p : Fin 16) (sd sa sb : Fin 64) (a b : Word), rdS s sa = .ok a → rdS s sb = .ok b → wrS s sd = .ok () →
    exec (.sel p sd sa sb) s = .next (s.latch (.sreg (s.me.bankOf sd) sd (if rdP s p then a else b)) 1 0)) ∧
  (∀ (s : State) (ty : Ty) (sd sa : Fin 64) (a : Word), rdT s ty sa = .ok a → wrT (popT s ty [sa]) ty sd = .ok () →
    let w := ty.base.opWidth
    let put (n : Nat) := (popT s ty [sa]).latch ((popT s ty [sa]).me.destT ty sd (BitVec.ofNat 64 n)) 1 0
    exec (.clz ty sd sa) s = .next (put ((List.range w).takeWhile fun i => !a.getLsbD (w - 1 - i)).length) ∧
    exec (.popc ty sd sa) s = .next (put ((List.range w).filter fun i => a.getLsbD i).length))

/-- R333, R356: DIV, REM and MULH, their encodings, results and latency. DIV rounds toward zero and REM has the sign of a; a divisor of 0
gives ones and a; none raises a flag or a trap. MULH gives the high w bits of the product. A type the rules leave out is an
illegal-instruction trap, slot cause. -/
def Obligations.DivisionAndHighProduct : Prop :=
  decodesSR 0x05 .div ∧ decodesSR 0x06 .rem ∧ decodesSR 0x04 .mulh ∧ failingSlotTraps ∧
  RegForm 12 .div (fun f a b => if b = 0 then 2 ^ f.opWidth - 1 else wrap f.opWidth (Int.tdiv (f.toInt a) (f.toInt b))) ∧
  RegForm 12 .rem (fun f a b => if b = 0 then a else wrap f.opWidth (Int.tmod (f.toInt a) (f.toInt b))) ∧
  RegForm 3 .mulh (fun f a b => wrap f.opWidth (f.toInt a * f.toInt b / (2 ^ f.opWidth : Nat))) ∧
  decodeSlot .S 0x140841B8 [] = some (.div (.fmt .i32) 1 2 3) ∧ decodeSlot .S 0x100841C0 [] = some (.mulh (.fmt .i64) 1 2 3) ∧
  (∀ s : State, wrS s 1 = .ok () → let put (v : Word) (lat : Nat) := s.latch (.sreg (s.me.bankOf 1) 1 v) lat 0
    (rdS s 2 = .ok (-7) → rdS s 3 = .ok 2 → exec (.div (.fmt .i32) 1 2 3) s = .next (put (-3) 12) ∧
      exec (.rem (.fmt .i32) 1 2 3) s = .next (put (-1) 12)) ∧
    (rdS s 2 = .ok 0xFFFFFFFFFFFFFFFD → rdS s 3 = .ok 0x4000000000000000 →
      exec (.mulh (.fmt .i64) 1 2 3) s = .next (put 0xFFFFFFFFFFFFFFFF 3) ∧
      exec (.mulh (.fmt .n64) 1 2 3) s = .next (put 0x3FFFFFFFFFFFFFFF 3)))

/-- R319, R355: the bit fields and the immediate moves, their encodings, results and latency; a field past bit 63, a set SX of BFI and
a MOVHI without its extension word fail at decode. -/
def Obligations.FieldsAndMoves : Prop :=
  (∀ (w : BitVec 32) (x : List (BitVec 32)),
    let n := w.toNat
    let d := Fin.ofNat 64 (n / 2 ^ 19)
    let a := Fin.ofNat 64 (n / 2 ^ 13)
    let p := Fin.ofNat 64 (n / 2 ^ 7)
    let l := Fin.ofNat 64 (n / 2 ^ 1)
    let sx := w.getLsbD 25
    let fits := x = [] ∧ w.getLsbD 0 = false ∧ p.val + l.val + 1 ≤ 64
    (n / 2 ^ 26 = 0x13 → decodeSlot .S w x = if fits then some (.bfx sx d a p l) else none) ∧
    (n / 2 ^ 26 = 0x14 → decodeSlot .S w x = if fits ∧ sx = false then some (.bfi d a p l) else none) ∧
    (n / 2 ^ 26 = 0x1A → decodeSlot .S w x =
      if sx = false ∧ x = [] then some (.movi d (.short (w.extractLsb' 0 19)))
      else if sx = false ∧ n % 2 ^ 19 = 0 ∧ x.length = 1 then some (.movi d (.long (x.headD 0))) else none) ∧
    (n / 2 ^ 26 = 0x1B → decodeSlot .S w x =
      if sx = false ∧ n % 2 ^ 19 = 0 ∧ x.length = 1 then some (.movhi d (x.headD 0)) else none)) ∧
  failingSlotTraps ∧
  (∀ (s : State) (sd sa : Fin 64) (a d : Word), rdS s sa = .ok a → rdS s sd = .ok d → wrS s sd = .ok () →
    let put (v : Word) := s.latch (.sreg (s.me.bankOf sd) sd v) 1 0
    (∀ pos lenm1 : Fin 64, pos.val + lenm1.val + 1 ≤ 64 →
      exec (.bfx false sd sa pos lenm1) s = .next (put ((a.extractLsb' pos.val (lenm1.val + 1)).setWidth 64)) ∧
      exec (.bfx true sd sa pos lenm1) s = .next (put ((a.extractLsb' pos.val (lenm1.val + 1)).signExtend 64)) ∧
      ∃ v : Word, exec (.bfi sd sa pos lenm1) s = .next (put v) ∧ ∀ i < 64,
        v.getLsbD i = if pos.val ≤ i ∧ i ≤ pos.val + lenm1.val then a.getLsbD (i - pos.val) else d.getLsbD i) ∧
    (∀ v : BitVec 19, exec (.movi sd (.short v)) s = .next (put (v.signExtend 64))) ∧
    (∀ v : BitVec 32, exec (.movi sd (.long v)) s = .next (put (v.signExtend 64)) ∧
      exec (.movhi sd v) s = .next (put (v ++ d.extractLsb' 0 32)))) ∧
  decodeSlot .S 0x4C188416 [] = some (.bfx false 3 4 8 11) ∧ decodeSlot .S 0x50188416 [] = some (.bfi 3 4 8 11) ∧
  decodeSlot .S 0x681FFFFB [] = some (.movi 3 (.short (-5))) ∧
  decodeSlot .S 0x68180000 [0x0ABCDEF0] = some (.movi 3 (.long 0x0ABCDEF0)) ∧
  decodeSlot .S 0x6C180000 [0x12345678] = some (.movhi 3 0x12345678)

/-- R329, R335: CMP writes its predicate with latency 1 and FCMP with latency 2; an integer condition is that of the numbers the
type reads; a NaN makes ne and un true and the others false, NV is set by the ordered conditions on a NaN and by every
condition on a signalling NaN. -/
def Obligations.Compares : Prop :=
  (∀ (s : State) (ty : Ty) (c : Cond) (pd : Fin 16) (sa sb : Fin 64) (a b : Word), rdT s ty sa = .ok a → rdT s ty sb = .ok b →
    let x := ty.base.toInt a.toNat
    let y := ty.base.toInt b.toNat
    let r : Option Bool := match c with
      | .eq => some (decide (x = y)) | .ne => some (decide (x ≠ y)) | .lt => some (decide (x < y))
      | .le => some (decide (x ≤ y)) | .gt => some (decide (y < x)) | .ge => some (decide (y ≤ x)) | .un => none
    ∀ v, r = some v → exec (.cmp ty c pd sa sb) s = .next ((popT s ty [sa, sb]).latch (.pred pd v) 1 0)) ∧
  (∀ (s : State) (f : Fmt) (c : Cond) (pd : Fin 16) (sa sb : Fin 64) (a b : Word), rdS s sa = .ok a → rdS s sb = .ok b →
    let x := f.fp.dec (f.low a)
    let y := f.fp.dec (f.low b)
    ∃ v fl, exec (.fcmp (.fmt f) c pd sa sb) s = .next (s.latch (.pred pd v) 2 fl) ∧
      v = (if x.isNan ∨ y.isNan then c == .ne || c == .un else match c with
        | .eq => x.eq y | .ne => !x.eq y | .lt => x.lt y | .le => !y.lt x | .gt => y.lt x | .ge => !x.lt y | .un => false) ∧
      (fl = if (x.isNan ∨ y.isNan) ∧ (c = .lt ∨ c = .le ∨ c = .gt ∨ c = .ge) ∨ x.isSig ∨ y.isSig then flNV else 0))

/-- R334, R336: the floating instructions form their expression exactly, round once, and write the result with its exposed latency
and its flags; FMA reads sD at issue; FCVT converts between any two of the types 0 to 12.
R336: FCVT to an integer saturates: from an integer without a flag, from a floating or tapered value by R88; to a tapered type it
writes the encoding of the exact value (R91). -/
def Obligations.ScalarFloating : Prop :=
  (∀ (s : State) (f : Fmt) (rm : Rm) (sd sa sb : Fin 64) (a b d : Word), f.isFloat = true → rdS s sa = .ok a → rdS s sb = .ok b →
     rdS s sd = .ok d → wrS s sd = .ok () →
     let x := f.fp.dec (f.low a)
     let y := f.fp.dec (f.low b)
     let z := f.fp.dec (f.low d)
     let put (r : Val × Flags) (l : List Val) :=
       s.latch (.sreg (s.me.bankOf sd) sd (f.extend (f.fp.rnd rm r.1).1)) 4 ((f.fp.rnd rm r.1).2 ||| r.2 ||| sigFlags l)
     exec (.fadd (.fmt f) rm sd sa sb) s = .next (put (Val.add rm x y) [x, y]) ∧
     exec (.fmul (.fmt f) rm sd sa sb) s = .next (put (Val.mul x y) [x, y]) ∧
     exec (.fma (.fmt f) rm sd sa sb) s =
       .next (put ((Val.add rm (Val.mul x y).1 z).1, (Val.add rm (Val.mul x y).1 z).2 ||| (Val.mul x y).2) [x, y, z]) ∧
     (∀ src : Fmt, src ≠ .fx48 →
       let v := src.scalarVal (src.low a)
       let put (n : Nat) (fl : Flags) := s.latch (.sreg (s.me.bankOf sd) sd (BitVec.ofNat 64 (n % 2 ^ f.opWidth))) 3 fl
       exec (.fcvt f src rm sd sa) s = .next (put (f.fp.rnd rm v).1 ((f.fp.rnd rm v).2 ||| sigFlags [v])))) ∧
  (∀ (s : State) (dst src : Fmt) (rm : Rm) (sd sa : Fin 64) (a : Word), src ≠ .fx48 → rdS s sa = .ok a → wrS s sd = .ok () →
     let v := src.scalarVal (src.low a)
     let put (w : Word) (fl : Flags) := s.latch (.sreg (s.me.bankOf sd) sd w) 3 fl
     (dst.isInt = true → exec (.fcvt dst src rm sd sa) s = .next (
       if src.isInt then put (dst.extend (wrap dst.opWidth (max dst.range.1 (min dst.range.2 (src.toInt (src.low a)))))) 0
       else put (dst.extend (wrap dst.opWidth (toIntFmt dst rm v).1)) (toIntFmt dst rm v).2)) ∧
     (dst.isTap = true → exec (.fcvt dst src rm sd sa) s = .next (
       put (BitVec.ofNat 64 ((encTap dst rm v).1 % 2 ^ (if dst = .t6 then 6 else 8))) ((encTap dst rm v).2 ||| sigFlags [v]))))

/-- R320, R323, R343, R358: the transfers of a bundle in issue. A branch is taken when its predicate says so; the relative forms
count from the origin address; CALL writes the next bundle address to s55 with latency 1 and reads its target before. -/
def Obligations.Transfers : Prop :=
  ∀ (s : State) (i : Iss) (off : BitVec 20), s.me.iss = some i →
    let rel := (BitVec.ofNat 64 i.origin + BitVec.ofInt 64 (2 * off.toInt)).toNat
    (∀ (pn : Bool) (p : Fin 16), exec (.br pn p off) s = .next (if rdP s p ^^ pn then tookTransfer s i rel else s)) ∧
    exec (.jmp off) s = .next (tookTransfer s i rel) ∧
    (∀ (sn : Fin 64) (a : Word), rdS s sn = .ok a → exec (.jmpReg sn) s = .next (tookTransfer s i a.toNat)) ∧
    (∀ a : Word, rdS s 55 = .ok a → exec .ret s = .next (tookTransfer s i a.toNat)) ∧
    (wrS s 55 = .ok () →
      let t := s.latch (.sreg (s.me.bankOf 55) 55 (BitVec.ofNat 64 i.nextBa)) 1 0
      exec (.call off) s = .next (tookTransfer t i rel) ∧
      ∀ (sn : Fin 64) (a : Word), rdS s sn = .ok a → exec (.callReg sn) s = .next (tookTransfer t i a.toNat))

/-- R349: LOOP with a count above 0 pushes a loop whose body follows the LOOP bundle; with a count of 0 it pushes nothing and goes
on behind the body, whose words are noted for a repeat word there (R51); a fifth loop, or a LOOP from a repeat word, takes the illegal-instruction trap at its slot. -/
def Obligations.LoopPushes : Prop :=
  ∀ (s : State) (i : Iss) (pin : Bool) (sa : Fin 64) (bodyw : BitVec 10) (a : Word), s.me.iss = some i → rdS s sa = .ok a →
    let n := a.toNat % 2 ^ 32
    let l := s.me.stack
    (i.rep = 0 → 0 < n → (hd : l.depth < 4) → ∃ l' : Loops, exec (.loop pin sa bodyw) s = .next (s.setMe (s.me.setStack l')) ∧
      l'.depth = l.depth + 1 ∧ l'.floor = l.floor ∧ l'.start[l.depth] = BitVec.ofNat 64 i.nextBa ∧
      l'.fin[l.depth] = BitVec.ofNat 64 (i.nextBa + 2 * bodyw.toNat) ∧ (l'.count[l.depth]).toNat = n ∧
      ∀ k : Fin 4, k.val ≠ l.depth →
        l'.start.get k = l.start.get k ∧ l'.fin.get k = l.fin.get k ∧ l'.count.get k = l.count.get k) ∧
    (i.rep = 0 → n = 0 → exec (.loop pin sa bodyw) s =
      .next (s.setMe { s.me with iss := some { i with
        nextBa := i.nextBa + 2 * bodyw.toNat, skip := some (i.nextBa, i.nextBa + 2 * bodyw.toNat) } })) ∧
    (i.rep ≠ 0 ∨ (0 < n ∧ 4 ≤ l.depth) → exec (.loop pin sa bodyw) s = .next (s.slotTrap (TrapInfo.of 1 2)))

/-- R256, R322, R369: TRAP and BRK note the trap that follows their bundle, of class 15 and 16 with their code.
R255, R341, R342, R359, R360: HALT ends a worker after its bundle and is illegal in a communication context; RFT is a privilege
trap in user mode and returns in supervisor mode once no result of the supervisor is in flight but those of its own bundle; RFUI is
illegal while UIACT is 0 and transfers to the shadow s57, no load of which is pending.
R264, R385: LIVE notes its entry only under a pending save request whose grace window runs, in user mode outside a handler, with no loop active and no
multicast window, and otherwise does nothing; WAITI is illegal in supervisor mode, waits while no user interrupt is pending, and
otherwise does nothing. -/
def Obligations.EndingInstructions : Prop :=
  (∀ (s : State) (i : Iss) (code : BitVec 16), s.me.iss = some i →
     exec (.trap code) s = .next (s.setMe { s.me with iss := some { i with after := some ⟨15, 0, code.toNat, 0, false⟩ } }) ∧
     exec (.brk code) s = .next (s.setMe { s.me with iss := some { i with after := some ⟨16, 0, code.toNat, 0, false⟩ } })) ∧
  (∀ (s : State) (i : Iss), s.me.iss = some i →
     exec .halt s = .next (if s.isComm s.cur then s.slotTrap (TrapInfo.of 1 2)
       else s.setMe { s.me with iss := some { i with ending := .halt } }) ∧
     (s.me.sup = false → exec .rft s = .next (s.slotTrap (TrapInfo.of 2 0))) ∧
     (s.me.sup = true → (∀ l ∈ s.me.lat, l.born = s.me.cc) → (∀ m ∈ s.me.mops, m.sup = false ∨ m.hasResult = false) →
       exec .rft s = .next (s.setMe { s.me with iss := some { i with ending := .rft } })) ∧
     (s.me.uiact = false → exec .rfui s = .next (s.slotTrap (TrapInfo.of 1 2))) ∧
     (s.me.uiact = true → ∀ v : Word, (s.me.sup = true → s.me.pendingS .shadow 57 = false ∧ v = s.me.getS .shadow 57) →
       (s.me.sup = false → rdS s 57 = .ok v) → exec .rfui s = .next (s.setMe { s.me with
       iss := some { i with target := some v.toNat, ending := .rfui } }))) ∧
  ((∀ (s : State) (i : Iss) (e : Fin 256), s.me.iss = some i →
     exec (.live e) s = .next (
       if s.me.grace ≠ none ∧ s.me.grace ≠ some 0 ∧ s.me.sup = false ∧ s.me.uiact = false ∧ s.me.hasMcast = false ∧ s.me.loops.depth = 0 then
         s.setMe { s.me with iss := some { i with live := some e } }
       else s)) ∧
   (∀ s : State, s.me.sup = true → exec .waiti s = .next (s.slotTrap (TrapInfo.of 1 2))) ∧
   (∀ s : State, s.me.sup = false → s.me.uiq = [] → exec .waiti s = .next (s.heldBy .waiti)) ∧
   (∀ s : State, s.me.sup = false → s.me.uiq ≠ [] → exec .waiti s = .next s))

/-- R365, R366, R368: SYSR reads every register that exists for its mode with latency 2; SYSW writes at the end of its cycle a value
that meets the layout; a supervisor's register in user mode is a privilege trap, a read-only register or a bad layout an
illegal-instruction trap.
R156, R367: a UBANK register that a load of the user is to write holds both until the load has landed. -/
def Obligations.SystemRegisters : Prop :=
  (∀ (s : State) (sd : Fin 64) (n : Fin 4096), (s.me.sup = true ∨ sysReadSup n.val = false) → wrS s sd = .ok () →
    exec (.sysr sd n) s = .next (if s.me.pendingBank n.val then s.heldBy .memory
      else s.latch (.sreg (s.me.bankOf sd) sd (sysRead s s.cur n.val)) 2 0)) ∧
  (∀ (s : State) (sd : Fin 64) (n : Fin 4096), s.me.sup = false → sysReadSup n.val = true →
    exec (.sysr sd n) s = .next (s.slotTrap (TrapInfo.of 2 0))) ∧
  (∀ (s : State) (sa : Fin 64) (n : Fin 4096) (v : Word), rdS s sa = .ok v → n.val ≠ 0x119 →
    exec (.sysw sa n) s = .next (
      if s.me.sup = false ∧ sysWriteUser n.val = false then s.slotTrap (TrapInfo.of 2 0)
      else if sysReadOnly n.val = true ∨ sysLayout n.val v = false then s.slotTrap (TrapInfo.of 1 2)
      else if s.me.pendingBank n.val then s.heldBy .memory
      else s.latch (.sys n.val v) 1 0)) ∧
  (∀ (s : State) (sa : Fin 64) (v : Word), rdS s sa = .ok v →
    exec (.tbaWrite sa) s = .next (if s.me.sup then s.latch (.sys 0x111 v) 1 0 else s.slotTrap (TrapInfo.of 2 0)))

/-- R199: a TLBINV of each kind, first presented, leaves in the TLBs of the cores, clusters and dies in its scope exactly the entries
that do not match it, and with package scope none in the export TLB; it completes once every access that was translated by then has been
performed and the walks under way then have ended, and is held at its slot until then; in user mode it is a privilege trap. That a walk
under way ends on the new tables is the model's reading (log entries 8, 18). -/
def Obligations.TlbInvalidation : Prop :=
  ∀ (s : State) (sa : Fin 64) (v : Word) (kind scope : Nat), rdS s sa = .ok v →
    let i : Instr := if kind = 0 then .tlbinvEntry sa else if kind = 1 then .tlbinvAsid sa else .tlbinvAll sa
    (s.me.sup = false → exec i s = .next (s.slotTrap (TrapInfo.of 2 0))) ∧
    (s.me.sup = true → (scope = 1 ∨ scope = 2) → v.toNat / 2 ^ 16 = 0 → field v.toNat 3 2 = scope → kind < 3 →
      (kind = 0 → canonical s.me.tlbiva.toNat = true) →
      (∀ n : Nat, s.me.inv = some n → exec i s = .next (
        if s.accessesDone (invDies s.cur scope) n then s.setMe { s.me with inv := none } else s.heldBy .answer)) ∧
      (s.me.inv = none → ∃ t : State,
        exec i s = .next (if t.accessesDone (invDies s.cur scope) s.clock then t.setMe { t.me with inv := none } else t.heldBy .answer) ∧
        (let kept (d : Nat) (l : List TlbEntry) := if scope = 2 ∨ d = dieOf s.cur then
            l.filter fun e => !e.matches kind (field v.toNat 15 4) s.me.tlbiva.toNat else l
         (∀ k : Nat, k < 160 → (t.core k).tlb = kept (k / 40) (s.core k).tlb) ∧
         (∀ c : Nat, c < 40 → (t.cluster c).tlb = kept (c / 10) (s.cluster c).tlb) ∧
         (∀ d : Nat, d < 4 → (t.die d).tlb = kept d (s.die d).tlb)) ∧
        (∀ d : Nat, d < 4 → (t.die d).walks = (s.die d).walks) ∧
        t.hub.xtlb = (if scope = 2 then [] else s.hub.xtlb) ∧
        t.ctxs = (s.setMe { s.me.keepDropped (s.tlbs s.cur) with inv := some s.clock }).ctxs ∧ t.mem = s.mem))

/-- R37, R39, R377: VIEWSET writes a view register at the end of its cycle; a reserved bit is an illegal-instruction trap, a field out
of range or a view that leaves the partition a view fault with the geometry cause. -/
def Obligations.ViewRegisters : Prop :=
  ∀ (s : State) (vw sa : Fin 64) (v : Word), rdS s sa = .ok v →
    let r := ViewReg.of v
    exec (.viewset vw sa) s = .next (
      if 2 ^ 34 ≤ v.toNat then s.slotTrap (TrapInfo.of 1 2)
      else if r.fieldsOk = false ∨ r.geometryOk (rdSys s 0x101).toNat = false then s.slotTrap (TrapInfo.of 3 3)
      else s.latch (.view vw v) 1 0)

/-- R106, R370 to R373, R384: the mould on views.
R370, R372: the mould with a scalar broadcast to every element. -/
def Obligations.VectorForms : Prop :=
  (∀ vd va vb : Fin 64,
     let b := OpB.view vb
     VecForm false rmFloat latAdd elAdd vd va b (.vadd vd va vb) ∧ VecForm false rmFloat latAdd elSub vd va b (.vsub vd va vb) ∧
     VecForm false mulFmt (fun _ => 4) elMul vd va b (.vmul vd va vb) ∧ VecForm true mulFmt (fun _ => 4) elFma vd va b (.vfma vd va vb) ∧
     VecForm false anyFmt latAdd elMax vd va b (.vmax vd va vb) ∧ VecForm false anyFmt latAdd elMin vd va b (.vmin vd va vb) ∧
     VecForm false anyFmt (fun _ => 2) elAnd vd va b (.vand vd va vb) ∧ VecForm false anyFmt (fun _ => 2) elOr vd va b (.vor vd va vb) ∧
     VecForm false anyFmt (fun _ => 2) elXor vd va b (.vxor vd va vb) ∧ VecForm false shiftFmt (fun _ => 2) elShl vd va b (.vshl vd va vb) ∧
     VecForm false shiftFmt (fun _ => 2) elShr vd va b (.vshr vd va vb) ∧ VecForm false anyFmt latAdd elCmp vd va b (.vcmp vd va vb) ∧
     VecForm true anyFmt latAdd elClamp vd va b (.vclamp vd va vb) ∧ VecForm true anyFmt (fun _ => 2) elSel vd va b (.vsel vd va vb) ∧
     VecForm false anyFmt (fun _ => 2) elNeg vd va .none (.vneg vd va) ∧ VecForm false anyFmt (fun _ => 2) elAbs vd va .none (.vabs vd va)) ∧
  (∀ vd va sb : Fin 64,
     let b := OpB.scalar sb
     VecForm false rmFloat latAdd elAdd vd va b (.vaddS vd va sb) ∧ VecForm false rmFloat latAdd elSub vd va b (.vsubS vd va sb) ∧
     VecForm false mulFmt (fun _ => 4) elMul vd va b (.vmulS vd va sb) ∧ VecForm true mulFmt (fun _ => 4) elFma vd va b (.vfmaS vd va sb) ∧
     VecForm false anyFmt latAdd elMax vd va b (.vmaxS vd va sb) ∧ VecForm false anyFmt latAdd elMin vd va b (.vminS vd va sb) ∧
     VecForm false anyFmt (fun _ => 2) elAnd vd va b (.vandS vd va sb) ∧ VecForm false anyFmt (fun _ => 2) elOr vd va b (.vorS vd va sb) ∧
     VecForm false anyFmt (fun _ => 2) elXor vd va b (.vxorS vd va sb) ∧ VecForm false shiftFmt (fun _ => 2) elShl vd va b (.vshlS vd va sb) ∧
     VecForm false shiftFmt (fun _ => 2) elShr vd va b (.vshrS vd va sb) ∧ VecForm false anyFmt latAdd elCmp vd va b (.vcmpS vd va sb) ∧
     VecForm true anyFmt latAdd elClamp vd va b (.vclampS vd va sb))

/-- R372: the elements of integer views, on the w bits of the element; no operation raises a flag.
R372, R373: the elements of floating views: one rounding of the exact result; a NaN among the operands gives the canonical NaN of
sums, differences, products and fused products, of a negation and a magnitude, and loses against a number in a maximum or a minimum; a
signalling one sets NV. A maximum takes −0 as below +0, a clamp is the maximum and then the minimum, a comparison gives ones or zero.
R100, R372: an fx48 element counts as its low 48 bits, and its results are sign-extended to 64. -/
def Obligations.VectorElements : Prop :=
  (∀ (f : Fmt) (rm : Fin 4) (a b d : Nat), f.isInt = true →
     let w := f.viewWidth
     a < 2 ^ w → b < 2 ^ w → d < 2 ^ w →
     elAdd f rm a b d = ((a + b) % 2 ^ w, 0) ∧ elSub f rm a b d = ((a + (2 ^ w - b)) % 2 ^ w, 0) ∧
     elMul f rm a b d = (a * b % 2 ^ w, 0) ∧ elFma f rm a b d = ((a * b + d) % 2 ^ w, 0) ∧
     elMax f rm a b d = (greater f a b, 0) ∧ elMin f rm a b d = (lesser f a b, 0) ∧
     elClamp f rm a b d = (lesser f (greater f d a) b, 0) ∧
     elAnd f rm a b d = (a &&& b, 0) ∧ elOr f rm a b d = (a ||| b, 0) ∧ elXor f rm a b d = (a ^^^ b, 0) ∧
     elShl f rm a b d = (a * 2 ^ (b % 256) % 2 ^ w, 0) ∧
     elShr f rm a b d = (if f.signed then signedRight w a (b % 256) else a / 2 ^ (b % 256), 0) ∧
     elNeg f rm a b d = ((2 ^ w - a) % 2 ^ w, 0) ∧ elAbs f rm a b d = ((f.toInt a).natAbs % 2 ^ w, 0) ∧
     elSel f rm a b d = (if d = 0 then b else a, 0) ∧
     (elCmp f 0 a b d).1 = (if f.toInt a = f.toInt b then 2 ^ w - 1 else 0) ∧
     (elCmp f 1 a b d).1 = (if f.toInt a = f.toInt b then 0 else 2 ^ w - 1) ∧
     (elCmp f 2 a b d).1 = (if f.toInt a < f.toInt b then 2 ^ w - 1 else 0) ∧
     (elCmp f 3 a b d).1 = (if f.toInt a ≤ f.toInt b then 2 ^ w - 1 else 0)) ∧
  (∀ (f : Fmt) (rm : Fin 4) (a b d : Nat), f.isFp = true →
     let x := f.fp.dec a
     let y := f.fp.dec b
     let z := f.fp.dec d
     (elAdd f rm a b d).1 = (f.fp.rnd (Rm.ofCode rm.val) (Val.add (Rm.ofCode rm.val) x y).1).1 ∧
     (elSub f rm a b d).1 = (f.fp.rnd (Rm.ofCode rm.val) (Val.add (Rm.ofCode rm.val) x y.negate).1).1 ∧
     (elMul f rm a b d).1 = (f.fp.rnd (Rm.ofCode rm.val) (Val.mul x y).1).1 ∧
     (elFma f rm a b d).1 = (f.fp.rnd (Rm.ofCode rm.val) (Val.add (Rm.ofCode rm.val) (Val.mul x y).1 z).1).1 ∧
     (x.isNan ∨ y.isNan →
       (elAdd f rm a b d).1 = f.fp.nan ∧ (elSub f rm a b d).1 = f.fp.nan ∧ (elMul f rm a b d).1 = f.fp.nan ∧
       (elFma f rm a b d).1 = f.fp.nan) ∧
     (x.isSig ∨ y.isSig → ∀ el ∈ [elAdd, elSub, elMul, elFma, elMax, elMin, elCmp, elClamp],
       ((el f rm a b d).2.getLsbD 4) = true)) ∧
  (∀ (f : Fmt) (rm : Fin 4) (a b d : Nat), f.isFp = true →
     let x := f.fp.dec a
     let y := f.fp.dec b
     let put (v : Val) := (f.fp.rnd .ne v).1
     let ones (p : Prop) [Decidable p] := if p then 2 ^ f.viewWidth - 1 else 0
     let lower (u v : Val) : Prop := u.lt v = true ∨ (u.eq v = true ∧ u.neg? = true ∧ v.neg? = false)
     (x.isNan → y.isNan → (elMax f rm a b d).1 = f.fp.nan ∧ (elMin f rm a b d).1 = f.fp.nan) ∧
     (x.isNan → ¬ y.isNan → (elMax f rm a b d).1 = put y ∧ (elMin f rm a b d).1 = put y) ∧
     (¬ x.isNan → y.isNan → (elMax f rm a b d).1 = put x ∧ (elMin f rm a b d).1 = put x) ∧
     (¬ x.isNan → ¬ y.isNan → (lower x y → (elMax f rm a b d).1 = put y ∧ (elMin f rm a b d).1 = put x) ∧
       (¬ lower x y → (elMax f rm a b d).1 = put x) ∧ (¬ lower y x → (elMin f rm a b d).1 = put x) ∧
       (lower y x → (elMin f rm a b d).1 = put y)) ∧
     (elClamp f rm a b d).1 = (elMin f rm (elMax f rm d a 0).1 b 0).1 ∧
     ((elNeg f rm a b d).1 = if x.isNan then f.fp.nan else put x.negate) ∧
     ((elAbs f rm a b d).1 = if x.isNan then f.fp.nan else put x.abs) ∧
     (x.isSig → (elNeg f rm a b d).2.getLsbD 4 = true ∧ (elAbs f rm a b d).2.getLsbD 4 = true) ∧
     (x.isNan ∨ y.isNan → (elCmp f 0 a b d).1 = 0 ∧ (elCmp f 1 a b d).1 = ones True ∧ (elCmp f 2 a b d).1 = 0 ∧ (elCmp f 3 a b d).1 = 0 ∧
       (elCmp f 2 a b d).2.getLsbD 4 = true ∧ (elCmp f 3 a b d).2.getLsbD 4 = true) ∧
     (¬ x.isNan → ¬ y.isNan → (elCmp f 0 a b d).1 = ones (x.lt y = false ∧ y.lt x = false) ∧
       (elCmp f 1 a b d).1 = ones (x.lt y = true ∨ y.lt x = true) ∧ (elCmp f 2 a b d).1 = ones (x.lt y = true) ∧
       (elCmp f 3 a b d).1 = ones (y.lt x = false)) ∧
     (a < 2 ^ f.viewWidth → b < 2 ^ f.viewWidth → elAnd f rm a b d = (a &&& b, 0) ∧ elOr f rm a b d = (a ||| b, 0) ∧
       elXor f rm a b d = (a ^^^ b, 0) ∧ elSel f rm a b d = (if d % 2 ^ f.viewWidth = 0 then b else a, 0))) ∧
  (∀ (rm : Fin 4) (a b d : Nat),
     let f : Fmt := .fx48
     let fx (n : Nat) : Nat := wrap 64 (sextNat 48 (n % 2 ^ 48))
     let ones (p : Prop) [Decidable p] := if p then 2 ^ 64 - 1 else 0
     elAdd f rm a b d = (fx (a + b), 0) ∧ elSub f rm a b d = (fx (a + (2 ^ 48 - b % 2 ^ 48)), 0) ∧
     elMax f rm a b d = (fx (greater f a b), 0) ∧ elMin f rm a b d = (fx (lesser f a b), 0) ∧
     elClamp f rm a b d = (fx (lesser f (greater f d a) b), 0) ∧
     elAnd f rm a b d = (fx (a &&& b), 0) ∧ elOr f rm a b d = (fx (a ||| b), 0) ∧ elXor f rm a b d = (fx (a ^^^ b), 0) ∧
     elShl f rm a b d = (if 48 ≤ b % 256 then 0 else fx (a * 2 ^ (b % 256)), 0) ∧
     elShr f rm a b d = (fx (signedRight 48 a (b % 256)), 0) ∧
     elNeg f rm a b d = (fx (2 ^ 48 - a % 2 ^ 48), 0) ∧ elAbs f rm a b d = (fx (sextNat 48 a).natAbs, 0) ∧
     elSel f rm a b d = (if d % 2 ^ 48 = 0 then b else a, 0) ∧
     elCmp f 0 a b d = (ones (a % 2 ^ 48 = b % 2 ^ 48), 0) ∧ elCmp f 1 a b d = (ones (a % 2 ^ 48 ≠ b % 2 ^ 48), 0) ∧
     elCmp f 2 a b d = (ones (sextNat 48 a < sextNat 48 b), 0) ∧ elCmp f 3 a b d = (ones (sextNat 48 a ≤ sextNat 48 b), 0))

/-- R108, R383: VRED combines the elements of each of the eight clusters in ascending order into the cluster's lowest element and
writes zero elsewhere; its latency is 6. -/
def Obligations.Reductions : Prop :=
  ∀ (s : State) (vd va : Fin 64) (row : Row8) (md : Option Modifier) (i : Nat) (d : Fmt × Nat) (a : Nat × List Nat),
    predOn s md = true → row8 s row = .ok i → viewUnit s vd 0 (i + doff md) = .ok d →
    vecOperand s va (i + aoff md) d.1 = .ok a → wrRow s d.2 = .ok () →
    let k := d.1.perRow / 8
    let reduced (op : Nat → Nat → Nat × Flags) (fl : Flags) : State :=
      let out := (List.range d.1.perRow).map fun e =>
        if e % k = 0 then (match (a.2.drop e).take k with | [] => 0 | x :: xs => xs.foldl (fun p q => (op p q).1) x) else 0
      (s.touched [d.2, a.1]).latch (.row d.2 fullMask (rowOf d.1 out)) 6 fl
    (rmFloat d.1 (rmField md) = true →
      ∃ fl, exec (.vredAdd vd va row md) s = .next (reduced (fun p q => elAdd d.1 (rmField md) p q 0) fl)) ∧
    (∃ fl, exec (.vredMax vd va row md) s = .next (reduced (fun p q => elMax d.1 0 p q 0) fl)) ∧
    (∃ fl, exec (.vredMin vd va row md) s = .next (reduced (fun p q => elMin d.1 0 p q 0) fl))

/-- R104, R106, R376: the special functions map every element of an f32 row, with latency 6 for VRCP and VRSQ and 8 for the others;
their values on the edge cases of R104 are those of its table. -/
def Obligations.SpecialFunctions : Prop :=
  (∀ (s : State) (vd va : Fin 64) (row : Row8) (md : Option Modifier) (i d a : Nat) (b : RowBits),
    predOn s md = true → row8 s row = .ok i → viewUnit s vd 0 (i + doff md) = .ok (.f32, d) →
    viewUnit s va 0 (i + aoff md) = .ok (.f32, a) → rdRow s a = .ok b → wrRow s d = .ok () →
    let mapped (f : Nat → Nat × Flags) (lat : Nat) :=
      (s.touched [d, a]).latch (.row d fullMask (rowOf .f32 ((elems .f32 b).map fun e => (f e).1))) lat
        (Flags.all ((elems .f32 b).map fun e => (f e).2))
    exec (.vrcp vd va row md) s = .next (mapped spRcp 6) ∧ exec (.vrsq vd va row md) s = .next (mapped spRsq 6) ∧
    exec (.vexp2 vd va row md) s = .next (mapped spExp2 8) ∧ exec (.vlog2 vd va row md) s = .next (mapped spLog2 8) ∧
    exec (.vtanh vd va row md) s = .next (mapped spTanh 8)) ∧
  (let pInf := 0x7F800000
   let nInf := 0xFF800000
   let nZero := 0x80000000
   let nan := 0x7FC00000
   [0, nZero, pInf, nInf].map spRcp = [(pInf, flDZ), (nInf, flDZ), (0, 0), (nZero, 0)] ∧
   [0, nZero, pInf, nInf].map spRsq = [(pInf, flDZ), (nInf, flDZ), (0, 0), (nan, flNV)] ∧
   [0, nZero, pInf, nInf].map spExp2 = [(0x3F800000, 0), (0x3F800000, 0), (pInf, 0), (0, 0)] ∧
   [0, nZero, pInf, nInf].map spLog2 = [(nInf, flDZ), (nInf, flDZ), (pInf, 0), (nan, flNV)] ∧
   [0, nZero, pInf, nInf].map spTanh = [(0, 0), (nZero, 0), (0x3F800000, 0), (0xBF800000, 0)] ∧
   ∀ f ∈ [spRcp, spRsq, spExp2, spLog2, spTanh], f nan = (nan, 0) ∧ f 0x7F800001 = (nan, flNV))

/-- R370, R372, R378: VMOV copies the 512 bytes of a row whatever its format; VIOTA writes each element's number; both with
latency 2.
R375: VCVT reads the consecutive units of the longer row's worth of elements and writes as many; every cluster's sequence of
elements is converted in place; all rows land together after 4 core cycles. -/
def Obligations.MovesIndexRowsAndConversion : Prop :=
  (∀ (s : State) (vd va : Fin 64) (row : Row8) (md : Option Modifier) (i : Nat) (d : Fmt × Nat),
     predOn s md = true → row8 s row = .ok i → viewUnit s vd 0 (i + doff md) = .ok d → wrRow s d.2 = .ok () →
     (∀ (a : Fmt × Nat) (b : RowBits), viewUnit s va 0 (i + aoff md) = .ok a → rdRow s a.2 = .ok b →
       exec (.vmov vd va row md) s = .next ((s.touched [d.2, a.2]).latch (.row d.2 fullMask b) 2 0)) ∧
     ∃ vs : List Nat, exec (.viota vd row md) s = .next ((s.touched [d.2]).latch (.row d.2 fullMask (rowOf d.1 vs)) 2 0) ∧
       vs.length = d.1.perRow ∧ ∀ e < d.1.perRow,
         if d.1.isFp then ∃ (m : Nat) (x : Int), d.1.viewVal (vs.getD e 0) = .fin false m x ∧ x ≤ 0 ∧ m = e * 2 ^ (-x).toNat
         else d.1.viewVal (vs.getD e 0) = .ofInt (d.1.toInt e)) ∧
  (∀ (s : State) (vd va : Fin 64) (row : Row8) (md : Option Modifier) (i : Nat) (d a : Fmt × Nat) (ds as : List (Fmt × Nat))
     (rows : List RowBits), predOn s md = true → row8 s row = .ok i →
     viewUnit s vd 0 (i + doff md) = .ok d → viewUnit s va 0 (i + aoff md) = .ok a → cvtOk a.1 d.1 (rmField md) = true →
     unitsFrom s vd (i + doff md) (max a.1.perRow d.1.perRow / d.1.perRow) = .ok ds →
     unitsFrom s va (i + aoff md) (max a.1.perRow d.1.perRow / a.1.perRow) = .ok as →
     rdRows s (as.map (·.2)) = .ok rows → (∀ u ∈ ds, wrRow s u.2 = .ok ()) →
     let conv := (List.range 8).map fun c => (clusterSeq a.1 rows c).map (elCvt a.1 d.1 (rmOf md) (gridExp s))
     let out := fromClusters d.1 ds.length (conv.map fun q => q.map (·.1))
     ∃ t, exec (.vcvt vd va row md) s = .next t ∧
       ∃ fls : List Flags, t.me.lat = s.me.lat ++ (((ds.map (·.2)).zip out).zip fls).map fun r =>
         ⟨.row r.1.1 fullMask r.1.2, 4, r.2, s.slot, s.me.ba, s.me.cc⟩)

/-- R67: a slot with a modifier word whose predicate does not hold does nothing, where its rows are not awaited by the summary unit
(R137): stated of members of the vector mould, VRED, the special functions and the crossbar. -/
def Obligations.PredicatedOff : Prop :=
  ∀ (s : State) (md : Option Modifier) (vd va vb sa : Fin 64) (row : Row8) (r7 : Row7) (sel : Fin 128),
    predOn s md = false → s.myCore.sumop = none →
    ∀ i ∈ [Instr.vadd vd va vb row md, .vsubS vd va sa row md, .vcmp vd va vb row md, .vmov vd va row md, .viota vd row md,
        .vredMax vd va row md, .vrcp vd va row md, .xbcast vd va sel r7 md, .xrot vd va sel r7 md],
      exec i s = .next s

/-- R388, R389: XSV of one element writes only that element's bytes, XSV to all every element, with latency 4.
R42, R389: XVS reads one element at issue and writes it to sD with latency 4, signed formats sign-extended; an element past the
row's last is a view fault with the index cause.
R389: an element that XSV writes into a live row holds the scalar's bits and every other element is as before. -/
def Obligations.ElementMoves : Prop :=
  (∀ (s : State) (vw sn : Fin 64) (row : Row8) (i e : Nat) (u : Fmt × Nat) (v : Word),
     row8 s row = .ok i → viewUnit s vw 0 i = .ok u → rdS s sn = .ok v → wrRow s u.2 = .ok () →
     let bits : RowBits := BitVec.ofNat 4096 (scalarElem u.1 v) <<< (u.1.viewWidth * e)
     let t := (s.touched [u.2]).latch (.row u.2 (elemMask u.1 e) bits) 4 0
     (∀ el : Elem, Elem.ix el = e → exec (.xsvImm vw sn row el) s = .next (if e < u.1.perRow then t else s.slotTrap (TrapInfo.of 3 1))) ∧
     (∀ (sm : Fin 64) (w : Word), rdS s sm = .ok w → w.toNat % 2 ^ 16 = e →
       exec (.xsvScalar vw sn row sm) s = .next (if e < u.1.perRow then t else s.slotTrap (TrapInfo.of 3 1))) ∧
     exec (.xsvBcast vw sn row) s = .next ((s.touched [u.2]).latch
       (.row u.2 fullMask (rowOf u.1 (List.replicate u.1.perRow (scalarElem u.1 v)))) 4 0)) ∧
  (∀ (s : State) (vw sd : Fin 64) (row : Row8) (i e : Nat) (u : Fmt × Nat) (b : RowBits),
     row8 s row = .ok i → viewUnit s vw 0 i = .ok u → rdRow s u.2 = .ok b → wrS s sd = .ok () →
     let n := (b.extractLsb' (u.1.viewWidth * e) u.1.viewWidth).toNat
     let v := if u.1.signed then BitVec.ofInt 64 (sextNat u.1.opWidth n) else BitVec.ofNat 64 n
     let r : State := if e < u.1.perRow then (s.touched [u.2]).latch (.sreg (s.me.bankOf sd) sd v) 4 0
       else s.slotTrap (TrapInfo.of 3 1)
     (∀ el : Elem, Elem.ix el = e → exec (.xvsImm vw sd row el) s = .next r) ∧
     (∀ (sm : Fin 64) (w : Word), rdS s sm = .ok w → w.toNat % 2 ^ 16 = e → exec (.xvsScalar vw sd row sm) s = .next r)) ∧
  (∀ (f : Fmt) (row : Row) (e : Nat) (v : Word), row.dead = false → e < f.perRow →
     elems f (row.write (elemMask f e) (BitVec.ofNat 4096 (scalarElem f v) <<< (f.viewWidth * e))).bits =
       (elems f row.bits).set e (scalarElem f v))

/-- R43, R332: DEAD marks units FIRST to FIRST + count − 1 of a vector view at the end of its cycle; a unit past ROWS is a view fault
with the index cause, a range that starts inside ROWS and ends past it too; a view that is not of vector kind is one with the kind cause.
A marked row reads zero or traps as DEADMODE says, and a write revives it with its other bytes zero. -/
def Obligations.DeadRows : Prop :=
  (∀ (s : State) (vw : Fin 64) (first cntm1 : Fin 512) (rows : List Nat), rows.length = cntm1.val + 1 →
    (∀ j < rows.length, ∃ f, viewUnit s vw 0 (first.val + j) = .ok (f, rows.getD j 0)) →
    exec (.dead vw first cntm1) s = .next (s.latch (.dead rows) 1 0)) ∧
  (∀ (s : State) (vw : Fin 64) (first cntm1 : Fin 512), (ViewReg.of (rdVw s vw)).rows ≤ first.val →
    exec (.dead vw first cntm1) s = .next (s.slotTrap (TrapInfo.of 3 1))) ∧
  (∀ (s : State) (vw : Fin 64) (first cntm1 : Fin 512) (f : Fmt), let v := ViewReg.of (rdVw s vw)
    s.myCore.sumop = none → v.kind = 0 → Fmt.ofCode v.fmt = some f → first.val < v.rows → v.rows < first.val + cntm1.val + 1 →
    exec (.dead vw first cntm1) s = .next (s.slotTrap (TrapInfo.of 3 1))) ∧
  (∀ (s : State) (vw : Fin 64) (first cntm1 : Fin 512), let v := ViewReg.of (rdVw s vw)
    v.kind ≠ 0 → first.val < v.rows → exec (.dead vw first cntm1) s = .next (s.slotTrap (TrapInfo.of 3 2))) ∧
  (∀ (s : State) (r : Nat), s.me.snap = none → s.myCore.sumop = none → s.me.pendingRow r = false → s.myCore.retained r = false →
    (s.myCore.row r).dead = true →
    rdRow s r = if deadmode (rdSys s 0x001) then .error deadRow else .ok 0) ∧
  (∀ (row : Row) (mask : RowMask) (v : RowBits), row.dead = true → (row.write mask v).dead = false ∧
    ∀ k < 512, ((row.write mask v).bits.extractLsb' (8 * k) 8) = if mask.getLsbD k then v.extractLsb' (8 * k) 8 else 0)

/-- R110 to R113, R387: the crossbar moves lanes of 32 bits with latency 6: XBCAST one lane to all, XROT lane l to (l + r) mod 128,
XPERM each enabled lane to the destination its pattern names, zero elsewhere; two enabled lanes with one destination are an
illegal-schedule trap. -/
def Obligations.Crossbar : Prop :=
  ∀ (s : State) (vd va : Fin 64) (row : Row7) (md : Option Modifier) (i : Nat) (d a : Fmt × Nat) (b : RowBits),
    predOn s md = true → row7 s row = .ok i → viewUnit s vd 0 (i + doff md) = .ok d → viewUnit s va 0 (i + aoff md) = .ok a →
    rdRow s a.2 = .ok b → wrRow s d.2 = .ok () →
    let lane (l : Nat) := (lanes b).getD l 0
    let put (read : List Nat) (ls : List Nat) := (s.touched (d.2 :: a.2 :: read)).latch (.row d.2 fullMask (ofLanes ls)) 6 0
    (∀ sel : Fin 128, exec (.xbcast vd va sel row md) s = .next (put [] (List.replicate 128 (lane sel.val)))) ∧
    (∀ sel : Fin 128, ∃ ls : List Nat, exec (.xrot vd va sel row md) s = .next (put [] ls) ∧ ls.length = 128 ∧
      ∀ l < 128, ls.getD ((l + sel.val) % 128) 0 = lane l) ∧
    (∀ (sel : Fin 64) (r : Nat) (pb : RowBits), patternRow s sel.val = .ok r → rdRow s r = .ok pb →
      let pat := pattern pb sel.val
      let clash := ∃ j k : Nat, j < k ∧ k < 128 ∧ (pat.getD j (false, 0)).1 = true ∧ (pat.getD k (false, 0)).1 = true ∧
        (pat.getD j (false, 0)).2 = (pat.getD k (false, 0)).2
      (clash → exec (.xperm vd va sel row md) s = .next (s.slotTrap (TrapInfo.of 6 0))) ∧
      (¬ clash → ∃ ls : List Nat, exec (.xperm vd va sel row md) s = .next (put [r] ls) ∧ ls.length = 128 ∧
        (∀ j < 128, (pat.getD j (false, 0)).1 = true → ls.getD (pat.getD j (false, 0)).2 0 = lane j) ∧
        ∀ l < 128, (∀ j < 128, (pat.getD j (false, 0)).1 = true → (pat.getD j (false, 0)).2 ≠ l) → ls.getD l 0 = 0))

/-- R155, R156, R344, R345: LD reads the scratchpad at issue with latency 4; elsewhere it is one more pending load, of which at most 32
are in flight; a scoped LD at an address that is no multiple of its size takes the alignment fault.
R155, R156, R364: ST writes the scratchpad at the end of its issue cycle; elsewhere it is one more posted store, of which at most
64 are in flight. The bytes are the low bytes of the register, for t6 with [7:6] zero, for fx48 its 48 bits sign-extended. -/
def Obligations.ScalarAccesses : Prop :=
  (∀ (s : State) (ty : Ty) (sc : Option Scope) (sd : Fin 64) (m : MemArg) (va : Word), memAddr s ty m = .ok va → wrT s ty sd = .ok () →
     (∀ e : ElemLoc × Attr, scalarAccess s .load ty sc va = .ok e →
       let t := popT s ty (memRegs m)
       (∀ (offs : List Nat) (u : State), e.1.bytes.mapM t.me.spOf = some offs → useBanks t offs = .ok u →
         let n := leNat (offs.map (Memory.read t.myCore.sp))
         exec (.ld ty sc sd m) s = .next (u.latch (match linkIx ty sd with
           | none => .sreg (s.me.bankOf sd) sd (ty.base.extend n)
           | some k => .lout k (BitVec.ofNat 64 n)) 4 0)) ∧
       issuesLoad s t (.ld ty sc sd m) (s.me.loadDest ty sd) sc e.2 [e.1]) ∧
     (∀ k : Scope, sc = some k → va.toNat % (ty.base.memWidth / 8) ≠ 0 →
       exec (.ld ty sc sd m) s = .next (s.slotTrap ⟨7, 0, 0, va.toNat, false⟩))) ∧
  (∀ (s : State) (ty : Ty) (sc : Option Scope) (sd : Fin 64) (m : MemArg) (va v : Word), memAddr s ty m = .ok va → rdT s ty sd = .ok v →
     let bytes := storeBytes ty.base v
     (∀ e : ElemLoc × Attr, scalarAccess s .store ty sc va = .ok e →
       let t := popT s ty (sd :: memRegs m)
       (∀ (offs : List Nat) (u : State), e.1.bytes.mapM t.me.spOf = some offs → useBanks t offs = .ok u →
         exec (.st ty sc sd m) s = .next (u.storeLocal (e.1.bytes.zip bytes) 0) ∧
         (e.1.bytes = offs.map Loc.sp → exec (.st ty sc sd m) s = .next (u.latch (.spad (offs.zip bytes)) 1 0))) ∧
       (e.1.bytes.mapM t.me.spOf = none → exec (.st ty sc sd m) s = .next (
         if inFlight t false < 64 then withOp t (.store bytes) sc e.2 [e.1] else s.heldBy .memory))) ∧
     (∀ k : Scope, sc = some k → va.toNat % (ty.base.memWidth / 8) ≠ 0 →
       exec (.st ty sc sd m) s = .next (s.slotTrap ⟨7, 0, 0, va.toNat, false⟩)) ∧
     (∀ f : Fmt, ty = .fmt f → f ≠ .t6 → f ≠ .fx48 → bytes = leBytes (f.memWidth / 8) v.toNat))

/-- R208, R209, R310, R311, R315: the atomics.
R310, R315: the new values of atomics on integers of w bits: sums modulo 2^w, the larger, the smaller, bitwise, the operand, and
for ACAS the new value exactly when the old one equals the compared one. -/
def Obligations.Atomics : Prop :=
  (AtomForm .cas true .acas ∧ AtomForm (fun _ => .add) false .atomAdd ∧ AtomForm (fun _ => .max) false .atomMax ∧
   AtomForm (fun _ => .min) false .atomMin ∧ AtomForm (fun _ => .and) false .atomAnd ∧ AtomForm (fun _ => .or) false .atomOr ∧
   AtomForm (fun _ => .xor) false .atomXor ∧ AtomForm (fun _ => .swap) false .atomSwap) ∧
  (∀ (f : Fmt) (old b : Nat) (c : Word), f.isInt = true →
     let w := f.memWidth
     old < 2 ^ w → b < 2 ^ w →
     atomNew .add f old b = ((old + b) % 2 ^ w, 0) ∧ atomNew .max f old b = (greater f old b, 0) ∧
     atomNew .min f old b = (lesser f old b, 0) ∧ atomNew .and f old b = (old &&& b, 0) ∧ atomNew .or f old b = (old ||| b, 0) ∧
     atomNew .xor f old b = (old ^^^ b, 0) ∧ atomNew .swap f old b = (b, 0) ∧
     atomNew (.cas c) f old b = (if old = c.toNat % 2 ^ w then b else old, 0))

/-- R152, R390: FLUSH, INVAL and ZLINE, once the context's accesses have been performed, act on each line of their range in turn; a
range that is not in whole lines takes the alignment fault. A ZLINE with lines in aperture pages waits at its slot until their targets
have done them, and then completes; one that ends in a fabric error raises its imprecise fault (R259). -/
def Obligations.LineOperations : Prop :=
  ∀ (s : State) (sa sb : Fin 64) (ext : Option (BitVec 32)) (a b : Word), rdS s sa = .ok a → rdS s sb = .ok b →
    let va := (a + extValue ext).toNat
    let n := b.toNat
    (va % 128 ≠ 0 ∨ n % 128 ≠ 0 ∨ n = 0 →
      (∀ sc, ∀ i ∈ [Instr.flush sc sa sb ext, .inval sc sa sb ext], exec i s = .next (s.slotTrap ⟨7, 0, 0, va, false⟩)) ∧
      (s.me.openAtomic s.slot = none → ∀ sc, exec (.zline sc sa sb ext) s = .next (s.slotTrap ⟨7, 0, 0, va, false⟩))) ∧
    (va % 128 = 0 → n % 128 = 0 → 128 ≤ n → n ≤ 2 ^ 31 → touchesWindow s.me va n = false → s.me.mops.all (·.performed) = true →
      (∀ (sc : Scope) (ls : List (Nat × Xl)), lineRange s .load va (n / 128) = .ok ls →
        exec (.flush sc sa sb ext) s = .next (onLines
          (fun s k => if sc.code < 2 then s else s.cleanLine (clusterOf s.cur) k) s (ls.map (·.2))) ∧
        exec (.inval sc sa sb ext) s = .next (onLines (fun s k =>
          if sc.code < 2 then s.setCore (coreOf s.cur) { s.myCore with l1 := s.myCore.l1.filter (· != k) }
          else s.discardLine (clusterOf s.cur) k) s (ls.map (·.2)))) ∧
      (∀ (sc : Option Scope) (ls : List (Nat × Xl)), s.me.openAtomic s.slot = none → lineRange s .store va (n / 128) = .ok ls →
        (∀ l ∈ ls, scopeOk s.me (BitVec.ofNat 64 l.1) sc l.2 = .ok ()) →
        let t := onLines (zeroLine sc) s (ls.map (·.2))
        let away := (ls.map (·.2)).filter (·.loc.isPeer)
        (away = [] → exec (.zline sc sa sb ext) s = .next t) ∧
        (∀ (x : Xl) (r : List Xl), away = x :: r → exec (.zline sc sa sb ext) s =
          .next ((withOp t .zero (some .pod) x.attr (away.map fun y => ⟨[y.loc], none⟩)).heldBy .answer)))) ∧
    (∀ (sc : Option Scope) (m : MemOp), s.me.openAtomic s.slot = some m →
      let t := s.setMe { s.me with mops := s.me.mops.filter (· != m) }
      ((∃ bs, m.phase = .done bs) → exec (.zline sc sa sb ext) s = .next t) ∧
      (m.phase = .failed → exec (.zline sc sa sb ext) s = .next (t.memError s.cur m.ba)) ∧
      (∀ tag got, m.phase = .sent tag got → exec (.zline sc sa sb ext) s = .next (s.heldBy .answer)))

/-- R155, R379 to R382: VLD and VLDX load the elements of a row, at the consecutive addresses of VLD and at base plus index times size
of VLDX: one pending load outside the local aperture, with latency 6 and 8 inside it. -/
def Obligations.VectorLoads : Prop :=
  ∀ (s : State) (vd sa vi : Fin 64) (row : Row8) (md : Option Modifier) (i : Nat) (d : Fmt × Nat) (a : Word) (x0 : Xl)
    (es : List ElemLoc), predOn s md = true → row8 s row = .ok i → viewUnit s vd 0 (i + doff md) = .ok d → rdS s sa = .ok a →
    let pending (t : State) (addrs : Nat → List Word) (consec : Bool) (lat : Nat) (i : Instr) : Prop :=
      xlate t .load a.toNat false = .ok x0 → crossOk x0.attr.fmt d.1 (rmField md) = true → wrRow t d.2 = .ok () →
      vecElems t .load x0 x0.attr.es consec none (addrs x0.attr.es) = .ok es →
      let dst := LoadTo.row x0.attr.fmt d.1 (rmOf md) d.2
      let locs := es.flatMap ElemLoc.all
      let t := t.touched [d.2]
      issuesLoad s t i dst none x0.attr es ∧
      ∀ (offs : List Nat) (u : State), locs.mapM t.me.spOf = some offs → useBanks t offs = .ok u →
        let r := dst.write (elemValues es (offs.map (Memory.read t.myCore.sp)))
        exec i s = .next (u.latch r.1 lat r.2)
    (∀ off : BitVec 6, pending s (fun es => (List.range d.1.perRow).map fun e =>
        a + off.signExtend 64 * BitVec.ofNat 64 (d.1.perRow * es) + BitVec.ofNat 64 (e * es)) true 6 (.vld vd row sa off md)) ∧
    (∀ ix : List Nat × List Int, indexList s vi (i + aoff md) d.1.perRow = .ok ix →
      pending (s.touched ix.1) (fun es => ix.2.map fun k => a + BitVec.ofInt 64 (k * es)) false 8 (.vldx vd vi sa row md))

/-- R380 to R382: VST and VSTX store the elements of a row in ascending order; on an unblocked page outside the local aperture they are
one posted store of the elements' converted bytes. -/
def Obligations.VectorStores : Prop :=
  ∀ (s : State) (vd sa vi : Fin 64) (row : Row8) (md : Option Modifier) (i : Nat) (d : Fmt × Nat) (a : Word) (b : RowBits) (x0 : Xl)
    (es : List ElemLoc), predOn s md = true → row8 s row = .ok i → viewUnit s vd 0 (i + doff md) = .ok d → rdS s sa = .ok a →
    let posted (t : State) (addrs : Nat → List Word) (consec : Bool) (i : Instr) : Prop :=
      rdRow t d.2 = .ok b → xlate t .store a.toNat false = .ok x0 → crossOk x0.attr.fmt d.1 (rmField md) = true →
      vecElems t .store x0 x0.attr.es consec none (addrs x0.attr.es) = .ok es →
      let as := addrs x0.attr.es
      let t := t.touched [d.2]
      (∀ u : State, storeElems t x0 es d.1 (rmOf md) (as.zip (elems d.1 b)) = .ok u → exec i s = .next u) ∧
      (x0.attr.block = none → x0.attr.fmt.isTap = false → (es.flatMap ElemLoc.all).mapM t.me.spOf = none → inFlight t false < 64 →
        let ws := ((elems d.1 b).take as.length).map (cvtStore x0.attr.fmt d.1 (rmOf md))
        let fl := Flags.all (ws.map (·.2))
        let u := if fl = 0 then t else t.latch .flags 1 fl
        exec i s = .next (withOp u (.store (ws.flatMap fun w => leBytes x0.attr.es w.1)) none x0.attr es))
    (∀ off : BitVec 6, posted s (rowAddrs a off d.1.perRow) true (.vst vd row sa off md)) ∧
    (∀ ix : List Nat × List Int, indexList s vi (i + aoff md) d.1.perRow = .ok ix →
      posted (s.touched ix.1) (indexAddrs a ix.2) false (.vstx vd vi sa row md))

/-- R170, R179, R180: a REL waits until every load and store of its context has been performed, its multicast stores have landed and no
copy is in a transient state, an ACQ also until every load has; with these done REL of core or cluster scope changes nothing, and ACQ
of die scope or wider leaves no line of ordinary memory in its cluster's cache, and the memory-side cache holds the dirty bytes of
those lines; a scope above the MAXSC of a window it acts on is a window fault. FENCE waits for
the kinds it names and is bounded by no window (this last is the model's reading). -/
def Obligations.ReleasesAndAcquires : Prop :=
  ∀ (s : State) (sc : Scope),
    let performed (p : MemOp → Bool) : Prop := ∀ m ∈ s.me.mops, p m = true → m.performed = true
    let still := s.mcastDone s.cur = true ∧ s.transient? s.cur = false
    let released := if sc = .core ∨ sc = .cluster then s else s.releaseCaches s.cur sc
    (s.tooWide s.cur sc = true → exec (.rel sc) s = .next (s.slotTrap ⟨9, 0, 0, 0, false⟩) ∧
      exec (.acq sc) s = .next (s.slotTrap ⟨9, 0, 0, 0, false⟩)) ∧
    (s.tooWide s.cur sc = false →
      (performed (fun _ => true) ∧ still → exec (.rel sc) s = .next released) ∧
      (¬ (performed (fun _ => true) ∧ still) → exec (.rel sc) s = .next (s.heldBy .order)) ∧
      (performed MemOp.isLoad → ∃ t, exec (.acq sc) s = .next t ∧
        (if sc = .core ∨ sc = .cluster then t = s else (t.cluster (clusterOf s.cur)).lines = [] ∧
          (Memory.wf s.mem = true → ((s.cluster (clusterOf s.cur)).lines.map (·.1)).Nodup →
            ((s.die (dieOf s.cur)).abuf.map (·.1)).Nodup →
            ∀ q ∈ (s.cluster (clusterOf s.cur)).lines, ∀ k < 128, q.2.dirty.getLsbD k = true →
              Memory.read t.mem (128 * q.1 + k) = q.2.byte k))) ∧
      (¬ performed MemOp.isLoad → exec (.acq sc) s = .next (s.heldBy .order))) ∧
    (∀ loads stores copies : Bool, (loads = true → performed MemOp.isLoad) →
      (stores = true → performed MemOp.isStore ∧ s.mcastDone s.cur = true) →
      (copies = true → s.copiesDone s.cur = true) →
      exec (.fence sc loads stores copies) s = .next (if stores = true then released else s)) ∧
    (∀ stores copies : Bool, ¬ performed MemOp.isLoad → exec (.fence sc true stores copies) s = .next (s.heldBy .order))

/-- R30, R182, R337 to R339: FPOST releases and then increments the context's own flag at the end of the cycle or sends the increment
to its target, a count of 0 sending nothing; FWAIT is held while its flag is below the count, and with a shared window declared while a load is outstanding (R185), and then
subtracts the count and acquires at the flag's tag; an increment saturates at 65,535 and raises the tag to the increment's scope. -/
def Obligations.CountingFlags : Prop :=
  (∀ (s : State) (k : Fin 32) (n : BitVec 16), s.tooWide s.cur .core = false → s.released s.cur = true →
    exec (.fpost k n none) s = .next (if n = 0 then s else s.latch (.flagAdd k n.toNat .core) 1 0)) ∧
  (∀ (s : State) (k : Fin 32) (n : BitVec 16) (g : PostTarget),
    (Ident.within g.id g.sc s.hub.pkgid s.cur = false → exec (.fpost k n (some g)) s = .next (s.slotTrap (TrapInfo.of 1 2))) ∧
    (Ident.within g.id g.sc s.hub.pkgid s.cur = true → s.tooWide s.cur g.sc = false → s.released s.cur = true →
      exec (.fpost k n (some g)) s = .next (if n = 0 then s.releaseCaches s.cur g.sc
        else (s.releaseCaches s.cur g.sc).postFlag s.cur g.id k n.toNat g.sc))) ∧
  (∀ (s : State) (k : Fin 32) (n : BitVec 16),
    ((s.me.k.get k).toNat < n.toNat → exec (.fwait k n) s = .next (s.heldBy .flag)) ∧
    (n.toNat ≤ (s.me.k.get k).toNat → s.tooWide s.cur (s.me.ktag.get k) = false → s.me.mayAcquire = false →
      exec (.fwait k n) s = .next (s.heldBy .order)) ∧
    (n.toNat ≤ (s.me.k.get k).toNat → s.tooWide s.cur (s.me.ktag.get k) = false → s.me.mayAcquire = true →
      ∃ t, exec (.fwait k n) s = .next t ∧ t.me.ktag.get k = .core ∧ t.me.s = s.me.s ∧ t.me.k = s.me.k ∧
        t.me.lat = s.me.lat ++ (if n = 0 then [] else [⟨.flagSub k n.toNat, 1, 0, s.slot, s.me.ba, s.me.cc⟩]))) ∧
  (∀ (c : Ctx) (k : Fin 32) (n : Nat) (sc : Scope),
    let v := (c.k.get k).toNat + n
    let d := c.addFlag k n sc
    (d.k.get k).toNat = Nat.min v 65535 ∧ d.ktag.get k = (c.ktag.get k).max sc ∧ d.ctxctl.getLsbD 1 = (c.ctxctl.getLsbD 1 || 65535 < v) ∧
    ∀ j : Fin 32, j ≠ k → d.k.get j = c.k.get j ∧ d.ktag.get j = c.ktag.get j)

/-- R183, R316 to R318: BARA releases at its group's scope, raises AP and sends one arrival; BARW is held until the phase told to its
context has reached AP and then acquires; a group with EXPECT 0 or of which the worker is no member is an illegal instruction. -/
def Obligations.Barriers : Prop :=
  ∀ (s : State) (g : Fin 256) (l : Launch) (ix : Nat) (b : Bar), s.workerOf s.cur = some (l, ix) →
    let v := s.group l g.val
    (s.me.bars.find? (·.g == g) = some b → gExpect v = 0 → ∀ i ∈ [Instr.bara g, .barw g], exec i s = .next (s.slotTrap (TrapInfo.of 1 2))) ∧
    (s.me.bars.find? (·.g == g) = none → ∀ i ∈ [Instr.bara g, .barw g], exec i s = .next (s.slotTrap (TrapInfo.of 1 2))) ∧
    (s.me.bars.find? (·.g == g) = some b → gExpect v ≠ 0 →
      (s.tooWide s.cur (gScope v) = false → s.released s.cur = true → ∃ t, exec (.bara g) s = .next t ∧
        t.hub.msgs = s.hub.msgs ++ [.arrival l.id g] ∧
        t.me.bars = s.me.bars.map (fun o => if o.g = g then { b with ap := b.ap + 1 } else o)) ∧
      (2 ^ 15 ≤ (b.phase - b.ap).toNat → exec (.barw g) s = .next (s.heldBy .barrier)) ∧
      ((b.phase - b.ap).toNat < 2 ^ 15 → s.tooWide s.cur (gScope v) = false → s.me.mayAcquire = true →
        exec (.barw g) s = .next (s.acquireCaches s.cur (gScope v))))

/-- R242: MBREQ appends the sender and sA[60:0] to the cluster's mailbox of eight entries; MBTAKE, in the communication context alone,
takes the oldest; the forms with a predicate never wait. -/
def Obligations.Mailboxes : Prop :=
  ∀ s : State,
    let cl := clusterOf s.cur
    let box := (s.cluster cl).mail
    (∀ (sa : Fin 64) (v : Word), rdS s sa = .ok v → s.tooWide s.cur .cluster = false →
      let entry : BitVec 64 := BitVec.ofNat 64 (s.cur % 8 * 2 ^ 61 + v.toNat % 2 ^ 61)
      (s.mailCount cl < 8 → s.released s.cur = true →
        exec (.mbreq sa none) s = .next (s.latch (.mail entry) 1 0) ∧
        ∀ p : Fin 16, exec (.mbreq sa (some p)) s = .next ((s.latch (.mail entry) 1 0).latch (.pred p true) 1 0)) ∧
      (8 ≤ s.mailCount cl → exec (.mbreq sa none) s = .next (s.heldBy .mailbox) ∧
        ∀ p : Fin 16, exec (.mbreq sa (some p)) s = .next (s.latch (.pred p false) 1 0))) ∧
    (∀ (sd : Fin 64) (pd : Option (Fin 16)), s.isComm s.cur = false → exec (.mbtake sd pd) s = .next (s.slotTrap (TrapInfo.of 1 2))) ∧
    (∀ sd : Fin 64, s.isComm s.cur = true → wrS s sd = .ok () →
      (s.tooWide s.cur .cluster = true → ∀ pd : Option (Fin 16), exec (.mbtake sd pd) s = .next (s.slotTrap ⟨9, 0, 0, 0, false⟩)) ∧
      (∀ (e : BitVec 64) (rest : List (BitVec 64)), box = e :: rest → s.tooWide s.cur .cluster = false → s.me.mayAcquire = true →
        let t := (s.setCluster cl { s.cluster cl with mail := rest }).latch (.sreg (s.me.bankOf sd) sd e) 2 0
        exec (.mbtake sd none) s = .next t ∧
        ∀ p : Fin 16, exec (.mbtake sd (some p)) s = .next (t.latch (.pred p true) 1 0)) ∧
      (box = [] → s.tooWide s.cur .cluster = false → exec (.mbtake sd none) s = .next (s.heldBy .mailbox) ∧
        ∀ p : Fin 16, exec (.mbtake sd (some p)) s = .next (s.latch (.pred p false) 1 0)))

/-- R164, R166, R386: a WDECL whose checks pass leaves its window declared, live from the end of the cycle; any other is a window fault
with its base; WDROP marks a declared window, and is a window fault on one that is not. -/
def Obligations.WindowDeclarations : Prop :=
  (∀ (s : State) (wn : Fin 16) (sa sb se : Fin 64) (a b e : Word), rdS s sa = .ok a → rdS s sb = .ok b → rdS s se = .ok e →
    (winOk s wn a.toNat b.toNat e.toNat = false → exec (.wdecl wn sa sb se) s = .next (s.slotTrap ⟨9, 0, 0, a.toNat, false⟩)) ∧
    (winOk s wn a.toNat b.toNat e.toNat = true → ∃ (t : State) (w : Win), exec (.wdecl wn sa sb se) s = .next t ∧
      Map.find t.me.wins wn.val = some w ∧ w.live = false ∧ w.base = a.toNat ∧ w.len = b.toNat ∧ w.obj = 2 ^ (e.toNat % 16 + 7) ∧
      w.lc = 4096 * (s.me.spbase.toNat + e.toNat / 2 ^ 13 % 512) ∧ w.lclen = 4096 * (e.toNat / 2 ^ 22 % 512) ∧
      t.me.lat = s.me.lat ++ [⟨.window wn, 1, 0, s.slot, s.me.ba, s.me.cc⟩] ∧
      ∀ n : Nat, n ≠ wn.val → Map.find t.me.wins n = Map.find s.me.wins n)) ∧
  (∀ (s : State) (wn : Fin 16),
    (Map.find s.me.wins wn.val = none → exec (.wdrop wn) s = .next (s.slotTrap ⟨9, 0, 0, 0, false⟩)) ∧
    (∀ w : Win, Map.find s.me.wins wn.val = some w → w.dropping = false →
      exec (.wdrop wn) s = .next (s.setMe { s.me with wins := Map.put s.me.wins wn.val { w with dropping := true } })))

/-- R116 to R122, R128: in an array mode MCLAIM claims a slot with no fill in flight and no pass reading it, else waits or says so in
its predicate; MREL gives it back; MLD puts a fill of 128 rows in flight into a claimed one; outside an array mode each is a
schedule fault, in supervisor mode illegal. The model's choice, not the rules': that the scale bytes outside the scratchpad come by one
load (log entry 57), and the cycles that a fill of granules from the scratchpad takes (log entry 41). -/
def Obligations.OperandSlots : Prop :=
  (∀ (s : State) (om : Fin 16) (sa vw : Fin 64) (banks : BitVec 32) (row : Row8) (pd : Option (Fin 16)),
    ∀ i ∈ [Instr.mclaim om pd, .mrel om, .mldSp om sa banks, .mldView om vw row],
      (s.me.sup = true → exec i s = .next (s.slotTrap (TrapInfo.of 1 2))) ∧
      (s.me.sup = false → s.me.amode ≠ 1 → s.me.amode ≠ 2 → (i = .mldView om vw row → s.myCore.sumop = none) →
        exec i s = .next (s.slotTrap (TrapInfo.of 5 0)))) ∧
  (∀ (s : State) (om : Fin 16) (n : Nat) (o : OSlot), inArrayMode s → slotNamed s om n o →
    let claimed (b : Bool) := s.setSlot (pairOf s.cur) n { o with claimed := b }
    let ready := o.claimed = true ∨ (o.fill = none ∧ s.reads s.cur n = false)
    (ready → exec (.mclaim om none) s = .next (claimed true) ∧
      ∀ p, exec (.mclaim om (some p)) s = .next ((claimed true).latch (.pred p true) 1 0)) ∧
    (¬ ready → exec (.mclaim om none) s = .next (s.heldBy .claim) ∧
      ∀ p, exec (.mclaim om (some p)) s = .next (s.latch (.pred p false) 1 0)) ∧
    (o.claimed = true → exec (.mrel om) s = .next (claimed false)) ∧
    (o.claimed = false → exec (.mrel om) s = .next (s.slotTrap (TrapInfo.of 5 0))) ∧
    (o.claimed = true → o.fill = none → s.reads s.cur n = false →
      let filled (t : State) (f : Fill) := t.setSlot (pairOf s.cur) n { o with fill := some f }
      (∀ (vw : Fin 64) (row : Row8) (i : Nat) (u : Fmt × Nat) (bs : List RowBits), row8 s row = .ok i → viewUnit s vw 1 i = .ok u →
        rdRows s ((List.range 64).map fun k => (u.2 + k) % 512) = .ok bs →
        exec (.mldView om vw row) s = .next (filled (s.touched ((List.range 64).map fun k => (u.2 + k) % 512))
          ⟨17, 0, coreOf s.cur, [], u.1, 0, bs.flatMap halves, []⟩)) ∧
      (∀ (sa : Fin 64) (banks : BitVec 32) (va : Word) (g : Nat × Xl) (offs : List Nat) (ls : List Loc),
        let vas := (List.range 128).map fun r => va + BitVec.ofNat 64 (256 * pitchOf s * r)
        rdS s sa = .ok va → va.toNat % 256 = 0 → pitchOf s ≠ 0 → localGranule s .load va = .ok g →
        localRows s .load (fun b => b.fmt == g.2.attr.fmt && b.bl == g.2.attr.bl && b.sws == g.2.attr.sws && tileFmt b.fmt) 1 vas =
          .ok offs → coversBanks banks offs = true → takeBanks s banks = .ok () → fillScales s g.2.attr vas = .ok ls →
        s.me.owesSp (fun _ => true) (offs.flatMap fun o => span o 256) = false →
        s.me.owesSp (fun _ => true) (ls.filterMap s.me.spOf) = false →
        let far := (numbered ls).filter fun p => (s.me.spOf p.2).isNone
        (far ≠ [] → inFlight s true < 32) →
        exec (.mldSp om sa banks) s = .next (filled
          (if far = [] then s else withOp s (.load (.scales n (far.map (·.1)))) none g.2.attr (far.map fun p => ⟨[p.2], none⟩))
          ⟨fillTime offs, banks, coreOf s.cur, offs, g.2.attr.fmt, if g.2.attr.fmt.isTap then g.2.attr.bl else 0,
            offs.map (tileRow s.myCore.sp), ls.map fun l => (s.me.spOf l).elim 0 (Memory.read s.myCore.sp)⟩))))

/-- R118, R123 to R128: with its operands claimed and filled, its accumulator owned and the array free, an MMA starts a pass and takes
its token; MZERO starts a pass of one beat and MST a drain of 64 beats when no pass is in flight on the accumulator; MSEQ writes
MSEQR; an operation in the busy window is a schedule fault. -/
def Obligations.ArrayOperations : Prop :=
  ∀ s : State, inArrayMode s →
    let start (t : State) (p : Pass) := t.setMe { t.me with passes := t.me.passes ++ [p], busy := p.beats * p.len }
    (∀ (lenm1 : Fin 16) (seq : BitVec 32), exec (.mseq lenm1 seq) s =
      .next (s.latch (.sys 0x006 (BitVec.ofNat 64 (lenm1.val * 2 ^ 32 + seq.toNat))) 1 0)) ∧
    (∀ (oma omb : Fin 16) (acc : Fin 4) (cop : Cop) (rm : Rm) (beatsm1 : Fin 128) (na nb : Nat) (oa ob : OSlot),
      slotNamed s oma na oa → slotNamed s omb nb ob → oa.claimed = true → ob.claimed = true →
      (s.me.busy ≠ 0 ∨ ownsAcc s.me.amode (coreOf s.cur) acc = false →
        exec (.mma oma omb acc cop rm beatsm1) s = .next (s.slotTrap (TrapInfo.of 5 0)) ∧
        exec (.mzero acc) s = .next (s.slotTrap (TrapInfo.of 5 0))) ∧
      (s.me.busy = 0 → ownsAcc s.me.amode (coreOf s.cur) acc = true → oa.fill = none → ob.fill = none →
        oa.fmt.memWidth = ob.fmt.memWidth → s.tokenServed s.cur = true →
        exec (.mma oma omb acc cop rm beatsm1) s = .next (start (s.dropToken s.cur)
          ⟨acc, Fin.ofNat 16 na, Fin.ofNat 16 nb, false, if cop = .seq then seqOf (rdSys s 0x006) else [cop], rm, beatsm1.val + 1,
            s.me.beatLen, 0, 0, 0, 0, s.me.ba⟩))) ∧
    (∀ acc : Fin 4, s.me.busy = 0 → ownsAcc s.me.amode (coreOf s.cur) acc = true → (∀ p ∈ s.me.passes, p.acc ≠ acc) →
      let drain (dst : DrainTo) (banks : BitVec 32) := s.setMe { s.me with
        drains := s.me.drains ++ [⟨acc, dst, s.me.beatLen, 0, [], 0, banks, s.me.ba, s.me.cc⟩], busy := 64 * s.me.beatLen }
      exec (.mzero acc) s = .next (start s ⟨acc, 0, 0, true, [], .ne, 1, s.me.beatLen, 0, 0, 0, 0, s.me.ba⟩) ∧
      (∀ (vw : Fin 64) (row : Row8) (i : Nat) (u : Nat), row8 s row = .ok i → viewUnit s vw 2 i = .ok (.f32, u) →
        (∀ k < 128, wrRow s ((u + k) % 512) = .ok ()) → exec (.mstView acc vw row) s = .next (drain (.rows u) 0)) ∧
      (∀ (sa : Fin 64) (banks : BitVec 32) (va : Word) (offs : List Nat), rdS s sa = .ok va → va.toNat % 256 = 0 → 2 ≤ pitchOf s →
        localRows s .store (fun b => b.fmt == .f32) 2 ((List.range 128).map fun r => va + BitVec.ofNat 64 (256 * pitchOf s * r)) =
          .ok offs → coversBanks banks offs = true → takeBanks s banks = .ok () →
        exec (.mstSp acc sa banks) s = .next (drain (.sp offs) banks)))

/-- R131 to R143: with its unit free, its predicate on, and objects of its kind in live rows, each SK instruction starts one operation
with its beats and its object or rows; while the unit is occupied it is held, in supervisor mode it is illegal where its predicate holds (R67). -/
def Obligations.Summaries : Prop :=
  ∀ (s : State) (vd va vb sb : Fin 64) (row : Row8) (md : Option Modifier) (kind : SumKind),
    let all := [Instr.skinit vd kind sb row md, .skq vd va row md, .skh vd va row md, .skd vd va row md, .skmerge vd va vb row md,
      .skqry vd va sb row md, .skest vd va row md, .sktop vd va row md]
    (s.me.sup = true → predOn s md = true → ∀ i ∈ all, exec i s = .next (s.slotTrap (TrapInfo.of 1 2))) ∧
    (s.me.sup = false → s.myCore.sumop ≠ none → ∀ i ∈ all, exec i s = .next (s.heldBy .summary)) ∧
    (s.me.sup = false → s.myCore.sumop = none → predOn s md = true → ∀ i : Nat, row8 s row = .ok i →
      let runs (ins : Instr) (o : SumOut) : Prop :=
        (∀ r ∈ o.rows, wrRow s r.1 = .ok ()) → ∃ t, exec ins s = .next t ∧ summed s o t
      (∀ (d : Nat) (seed : Word), sumUnit s vd (i + doff md) = .ok d → rdS s sb = .ok seed →
        runs (.skinit vd kind sb row md) ⟨8, writeObj d (match kind with
          | .quantile => (Quant.fresh seed.toNat).obj
          | .heavy => (Heavy.mk 0 (List.replicate 252 HSlot.empty)).obj
          | .distinct => 0), 0⟩) ∧
      (∀ (d : Nat) (f : Fmt) (a : Nat) (ok : Fmt → Bool) (bs : List RowBits) (b : RowBits),
        sumUnit s vd (i + doff md) = .ok d → sumRow s va (i + aoff md) ok = .ok (f, a) → bs.length = 8 →
        rdRowsEng s (objSpan d ++ [a]) = .ok (some (bs ++ [b])) →
        let o := objOf bs
        (ok = holdsF32 → kindOf o = some .quantile → (Quant.of o).wellFormed = true →
          let q := (Quant.of o).row (elems .f32 b)
          runs (.skq vd va row md) ⟨1 + 9 * q.halvings, writeObj d q.obj, 0⟩) ∧
        (ok = (fun f => f == .i32 || f == .n32 || f == .f32) → kindOf o = some .heavy →
          let h := (Heavy.of o).row (elems .f32 b)
          runs (.skh vd va row md) ⟨1 + h.2, writeObj d h.1.obj, 0⟩) ∧
        (ok = (fun f => f == .i32 || f == .n32 || f == .f32 || f == .i64 || f == .n64) → kindOf o = some .distinct →
          runs (.skd vd va row md)
            ⟨1, writeObj d (dcObj (dcRow (dcOf o) ((elems f b).map (dcKey f)))), 0⟩)) ∧
      (∀ (d a b : Nat) (as bs : List RowBits) (r : SumObj × Nat), sumUnit s vd (i + doff md) = .ok d →
        sumUnit s va (i + aoff md) = .ok a → sumUnit s vb (i + boff md) = .ok b → as.length = 8 →
        rdRowsEng s (objSpan a ++ objSpan b) = .ok (some (as ++ bs)) → mergeObjs (objOf bs) (objOf as) = some r →
        runs (.skmerge vd va vb row md) ⟨r.2, writeObj d r.1, 0⟩) ∧
      (∀ (a : Nat) (bs : List RowBits), sumUnit s va (i + aoff md) = .ok a → rdRowsEng s (objSpan a) = .ok (some bs) →
        let o := objOf bs
        (∀ (d : Fmt × Nat) (q : Word) (k : Nat), sumRow s vd (i + doff md + 0) (· == .f32) = .ok d → kindOf o = some .quantile →
          (Quant.of o).wellFormed = true → rdS s sb = .ok q → ((Quant.of o).query (q.toNat % 2 ^ 32)).1 = some k →
          runs (.skqry vd va sb row md) ⟨16, [(d.2, allLanes k)], ((Quant.of o).query (q.toNat % 2 ^ 32)).2⟩) ∧
        (∀ d : Fmt × Nat, sumRow s vd (i + doff md + 0) (· == .f32) = .ok d → kindOf o = some .distinct →
          runs (.skest vd va row md) ⟨12, [(d.2, allLanes (dcEstimate (dcOf o)).1)], (dcEstimate (dcOf o)).2⟩) ∧
        (∀ ds : List (Fmt × Nat), (List.range 8).mapM (fun j => sumRow s vd (i + doff md + j) (fun f => f.viewWidth == 32)) = .ok ds →
          kindOf o = some .heavy →
          runs (.sktop vd va row md) ⟨16, (ds.map (·.2)).zip (Heavy.of o).top, 0⟩)))

/-- R157 to R159, R202, R305, R324, R325, R330: the copy instructions of three registers, and CGATHER with its count in the register
after sB.
R244, R245: CHSEND and CHRECV are illegal outside a communication context; a malformed entry, or one of the other direction, is a
channel fault, poisoned bytes of it a fatal error (R300); otherwise each appends one command with the place of its entry. An entry in
another package is left out (log entry 65). -/
def Obligations.CopyCommands : Prop :=
  (∀ (s : State) (sd sa sb : Fin 64) (nt : Notif) (rw : RedWord) (d a b : Word),
     rdS s sd = .ok d → rdS s sa = .ok a → rdS s sb = .ok b →
     issues s s (.cpy sd sa sb nt) .cpy d a b 0 nt none (.sp 0) ∧ issues s s (.cpy2d sd sa sb nt) .cpy2d d a b 0 nt none (.sp 0) ∧
     issues s s (.cfill sd sa sb nt) .cfill d a b 0 nt none (.sp 0) ∧
     issues s s (.cmcast sd sa sb nt) .cmcast d a b 0 nt none (.sp 0) ∧
     issues s s (.cred sd sa sb nt rw) .cred d a b 0 nt (some rw) (.sp 0) ∧
     ∀ n : Word, rdS s (sb + 1) = .ok n → issues s s (.cgather sd sa sb nt) .cgather d a b n nt none (.sp 0)) ∧
  (∀ (s : State) (ch : Fin 256) (nt : Notif),
     (s.isComm s.cur = false → ∀ i ∈ [Instr.chsend ch nt, .chrecv ch nt], exec i s = .next (s.slotTrap (TrapInfo.of 1 2))) ∧
     (s.isComm s.cur = true → ∀ (xs : List Xl) (l : Loc),
       let ls := xs.map (·.loc)
       let w := s.sweep s.cur
       xlateN s .load (s.me.chtab + BitVec.ofNat 64 (64 * ch.val)) 64 = .ok xs → s.chanPlace ls = some l →
       w.storesBefore = false → w.storesTo ls = false → w.entryHome s.cur ls = none →
       let u := w.enterAll s.cur [l]
       let v := u.chan s.cur l
       (∀ pa : Nat, u.poisonOf ls = some pa → ∀ i ∈ [Instr.chsend ch nt, .chrecv ch nt],
         exec i s = .next ((w.logged (.poison pa)).fatalCtx s.cur)) ∧
       (u.poisonOf ls = none → (∃ k ∈ ls, w.locInStack k = false) → ∀ i ∈ [Instr.chsend ch nt, .chrecv ch nt],
         exec i s = .next (s.slotTrap (TrapInfo.of 10 0))) ∧
       (u.poisonOf ls = none → (∀ k ∈ ls, w.locInStack k = true) →
       (v.ok = false → ∀ i ∈ [Instr.chsend ch nt, .chrecv ch nt], exec i s = .next (s.slotTrap (TrapInfo.of 10 0))) ∧
       (v.ok = true →
         (v.dir = false → issues s u (.chsend ch nt) .chsend 0 0 0 0 nt none l ∧
           exec (.chrecv ch nt) s = .next (s.slotTrap (TrapInfo.of 10 0))) ∧
         (v.dir = true → issues s u (.chrecv ch nt) .chrecv 0 0 0 0 nt none l ∧
           exec (.chsend ch nt) s = .next (s.slotTrap (TrapInfo.of 10 0)))))))

/-- R212, R225, R226: a doorbell of the owning function sets TAIL and disables a queue whose ring it overfills; any other is logged;
a held completion entry is written, oldest first, when its queue has room; a coalescing window that ends sends its vector's message;
a launch whose workers have all retired completes with status 0, or 7 where one failed. -/
def Obligations.DoorbellsAndCompletions : Prop :=
  (∀ (s : State) (fn q : Nat) (v : BitVec 32), s.hub.boot = .done →
    let d := s.qdesc q
    let t := s.setQ q 159 128 v.toNat
    (q < 1024 → field d 69 66 = fn → exec (.doorbell fn q v) s =
      .next (if (v.toNat + 2 ^ 32 - qHead d) % 2 ^ 32 < 2 ^ qLog d then t else t.queueError q)) ∧
    (1024 ≤ q ∨ field d 69 66 ≠ fn → exec (.doorbell fn q v) s = .next { s with log := s.log ++ [.doorbell fn q] })) ∧
  (∀ (s : State) (q : Nat) (c : Completion) (before after : List Completion), s.hub.heldc = before ++ c :: after →
    c.q = q → (∀ b ∈ before, b.q ≠ q) → exec (.heldCompletionWrite q) s = .next (
      if (field (s.qdesc q) 31 0 + 2 ^ 32 - field (s.qdesc q) 63 32) % 2 ^ 32 = 2 ^ cqLog (s.qdesc q) then s
      else ({ s with hub := { s.hub with heldc := before ++ after } } : State).writeEntry c)) ∧
  (∀ (s : State) (q : Nat) (c : Coal), s.hub.coal.find? (·.q == q) = some c →
    exec (.msixCoalesceExpiry q) s = .next (if c.due ≤ s.clock then
      { s with toHost := s.toHost ++ [.msix (field (s.qdesc q) 110 100)], hub := { s.hub with coal := s.hub.coal.filter (·.q != q) } }
      else s)) ∧
  (∀ (s : State) (i : Nat) (l : Launch), s.launch i = some l →
    (s.launchOver l = false → exec (.launchComplete i) s = .next s) ∧
    (s.launchOver l = true → l.replay = none →
      let u := s.cleanDies (runsOn l.part)
      exec (.launchComplete i) s = .next (({ u with hub := { u.hub with launches := u.hub.launches.filter (·.id != i) } } : State).complete
        ⟨l.q, l.user, l.pktidx, if l.failed then 7 else 0, 0, 0⟩)))

/-- R13, R16, R213 to R216, R224, R279, R341, R342: a launch packet that passes its checks becomes a launch and one that fails completes with
the check's status; a placed worker starts at its kernel's entry with its indices in s0 to s3 and its argument in s4; a worker that
has retired leaves its context free, and one that a debugger has halted stays; an edge of a completed node is recorded, and a node that can start becomes a launch. -/
def Obligations.AdmissionAndPlacement : Prop :=
  (∀ (s : State) (q : Nat) (p : Fin 4), s.queues.find? (fun q => qOn (s.qdesc q) && qBad (s.qdesc q)) = none →
    (64 ≤ s.hub.holding → exec .admitLaunch s = .next s) ∧
    (s.hub.holding < 64 → s.chooseQueue = some (q, p) → (s.headPacket (s.qdesc q)).typ = 0 →
      let v := s.qdesc q
      let k := s.headPacket v
      let u := s.setQ q 191 160 (qHead v + 1)
      let pt : Word := BitVec.ofNat 64 (field v 383 320)
      let check := checkTask u k k.low false (qPrio v) pt
        (fun c vw => k.launch u.hub.admitted q (qHead v) none c vw pt (BitVec.ofNat 64 (field v 447 384)) (BitVec.ofNat 64 k.args))
      (∀ st : Nat, check = .error st → exec .admitLaunch s = .next (u.complete ⟨q, BitVec.ofNat 64 k.user, qHead v, st, 0, 0⟩)) ∧
      (∀ l : Launch, check = .ok l → ∃ t, exec .admitLaunch s = .next t ∧ t.hub.launches = s.hub.launches ++ [l] ∧
        t.hub.admitted = s.hub.admitted + 1))) ∧
  (∀ (s : State) (x : CtxId) (l : Launch) (f : Fit), s.dispatch (dieOf x.val) = some (.fresh x.val l.id) → s.launch l.id = some l →
    l.cohort = false → s.fitOf l x.val = some f → ∃ t, exec (.workerPlace x) s = .next t ∧
      let i := l.next (dieOf x.val)
      let c := t.ctx x.val
      c.occ = .worker l.id i ∧ c.run = .running ∧ c.sup = false ∧ c.fetch = ⟨l.code.codeva + 2 * l.code.entry, none, 0⟩ ∧
      c.ptroot = l.ptroot &&& ~~~0x1FFF ∧ c.tvec = l.tvec ∧ c.vw = l.views ∧ c.rsbase = BitVec.ofNat 32 f.rs ∧ c.spbase = BitVec.ofNat 64 f.sp ∧
      c.s.get 0 = BitVec.ofNat 64 i ∧ c.s.get 1 = BitVec.ofNat 64 (i % l.x) ∧ c.s.get 2 = BitVec.ofNat 64 (i / l.x % l.y) ∧
      c.s.get 3 = BitVec.ofNat 64 (i / (l.x * l.y)) ∧ c.s.get 4 = l.args ∧ ∀ r : Fin 64, 6 ≤ r.val → c.s.get r = 0) ∧
  (∀ s : State, s.me.halted = true → s.me.dstep = false → exec .workerRetire s = .next s) ∧
  (∀ (s : State) (l : Launch) (i : Nat), s.me.run = .retiring → (s.pair (pairOf s.cur)).frozen = none → s.workerOf s.cur = some (l, i) →
    (s.me.halted && !s.me.dstep) = false →
    (s.me.impq ≠ [] → exec .workerRetire s = .next (s.fatalCtx s.cur)) ∧
    (s.me.impq = [] → s.drained s.cur = false → exec .workerRetire s = .next s) ∧
    (s.me.impq = [] → s.drained s.cur = true → s.me.wins = [] → l.hasNext (dieOf s.cur) = false →
      ∃ t, exec .workerRetire s = .next t ∧ t.me.occ = .free ∧ t.me.run = .idle ∧ t.me.arrcfg = 0 ∧ t.mem = s.mem)) ∧
  (∀ (s : State) (r : Replay) (n k : Nat) (tk : Task × Nat × Nat) (es : List (Nat × List Region)) (g : Nat × List Region), k < 4096 →
    s.hub.replays.find? (·.id == r.id) = some r → n ∈ r.ended → (n, k) ∉ r.edges → s.node r.ptroot r.nodes n = some tk →
    s.edgesOf r.ptroot r.nodes n = some es → es[k]? = some g →
    ∃ t, exec (.graphEdgeComplete r.id (4096 * n + k)) s = .next t ∧
      t.hub.replays = s.hub.replays.map fun p => if p.id = r.id then { p with edges := p.edges ++ [(n, k)] } else p) ∧
  (∀ (s : State) (r : Replay) (n : Nat) (tk : Task × Nat × Nat) (l : Launch), s.hub.replays.find? (·.id == r.id) = some r →
    s.hub.holding < 64 → s.startable r n = true → (∀ m < n, s.startable r m = false) → s.node r.ptroot r.nodes n = some tk →
    checkTask s { tk.1 with typ := 0 } (field tk.1.low 281 256 + field tk.1.low 223 0) true r.prio r.ptroot
      (fun k vw => tk.1.launch s.hub.admitted r.q r.pktidx (some (r.id, n)) k vw r.ptroot r.tvec (r.pb + BitVec.ofNat 64 tk.1.args)) =
        .ok l →
    ∃ t, exec (.nodeStart r.id n) s = .next t ∧ t.hub.launches = s.hub.launches ++ [l] ∧
      t.hub.replays = s.hub.replays.map fun p => if p.id = r.id then { p with started := p.started ++ [n] } else p)

/-- R217 to R219, R264 to R274, R279: with PREWAIT 0 nothing is pre-empted; a trigger gives its victims their grace window; a window that has
ended freezes its pair; a lean save writes the worker's record and frees its context, but not while a debugger has halted it, and a lean restore gives it back its registers;
a sealed pair is free with its other bank active; a held response is appended to its image, which the last makes final; an image
whose checks fail is discarded with their cause, and any other is streamed in. -/
def Obligations.Preemption : Prop :=
  (∀ (s : State) (l : Nat), field s.hub.schedctl.toNat 15 0 = 0 → exec (.preemptTrigger l) s = .next s) ∧
  (∀ (s : State) (l : Launch) (d : Nat) (xs : List Nat), s.launch l.id = some l → d < 4 → s.waitedOut l d = true →
    (∀ e < d, s.waitedOut l e = false) → 0 < s.hub.grace → s.pickVictims l d (fun _ => false) = some xs →
    ∃ t, exec (.preemptTrigger l.id) s = .next t ∧ (∀ x ∈ xs, (t.ctx x).grace = some s.hub.grace) ∧
      (∀ x, x ∉ xs → t.ctx x = s.ctx x) ∧ t.mem = s.mem) ∧
  (∀ s : State, s.me.run = .running → (s.pair (pairOf s.cur)).frozen = none → s.kilnRefuses (pairOf s.cur) = false →
    (s.me.grace ≠ some 0 → exec .graceWindowExpiry s = .next s) ∧
    (s.me.grace = some 0 → ∃ t, exec .graceWindowExpiry s = .next t ∧
      (t.pair (pairOf s.cur)).frozen = some ⟨s.clock, [], [], [], false⟩)) ∧
  (∀ s : State, s.me.halted = true → s.me.dstep = false → exec .leanSave s = .next s) ∧
  (∀ (s : State) (l : Launch) (i : Nat) (e : Fin 256) (le : LiveEntry), s.me.run = .saving → (s.pair (pairOf s.cur)).frozen = none →
    (s.me.halted && !s.me.dstep) = false →
    s.drained s.cur = true → s.cohortStill s.cur = true → s.me.wins = [] → s.workerOf s.cur = some (l, i) → s.me.savept = some e →
    s.liveEntry s.me.ptroot l.code e.val = some le → ∃ (t : State) (w : SavedW), exec .leanSave s = .next t ∧
      t.hub.saved = s.hub.saved ++ [w] ∧ w.launch = l.id ∧ w.index = i ∧ w.lean = some (s.leanRec s.cur le) ∧ w.image = none ∧
      t.me.occ = .free) ∧
  (∀ (s : State) (x : CtxId) (n : Nat) (w : SavedW) (l : Launch) (r : LeanRec) (f : Fit),
    s.dispatch (dieOf x.val) = some (.lean x.val n) → s.hub.saved[n]? = some w → s.launch w.launch = some l → w.lean = some r →
    l.cohort = false → s.fitOf l x.val = some f → ∃ t, exec (.leanRestore x n) s = .next t ∧
      let c := t.ctx x.val
      c.s = r.s ∧ c.sui = r.sui ∧ c.p = r.p ∧ c.k = r.k ∧ c.vw = r.vw ∧ c.fetch = r.fetch ∧ c.occ = .worker l.id w.index ∧
      c.run = .running ∧ c.sup = false) ∧
  (∀ (s : State) (p : PairId) (f : Frozen), (s.pair p.val).frozen = some f → s.sealable p.val = true →
    (s.core (2 * p.val)).wcopy = [] → (s.core (2 * p.val + 1)).wcopy = [] → ∃ t, exec (.imageSeal p) s = .next t ∧
      (∀ j < 4, (t.ctx (4 * p.val + j)).occ = .free) ∧ (t.pair p.val).frozen = none ∧ (t.pair p.val).bankBusy = true ∧
      (t.pair p.val).bank = !(s.pair p.val).bank) ∧
  (∀ (s : State) (p : PairId) (id i : Nat) (m : Image) (q : Packet),
    let waitsFor (r : Packet) : Bool :=
      (Hdr.of r.hdr).dpkg == s.hub.pkgid && (Hdr.of r.hdr).cls == 1 && m.awaited.contains (Hdr.of r.hdr).tag
    s.hub.images.find? (fun m => m.2.pair == p.val && !m.2.final) = some (id, m) → s.hub.inq[i]? = some q → waitsFor q = true →
    (∀ r ∈ s.hub.inq.take i, waitsFor r = false) → ∃ (t : State) (n : Image), exec (.heldResponseAppend p) s = .next t ∧
      Map.find t.hub.images id = some n ∧ n.packets = m.packets ++ [q] ∧
      n.awaited = m.awaited.filter (· != (Hdr.of q.hdr).tag) ∧ n.final = n.awaited.isEmpty) ∧
  (∀ (s : State) (p : PairId) (n : Nat) (m : Image), (s.pair p.val).frozen = none → s.dispatch (p.val / 20) = some (.image p.val n) →
    Map.find s.hub.images n = some m → (∀ l ∈ s.hub.launches, l.cohort = false) →
    exec (.restoreImage p n) s = .next (match s.imageFault m with | some c => s.discardImages [n] c | none => s.streamImage n))

/-- R18, R19, R43, R44, R163, R197, R227, R228: the order of a core's contexts, granule retention and its wake, the token bucket, the
landing of multicast stores, the end of walks. The model's reading, not the rules' words (log entry 18): that a walk reads its tables in
the step that ends it and notes its fault there. -/
def Obligations.SmallUnits : Prop :=
  (∀ (s : State) (c : CoreId) (x y : Nat), s.ring.filter (coreOf · == c.val) = [x, y] → exec (.collisionPrioritySwap c) s = .next (
    if 15 ≤ (s.ctx y).ncol then { s with ring := s.ring.map fun z => if z = x then y else if z = y then x else z } else s)) ∧
  (∀ (s : State) (c : CoreId) (g : Fin 64),
    let k := s.core c.val
    k.gated g.val = false → Map.find k.gwake g.val = none → (s.pair (c.val / 2)).frozen = none → g.val ∉ k.gret →
    exec (.granuleRetentionEntry c g) s = .next (
      if Map.get 0 k.gidle g.val + 4096 ≤ s.clock then s.setCore c.val { k with gret := k.gret ++ [g.val] } else s)) ∧
  (∀ (s : State) (c : CoreId) (g : Fin 64), Map.find (s.core c.val).gwake g.val = some 0 → s.wakeServed c.val g.val = true →
    (s.pair (c.val / 2)).frozen = none → ∃ t, exec (.retentionWakeComplete c g) s = .next t ∧ g.val ∉ (t.core c.val).gret ∧
      (t.core c.val).rows = (s.core c.val).rows ∧ Map.get 0 (t.core c.val).gidle g.val = s.clock) ∧
  (∀ (s : State) (d : Fin 4),
    let b := s.die d.val
    let limit := field b.didt.toNat 15 0
    exec (.tokenRefill d) s = .next (if limit ≠ 0 ∧ Nat.max 1 (10000 / limit) ≤ b.refill then
      s.setDie d.val { b with tokens := Nat.min (field b.didt.toNat 23 16) (b.tokens + 1), refill := 0 } else s)) ∧
  (∀ (s : State) (d : Fin 4) (before after : List TokReq) (r : TokReq),
    let b := s.die d.val
    b.reqs = before ++ r :: after → (∀ q ∈ before, q.served = true) → r.served = false → field b.didt.toNat 15 0 ≠ 0 →
    exec (.tokenRequestServed d) s = .next (if r.n ≤ b.tokens then
      s.setDie d.val { b with reqs := before ++ { r with served := true } :: after, tokens := b.tokens - r.n }
      else s.setDie d.val b)) ∧
  (∀ (s : State) (d : Fin 4) (n x : Nat) (m : McStore) (w : Win), (s.die d.val).mcast[n]? = some m →
    (m.left ≠ 0 → exec (.multicastStoreLand d n) s = .next s) ∧
    (m.left = 0 → m.only = none → m.taps = [] → (∀ o ∈ (s.die d.val).mcast, o.left = 0 → coreOf o.ctx ≤ coreOf m.ctx) → s.mcMembers d.val m.launch m.wn = [(x, w)] →
      (s.pair (coreOf x / 2)).frozen = none → ∃ t, exec (.multicastStoreLand d n) s = .next t ∧
        (t.die d.val).mcast = (s.die d.val).mcast.eraseIdx n ∧
        (t.core (coreOf x)).sp = Memory.writeAll (s.core (coreOf x)).sp (m.cells.map fun c => (w.mcByte c.1, c.2)))) ∧
  (∀ (s : State) (d : Fin 4) (n : Nat) (w : Walk) (t : TlbEntry), (s.die d.val).walks[n]? = some w →
    (64 ≤ n → exec (.tlbWalkComplete d n) s = .next s) ∧
    (n < 64 → walkFrom s w.asid w.va 4 w.root = .ok t → ∃ u, exec (.tlbWalkComplete d n) s = .next u ∧ t ∈ (u.die d.val).tlb ∧
      (u.die d.val).wfaults = (s.die d.val).wfaults ∧ u.mem = s.mem) ∧
    (∀ c : Nat, n < 64 → walkFrom s w.asid w.va 4 w.root = .error c → ∃ u, exec (.tlbWalkComplete d n) s = .next u ∧
      (u.die d.val).tlb = (s.die d.val).tlb ∧ (u.die d.val).wfaults = (s.die d.val).wfaults ++ [⟨w.asid, w.va, c⟩] ∧ u.mem = s.mem))

/-- R87, R118 to R127, R136: a fill that ends leaves its rows in the slot; a released beat is executed in an array cycle of its core
and touches its pass's accumulator alone; a pass that is over leaves with its flags; due rows of a drain land; the summary unit is
free after an operation's last beat. The model's choice, not the rules' (log entry 57): that a fill whose scale bytes outside the
scratchpad have not come stays in flight, its banks free. -/
def Obligations.ArrayEvents : Prop :=
  (∀ (s : State) (p : PairId) (om : Fin 16) (f : Fill), ((s.pair p.val).slot om.val).fill = some f →
    (1 < f.left → exec (.mldFillComplete p om) s = .next s) ∧
    (f.left ≤ 1 → s.scalesOwed p.val om.val = true → (s.pair p.val).frozen = none → ∃ (t : State) (g : Fill),
      exec (.mldFillComplete p om) s = .next t ∧ ((t.pair p.val).slot om.val).fill = some g ∧ g.banks = 0 ∧ g.src = [] ∧
      g.left = f.left ∧ (f.src = [] ∨ f.src.map (tileRow (s.core f.core).sp) = f.rows → g.rows = f.rows)) ∧
    (f.left ≤ 1 → s.scalesOwed p.val om.val = false → (s.pair p.val).frozen = none → f.src = [] ∨ f.src.map (tileRow (s.core f.core).sp) = f.rows → ∃ t, exec (.mldFillComplete p om) s = .next t ∧
      let o := (t.pair p.val).slot om.val
      o.fill = none ∧ o.claimed = ((s.pair p.val).slot om.val).claimed ∧ o.fmt = f.fmt ∧
      (∀ r < f.rows.length, Map.get 0 o.rows r = f.rows.getD r 0) ∧
      ∀ n : Nat, n ≠ om.val → (t.pair p.val).slot n = (s.pair p.val).slot n)) ∧
  (∀ (s : State) (n : Nat) (p : Pass),
    (s.arrayCycle s.cur = false → exec .arrayBeat s = .next s) ∧
    (s.arrayCycle s.cur = true → s.me.nextBeat = some (n, p) → ∃ t, exec .arrayBeat s = .next t ∧
      (∃ fl, t.me.passes = s.me.passes.set n { p with executed := p.executed + 1, fl := fl }) ∧
      (∀ a : Nat, a ≠ p.acc.val → Map.get [] (t.pair (pairOf s.cur)).acc a = Map.get [] (s.pair (pairOf s.cur)).acc a) ∧
      (p.zero = true → Map.get [] (t.pair (pairOf s.cur)).acc p.acc.val = []) ∧ t.mem = s.mem)) ∧
  (∀ s : State, exec .matrixPassComplete s = .next (s.setMe { s.me with
    passes := s.me.passes.filter fun p => !((p.beats + 12) * p.len ≤ p.age && p.executed == p.beats)
    fpflags := s.me.fpflags |||
      Flags.all ((s.me.passes.filter fun p => (p.beats + 12) * p.len ≤ p.age && p.executed == p.beats).map (·.fl)) })) ∧
  (∀ (s : State) (d : Drain), s.me.drains.find? Drain.due = some d →
    let u := s.setMe { s.me with
      drains := (s.me.drains.map fun e => if e = d then { d with landed := d.landed + 2 } else e).filter (·.landed < 128) }
    exec .mstRowLand s = .next (u.landAll s.cur ([d.landed, d.landed + 1].map fun j =>
      ⟨d.dst.write j (d.read.getD j 0), 0, 0, .M, d.ba, d.born⟩))) ∧
  (∀ (s : State) (c : CoreId) (o : SumOp), (s.core c.val).sumop = some o →
    ((s.ctx o.ctx).sup = true ∨ (s.ctx o.ctx).adv = false ∨ 1 < o.left → exec (.summaryOpComplete c) s = .next s) ∧
    ((s.ctx o.ctx).sup = false → (s.ctx o.ctx).adv = true → o.left ≤ 1 → (s.pair (c.val / 2)).frozen = none →
      (s.ctx o.ctx).waking = false → (s.core c.val).gret = [] → (s.ctx o.ctx).drains = [] →
      ∃ t, exec (.summaryOpComplete c) s = .next t ∧ (t.core c.val).sumop = none))

/-- R96, R150, R156, R158, R159, R161, R172, R206, R259, R300: an operation in flight is performed at its point of coherence when
nothing earlier keeps it back, asks its next bytes of a peer, rewrites its blocks, gives up a copy that stands before its bytes, or
consumes poisoned data; a performed load lands and a performed store leaves, one that ended in a fabric error with an imprecise fault; a line that
leaves a cluster's cache writes its dirty bytes and no other; a copy command starts, lands its pieces and completes. The model's choice,
not the rules': that bytes in the own package's memory are performed in one step (log entry 29), how a block store asks a peer (log
entry 32), and the order in which a gather reads its source (log entry 58). -/
def Obligations.AccessesAndCopies : Prop :=
  (∀ (s : State) (n : Nat) (m : MemOp) (got : List Byte), s.me.mops[n]? = some m → m.phase = .waiting got →
    (s.opReady s.me.mops n m = false ∨ s.sourcesOwed s.cur m = true → exec (.accessAtPointOfCoherence n) s = .next s) ∧
    (∀ k : WCopy, s.opReady s.me.mops n m = true → s.sourcesOwed s.cur m = false → s.copyBefore s.cur m.locs = some k →
      exec (.accessAtPointOfCoherence n) s = .next (s.evictCopy k)) ∧
    (s.opReady s.me.mops n m = true → s.sourcesOwed s.cur m = false → s.copyBefore s.cur m.locs = none →
      (∀ a : Nat, s.poisonedBy m = some a →
        exec (.accessAtPointOfCoherence n) s = .next (((s.dropOp s.cur n).logged (.poison a)).fatalCtx s.cur)) ∧
      (s.poisonedBy m = none → m.locs.all s.locInStack = false →
        exec (.accessAtPointOfCoherence n) s = .next (s.setOp s.cur n { m with phase := .failed })) ∧
      (s.poisonedBy m = none → m.locs.all s.locInStack = true →
        ((∀ p v rm bs, m.kind ≠ .tapStore p v rm bs) → m.remote = false → m.objects = [] →
          exec (.accessAtPointOfCoherence n) s = .next (s.performHere s.cur n m got (m.locs.drop got.length))) ∧
        ((∀ p v rm bs, m.kind ≠ .tapStore p v rm bs) → ∀ (l : Loc) (r : List Loc), m.locs.drop got.length = l :: r → l.isPeer = true →
          exec (.accessAtPointOfCoherence n) s = .next (s.sendNext s.cur n m got (l :: r))) ∧
        (∀ p v rm bs, m.kind = .tapStore p v rm bs →
          exec (.accessAtPointOfCoherence n) s = .next (s.tapNext s.cur n m p v rm got bs))))) ∧
  (∀ (s : State) (n : Nat) (m : MemOp) (bs : List Byte) (r : Write × Flags), s.me.mops[n]? = some m →
    (s.pair (pairOf s.cur)).frozen = none → m.pendRow.elim false s.myCore.retained = false →
    (m.phase = .done bs → m.result bs = some r → (m.remote && m.isStore) = false →
      exec (.loadLand n) s = .next ((s.dropOp s.cur n).deliver s.cur r)) ∧
    (m.phase = .failed → m.result (List.replicate m.locs.length 0) = some r → (m.remote && m.isStore) = false →
      exec (.loadLand n) s = .next (((s.dropOp s.cur n).deliver s.cur (r.1, 0)).memError s.cur m.ba)) ∧
    (m.phase = .done bs → m.isLoad = false → m.kind ≠ .zero → exec (.storePerformed n) s = .next (s.dropOp s.cur n)) ∧
    (m.phase = .failed → m.isLoad = false → m.kind ≠ .zero → exec (.storePerformed n) s = .next ((s.dropOp s.cur n).memError s.cur m.ba))) ∧
  (∀ (s : State) (c : ClusterId) (n : Nat) (l : Line), Memory.wf s.mem = true → Map.find (s.cluster c.val).lines n = some l →
    ∃ t, exec (.lineEvictionWriteBack c n) s = .next t ∧ Map.find (t.cluster c.val).lines n = none ∧
      (∀ k < 128, Memory.read t.mem (128 * n + k) = if l.dirty.getLsbD k then l.byte k else Memory.read s.mem (128 * n + k)) ∧
      ∀ a : Nat, a / 128 ≠ n → Memory.read t.mem a = Memory.read s.mem a) ∧
  (∀ (s : State) (c : CoreId) (e : Bool) (k : Cmd), s.headCmd c.val e = some k → (s.pair (c.val / 2)).frozen = none →
    (k.phase = .queued → k.kind = .cpy ∨ k.kind = .cpy2d ∨ k.kind = .cfill ∨ k.kind = .cgather ∨ k.kind = .cmcast →
      (k.total = 0 → exec (.copyEngineStart c e) s = .next (s.setHead c.val e { k with phase := .landed, banks := 0 })) ∧
      (∀ j : Cmd, 0 < k.total → k.sized s = .ok j →
        exec (.copyEngineStart c e) s = .next (s.setHead c.val e { j with phase := .running }))) ∧
    (k.phase = .running → k.tag = none → k.afar = true → exec (.copyDataLand c e) s = .next (s.copyGather c.val e)) ∧
    (k.phase = .running → k.kind ≠ .cred → k.tag = none → k.afar = false →
      (k.total ≤ k.done → exec (.copyDataLand c e) s = .next (s.setHead c.val e { k with phase := .landed, banks := 0 })) ∧
      (k.done < k.total → k.out = none → exec (.copyDataLand c e) s = .next (s.nextPiece c.val e k))) ∧
    (k.phase = .landed → (k.kind = .chsend → s.poisonOf [k.entry] = none) →
      exec (.copyComplete c e) s = .next ((s.setQueue c.val e ((s.core c.val).queue e).tail).notify e k)) ∧
    (k.phase = .faulted → exec (.copyComplete c e) s = .next (s.setQueue c.val e ((s.core c.val).queue e).tail)))

/-- R25, R239, R241, R245, R317, R318, R338: a message on its way arrives, those of one edge and class in their order: an arrival is counted,
a signal tells its member the phase, an increment raises its flag, an arrival or credit of a channel steps its count; words of a
link FIFO enter lin, and credits open room again, never above 32, each packet acknowledged. The model's choice, not the rules': the
places of the word count and of the credits in a packet's extension and the status of its acknowledgement (log entry 19), and the
messages of another package about a group (log entry 68). -/
def Obligations.MessagesArrive : Prop :=
  (∀ (s : State) (n : Nat),
    let u : State := { s with hub := { s.hub with msgs := s.hub.msgs.eraseIdx n } }
    (∀ (l : Nat) (g : Fin 256) (w : Launch), s.message n = some (.arrival l g) → s.launch l = some w →
      exec (.barrierArrival (.listed n)) s = .next (u.arrive w g)) ∧
    (∀ (x : Nat) (g : Fin 256) (ph : BitVec 16), s.message n = some (.signal x g ph) → (s.pair (pairOf x)).frozen = none → ∃ t, exec (.barrierSignal (.listed n)) s = .next t ∧ t.hub.msgs = s.hub.msgs.eraseIdx n ∧
        (t.ctx x).bars = (s.ctx x).bars.map fun b => if b.g = g then { b with phase := ph } else b) ∧
    (∀ (y : Nat) (k : Fin 32) (c : Nat) (sc : Scope), s.message n = some (.flag y k c sc) → (s.pair (pairOf y)).frozen = none →
      s.exists? y = true → (s.ctx y).occ ≠ .free →
      ∃ t, exec (.flagIncrement n) s = .next t ∧ t.hub.msgs = s.hub.msgs.eraseIdx n ∧ t.ctx y = (s.ctx y).addFlag k c sc) ∧
    (∀ x ch : Nat, s.message n = some (.chanArrival x ch) → exec (.channelArrival n) s = .next (u.stepChannel x ch true)) ∧
    (∀ x ch : Nat, s.message n = some (.chanCredit x ch) → exec (.channelCredit n) s = .next (u.stepChannel x ch false))) ∧
  (∀ (s : State) (pkg l : Nat) (g : Fin 256) (w : Launch), s.launch l = some w →
    let v := s.group w g.val
    (s.unitHere v = true → exec (.barrierArrival (.outside pkg l g .arrive)) s = .next (s.arrive w g)) ∧
    (s.unitHere v = false → ∀ ph : BitVec 16, exec (.barrierSignal (.outside pkg l g (.phase ph))) s =
      .next ((s.setGroup w g.val (setField v 15 0 ph.toNat)).signalMembers w g v ph))) ∧
  (∀ (s : State) (n x : Nat) (h : Hdr) (p : Packet) (l : Fin 16), s.arrived n .words = some (h, p) → p.via = some l →
    s.commAt h.dloc = some x →
    (0 < field h.ext 15 8 → ∃ t, exec (.linkFifoWords n) s = .next t ∧ t.hub = ((s.takePacket n).respond h .ack (respExt stOk 0) []).hub ∧
      (t.ctx x).lin.get l = (s.ctx x).lin.get l ++ fifoWords p (field h.ext 15 8)) ∧
    (field h.ext 15 8 = 0 → ∃ t, exec (.linkFifoCredit n) s = .next t ∧
      t.hub = ((s.takePacket n).respond h .ack (respExt stOk 0) []).hub ∧
      (t.ctx x).lcred.get l = Nat.min 32 ((s.ctx x).lcred.get l + field h.ext 31 16)))

/-- R166 to R169, R391: the messages about tile objects. A request reaches its directory, waits while that has no room for its object, and is
queued behind one in progress; a copy that is invalidated, or forwards its data, leaves as the table of states says, and the requester,
or the die directory that collects for it, has the acknowledgement; data, acknowledgements and the home's answers bring a copy on; a full
directory recalls the object used least recently that is not busy, and no other recalls any. The model's choice, not the rules' (log
entry 20): that a die directory lists contexts and the package home dies, which copies a recall ends, and that a recall, a write-back at
the home and the bytes of another package's home are each one step. -/
def Obligations.WindowMessages : Prop :=
  (∀ (s : State) (n : Nat) (k : WKind) (m : WMsg), s.wmsg n [k] = some m →
    let u := s.wtake n
    let l := if m.lvl = .pkg then none else some (dieOf m.x)
    let e := u.dirEntry l m.obj
    let request (own : Bool) : State :=
      if s.hasRoom l m.obj = false then s
      else if e.busy then u.setEntry l { e with queue := e.queue ++ [(m.x, own)] } else u.serve l m.obj m.x own
    (k = .read → exec (.windowRead n) s = .next (request false)) ∧
    (k = .rfo → exec (.windowReadForOwnership n) s = .next (request true)) ∧
    (k = .upgrade → exec (.windowUpgrade n) s = .next (request true)) ∧
    (k = .ack → m.lvl = .die → exec (.windowAcknowledgement n) s = .next (u.collect m.obj (dieOf m.x))) ∧
    (k = .ack → m.lvl ≠ .die → ∀ c, u.copyObj m.x m.obj = some c →
      exec (.windowAcknowledgement n) s = .next (u.settleCopy { c with acks := c.acks - 1 } true)) ∧
    (k = .data → exec (.windowData n) s = .next (u.takeData m)) ∧
    (k = .notBusy → exec (.windowNotBusy n) s = .next (u.notBusy m.lvl m.obj m.x)) ∧
    (k = .wback → exec (.windowWriteback n) s = .next (u.takeWriteBack m)) ∧
    (k = .homeAck → ∀ c, u.copyObj m.x m.obj = some c → exec (.windowHomeAck n) s = .next (
      if c.st = .MI ∨ c.st = .OI ∨ c.st = .EI ∨ c.st = .SI then u.setCopy { c with st := .I } else u)) ∧
    (k = .inv → m.lvl = .pkg → exec (.windowInvalidation n) s = .next (u.dieYield m.obj (dieOf m.x) m.req false)) ∧
    (k = .inv → m.lvl ≠ .pkg → u.atEdge m = true → exec (.windowInvalidation n) s = .next s) ∧
    (k = .inv → m.lvl ≠ .pkg → u.atEdge m = false → ∀ c, u.copyObj m.x m.obj = some c →
      let left (t : State) := t.wsend (if m.lvl = .die then ⟨.ack, m.obj, m.x, m.req, none, 1, false, false, .die⟩
        else ⟨.ack, m.obj, m.req, m.req, none, 1, false, false, .core⟩)
      (c.st = .S ∨ c.st = .E → exec (.windowInvalidation n) s =
        .next (left (u.setCopy { c with st := if u.readHeld c then .ISI else .I }))) ∧
      (c.st = .O ∨ c.st = .M → exec (.windowInvalidation n) s = .next (left (u.setCopy { c with st := .I }))) ∧
      (c.st = .IS → exec (.windowInvalidation n) s = .next (left (u.setCopy { c with st := .ISI }))) ∧
      (c.st = .SM ∨ c.st = .OM → exec (.windowInvalidation n) s = .next (left (u.setCopy { c with st := .IM, data := false }))))) ∧
  (∀ (s : State) (n : Nat) (m : WMsg), s.wmsg n [.fwdRead, .fwdOwn] = some m →
    let u := s.wtake n
    (m.lvl = .pkg → exec (.windowForwardedRequest n) s = .next (
      if m.kind = .fwdOwn then u.dieYield m.obj (dieOf m.x) m.req true else u.dieForward m.obj (dieOf m.x) m.req)) ∧
    (m.lvl ≠ .pkg → ∀ c, u.copyObj m.x m.obj = some c →
      (c.holdsData = false ∨ u.writeHeld? c = true ∨ u.atEdge m = true → exec (.windowForwardedRequest n) s = .next s) ∧
      (c.holdsData = true → u.writeHeld? c = false → u.atEdge m = false →
        let sent (t : State) (own : Bool) : State :=
          t.wsend ⟨.data, m.obj, m.req, m.req, some (u.copyBytes c), if own then 1 else 0, false, own, .core⟩
        (m.kind = .fwdRead → c.st = .M → exec (.windowForwardedRequest n) s = .next (sent (u.setCopy { c with st := .O }) false)) ∧
        (m.kind = .fwdRead → c.st = .O → exec (.windowForwardedRequest n) s = .next (sent u false)) ∧
        (m.kind = .fwdRead → c.st = .E →
          exec (.windowForwardedRequest n) s = .next (sent ((u.setCopy { c with st := .S }).noOwner m) false)) ∧
        (m.kind = .fwdOwn → c.st = .M ∨ c.st = .O →
          exec (.windowForwardedRequest n) s = .next (sent (u.setCopy { c with st := .I }) true))))) ∧
  (∀ (s : State) (d : Fin 12),
    ((s.directory d).1.length < (s.directory d).2 → exec (.directoryRecall d) s = .next s) ∧
    ((s.directory d).2 ≤ (s.directory d).1.length →
      (∀ e : DirEntry, oldestEntry ((s.directory d).1.filter s.mayRecall) = some e →
        exec (.directoryRecall d) s =
          .next (s.recallCopies e.obj (s.holdersOn e.obj (if d.val < 4 then [d.val] else e.sharers)))) ∧
      (oldestEntry ((s.directory d).1.filter s.mayRecall) = none → exec (.directoryRecall d) s = .next s)))

/-- R96, R152, R206 to R209, R233 to R236: a request that has come to the hub is served at the memory-side cache and answered to its
source, or answered with why it was not; a write sets bytes, sets a line to zero, or rewrites a block whole; a response reaches what
waits for it unless a sealed image does; a packet leaves over its route's link on a virtual channel, waits for it, or fails; a route
entry written waits until it is applied. The model's choice, not the rules': the places of kind, length, operand and status in a packet's
extension and the status values (log entry 19), the write that rewrites a block (log entry 32), and that ATOMCAP is looked at before the
export table (log entry 77). -/
def Obligations.FabricPackets : Prop :=
  (∀ (s : State) (n : Nat) (t : PType) (h : Hdr) (p : Packet), s.arrived n t = some (h, p) →
    let u := ((s.takePacket n).fillExport h.ta).fillExport (h.ta + field h.ext 31 0 - 1)
    (t = .read →
      (∀ st, u.target h false (min (field h.ext 31 0) 2048) = .error st →
        exec (.remoteRead n) s = .next ((u.noteMiss h st).respond h .data st [])) ∧
      (∀ as : List Nat, u.target h false (min (field h.ext 31 0) 2048) = .ok as → exec (.remoteRead n) s =
        .next (let v := u.atSource h as
          v.respond h .data (as.length * 2 ^ 32) (flitsOf (as.map (Memory.read v.mem)))))) ∧
    (t = .write → h.writeKind = 2 → exec (.remoteWrite n) s = .next ((u.fillExport (field h.ext 127 64)).remoteBlock h p)) ∧
    (t = .write → h.writeKind ≠ 2 →
      (∀ st, u.target h true (min (field h.ext 31 0) 2048) = .error st →
        exec (.remoteWrite n) s = .next ((u.noteMiss h st).respond h .ack st [])) ∧
      (∀ as : List Nat, u.target h true (min (field h.ext 31 0) 2048) = .ok as →
        let w := (u.atSource h as).memWrite (as.zip (if h.writeKind = 1 then List.replicate as.length 0 else bytesOf p.pay as.length))
        exec (.remoteWrite n) s = .next
          ((if h.writeKind = 1 then { w with zflag := (as.map (· / 128)).eraseDups ++ w.zflag } else w).respond h .ack
            (as.length * 2 ^ 32) []))) ∧
    (t = .atomic →
      let op := AtomOp.ofCode (field h.ext 3 0) (BitVec.ofNat 64 (field h.ext 191 128))
      let f := (Fmt.ofCode (field h.ext 7 4)).getD .n64
      (∀ r, atomRefused atomcap op f = some r → exec (.remoteAtomic n) s = .next (u.respond h .answer (r + 2) [])) ∧
      (∀ as : List Nat, atomRefused atomcap op f = none → u.target h true (f.memWidth / 8) = .ok as →
        (∀ a ∈ as, a / 128 ∉ u.poison) →
        let v := u.atSource h as
        let old := leNat (as.map (Memory.read v.mem))
        exec (.remoteAtomic n) s = .next ((v.memWrite (as.zip (leBytes as.length (atomNew op f old (field h.ext 127 64)).1))).respond
          h .answer (as.length * 2 ^ 32 + old * 2 ^ 64) []))) ∧
    (let got := .next (if s.awaited h.tag then s else (s.takePacket n).answered h p)
     (t = .data → exec (.readData n) s = got) ∧ (t = .answer → exec (.atomicAnswer n) s = got) ∧
     (t = .ack → exec (.acknowledgement n) s = got))) ∧
  (∀ (s : State) (n : Nat) (p : Packet), s.hub.outq[n]? = some p →
    sameWay ((s.hub.outq.take n).filter (·.via == p.via)) p = false →
    let u : State := { s with hub := { s.hub with outq := s.hub.outq.eraseIdx n } }
    let out (l : Fin 16) : State := u.setLink l ((u.link l).queue p).pump
    let lost : State := if (Hdr.of p.hdr).cls = 1 then s else u.stranded p
    (p.via = none → (Hdr.of p.hdr).dpkg ≠ s.hub.pkgid →
      exec (.fabricForward n) s = .next (match s.leaveBy (Hdr.of p.hdr).dpkg with
        | .wait => s
        | .fail => lost
        | .go l => out l)) ∧
    (∀ l : Fin 16, p.via = some l → exec (.fabricForward n) s = .next (if (s.link l).st = .down then lost else out l))) ∧
  (∀ (s : State) (i : Nat) (v : BitVec 32), s.hub.boot = .done →
    (i < 3072 → v.toNat % 2 ^ 19 = 0 → exec (.routeTableWrite i v) s =
      .next { s with hub := { s.hub with routeq := s.hub.routeq ++ [(i, v)] } }) ∧
    (3072 ≤ i ∨ v.toNat % 2 ^ 19 ≠ 0 → exec (.routeTableWrite i v) s =
      .next { s with log := s.log ++ [.ignored (0x20000 + 4 * i) (v.setWidth 64)] })) ∧
  (∀ (s : State) (n i : Nat) (v : BitVec 32), s.hub.routeq[n]? = some (i, v) → (∀ w, (i, w) ∉ s.hub.routeq.take n) →
    s.settledTo i = true → exec (.routeEntryApply n) s =
      .next { s with hub := { s.hub with route := Map.put s.hub.route i v, routeq := s.hub.routeq.eraseIdx n } })

/-- R231, R232, R237, R238: the states of a link. It retrains from ACTIVE on its causes and by command, shakes hands once trained, is
ACTIVE when both views agree and DISPUTED otherwise, and goes DOWN when no lane is left or it is told to; an ACTIVE one counts a flit
that fails, takes the next in sequence, drops what is acknowledged and sends again what the far end has dropped. The model's choice, not
the rules' (log entry 43): that the last 2^20 flits are a window that slides, and that the counts begin anew when a link retrains or
comes back to ACTIVE. -/
def Obligations.LinkStates : Prop :=
  ∀ (s : State) (l : Fin 16),
    let k := s.link l
    let now (j : Link) : Host.Outcome State Fault Refusal := .next (s.setLink l j)
    let fresh : List RetryFlit := k.retry.map fun r => { r with reps := 0 }
    let training : Link := { k with st := .train, tries := 0, min := none, crcs := [], flits := 0, retry := fresh }
    (k.st = .active →
      (s.hub.boot = .done → exec (.lnkctlRetrain l) s = now training) ∧
      (64 < k.crc → exec (.linkCrcThreshold l) s = now training) ∧ (8 ≤ k.replays → exec (.linkReplayLimit l) s = now training) ∧
      (∀ lanes : BitVec 8, exec (.linkLaneLoss l lanes) s = now { training with view := { k.view with lanes := k.view.lanes &&& lanes } }) ∧
      (∀ f : LinkFlit, f.good = false → exec (.linkFlitReceive l f) s = now { k with
        flits := k.flits + 1, crcs := (k.crcs.filter fun i => k.flits + 1 - i < 2 ^ 20) ++ [k.flits + 1] }) ∧
      (∀ (f : LinkFlit) (a : BitVec 12) (i : Nat), f.good = true → f.ack = some a → f.flit = none → k.place a = some i →
        exec (.linkFlitReceive l f) s = now (Link.pump { k with flits := k.flits + 1, retry := k.retry.drop (i + 1) })) ∧
      (∀ (f : LinkFlit) (b : BitVec 512), f.good = true → f.ack = none → f.flit = some b →
        exec (.linkFlitReceive l f) s = .next (
          if f.seq = k.rxseq then (s.setLink l { k with flits := k.flits + 1, rxseq := k.rxseq + 1 }).takeFlit l b
          else s.setLink l { k with flits := k.flits + 1 })) ∧
      (∀ (before after : List RetryFlit) (f : RetryFlit), k.retry = before ++ f :: after → (∀ r ∈ before, r.seq ≠ f.seq) →
        exec (.linkReplay l f.seq) s = now (Link.pump { k with
          retry := (f :: after).map fun r => { r with reps := r.reps + 1 } }))) ∧
    (k.crc ≤ 64 → exec (.linkCrcThreshold l) s = .next s) ∧ (k.replays < 8 → exec (.linkReplayLimit l) s = .next s) ∧
    (k.st = .train →
      (∀ v : LinkView,
        let w := match k.min with
          | none => v
          | some m => ⟨v.lanes &&& m.lanes, if v.speed < m.speed then m.speed else v.speed, v.fec || m.fec⟩
        exec (.linkTrainComplete l v) s = if w.width = 0 then .next (s.linkDown l) else now { k with st := .handshake, view := w }) ∧
      exec (.linkTrainTimeout l) s = .next (s.linkDown l)) ∧
    (k.st = .handshake → ∀ v : LinkView,
      exec (.linkHandshakeComplete l (some k.view)) s = now (Link.pump { k with st := .active, crcs := [], flits := 0, retry := fresh }) ∧
      (v ≠ k.view →
        let both : LinkView :=
          ⟨k.view.lanes &&& v.lanes, if k.view.speed < v.speed then v.speed else k.view.speed, k.view.fec || v.fec⟩
        exec (.linkHandshakeComplete l (some v)) s = now { k with st := .disputed, min := some both }) ∧
      exec (.linkHandshakeComplete l none) s = now { k with st := .disputed, min := some k.view }) ∧
    (k.st = .down → s.hub.boot = .done → exec (.lnkctlBringUp l) s = now { k with st := .train, tries := 0, min := none }) ∧
    (k.st ≠ .down → s.hub.boot = .done → exec (.lnkctlForceDown l) s = .next (s.linkDown l))

/-- R246 to R248: a local contribution whose operation, lanes and length are its entry's, of a member with the next sequence number, is
applied once; one of the last number while the round runs only waits; an older one ends without effect; a gap faults. A result from
the parent ends the round; a table write of V = 1 begins anew. The model's choice, not the rules': the places of the fields that
Contrib.of reads in a packet's extension and the statuses of a result (log entry 19). -/
def Obligations.ReductionTree : Prop :=
  (∀ (s : State) (n r : Nat) (h : Hdr) (p : Packet), s.arrived n .contrib = some (h, p) → p.via = none →
    let c := Contrib.of h.ext
    let e := s.red c.rid
    let u := s.takePacket n
    let d := (c.seq + 2 ^ 32 - Map.get 0 e.lastRank r % 2 ^ 32) % 2 ^ 32
    e.parts = [] → c.len ≤ c.off + 2048 → e.ok = true → c.rop = e.fld 58 56 → c.lw = e.fld 55 54 → c.len = e.len →
    s.redRank e (ctxOfLoc h.sloc) c.sup = some r →
    (d = 1 → ∃ e' : RedEntry, exec (.reduceContribution n) s = .next ((u.setRed c.rid e).settleRound c.rid e.full e') ∧
      e'.ranks = e.ranks ++ [r] ∧ Map.get 0 e'.lastRank r = c.seq ∧ e'.waiters = e.waiters ++ [p.hdr] ∧ e'.bits = e.bits) ∧
    (d = 0 → r ∈ e.ranks → exec (.reduceContribution n) s =
      .next ((u.setRed c.rid e).setRed c.rid { e with waiters := e.waiters ++ [p.hdr] })) ∧
    (2 ^ 32 - 1023 ≤ d → exec (.reduceContribution n) s = .next ((u.setRed c.rid e).respond (Hdr.of p.hdr) .result (resultExt (Hdr.of p.hdr).ext stOlder) [])) ∧
    (1 < d → d < 2 ^ 32 - 1023 → exec (.reduceContribution n) s = .next ((u.setRed c.rid e).respond (Hdr.of p.hdr) .result (resultExt (Hdr.of p.hdr).ext 4) []))) ∧
  (∀ (s : State) (n : Nat) (h : Hdr) (p : Packet), s.arrived n .result = some (h, p) →
    (p.via = none → exec (.reduceResult n) s = .next (if s.awaited h.tag then s else (s.takePacket n).resultHere h p)) ∧
    (∀ l : Fin 16, p.via = some l →
      let c := Contrib.of h.ext
      let e := s.red c.rid
      field h.ext 143 128 ≠ stLost → e.parts = [] → c.len ≤ c.off + 2048 → e.ok = true → e.agrees c = true → e.parent = some l → e.full = true →
      c.seq = (e.round + 1) % 2 ^ 32 →
      exec (.reduceResult n) s = .next (((s.takePacket n).closeReq h.tag).roundDone c.rid e (contribBytes [p])))) ∧
  (∀ (s : State) (i : Fin 1024) (v : BitVec 128), s.hub.boot = .done → (s.red i.val).waiters = [] → v.getLsbD 0 = true →
    ∃ t, exec (.reductionTableWrite i v) s = .next t ∧
      let e := t.red i.val
      e.round = 0 ∧ e.acc = 0 ∧ e.ranks = [] ∧ e.kids = 0 ∧ e.lastRank = [] ∧ e.lastKid = [] ∧
      e.bits.extractLsb' 0 96 = v.extractLsb' 0 96 ∧ ∀ j : Nat, j ≠ i.val → t.red j = s.red j)

/-- R286, R290 to R300, R398: the platform. A part whose firmware verifies boots, and one whose firmware does not stays in recovery,
where every access through a BAR completes with Unsupported Request; the registers take what the rules allow and ignore the rest;
peer writes land in local memory; telemetry, throttling and errors are recorded. The model's choice, not the rules' (log entry 51): that
a throttled clock goes no lower than 100 MHz and comes back to 2500 MHz in one step. -/
def Obligations.Platform : Prop :=
  (∀ s : State, s.hub.boot = .rom → ∃ t, exec .boot s = .next t ∧
    if Config.firmwareVerifies s.hub.fuse.firmware then t.hub.boot = .done ∧
      (s.hub.fuse.board.toNat / 2 ^ 24 = 0 → ∀ d < 4, (t.die d).didtNext = none) ∧
      t.hub.nclu = s.hub.fuse.pairs.map logicalClusters else t = { s with hub := { s.hub with boot := .recovery } }) ∧
  (∀ (s : State) (d : Fin 4) (a fn off : Nat) (v : BitVec 64) (bytes : List Byte) (nonce : BitVec 256) (e : BitVec 32) (l : Fin 16)
      (n : Fin 1024) (w : BitVec 128) (x : CtxId) (b : Bool) (r : DbgDest) (z : BitVec 4096), s.hub.boot ≠ .done →
    ∀ i ∈ [Instr.didtWrite d v, .pkgidWrite v, .commctlStart v, .trcctlWrite d v, .registerWrite a v, .peerWrite fn off bytes,
        .attestationRequest nonce, .routeTableWrite a e, .reductionTableWrite n w, .lnkctlRetrain l, .lnkctlBringUp l,
        .lnkctlForceDown l, .dbgHalt x b, .dbgStep x, .dbgRegisterWrite x r z, .dbgLatchEdit x a z, .doorbell fn off e],
      exec i s = .next { s with toHost := s.toHost ++ [.unsupported] }) ∧
  (∀ (s : State), s.hub.boot = .done →
    (∀ (d : Fin 4) (v : BitVec 64), exec (.didtWrite d v) s = .next (
      if v.toNat / 2 ^ 24 ≠ 0 then { s with log := s.log ++ [.ignored (0x10100 + 8 * d.val) v] }
      else s.setDie d.val { s.die d.val with didtNext := some (if v.toNat / 2 ^ 16 % 2 ^ 8 = 0 then v + 0x10000 else v) })) ∧
    (∀ v : BitVec 64, s.queues.any (fun q => field (s.qdesc q) 65 65 == 1) = false → s.ctxs.any (fun p => p.2.commRuns) = false →
      exec (.pkgidWrite v) s = .next (if v.toNat < 3072 then { s with hub := { s.hub with pkgid := v.toNat } }
        else { s with log := s.log ++ [.ignored 0x10050 v] })) ∧
    (∀ (k : Code) (arch : Nat) (vw : Vector Word 64), s.header s.hub.commpt s.hub.commkh.toNat = some (k, arch, vw) →
      exec (.commctlStart 1) s = .next (if s.hub.fuse.arch < arch then { s with log := s.log ++ [.commHeader] }
        else ((List.range 320).filter fun x => s.exists? x && s.isComm x && !(s.ctx x).commRuns).foldl
          (fun s x => s.startComm x k vw) s)) ∧
    (∀ (d : Fin 4) (v : BitVec 64), v.toNat / 2 ^ 56 = 0 → v.toNat / 2 % 2 ^ 7 = 0 → (s.die d.val).trcctl.toNat % 2 = 0 → v.toNat % 2 = 1 →
      ∃ t, exec (.trcctlWrite d v) s = .next t ∧
        (t.die d.val).trcptr.toNat / 2 ^ 32 = (t.die d.val).trcptr.toNat % 2 ^ 32 ∧
        (t.die d.val).trcptr.toNat % 2 ^ 32 = (s.die d.val).trcptr.toNat % 2 ^ 32 ∧ (t.die d.val).trcctl.toNat / 2 ^ 32 % 2 ^ 24 = 0) ∧
    (∀ v : BitVec 64, exec (.registerWrite 0x10000 v) s = .next { s with hub := { s.hub with schedctl := v.setWidth 32 } } ∧
      exec (.registerWrite 0x10200 v) s = .next { s with hub := { s.hub with telbase := v } } ∧
      exec (.registerWrite 0x10500 v) s = .next { s with hub := { s.hub with commkh := v } } ∧
      exec (.registerWrite 0x10008 v) s = .next { s with log := s.log ++ [.ignored 0x10008 v] }) ∧
    (∀ (fn off : Nat) (bytes : List Byte),
      let a := Map.get 0 s.hub.wbase fn + off
      let ok := fn < 16 ∧ off + bytes.length ≤ 2 ^ 36 ∧ ∀ i < bytes.length, s.inStack (a + i) = true
      (ok → exec (.peerWrite fn off bytes) s = .next (s.memWrite (cellsAt a bytes))) ∧
      (¬ ok → exec (.peerWrite fn off bytes) s = .next { s with log := s.log ++ [.peer fn off] })) ∧
    (∀ nonce : BitVec 256, ∃ (ds : List (BitVec 384)) (sg : BitVec 768),
      exec (.attestationRequest nonce) s =
        .next { s with toHost := s.toHost ++ [.report ds s.hub.digest s.hub.fuse.arch nonce sg] })) ∧
  (∀ (s : State) (fn off : Nat), exec (.peerRead fn off) s = .next { s with toHost := s.toHost ++ [.unsupported] }) ∧
  (∀ (s : State) (d : Fin 4) (v : Sensors), ∃ t, exec (.telemetryRecord d v) s = .next t ∧ (t.die d.val).corr = 0 ∧
    (t.die d.val).bktw = 0 ∧ (t.die d.val).teln = (s.die d.val).teln + 1 ∧ (s.hub.tellen = 0 → t.mem = s.mem)) ∧
  (∀ (s : State) (w : Nat), exec (.powerThrottle w) s = .next { s with hub := { s.hub with
    mhz := if 2800 < w then Nat.max 100 (s.hub.mhz - 100) else if w < 2800 then 2500 else s.hub.mhz } }) ∧
  (∀ (s : State) (x : CtxId) (a : Nat) (d : Fin 4),
    exec (.uncorrectableError (.context x)) s = .next (if (s.ctx x.val).occ = .free then s else s.fatalCtx x.val) ∧
    exec (.uncorrectableError (.line a)) s =
      .next (if a / 128 ∈ s.poison then s else { s with poison := s.poison ++ [a / 128] }) ∧
    exec (.uncorrectableError (.corrected d)) s = .next (s.setDie d.val { s.die d.val with corr := (s.die d.val).corr + 1 }))

/-- R279 to R282, R285, R289, R367: a debugger halts, resumes and steps a context, writes the registers and rows of a halted one, cancelling
the loads that are pending on them, and edits its latches; a context that runs takes no step, write or edit; each of these leaves
everything else as it was. A die's samples are written, one for each of its contexts that holds a worker and each communication
context, when their period has passed. The model's choice, not the rules' (log entry 45): the order in which the entries are numbered,
the exposed results before the parked ones; and (log entry 53) that a write to a row in retention wakes its granule. -/
def Obligations.Debugger : Prop :=
  (∀ (s : State) (x : CtxId), s.hub.boot = .done → s.exists? x.val = true →
    let c : Ctx := { s.ctx x.val with attached := true }
    exec (.dbgHalt x false) s = .next (s.setCtx x.val { c with dbgctl := c.dbgctl &&& ~~~1, dstep := false }) ∧
    (c.dbgctl.getLsbD 0 = true → exec (.dbgHalt x true) s = .next (s.setCtx x.val c)) ∧
    (c.dbgctl.getLsbD 0 = false → ∃ t, exec (.dbgHalt x true) s = .next t ∧
      let d := t.ctx x.val
      d.dbgctl.getLsbD 0 = true ∧ d.dbgctl.toNat / 4 % 8 = 1 ∧ d.attached = true ∧ d.dstep = false ∧ d.s = c.s ∧ d.ssup = c.ssup ∧
      d.sui = c.sui ∧ d.p = c.p ∧ d.k = c.k ∧ d.vw = c.vw ∧ d.lat = c.lat ∧ d.iss = c.iss ∧ d.fetch = c.fetch ∧ d.mops = c.mops ∧
      t.cores = s.cores ∧ t.pairs = s.pairs ∧ (∀ y : Nat, y ≠ x.val → t.ctx y = s.ctx y) ∧
      ((s.die (dieOf x.val)).trcctl.toNat % 2 = 0 → t.mem = s.mem))) ∧
  (∀ (s : State) (x : CtxId), s.hub.boot = .done → (s.ctx x.val).dbgctl.getLsbD 0 = true →
    let c : Ctx := { s.ctx x.val with attached := true }
    exec (.dbgStep x) s = .next (s.setCtx x.val { c with dstep := true }) ∧
    (∀ (p : Fin 16) (v : BitVec 4096), exec (.dbgRegisterWrite x (.pred p) v) s =
      .next (s.setCtx x.val { c with p := c.p.set p.val (v.getLsbD 0) p.isLt })) ∧
    (∀ (w : Fin 64) (v : BitVec 4096), exec (.dbgRegisterWrite x (.view w) v) s =
      .next (s.setCtx x.val { c with vw := c.vw.set w.val (v.setWidth 64) w.isLt })) ∧
    (∀ (n : Fin 4096) (v : BitVec 4096), (∀ r : Fin 64, ubankReg n.val = some r → ∀ m ∈ c.mops, m.pendS ≠ some (c.userBank r, r)) →
      exec (.dbgRegisterWrite x (.sys n) v) s = .next (s.setCtx x.val (c.setSys n.val (v.setWidth 64)))) ∧
    (∀ (n : Fin 4096) (v : BitVec 4096) (r : Fin 64) (m : MemOp), ubankReg n.val = some r → m ∈ c.mops →
      m.pendS = some (c.userBank r, r) →
      ∃ d : Ctx, exec (.dbgRegisterWrite x (.sys n) v) s = .next (s.setCtx x.val (d.setSys n.val (v.setWidth 64))) ∧
        d.mops.length = c.mops.length ∧ (∀ o ∈ d.mops, o.pendS ≠ some (c.userBank r, r)) ∧ d.dbgctl = c.dbgctl ||| 0x20 ∧
        d.lat = c.lat ∧ d.p = c.p ∧ d.s = c.s) ∧
    (∀ (r : Fin 64) (v : BitVec 4096), (∀ m ∈ c.mops, m.pendS ≠ some (c.bankOf r, r)) →
      exec (.dbgRegisterWrite x (.sreg r) v) s = .next (s.setCtx x.val (c.setS (c.bankOf r) r (v.setWidth 64)))) ∧
    (∀ (r : Fin 64) (v : BitVec 4096) (m : MemOp), m ∈ c.mops → m.pendS = some (c.bankOf r, r) →
      ∃ d : Ctx, exec (.dbgRegisterWrite x (.sreg r) v) s = .next (s.setCtx x.val (d.setS (c.bankOf r) r (v.setWidth 64))) ∧
        d.mops.length = c.mops.length ∧ (∀ o ∈ d.mops, o.pendS ≠ some (c.bankOf r, r)) ∧ d.dbgctl = c.dbgctl ||| 0x20 ∧
        d.lat = c.lat ∧ d.p = c.p ∧ d.s = c.s) ∧
    (∀ (r : Fin 512) (v : BitVec 4096), 8 * c.rslim.toNat ≤ r.val → exec (.dbgRegisterWrite x (.row r) v) s = .next s) ∧
    (∀ (r : Fin 512) (v : BitVec 4096), r.val < 8 * c.rslim.toNat → (∀ m ∈ c.mops, m.pendRow ≠ some (8 * c.rsbase.toNat + r.val)) →
      let a := 8 * c.rsbase.toNat + r.val
      let k := s.core (coreOf x.val)
      exec (.dbgRegisterWrite x (.row r) v) s = .next (
        if k.retained a then ((s.setCtx x.val c).setCore (coreOf x.val)
          { k with rows := Map.put k.rows a ((k.row a).write (BitVec.allOnes 512) v) }).wakeNext x.val (a / 8)
        else (s.setCtx x.val c).setCore (coreOf x.val) (k.putRow s.clock a (BitVec.allOnes 512) v))) ∧
    (∀ (n : Nat) (v : BitVec 4096) (e : Latch), (s.ctx x.val).lat[n]? = some e → exec (.dbgLatchEdit x n v) s =
      .next (s.setCtx x.val { s.ctx x.val with lat := (s.ctx x.val).lat.set n { e with w := e.w.edit v } })) ∧
    (∀ (n : Nat) (v : BitVec 4096) (e : Latch), (s.ctx x.val).parked.lat[n]? = some e →
      exec (.dbgLatchEdit x ((s.ctx x.val).lat.length + n) v) s = .next (s.setCtx x.val { s.ctx x.val with
        parked := { (s.ctx x.val).parked with lat := (s.ctx x.val).parked.lat.set n { e with w := e.w.edit v } } })) ∧
    (∀ (n : Nat) (v : BitVec 4096), ∃ d : Ctx, exec (.dbgLatchEdit x n v) s = .next (s.setCtx x.val d) ∧ d.s = (s.ctx x.val).s ∧
      d.p = (s.ctx x.val).p ∧ d.vw = (s.ctx x.val).vw ∧ d.fetch = (s.ctx x.val).fetch ∧ d.dbgctl = (s.ctx x.val).dbgctl ∧
      d.mops.length = (s.ctx x.val).mops.length)) ∧
  (∀ (s : State) (x : CtxId), s.hub.boot = .done → (s.ctx x.val).dbgctl.getLsbD 0 = false →
    exec (.dbgStep x) s = .next s ∧ (∀ r v, exec (.dbgRegisterWrite x r v) s = .next s) ∧
    ∀ n v, exec (.dbgLatchEdit x n v) s = .next s) ∧
  (∀ (s : State) (d : Fin 4),
    let t := s.die d.val
    (t.trcctl.toNat % 2 = 0 ∨ t.trcctl.toNat / 2 ^ 8 % 2 ^ 24 = 0 ∨ t.trctick < t.trcctl.toNat / 2 ^ 8 % 2 ^ 24 →
      exec (.traceSample d) s = .next s) ∧
    (t.trcctl.toNat % 2 = 1 → 0 < t.trcctl.toNat / 2 ^ 8 % 2 ^ 24 → t.trcctl.toNat / 2 ^ 8 % 2 ^ 24 ≤ t.trctick →
      exec (.traceSample d) s = .next (((s.ctxs.filter fun p => dieOf p.1 == d.val && p.2.occ != .free).map (·.1)).foldl
        (fun u x => u.trace x 1 ((u.ctx x).pba.getD (u.ctx x).ba) ((u.ctx x).pres.toNat + u.stallCode x * 2 ^ 9))
        (s.setDie d.val { t with trctick := 0 }))))

/-- R23, R31, R34, R49 to R54, R228, R240, R258, R300, R301: an index word presents its dictionary entry, the escape word its literal, a
repeat word the bundle before it; a word whose fetch fails traps, one that is poisoned is a fatal error, and one whose fetch misses
waits until the line or the entry is at hand; at the end of a core cycle a result that is due lands; an imprecise fault is taken before the next bundle, a user interrupt
enters its handler through the shadow bank, and a bundle that has waited too long on an empty lin is split by the watchdog. -/
def Obligations.IssueEvents : Prop :=
  (∀ (s : State) (w : Nat) (ws : List (BitVec 32)) (h : Header) (b : Bundle),
    let a := s.me.fetch.pc
    s.mayPresent s.cur = true → s.fetchWord s.cur = .ok w → w < 0xFFF0 → w < s.me.stream.dictn → s.entryWords s.cur a w = .ok ws →
    decodeBundle (s.placeOk s.cur) ws = .ok (h, b) → (∀ v ∈ ws.drop h.length, v = 0) → s.me.stack.runsPast a 2 = false →
    let i := issOf s s.cur a (a + 2) 0 0 b
    s.bodyStop s.cur = none → s.loopBars s.cur i = false → exec .dictIssue s = .next (presents s i)) ∧
  (∀ (s : State) (n : Nat) (ws : List Nat) (h : Header) (b : Bundle),
    let a := s.me.fetch.pc
    s.mayPresent s.cur = true → 0 < n → n ≤ 12 → s.codeWords s.cur a (2 + 2 * n) = .ok (0xFFFF :: n :: ws) →
    decodeBundle (s.placeOk s.cur) (pairWords ws) = .ok (h, b) → h.length = n →
    s.me.stack.runsPast a 2 = false → s.me.stack.runsPast a (4 + 4 * n) = false →
    let i := issOf s s.cur a (a + 4 + 4 * n) 0 0 b
    s.bodyStop s.cur = none → s.loopBars s.cur i = false → exec .literalIssue s = .next (presents s i)) ∧
  (∀ (s : State) (w : Nat) (p : Prev),
    let a := s.me.fetch.pc
    s.mayPresent s.cur = true → s.fetchWord s.cur = .ok w → 0xFFF0 ≤ w → w ≤ 0xFFFE → s.me.fetch.last = some p → p.skip = none →
    s.me.stack.runsPast a 2 = false →
    let i := issOf s s.cur p.origin (a + 2) (s.me.fetch.rep + 1) (w - 0xFFF0 + 2) p.slots
    s.bodyStop s.cur = none → s.loopBars s.cur i = false → exec .repeatIssue s = .next (presents s i)) ∧
  (∀ (s : State) (w : Nat) (e : Instr), s.mayPresent s.cur = true → s.fetchWord s.cur = .ok w →
    e = (if w = 0xFFFF then .literalIssue else if 0xFFF0 ≤ w then .repeatIssue else .dictIssue) → w ≤ 0xFFFF →
    (∀ t : TrapInfo, s.fetchBundle s.cur = .error (.fault t) →
      exec e s = .next (s.bundleTrap s.cur t s.me.fetch.pc (s.nextRep s.cur))) ∧
    (∀ pa : Nat, s.fetchBundle s.cur = .error (.poison pa) → exec e s = .next ((s.logged (.poison pa)).fatalCtx s.cur)) ∧
    (∀ n : Nat, s.fetchBundle s.cur = .error (.line n) ∨ s.fetchBundle s.cur = .error (.entry n) → exec e s = .next (s.heldBy .fetch))) ∧
  (∀ s : State, s.mayPresent s.cur = false → exec .dictIssue s = .next s ∧ exec .literalIssue s = .next s ∧ exec .repeatIssue s = .next s) ∧
  (∀ (s : State) (n : Nat),
    let got (a k : Nat) (t : State) : Prop := exec .fetchFillComplete s =
      .next (if s.inStack a && s.inStack (a + k - 1) then t else t.memError s.cur s.me.fetch.pc)
    (s.fetchBundle s.cur = .error (.line n) →
      got (128 * n) 128 (s.setCore (coreOf s.cur) { s.myCore with cline := s.myCore.cline ++ [n] })) ∧
    (s.fetchBundle s.cur = .error (.entry n) → s.myCore.dict.length < 2048 →
      got n 48 (s.setCore (coreOf s.cur) { s.myCore with dict := s.myCore.dict ++ [n] }))) ∧
  (∀ (s : State) (i : Iss), s.fetchBundle s.cur = .ok i → exec .fetchFillComplete s = .next s) ∧
  (∀ (s : State) (b : Bank) (r : Fin 64) (v : Word) (fl : Flags) (sl : Slot) (ba cc : Nat), s.me.adv = true → s.me.iss = none →
    s.me.parked.spent = false → s.me.lat = [⟨.sreg b r v, 1, fl, sl, ba, cc⟩] → s.me.drains = [] → s.me.passes = [] →
    ∃ t, exec .resultWriteback s = .next t ∧
      t.me.getS b r = v ∧ t.me.lat = [] ∧ t.me.fpflags = s.me.fpflags ||| fl ∧ t.me.cc = s.me.cc + 1 ∧
      (b = .main → ∀ q : Fin 64, q ≠ r → t.me.getS b q = s.me.getS b q) ∧ t.me.p = s.me.p ∧ t.mem = s.mem) ∧
  (∀ (s : State) (w : Write) (n : Nat) (fl : Flags) (sl : Slot) (ba cc : Nat), s.me.adv = true → s.me.iss = none →
    s.me.parked.spent = false → 1 < n → s.me.lat = [⟨w, n, fl, sl, ba, cc⟩] → s.me.drains = [] → s.me.passes = [] →
    ∃ t, exec .resultWriteback s = .next t ∧
      t.me.lat = [⟨w, n - 1, fl, sl, ba, cc⟩] ∧ t.me.s = s.me.s ∧ t.me.p = s.me.p ∧ t.mem = s.mem) ∧
  (∀ s : State, s.me.adv = false → exec .resultWriteback s = .next s) ∧
  (∀ (s : State) (f : Imprecise) (r : List Imprecise), s.me.impq = f :: r → exec .impreciseFaultTake s = .next (
    if s.takesImprecise s.cur then (s.setMe { s.me with impq := r }).takeTrap s.cur ⟨f.cls, f.cause, 0, f.va, f.scale⟩ false f.qix
      f.eng.code s.me.fetch.pc f.ba (s.nextRep s.cur) 0 else s)) ∧
  (∀ (s : State) (w : Word) (r : List Word), s.me.uiq = w :: r →
    (s.takesUser s.cur = false → exec .userInterruptTake s = .next s) ∧
    (s.takesUser s.cur = true → ∃ t, exec .userInterruptTake s = .next t ∧
      t.me.getS .shadow 56 = w ∧ t.me.getS .shadow 57 = BitVec.ofNat 64 s.me.fetch.pc ∧ t.me.uiq = r ∧ t.me.uiact = true ∧
      t.me.fetch = ⟨s.me.uivec.toNat, none, 0⟩ ∧ t.me.loops.floor = s.me.loops.depth ∧ t.me.s = s.me.s ∧ t.me.p = s.me.p ∧
      t.me.lat = s.me.lat ∧ t.cores = s.cores ∧ t.mem = s.mem)) ∧
  (∀ s : State, s.me.watchdog = false → exec .linWatchdog s = .next s) ∧
  (∀ (s : State) (i : Iss), s.me.watchdog = true → s.mayPresent s.cur = true → s.fetchBundle s.cur = .ok i →
    (∀ p ∈ i.slots, p.1 ≠ .Y) → exec .linWatchdog s = .next (({ s.setMe { s.me with
      iss := some i, snap := some (s.capture s.cur), stall := none, linwait := 0 } with slot := .S } : State).slotTrap (TrapInfo.of 11 0)))

/-- The model's reading of every rule: no step of the part stops, whatever the state; each of the opcode table's steps answers a next
state. An instruction that the rules make illegal, or leave to the supervisor, in the state it meets takes the trap they give it; a step
of the machine whose cause is not there leaves the state as it is. -/
def Obligations.EveryStepGoesOn : Prop :=
  (∀ (i : Instr) (s : State), ∃ t, exec i s = .next t) ∧ (∀ s : State, ∃ t, step s = .next t) ∧
  (∀ (s : State) (sa sb sd vd va vb vw : Fin 64) (n : Fin 4096) (v : Word) (pd : Option (Fin 16)) (om : Fin 16) (acc : Fin 4) (cop : Cop)
     (rm : Rm) (bm : Fin 128) (bk : BitVec 32) (row : Row8) (md : Option Modifier) (kind : SumKind) (ch : Fin 256) (nt : Notif),
    let illegalHere (i : Instr) : Prop := exec i s = .next (s.slotTrap (TrapInfo.of 1 2))
    let privileged (i : Instr) : Prop := exec i s = .next (s.slotTrap (TrapInfo.of 2 0))
    (s.me.sup = false →
      (∀ i ∈ [Instr.rft, .tlbinvEntry sa, .tlbinvAsid sa, .tlbinvAll sa], privileged i) ∧
      (sysReadSup n.val = true → privileged (.sysr sd n)) ∧
      (rdS s sa = .ok v → privileged (.tbaWrite sa) ∧ (sysWriteUser n.val = false → privileged (.sysw sa n)))) ∧
    (s.me.sup = true → rdS s sa = .ok v → sysReadOnly n.val = true → illegalHere (.sysw sa n)) ∧
    (s.me.sup = true → ∀ i ∈ [Instr.waiti, .mclaim om pd, .mrel om, .mldSp om sa bk, .mldView om vw row, .mma om om acc cop rm bm,
      .mzero acc, .mstView acc vw row, .mstSp acc sa bk, .mseq om bk], illegalHere i) ∧
    (s.me.sup = true → predOn s md = true → ∀ i ∈ [Instr.skinit vd kind sb row md, .skq vd va row md, .skh vd va row md,
      .skd vd va row md, .skmerge vd va vb row md, .skqry vd va sb row md, .skest vd va row md, .sktop vd va row md], illegalHere i) ∧
    (s.me.uiact = false → illegalHere .rfui) ∧ (s.isComm s.cur = true → illegalHere .halt) ∧
    (s.isComm s.cur = false → ∀ i ∈ [Instr.mbtake sd pd, .chsend ch nt, .chrecv ch nt], illegalHere i) ∧
    (s.workerOf s.cur = none → ∀ i ∈ [Instr.bara ch, .barw ch], illegalHere i)) ∧
  (∀ (s : State) (n m : Nat) (c : CoreId) (d : Fin 4) (x : CtxId) (p : PairId) (om : Fin 16) (g : Fin 64) (e : Bool) (f : LinkFlit)
     (q : BitVec 12) (lanes : BitVec 8) (v : LinkView) (far : Option LinkView),
    let rests (is : List Instr) : Prop := ∀ i ∈ is, exec i s = .next s
    (s.mayPresent s.cur = false → rests [.dictIssue, .literalIssue, .repeatIssue, .impreciseFaultTake, .userInterruptTake]) ∧
    (s.me.impq = [] → rests [.impreciseFaultTake]) ∧ (s.me.uiq = [] → rests [.userInterruptTake]) ∧
    (s.me.adv = false → rests [.resultWriteback]) ∧ (s.me.watchdog = false → rests [.linWatchdog]) ∧
    (s.arrayCycle s.cur = false ∨ s.me.nextBeat = none → rests [.arrayBeat]) ∧
    (s.me.drains.find? Drain.due = none → rests [.mstRowLand]) ∧
    (((s.pair p.val).slot om.val).fill = none ∨ (s.pair p.val).frozen ≠ none → rests [.mldFillComplete p om]) ∧
    ((s.core c.val).sumop = none ∨ (s.pair (c.val / 2)).frozen ≠ none → rests [.summaryOpComplete c]) ∧
    (s.me.mops[n]? = none → rests [.accessAtPointOfCoherence n, .loadLand n, .storePerformed n]) ∧
    ((s.pair (pairOf s.cur)).frozen ≠ none → rests [.loadLand n, .storePerformed n, .workerRetire, .leanSave, .graceWindowExpiry]) ∧
    (s.headCmd c.val e = none → rests [.copyEngineStart c e, .copyDataLand c e, .copyComplete c e]) ∧
    ((s.pair (c.val / 2)).frozen ≠ none → rests [.copyEngineStart c e, .copyDataLand c e, .copyComplete c e]) ∧
    (s.hub.msgs[n]? = none → rests [.barrierArrival (.listed n), .barrierSignal (.listed n)]) ∧
    (s.hub.wnet[n]? = none → rests [.windowRead n, .windowReadForOwnership n, .windowUpgrade n, .windowForwardedRequest n,
      .windowInvalidation n, .windowAcknowledgement n, .windowData n, .windowNotBusy n, .windowWriteback n, .windowHomeAck n]) ∧
    (s.hub.inq[n]? = none → rests [.remoteRead n, .remoteWrite n, .remoteAtomic n, .readData n, .atomicAnswer n, .acknowledgement n,
      .reduceContribution n, .reduceResult n, .linkFifoWords n, .linkFifoCredit n]) ∧
    (s.hub.routeq[n]? = none → rests [.routeEntryApply n]) ∧
    ((s.link om).st ≠ .active → rests [.linkFlitReceive om f, .linkReplay om q, .linkCrcThreshold om, .linkLaneLoss om lanes,
      .linkReplayLimit om]) ∧
    ((s.link om).st ≠ .train → rests [.linkTrainComplete om v, .linkTrainTimeout om]) ∧
    ((s.link om).st ≠ .handshake → rests [.linkHandshakeComplete om far]) ∧
    (s.hub.boot = .done → ((s.link om).st ≠ .active → rests [.lnkctlRetrain om]) ∧ ((s.link om).st ≠ .down → rests [.lnkctlBringUp om]) ∧
      ((s.link om).st = .down → rests [.lnkctlForceDown om])) ∧
    (s.mayRetain c.val g.val = false → rests [.granuleRetentionEntry c g]) ∧
    (Map.find (s.core c.val).gwake g.val ≠ some 0 ∨ s.wakeServed c.val g.val = false → rests [.retentionWakeComplete c g]) ∧
    ((s.die d.val).mcast[n]? = none → rests [.multicastStoreLand d n]) ∧
    ((s.die d.val).walks[n]? = none → rests [.tlbWalkComplete d n]) ∧
    (s.launch n = none → rests [.launchComplete n, .preemptTrigger n]) ∧
    ((∀ k ∈ s.hub.heldc, k.q ≠ n) → rests [.heldCompletionWrite n]) ∧
    (s.hub.coal.find? (·.q == n) = none → rests [.msixCoalesceExpiry n]) ∧
    (s.hub.replays.find? (·.id == n) = none → rests [.nodeStart n m, .graphEdgeComplete n m]) ∧
    (s.dispatch (dieOf x.val) = none → rests [.workerPlace x, .leanRestore x n]) ∧
    ((s.pair p.val).frozen = none → rests [.imageSeal p]) ∧
    ((s.pair p.val).frozen = none → s.dispatch (p.val / 20) = none → rests [.restoreImage p n]) ∧
    (s.hub.images.find? (fun i => i.2.pair == p.val && !i.2.final) = none → rests [.heldResponseAppend p]) ∧
    (s.me.run ≠ .retiring → s.me.run ≠ .fatal → rests [.workerRetire]) ∧ (s.me.run ≠ .saving → rests [.leanSave]) ∧
    (s.me.grace ≠ some 0 → rests [.graceWindowExpiry]) ∧ (s.hub.boot ≠ .rom → rests [.boot]))

/-- R61 to R77: decoding the words of a well-formed instruction of the code stream gives the instruction back, whatever its operands,
in every slot that takes it. -/
def Obligations.EncodingRoundTrips : Prop :=
  ∀ (i : Instr) (e : Enc), encode i = some e → i.wf = true →
    e.word < 2 ^ 32 ∧ decodeSlot e.slot (BitVec.ofNat 32 e.word) e.ext = some i ∧
    (e.slot = .V1 → i.fits .V0 = true → decodeSlot .V0 (BitVec.ofNat 32 e.word) e.ext = some i) ∧
    (e.slot = .C0 → decodeSlot .C1 (BitVec.ofNat 32 e.word) e.ext = some i)

/-- R58 to R77: every word that decodes is that of one well-formed instruction: encoding it gives the word and its extension words back,
so that no bit of a slot word is left unread. -/
def Obligations.WordsHaveOneMeaning : Prop :=
  ∀ (sl : Slot) (w : BitVec 32) (x : List (BitVec 32)) (i : Instr), decodeSlot sl w x = some i →
    i.wf = true ∧ i.fits sl = true ∧ ∃ e : Enc, encode i = some e ∧ BitVec.ofNat 32 e.word = w ∧ e.ext = x ∧
      (e.slot = sl ∨ (sl = .V0 ∧ e.slot = .V1) ∨ (sl = .C1 ∧ e.slot = .C0))

/-- Every step keeps the canonical form of device memory: addresses strictly rising, no byte listed that equals what an unlisted
address reads as (log entry 1). -/
def Obligations.MemoryStaysCanonical : Prop :=
  ∀ s t : State, Memory.wf s.mem = true → step s = .next t → Memory.wf t.mem = true

/-- The machine right after reset: memory in canonical form; the values of the Reset columns of R217, R232, R286, R295 to R297; MPITCH 1
and the other context registers zero. What the spec gives no reset value is the model's choice (log entry 2). -/
def Obligations.ResetState : Prop :=
  core.reset = State.reset ∧ Memory.wf State.reset.mem = true ∧ State.reset.canonicalMem = true ∧ State.reset.hub.boot = .rom ∧
  (∀ d : Nat, let t := State.reset.die d
    t.trcbase = 0 ∧ t.trclen = 0 ∧ t.trcptr = 0 ∧ t.trcctl = 0 ∧ t.didt = 0x40000 ∧ t.tokens = 4) ∧
  (let h := State.reset.hub
   h.schedctl = 64 * 0x10000 + 20 ∧ h.pkgid = 0 ∧ h.commkh = 0 ∧ h.commpt = 0 ∧ h.commtv = 0 ∧ h.commarg = 0 ∧
   ∀ l : Fin 16, h.links.get l = ⟨.down, 0, ⟨0, 0, false⟩, none, 0, [], 0, 0, 0, [], [], Vector.replicate 12 []⟩) ∧
  (∀ x : Nat, let c := State.reset.ctx x
    c.mpitch = 1 ∧ c.ctxctl = 0 ∧ c.fpflags = 0 ∧ c.uivec = 0 ∧ c.xpat = 0 ∧ c.mseqr = 0 ∧ c.arrcfg = 0 ∧ c.fxgrid = 0 ∧
    (∀ i : Fin 8, c.scwb.get i = 0) ∧ (∀ i : Fin 32, c.lmap.get i = 0) ∧ c.loops = Loops.empty ∧ c.lfto = 0 ∧ c.chtab = 0 ∧
    c.rsbase = 0 ∧ c.rslim = 0 ∧ c.spbase = 0 ∧ c.splim = 0 ∧ c.ptroot = 0 ∧ c.tvec = 0 ∧ c.tba = 0 ∧ c.tcba = 0 ∧ c.taddr = 0 ∧
    c.tsw = 0 ∧ c.tlbiva = 0 ∧ c.dbgctl = 0 ∧ c.run = .idle ∧ c.occ = .free ∧ c.lat = [] ∧
    ∀ k : Fin 32, c.k.get k = 0 ∧ c.ktag.get k = .core)

/-- A step runs what is lined up for it, or else the next context's bundle: the bundle that its fetch decodes, when no slot of it is
held and no unit it uses has been taken in this die cycle (R18 to R21, R59, R60; log entry 6). -/
def Obligations.StepRunsTheBundle : Prop :=
  (∀ (s : State) (x : Nat) (i : Instr) (r : List (Nat × Instr)), s.todo = (x, i) :: r →
    step s = exec i { s with todo := r, cur := x }) ∧
  (∀ (s t : State) (x : Nat) (r : List Nat) (i : Iss), s.todo = [] → s.ring = x :: r → s.mayPresent x = true →
    (s.ctx x).dbgctl.getLsbD 0 = false → (s.ctx x).dstep = false → (s.ctx x).waking = false → s.landsAsleep x = false →
    (s.ctx x).watchdog = false → s.takesImprecise x = false →
    s.takesUser x = false → s.fetchBundle x = .ok i → (∀ p ∈ i.todo, p.2 ≠ .rft) →
    (∀ q ∈ (s.die (dieOf x)).reqs, q.served = true) →
    let c := s.ctx x
    let v : State := ({ s with ring := r, cur := x } : State).useTlb x fun e => e.covers (field c.ptroot.toNat 63 52) c.fetch.pc
    let u := v.setCtx x { v.ctx x with iss := some i, stall := none, pres := presMask i.slots, pba := some i.ba, linwait := 0 }
    (u.ctx x).awaits = false →
    (∀ p ∈ i.todo, ∀ w : State, exec p.2 { u with slot := p.1 } = .next w → (w.ctx x).stall = none) →
    presMask i.todo &&& (s.core (coreOf x)).mask = 0 →
    slotsRun x i.todo (u.setCtx x { u.ctx x with snap := some (u.capture x), ncol := 0 }) t →
    step s = .next (t.setCore (coreOf x) { t.core (coreOf x) with mask := (t.core (coreOf x)).mask ||| presMask i.todo })) ∧
  (∀ (s : State) (x n : Nat) (ws : List Nat) (h : Header) (b : Bundle), let c := s.ctx x
    let a := c.fetch.pc
    0 < n → n ≤ 12 → s.codeWords x a (2 + 2 * n) = .ok (0xFFFF :: n :: ws) →
    decodeBundle (s.placeOk x) (pairWords ws) = .ok (h, b) → h.length = n → c.stack.runsPast a (4 + 4 * n) = false →
    c.stack.runsPast a 2 = false → s.bodyStop x = none → s.loopBars x (issOf s x a (a + 4 + 4 * n) 0 0 b) = false →
    s.fetchBundle x = .ok (issOf s x a (a + 4 + 4 * n) 0 0 b))

/-- R63 to R77: words that the spec's examples write out, and what they stand for. -/
def Obligations.WordsDecode : Prop :=
  decodeSlot .S 0x44188058 [] = some (.clz (.fmt .n32) 3 4) ∧ decodeSlot .S 0x48188050 [] = some (.popc (.fmt .n16) 3 4) ∧
  decodeSlot .S 0x40086210 [] = some (.sel 2 1 3 4) ∧ decodeSlot .S 0x140841B8 [] = some (.div (.fmt .i32) 1 2 3) ∧
  decodeSlot .S 0x180841B8 [] = some (.rem (.fmt .i32) 1 2 3) ∧ decodeSlot .S 0x100841C0 [] = some (.mulh (.fmt .i64) 1 2 3) ∧
  decodeSlot .S 0x0638F001 [] = some (.addImm (.fmt .i64) 7 7 (.short 1)) ∧
  decodeSlot .S 0x3A084E04 [] = some (.shraImm (.fmt .i32) 1 2 (.short 4)) ∧
  decodeSlot .S 0x681FFFFB [] = some (.movi 3 (.short (-5))) ∧ decodeSlot .S 0xD4001234 [] = some (.trap 0x1234) ∧
  decodeSlot .S 0x8C000018 [] = some (.wdrop 3) ∧ decodeSlot .S 0xDC000000 [] = some .halt ∧
  decodeSlot .Y 0x28000000 [] = some .waiti ∧ decodeSlot .Y 0x09800000 [] = some (.rel .package) ∧
  decodeSlot .V0 0xB0200240 [] = some (.vld 2 (.imm 0) 9 0 none)

/-- R250, R252, R254, R255, R257, R261: a precise trap of a slot in user mode saves the bundle's address and the status, parks the user's
latches, fetch state and split bundle, enters supervisor mode and fetches the TVEC kernel at its ENTRY, with the registers as they
were; the return restores what was parked. In supervisor mode, or without a supervisor kernel, the context stops. -/
def Obligations.TrapEntryAndReturn : Prop :=
  (∀ (s : State) (t : TrapInfo) (i : Iss) (sn : Snap) (k : Code), s.me.iss = some i → s.me.snap = some sn → s.me.sup = false →
    s.me.tvec ≠ 0 → s.supKernel s.me = some k → t.cls < 256 → t.cause < 256 → i.rep < 32 →
    let n := s.slot.index
    let split := 1 ≤ n ∧ n ≤ 8
    let u := s.slotTrap t
    let c := u.me
    let w := c.tsw.toNat
    (c.sup = true ∧ c.tba = BitVec.ofNat 64 i.ba ∧ c.tcba = BitVec.ofNat 64 i.ba ∧ c.taddr = BitVec.ofNat 64 t.va ∧ c.supcode = k ∧
      c.fetch = ⟨k.codeva + 2 * k.entry, none, 0⟩ ∧ c.suploops = Loops.empty ∧ c.lat = [] ∧ c.iss = none ∧
      c.s = s.me.s ∧ c.ssup = s.me.ssup ∧ c.sui = s.me.sui ∧ c.p = s.me.p ∧ c.k = s.me.k ∧ c.vw = s.me.vw ∧ c.loops = s.me.loops) ∧
    (w / 2 ^ 48 = t.code % 2 ^ 16 ∧ w / 2 ^ 36 % 2 ^ 12 = 0 ∧ w / 2 ^ 31 % 2 ^ 5 = i.rep ∧ w.testBit 30 = t.scale ∧
      w.testBit 29 = s.me.uiact ∧ w.testBit 28 = true ∧ w / 2 ^ 24 % 2 ^ 4 = n ∧ w / 2 ^ 16 % 2 ^ 8 = t.cause ∧ w % 2 ^ 16 = t.cls) ∧
    (let d := (u.returnFromTrap u.cur).me
     d.sup = false ∧ d.lat = s.me.lat ∧ d.fetch = s.me.fetch ∧ d.s = s.me.s ∧ d.p = s.me.p ∧
     d.iss = (if split then some { i with inv := [] } else none) ∧ d.snap = (if split then some sn else none))) ∧
  (∀ (s : State) (t : TrapInfo), s.me.sup = true ∨ s.me.tvec = 0 ∨ s.supKernel s.me = none →
    ((s.slotTrap t).ctx s.cur).run = .fatal)

/-- R30: saturation. An increment of a flag that holds 0xFFFF and a decrement of one that holds 0 leave it and set FLAGOVF; the increments
and decrements that land in one core cycle give what saturating arithmetic gives in some order. -/
def Obligations.FlagSaturation : Prop :=
  (∀ (c : Ctx) (k : Fin 32) (n : Nat) (sc : Scope), 0 < n → c.k.get k = 0xFFFF →
    (c.addFlag k n sc).k.get k = 0xFFFF ∧ (c.addFlag k n sc).ctxctl.getLsbD 1 = true) ∧
  (∀ (c : Ctx) (k : Fin 32) (n : Nat), 0 < n → c.k.get k = 0 →
    (c.subFlag k n).k.get k = 0 ∧ (c.subFlag k n).ctxctl.getLsbD 1 = true) ∧
  (∀ (s : State) (x : Nat) (k : Fin 32) (es : List Latch),
    let ofFlag (w : Write) : Option Int := match w with
      | .flagAdd j n _ => if j = k then some n else none
      | .flagSub j n => if j = k then some (-n) else none
      | _ => none
    (∀ e ∈ es, (ofFlag e.w).isSome) →
    ∃ ds : List Int, ds.Perm (es.filterMap fun e => ofFlag e.w) ∧
      ((((s.landAll x es).ctx x).k.get k).toNat : Int) =
        ds.foldl (fun v d => Max.max 0 (Min.min 65535 (v + d))) (((s.ctx x).k.get k).toNat : Int))

/-- R361: SEL, its encoding, its result and its latency. -/
def Obligations.Select : Prop :=
  (∀ (w : BitVec 32) (x : List (BitVec 32)), w.toNat / 2 ^ 26 = 0x10 →
    decodeSlot .S w x = if x = [] ∧ w.getLsbD 25 = false ∧ w.toNat % 2 ^ 3 = 0 then
      some (.sel (Fin.ofNat 16 (w.toNat / 2 ^ 3)) (Fin.ofNat 64 (w.toNat / 2 ^ 19)) (Fin.ofNat 64 (w.toNat / 2 ^ 13))
        (Fin.ofNat 64 (w.toNat / 2 ^ 7))) else none) ∧
  (∀ (s : State) (p : Fin 16) (sd sa sb : Fin 64) (a b : Word), rdS s sa = .ok a → rdS s sb = .ok b → wrS s sd = .ok () →
    exec (.sel p sd sa sb) s = .next (s.latch (.sreg (s.me.bankOf sd) sd (if rdP s p then a else b)) 1 0)) ∧
  (∀ (p : Fin 16) (sd sa sb : Fin 64), (Instr.sel p sd sa sb).isLink = false) ∧
  decodeSlot .S 0x40086210 [] = some (.sel 2 1 3 4)

/-- R328, R357: CLZ and POPC, their encodings, their results, the rules' examples. -/
def Obligations.BitCounts : Prop :=
  (∀ (w : BitVec 32) (x : List (BitVec 32)),
    let t := w.toNat / 2 ^ 3 % 2 ^ 4
    let d := Fin.ofNat 64 (w.toNat / 2 ^ 19)
    let a := Fin.ofNat 64 (w.toNat / 2 ^ 13)
    let ok := x = [] ∧ w.getLsbD 25 = false ∧ w.toNat / 2 ^ 7 % 2 ^ 6 = 0 ∧ w.toNat % 2 ^ 3 = 0 ∧ ((5 ≤ t ∧ t ≤ 12) ∨ t = 14)
    (w.toNat / 2 ^ 26 = 0x11 → decodeSlot .S w x = if ok then (Ty.ofCode t).map fun ty => .clz ty d a else none) ∧
    (w.toNat / 2 ^ 26 = 0x12 → decodeSlot .S w x = if ok then (Ty.ofCode t).map fun ty => .popc ty d a else none)) ∧
  (∀ (s : State) (ty : Ty) (sd sa : Fin 64) (a : Word), rdT s ty sa = .ok a → wrT (popT s ty [sa]) ty sd = .ok () →
    let w := ty.base.opWidth
    let put (n : Nat) := (popT s ty [sa]).latch ((popT s ty [sa]).me.destT ty sd (BitVec.ofNat 64 n)) 1 0
    exec (.clz ty sd sa) s = .next (put ((List.range w).takeWhile fun i => !a.getLsbD (w - 1 - i)).length) ∧
    exec (.popc ty sd sa) s = .next (put ((List.range w).filter fun i => a.getLsbD i).length)) ∧
  (∀ s : State, wrS s 3 = .ok () → let put (n : Nat) := s.latch (.sreg (s.me.bankOf 3) 3 (BitVec.ofNat 64 n)) 1 0
    decodeSlot .S 0x44188058 [] = some (.clz (.fmt .n32) 3 4) ∧ decodeSlot .S 0x48188050 [] = some (.popc (.fmt .n16) 3 4) ∧
    (rdS s 4 = .ok 0x0000000100000100 → exec (.clz (.fmt .n32) 3 4) s = .next (put 23)) ∧
    (rdS s 4 = .ok 0xFFFF000000008001 → exec (.popc (.fmt .n16) 3 4) s = .next (put 2)))

/-- R23, R41: no instruction of the code stream writes a scalar register, a predicate, a view register or a row of the register space at
its issue: in user mode or supervisor mode, while its context goes on in its mode, they stand as before until results land. -/
def Obligations.RegistersWaitForWriteback : Prop :=
  ∀ (i : Instr) (e : Enc) (s t : State), encode i = some e → exec i s = .next t → s.me.run = .running → t.me.run = .running →
    t.me.sup = s.me.sup → s.me.iss ≠ none →
    (∀ x : Nat, (t.ctx x).s = (s.ctx x).s ∧ (t.ctx x).sui = (s.ctx x).sui ∧ (t.ctx x).ssup = (s.ctx x).ssup ∧
      (t.ctx x).p = (s.ctx x).p ∧ (t.ctx x).vw = (s.ctx x).vw) ∧
    ∀ c : Nat, (t.core c).rows = (s.core c).rows
end

