-- ==== Sys2Proof/Laws/Memory.lean ====
section
/-! SUPPORT. Byte memory: a read after a write, and that every operation keeps the canonical form. -/

namespace Sys2Proof.Machine

/-- The addresses of a memory all lie above a bound, if there is one. -/
theorem Memory.above_iff (lo : Option Nat) (k : Nat) (v : Byte) (m : List Host.Cell) :
    Memory.above lo ((k, v) :: m) = true ↔ (∀ l, lo = some l → l < k) ∧ v ≠ 0 ∧ Memory.above (some k) m = true := by
  cases lo <;> simp [Memory.above, and_assoc]

/-- A weaker bound holds too. -/
theorem Memory.above_mono {m : List Host.Cell} {l : Nat} {lo : Option Nat} (h : Memory.above (some l) m = true)
    (hl : ∀ k, lo = some k → k ≤ l) : Memory.above lo m = true := by
  cases m with
  | nil => rfl
  | cons p m =>
    obtain ⟨k, v⟩ := p
    rw [Memory.above_iff] at h ⊢
    exact ⟨fun j hj => Nat.lt_of_le_of_lt (hl j hj) (h.1 l rfl), h.2⟩

/-- A byte at or below the bound above which a memory's addresses stand is not listed: it reads as zero. -/
theorem Memory.read_of_above {m : List Host.Cell} {l a : Nat} (h : Memory.above (some l) m = true) (ha : a ≤ l) :
    Memory.read m a = 0 := by
  cases m with
  | nil => rfl
  | cons p m =>
    obtain ⟨k, v⟩ := p
    have hk := ((Memory.above_iff _ _ _ _).1 h).1 l rfl
    rw [Memory.read, if_neg (by omega), if_pos (by omega)]

/-- A write above a bound keeps the rest above it. -/
theorem Memory.above_write {m : List Host.Cell} {lo : Option Nat} {a : Nat} {b : Byte} (h : Memory.above lo m = true)
    (ha : ∀ l, lo = some l → l < a) : Memory.above lo (Memory.write m a b) = true := by
  induction m generalizing lo with
  | nil =>
    rw [Memory.write]
    split
    · rfl
    · rename_i hb; exact (Memory.above_iff _ _ _ _).2 ⟨ha, hb, rfl⟩
  | cons p m ih =>
    obtain ⟨k, v⟩ := p
    obtain ⟨h1, h2, h3⟩ := (Memory.above_iff _ _ _ _).1 h
    rw [Memory.write]
    split
    · rename_i hk
      exact (Memory.above_iff _ _ _ _).2 ⟨h1, h2, ih h3 fun l hl => by cases hl; exact hk⟩
    · split
      · rename_i hk
        subst hk
        split
        · exact Memory.above_mono h3 fun l hl => Nat.le_of_lt (ha l hl)
        · rename_i hb; exact (Memory.above_iff _ _ _ _).2 ⟨ha, hb, h3⟩
      · split
        · exact h
        · rename_i hk hk' hb
          refine (Memory.above_iff _ _ _ _).2 ⟨ha, hb, (Memory.above_iff _ _ _ _).2 ⟨fun l hl => ?_, h2, h3⟩⟩
          cases hl; omega

/-- A byte written keeps the canonical form. -/
theorem Memory.wf_write {m : List Host.Cell} (a : Nat) (b : Byte) (h : Memory.wf m = true) : Memory.wf (Memory.write m a b) = true :=
  Memory.above_write h fun _ hl => by cases hl

/-- Bytes written one after another keep the canonical form. -/
theorem Memory.wf_writeAll {m : List Host.Cell} (cs : List Host.Cell) (h : Memory.wf m = true) :
    Memory.wf (Memory.writeAll m cs) = true := by
  unfold Memory.writeAll
  induction cs generalizing m with
  | nil => exact h
  | cons c cs ih => exact ih (Memory.wf_write c.1 c.2 h)

/-- A read after a write of one byte gives the byte at its address and leaves every other alone. -/
theorem Memory.read_write {m : List Host.Cell} {lo : Option Nat} (a : Nat) (b : Byte) (n : Nat) (h : Memory.above lo m = true) :
    Memory.read (Memory.write m a b) n = if n = a then b else Memory.read m n := by
  induction m generalizing lo with
  | nil =>
    rw [Memory.write]
    by_cases hb : b = 0
    · rw [if_pos hb]; split <;> simp_all [Memory.read]
    · rw [if_neg hb, Memory.read, Memory.read]
      by_cases hn : n = a
      · rw [if_pos hn.symm, if_pos hn]
      · rw [if_neg (Ne.symm hn), if_neg hn]; split <;> rfl
  | cons p m ih =>
    obtain ⟨k, v⟩ := p
    obtain ⟨-, -, h3⟩ := (Memory.above_iff _ _ _ _).1 h
    rw [Memory.write]
    split
    · rename_i hk
      rw [Memory.read, Memory.read, ih h3]
      by_cases hn : k = n
      · rw [if_pos hn, if_pos hn, if_neg (by omega)]
      · by_cases hlt : n < k
        · rw [if_neg hn, if_pos hlt, if_neg (by omega), if_neg hn, if_pos hlt]
        · rw [if_neg hn, if_neg hlt, if_neg hn, if_neg hlt]
    · split
      · rename_i hk
        subst hk
        split
        · rename_i hb
          by_cases hn : n = k
          · rw [if_pos hn, hb]; exact Memory.read_of_above h3 (by omega)
          · rw [if_neg hn, Memory.read, if_neg (Ne.symm hn)]
            split
            · exact Memory.read_of_above h3 (by omega)
            · rfl
        · rw [Memory.read, Memory.read]
          by_cases hn : n = k
          · rw [if_pos hn.symm, if_pos hn]
          · rw [if_neg (Ne.symm hn), if_neg hn, if_neg (Ne.symm hn)]
      · split
        · rename_i hk hk' hb
          by_cases hn : n = a
          · rw [if_pos hn, hb, Memory.read, if_neg (by omega), if_pos (by omega)]
          · rw [if_neg hn]
        · rename_i hk hk' hb
          rw [Memory.read]
          by_cases hn : n = a
          · rw [if_pos hn.symm, if_pos hn]
          · rw [if_neg (Ne.symm hn), if_neg hn]
            by_cases hlt : n < a
            · rw [if_pos hlt, Memory.read, if_neg (by omega), if_pos (by omega)]
            · rw [if_neg hlt]

/-- A read after a write in a memory in its canonical form. -/
theorem Memory.read_write_wf {m : List Host.Cell} (a : Nat) (b : Byte) (n : Nat) (h : Memory.wf m = true) :
    Memory.read (Memory.write m a b) n = if n = a then b else Memory.read m n :=
  Memory.read_write a b n h

/-- Writing what a byte holds changes nothing (equal memories are equal data). -/
theorem Memory.write_read {m : List Host.Cell} {lo : Option Nat} (a : Nat) (h : Memory.above lo m = true) :
    Memory.write m a (Memory.read m a) = m := by
  induction m generalizing lo with
  | nil => rfl
  | cons p m ih =>
    obtain ⟨k, v⟩ := p
    obtain ⟨-, h2, h3⟩ := (Memory.above_iff _ _ _ _).1 h
    rw [Memory.write, Memory.read]
    by_cases hk : k < a
    · rw [if_pos hk, if_neg (by omega), if_neg (by omega), ih h3]
    · rw [if_neg hk]
      by_cases hka : k = a
      · rw [if_pos hka, if_pos hka, if_neg h2, hka]
      · rw [if_neg hka, if_neg hka, if_pos (show a < k by omega), if_pos rfl]

end Sys2Proof.Machine
end

