-- ==== Sys2Proof/Laws/State.lean ====
section
/-! SUPPORT. What each update of the state leaves alone, and what it reads back: so that no proof unfolds a record update. -/

namespace Sys2Proof.Machine

/-! ### Collections -/

/-- A collection reads back what was put at a key, and elsewhere what it held. -/
theorem Map.get_put (d : α) (m : Map α) (n k : Nat) (v : α) : Map.get d (Map.put m n v) k = if n = k then v else Map.get d m k := by
  induction m with
  | nil => simp [Map.put, Map.get]
  | cons p m ih =>
    obtain ⟨a, u⟩ := p
    by_cases h : a = n
    · subst h; by_cases g : a = k <;> simp [Map.put, Map.get, g]
    · by_cases g : a = k
      · subst g; simp [Map.put, Map.get, h, Ne.symm h]
      · simp [Map.put, Map.get, h, g, ih]

/-- The key just written reads what was written. -/
@[simp] theorem Map.get_put_same (d : α) (m : Map α) (n : Nat) (v : α) : Map.get d (Map.put m n v) n = v := by
  simp [Map.get_put]

/-- A second write at a key replaces the first. -/
@[simp] theorem Map.put_put (m : Map α) (n : Nat) (u v : α) : Map.put (Map.put m n u) n v = Map.put m n v := by
  induction m with
  | nil => simp [Map.put]
  | cons p m ih =>
    obtain ⟨a, w⟩ := p
    by_cases h : a = n
    · simp [Map.put, h]
    · simp [Map.put, h, ih]

/-- Another key reads as before. -/
theorem Map.get_put_ne (d : α) (m : Map α) {n k : Nat} (v : α) (h : n ≠ k) : Map.get d (Map.put m n v) k = Map.get d m k := by
  simp [Map.get_put, h]

/-! ### setCtx -/

@[simp] theorem State.setCtx_cores (s : State) (x : Nat) (c : Ctx) : (s.setCtx x c).cores = s.cores := rfl
@[simp] theorem State.setCtx_pairs (s : State) (x : Nat) (c : Ctx) : (s.setCtx x c).pairs = s.pairs := rfl
@[simp] theorem State.setCtx_clusters (s : State) (x : Nat) (c : Ctx) : (s.setCtx x c).clusters = s.clusters := rfl
@[simp] theorem State.setCtx_dies (s : State) (x : Nat) (c : Ctx) : (s.setCtx x c).dies = s.dies := rfl
@[simp] theorem State.setCtx_hub (s : State) (x : Nat) (c : Ctx) : (s.setCtx x c).hub = s.hub := rfl
@[simp] theorem State.setCtx_mem (s : State) (x : Nat) (c : Ctx) : (s.setCtx x c).mem = s.mem := rfl
@[simp] theorem State.setCtx_zflag (s : State) (x : Nat) (c : Ctx) : (s.setCtx x c).zflag = s.zflag := rfl
@[simp] theorem State.setCtx_poison (s : State) (x : Nat) (c : Ctx) : (s.setCtx x c).poison = s.poison := rfl
@[simp] theorem State.setCtx_log (s : State) (x : Nat) (c : Ctx) : (s.setCtx x c).log = s.log := rfl
@[simp] theorem State.setCtx_toHost (s : State) (x : Nat) (c : Ctx) : (s.setCtx x c).toHost = s.toHost := rfl
@[simp] theorem State.setCtx_clock (s : State) (x : Nat) (c : Ctx) : (s.setCtx x c).clock = s.clock := rfl
@[simp] theorem State.setCtx_cur (s : State) (x : Nat) (c : Ctx) : (s.setCtx x c).cur = s.cur := rfl
@[simp] theorem State.setCtx_slot (s : State) (x : Nat) (c : Ctx) : (s.setCtx x c).slot = s.slot := rfl
@[simp] theorem State.setCtx_todo (s : State) (x : Nat) (c : Ctx) : (s.setCtx x c).todo = s.todo := rfl
@[simp] theorem State.setCtx_ring (s : State) (x : Nat) (c : Ctx) : (s.setCtx x c).ring = s.ring := rfl
@[simp] theorem State.setCtx_free (s : State) (x : Nat) (c : Ctx) : (s.setCtx x c).free = s.free := rfl

@[simp] theorem State.setCtx_core (s : State) (x : Nat) (c : Ctx) (k : Nat) : (s.setCtx x c).core k = s.core k := rfl
@[simp] theorem State.setCtx_pair (s : State) (x : Nat) (c : Ctx) (k : Nat) : (s.setCtx x c).pair k = s.pair k := rfl
@[simp] theorem State.setCtx_cluster (s : State) (x : Nat) (c : Ctx) (k : Nat) : (s.setCtx x c).cluster k = s.cluster k := rfl
@[simp] theorem State.setCtx_die (s : State) (x : Nat) (c : Ctx) (k : Nat) : (s.setCtx x c).die k = s.die k := rfl

theorem State.setCtx_ctx (s : State) (x : Nat) (c : Ctx) (k : Nat) : (s.setCtx x c).ctx k = if x = k then c else s.ctx k :=
  Map.get_put _ _ _ _ _
@[simp] theorem State.setCtx_ctx_same (s : State) (x : Nat) (c : Ctx) : (s.setCtx x c).ctx x = c := by simp [State.setCtx_ctx]

/-! ### setCore -/

@[simp] theorem State.setCore_ctxs (s : State) (n : Nat) (c : CoreSt) : (s.setCore n c).ctxs = s.ctxs := rfl
@[simp] theorem State.setCore_pairs (s : State) (n : Nat) (c : CoreSt) : (s.setCore n c).pairs = s.pairs := rfl
@[simp] theorem State.setCore_clusters (s : State) (n : Nat) (c : CoreSt) : (s.setCore n c).clusters = s.clusters := rfl
@[simp] theorem State.setCore_dies (s : State) (n : Nat) (c : CoreSt) : (s.setCore n c).dies = s.dies := rfl
@[simp] theorem State.setCore_hub (s : State) (n : Nat) (c : CoreSt) : (s.setCore n c).hub = s.hub := rfl
@[simp] theorem State.setCore_mem (s : State) (n : Nat) (c : CoreSt) : (s.setCore n c).mem = s.mem := rfl
@[simp] theorem State.setCore_zflag (s : State) (n : Nat) (c : CoreSt) : (s.setCore n c).zflag = s.zflag := rfl
@[simp] theorem State.setCore_poison (s : State) (n : Nat) (c : CoreSt) : (s.setCore n c).poison = s.poison := rfl
@[simp] theorem State.setCore_log (s : State) (n : Nat) (c : CoreSt) : (s.setCore n c).log = s.log := rfl
@[simp] theorem State.setCore_toHost (s : State) (n : Nat) (c : CoreSt) : (s.setCore n c).toHost = s.toHost := rfl
@[simp] theorem State.setCore_clock (s : State) (n : Nat) (c : CoreSt) : (s.setCore n c).clock = s.clock := rfl
@[simp] theorem State.setCore_cur (s : State) (n : Nat) (c : CoreSt) : (s.setCore n c).cur = s.cur := rfl
@[simp] theorem State.setCore_slot (s : State) (n : Nat) (c : CoreSt) : (s.setCore n c).slot = s.slot := rfl
@[simp] theorem State.setCore_todo (s : State) (n : Nat) (c : CoreSt) : (s.setCore n c).todo = s.todo := rfl
@[simp] theorem State.setCore_ring (s : State) (n : Nat) (c : CoreSt) : (s.setCore n c).ring = s.ring := rfl
@[simp] theorem State.setCore_free (s : State) (n : Nat) (c : CoreSt) : (s.setCore n c).free = s.free := rfl

@[simp] theorem State.setCore_ctx (s : State) (n : Nat) (c : CoreSt) (k : Nat) : (s.setCore n c).ctx k = s.ctx k := rfl
@[simp] theorem State.setCore_pair (s : State) (n : Nat) (c : CoreSt) (k : Nat) : (s.setCore n c).pair k = s.pair k := rfl
@[simp] theorem State.setCore_cluster (s : State) (n : Nat) (c : CoreSt) (k : Nat) : (s.setCore n c).cluster k = s.cluster k := rfl
@[simp] theorem State.setCore_die (s : State) (n : Nat) (c : CoreSt) (k : Nat) : (s.setCore n c).die k = s.die k := rfl

theorem State.setCore_core (s : State) (n : Nat) (c : CoreSt) (k : Nat) : (s.setCore n c).core k = if n = k then c else s.core k :=
  Map.get_put _ _ _ _ _
@[simp] theorem State.setCore_core_same (s : State) (n : Nat) (c : CoreSt) : (s.setCore n c).core n = c := by simp [State.setCore_core]

/-! ### setPair -/

@[simp] theorem State.setPair_ctxs (s : State) (n : Nat) (c : PairSt) : (s.setPair n c).ctxs = s.ctxs := rfl
@[simp] theorem State.setPair_cores (s : State) (n : Nat) (c : PairSt) : (s.setPair n c).cores = s.cores := rfl
@[simp] theorem State.setPair_clusters (s : State) (n : Nat) (c : PairSt) : (s.setPair n c).clusters = s.clusters := rfl
@[simp] theorem State.setPair_dies (s : State) (n : Nat) (c : PairSt) : (s.setPair n c).dies = s.dies := rfl
@[simp] theorem State.setPair_hub (s : State) (n : Nat) (c : PairSt) : (s.setPair n c).hub = s.hub := rfl
@[simp] theorem State.setPair_mem (s : State) (n : Nat) (c : PairSt) : (s.setPair n c).mem = s.mem := rfl
@[simp] theorem State.setPair_zflag (s : State) (n : Nat) (c : PairSt) : (s.setPair n c).zflag = s.zflag := rfl
@[simp] theorem State.setPair_poison (s : State) (n : Nat) (c : PairSt) : (s.setPair n c).poison = s.poison := rfl
@[simp] theorem State.setPair_log (s : State) (n : Nat) (c : PairSt) : (s.setPair n c).log = s.log := rfl
@[simp] theorem State.setPair_toHost (s : State) (n : Nat) (c : PairSt) : (s.setPair n c).toHost = s.toHost := rfl
@[simp] theorem State.setPair_clock (s : State) (n : Nat) (c : PairSt) : (s.setPair n c).clock = s.clock := rfl
@[simp] theorem State.setPair_cur (s : State) (n : Nat) (c : PairSt) : (s.setPair n c).cur = s.cur := rfl
@[simp] theorem State.setPair_slot (s : State) (n : Nat) (c : PairSt) : (s.setPair n c).slot = s.slot := rfl
@[simp] theorem State.setPair_todo (s : State) (n : Nat) (c : PairSt) : (s.setPair n c).todo = s.todo := rfl
@[simp] theorem State.setPair_ring (s : State) (n : Nat) (c : PairSt) : (s.setPair n c).ring = s.ring := rfl
@[simp] theorem State.setPair_free (s : State) (n : Nat) (c : PairSt) : (s.setPair n c).free = s.free := rfl

@[simp] theorem State.setPair_ctx (s : State) (n : Nat) (c : PairSt) (k : Nat) : (s.setPair n c).ctx k = s.ctx k := rfl
@[simp] theorem State.setPair_core (s : State) (n : Nat) (c : PairSt) (k : Nat) : (s.setPair n c).core k = s.core k := rfl
@[simp] theorem State.setPair_cluster (s : State) (n : Nat) (c : PairSt) (k : Nat) : (s.setPair n c).cluster k = s.cluster k := rfl
@[simp] theorem State.setPair_die (s : State) (n : Nat) (c : PairSt) (k : Nat) : (s.setPair n c).die k = s.die k := rfl

theorem State.setPair_pair (s : State) (n : Nat) (c : PairSt) (k : Nat) : (s.setPair n c).pair k = if n = k then c else s.pair k :=
  Map.get_put _ _ _ _ _
@[simp] theorem State.setPair_pair_same (s : State) (n : Nat) (c : PairSt) : (s.setPair n c).pair n = c := by simp [State.setPair_pair]

/-! ### setCluster -/

@[simp] theorem State.setCluster_ctxs (s : State) (n : Nat) (c : ClusterSt) : (s.setCluster n c).ctxs = s.ctxs := rfl
@[simp] theorem State.setCluster_cores (s : State) (n : Nat) (c : ClusterSt) : (s.setCluster n c).cores = s.cores := rfl
@[simp] theorem State.setCluster_pairs (s : State) (n : Nat) (c : ClusterSt) : (s.setCluster n c).pairs = s.pairs := rfl
@[simp] theorem State.setCluster_dies (s : State) (n : Nat) (c : ClusterSt) : (s.setCluster n c).dies = s.dies := rfl
@[simp] theorem State.setCluster_hub (s : State) (n : Nat) (c : ClusterSt) : (s.setCluster n c).hub = s.hub := rfl
@[simp] theorem State.setCluster_mem (s : State) (n : Nat) (c : ClusterSt) : (s.setCluster n c).mem = s.mem := rfl
@[simp] theorem State.setCluster_zflag (s : State) (n : Nat) (c : ClusterSt) : (s.setCluster n c).zflag = s.zflag := rfl
@[simp] theorem State.setCluster_poison (s : State) (n : Nat) (c : ClusterSt) : (s.setCluster n c).poison = s.poison := rfl
@[simp] theorem State.setCluster_log (s : State) (n : Nat) (c : ClusterSt) : (s.setCluster n c).log = s.log := rfl
@[simp] theorem State.setCluster_toHost (s : State) (n : Nat) (c : ClusterSt) : (s.setCluster n c).toHost = s.toHost := rfl
@[simp] theorem State.setCluster_clock (s : State) (n : Nat) (c : ClusterSt) : (s.setCluster n c).clock = s.clock := rfl
@[simp] theorem State.setCluster_cur (s : State) (n : Nat) (c : ClusterSt) : (s.setCluster n c).cur = s.cur := rfl
@[simp] theorem State.setCluster_slot (s : State) (n : Nat) (c : ClusterSt) : (s.setCluster n c).slot = s.slot := rfl
@[simp] theorem State.setCluster_todo (s : State) (n : Nat) (c : ClusterSt) : (s.setCluster n c).todo = s.todo := rfl
@[simp] theorem State.setCluster_ring (s : State) (n : Nat) (c : ClusterSt) : (s.setCluster n c).ring = s.ring := rfl
@[simp] theorem State.setCluster_free (s : State) (n : Nat) (c : ClusterSt) : (s.setCluster n c).free = s.free := rfl

@[simp] theorem State.setCluster_ctx (s : State) (n : Nat) (c : ClusterSt) (k : Nat) : (s.setCluster n c).ctx k = s.ctx k := rfl
@[simp] theorem State.setCluster_core (s : State) (n : Nat) (c : ClusterSt) (k : Nat) : (s.setCluster n c).core k = s.core k := rfl
@[simp] theorem State.setCluster_pair (s : State) (n : Nat) (c : ClusterSt) (k : Nat) : (s.setCluster n c).pair k = s.pair k := rfl
@[simp] theorem State.setCluster_die (s : State) (n : Nat) (c : ClusterSt) (k : Nat) : (s.setCluster n c).die k = s.die k := rfl

theorem State.setCluster_cluster (s : State) (n : Nat) (c : ClusterSt) (k : Nat) : (s.setCluster n c).cluster k = if n = k then c else s.cluster k :=
  Map.get_put _ _ _ _ _
@[simp] theorem State.setCluster_cluster_same (s : State) (n : Nat) (c : ClusterSt) : (s.setCluster n c).cluster n = c := by simp [State.setCluster_cluster]

/-! ### setDie -/

@[simp] theorem State.setDie_ctxs (s : State) (n : Nat) (c : DieSt) : (s.setDie n c).ctxs = s.ctxs := rfl
@[simp] theorem State.setDie_cores (s : State) (n : Nat) (c : DieSt) : (s.setDie n c).cores = s.cores := rfl
@[simp] theorem State.setDie_pairs (s : State) (n : Nat) (c : DieSt) : (s.setDie n c).pairs = s.pairs := rfl
@[simp] theorem State.setDie_clusters (s : State) (n : Nat) (c : DieSt) : (s.setDie n c).clusters = s.clusters := rfl
@[simp] theorem State.setDie_hub (s : State) (n : Nat) (c : DieSt) : (s.setDie n c).hub = s.hub := rfl
@[simp] theorem State.setDie_mem (s : State) (n : Nat) (c : DieSt) : (s.setDie n c).mem = s.mem := rfl
@[simp] theorem State.setDie_zflag (s : State) (n : Nat) (c : DieSt) : (s.setDie n c).zflag = s.zflag := rfl
@[simp] theorem State.setDie_poison (s : State) (n : Nat) (c : DieSt) : (s.setDie n c).poison = s.poison := rfl
@[simp] theorem State.setDie_log (s : State) (n : Nat) (c : DieSt) : (s.setDie n c).log = s.log := rfl
@[simp] theorem State.setDie_toHost (s : State) (n : Nat) (c : DieSt) : (s.setDie n c).toHost = s.toHost := rfl
@[simp] theorem State.setDie_clock (s : State) (n : Nat) (c : DieSt) : (s.setDie n c).clock = s.clock := rfl
@[simp] theorem State.setDie_cur (s : State) (n : Nat) (c : DieSt) : (s.setDie n c).cur = s.cur := rfl
@[simp] theorem State.setDie_slot (s : State) (n : Nat) (c : DieSt) : (s.setDie n c).slot = s.slot := rfl
@[simp] theorem State.setDie_todo (s : State) (n : Nat) (c : DieSt) : (s.setDie n c).todo = s.todo := rfl
@[simp] theorem State.setDie_ring (s : State) (n : Nat) (c : DieSt) : (s.setDie n c).ring = s.ring := rfl
@[simp] theorem State.setDie_free (s : State) (n : Nat) (c : DieSt) : (s.setDie n c).free = s.free := rfl

@[simp] theorem State.setDie_ctx (s : State) (n : Nat) (c : DieSt) (k : Nat) : (s.setDie n c).ctx k = s.ctx k := rfl
@[simp] theorem State.setDie_core (s : State) (n : Nat) (c : DieSt) (k : Nat) : (s.setDie n c).core k = s.core k := rfl
@[simp] theorem State.setDie_pair (s : State) (n : Nat) (c : DieSt) (k : Nat) : (s.setDie n c).pair k = s.pair k := rfl
@[simp] theorem State.setDie_cluster (s : State) (n : Nat) (c : DieSt) (k : Nat) : (s.setDie n c).cluster k = s.cluster k := rfl

theorem State.setDie_die (s : State) (n : Nat) (c : DieSt) (k : Nat) : (s.setDie n c).die k = if n = k then c else s.die k :=
  Map.get_put _ _ _ _ _
@[simp] theorem State.setDie_die_same (s : State) (n : Nat) (c : DieSt) : (s.setDie n c).die n = c := by simp [State.setDie_die]

/-! ### logged -/

@[simp] theorem State.logged_ctxs (s : State) (e : LogEntry) : (s.logged e).ctxs = s.ctxs := rfl
@[simp] theorem State.logged_cores (s : State) (e : LogEntry) : (s.logged e).cores = s.cores := rfl
@[simp] theorem State.logged_pairs (s : State) (e : LogEntry) : (s.logged e).pairs = s.pairs := rfl
@[simp] theorem State.logged_clusters (s : State) (e : LogEntry) : (s.logged e).clusters = s.clusters := rfl
@[simp] theorem State.logged_dies (s : State) (e : LogEntry) : (s.logged e).dies = s.dies := rfl
@[simp] theorem State.logged_hub (s : State) (e : LogEntry) : (s.logged e).hub = s.hub := rfl
@[simp] theorem State.logged_mem (s : State) (e : LogEntry) : (s.logged e).mem = s.mem := rfl
@[simp] theorem State.logged_zflag (s : State) (e : LogEntry) : (s.logged e).zflag = s.zflag := rfl
@[simp] theorem State.logged_poison (s : State) (e : LogEntry) : (s.logged e).poison = s.poison := rfl
@[simp] theorem State.logged_toHost (s : State) (e : LogEntry) : (s.logged e).toHost = s.toHost := rfl
@[simp] theorem State.logged_clock (s : State) (e : LogEntry) : (s.logged e).clock = s.clock := rfl
@[simp] theorem State.logged_cur (s : State) (e : LogEntry) : (s.logged e).cur = s.cur := rfl
@[simp] theorem State.logged_slot (s : State) (e : LogEntry) : (s.logged e).slot = s.slot := rfl
@[simp] theorem State.logged_todo (s : State) (e : LogEntry) : (s.logged e).todo = s.todo := rfl
@[simp] theorem State.logged_ring (s : State) (e : LogEntry) : (s.logged e).ring = s.ring := rfl
@[simp] theorem State.logged_free (s : State) (e : LogEntry) : (s.logged e).free = s.free := rfl

@[simp] theorem State.logged_ctx (s : State) (e : LogEntry) (k : Nat) : (s.logged e).ctx k = s.ctx k := rfl
@[simp] theorem State.logged_core (s : State) (e : LogEntry) (k : Nat) : (s.logged e).core k = s.core k := rfl
@[simp] theorem State.logged_pair (s : State) (e : LogEntry) (k : Nat) : (s.logged e).pair k = s.pair k := rfl
@[simp] theorem State.logged_cluster (s : State) (e : LogEntry) (k : Nat) : (s.logged e).cluster k = s.cluster k := rfl
@[simp] theorem State.logged_die (s : State) (e : LogEntry) (k : Nat) : (s.logged e).die k = s.die k := rfl

/-! ### The acting context -/

@[simp] theorem State.setMe_cores (s : State) (c : Ctx) : (s.setMe c).cores = s.cores := rfl
@[simp] theorem State.setMe_pairs (s : State) (c : Ctx) : (s.setMe c).pairs = s.pairs := rfl
@[simp] theorem State.setMe_clusters (s : State) (c : Ctx) : (s.setMe c).clusters = s.clusters := rfl
@[simp] theorem State.setMe_dies (s : State) (c : Ctx) : (s.setMe c).dies = s.dies := rfl
@[simp] theorem State.setMe_hub (s : State) (c : Ctx) : (s.setMe c).hub = s.hub := rfl
@[simp] theorem State.setMe_mem (s : State) (c : Ctx) : (s.setMe c).mem = s.mem := rfl
@[simp] theorem State.setMe_zflag (s : State) (c : Ctx) : (s.setMe c).zflag = s.zflag := rfl
@[simp] theorem State.setMe_poison (s : State) (c : Ctx) : (s.setMe c).poison = s.poison := rfl
@[simp] theorem State.setMe_log (s : State) (c : Ctx) : (s.setMe c).log = s.log := rfl
@[simp] theorem State.setMe_toHost (s : State) (c : Ctx) : (s.setMe c).toHost = s.toHost := rfl
@[simp] theorem State.setMe_clock (s : State) (c : Ctx) : (s.setMe c).clock = s.clock := rfl
@[simp] theorem State.setMe_cur (s : State) (c : Ctx) : (s.setMe c).cur = s.cur := rfl
@[simp] theorem State.setMe_slot (s : State) (c : Ctx) : (s.setMe c).slot = s.slot := rfl
@[simp] theorem State.setMe_todo (s : State) (c : Ctx) : (s.setMe c).todo = s.todo := rfl
@[simp] theorem State.setMe_ring (s : State) (c : Ctx) : (s.setMe c).ring = s.ring := rfl
@[simp] theorem State.setMe_free (s : State) (c : Ctx) : (s.setMe c).free = s.free := rfl
@[simp] theorem State.setMe_core (s : State) (c : Ctx) (k : Nat) : (s.setMe c).core k = s.core k := rfl
@[simp] theorem State.setMe_pair (s : State) (c : Ctx) (k : Nat) : (s.setMe c).pair k = s.pair k := rfl
@[simp] theorem State.setMe_cluster (s : State) (c : Ctx) (k : Nat) : (s.setMe c).cluster k = s.cluster k := rfl
@[simp] theorem State.setMe_die (s : State) (c : Ctx) (k : Nat) : (s.setMe c).die k = s.die k := rfl

/-! ### The hub replaced -/

@[simp] theorem State.ctx_withHub (s : State) (h : Hub) (k : Nat) : ({ s with hub := h } : State).ctx k = s.ctx k := rfl
@[simp] theorem State.core_withHub (s : State) (h : Hub) (k : Nat) : ({ s with hub := h } : State).core k = s.core k := rfl
@[simp] theorem State.pair_withHub (s : State) (h : Hub) (k : Nat) : ({ s with hub := h } : State).pair k = s.pair k := rfl
@[simp] theorem State.cluster_withHub (s : State) (h : Hub) (k : Nat) : ({ s with hub := h } : State).cluster k = s.cluster k := rfl
@[simp] theorem State.die_withHub (s : State) (h : Hub) (k : Nat) : ({ s with hub := h } : State).die k = s.die k := rfl

/-! ### The acting context, replaced twice -/

@[simp] theorem State.setCtx_setCtx (s : State) (x : Nat) (c d : Ctx) : (s.setCtx x c).setCtx x d = s.setCtx x d := by
  simp [State.setCtx]
@[simp] theorem State.me_setMe (s : State) (c : Ctx) : (s.setMe c).me = c := by simp [State.me, State.setMe]
@[simp] theorem State.setMe_setMe (s : State) (c d : Ctx) : (s.setMe c).setMe d = s.setMe d := by simp [State.setMe]
/-- Every other context is as before. -/
theorem State.ctx_setMe (s : State) (c : Ctx) (x : Nat) : (s.setMe c).ctx x = if s.cur = x then c else s.ctx x :=
  State.setCtx_ctx _ _ _ _
/-- A result put into the latches: nothing but the latches of the acting context changes. -/
theorem State.latch_eq (s : State) (w : Write) (left : Nat) (fl : Flags) :
    s.latch w left fl = s.setMe { s.me with lat := s.me.lat ++ [⟨w, left, fl, s.slot, s.me.ba, s.me.cc⟩] } := rfl
@[simp] theorem State.me_latch (s : State) (w : Write) (left : Nat) (fl : Flags) :
    (s.latch w left fl).me = { s.me with lat := s.me.lat ++ [⟨w, left, fl, s.slot, s.me.ba, s.me.cc⟩] } := by
  simp [State.latch_eq]

end Sys2Proof.Machine
end

