-- ==== Sys2Proof/Laws/Slot.lean ====
section
/-! SUPPORT. What a slot comes to: its steps one after another, and the forms of the integer mould. -/

namespace Sys2Proof.Machine

/-! ### Steps of a slot -/

@[simp] theorem slotwise_ok_bind (a : α) (f : α → Slotwise β) : (Except.ok a >>= f : Slotwise β) = f a := rfl
@[simp] theorem slotwise_error_bind (e : Stop) (f : α → Slotwise β) : (Except.error e >>= f : Slotwise β) = .error e := rfl
@[simp] theorem slotwise_map_ok (f : α → β) (a : α) : Except.map (ε := Stop) f (.ok a) = .ok (f a) := rfl
@[simp] theorem slotwise_map_error (f : α → β) (e : Stop) : Except.map f (.error e : Slotwise α) = .error e := rfl
@[simp] theorem slotDo_ok (s t : State) : slotDo s (.ok t) = .next t := rfl
@[simp] theorem slotDo_trap (s : State) (t : TrapInfo) : slotDo s (.error (.trap t)) = .next (s.slotTrap t) := rfl
@[simp] theorem slotDo_hold (s : State) (c : Stall) (ns : List Need) :
    slotDo s (.error (.hold c ns)) = .next ((ns.foldl State.applyNeed s).heldBy c) := rfl
@[simp] theorem slotDo_wait (s t : State) : slotDo s (.error (.wait t)) = .next (t.heldBy .answer) := rfl
@[simp] theorem need_true (e : Stop) : need true e = .ok () := rfl
@[simp] theorem need_false (e : Stop) : need false e = .error e := rfl

/-- A slot always comes to a next state. -/
theorem slotDo_next (s : State) (m : Slotwise State) : ∃ t, slotDo s m = .next t := by
  rcases m with (t | ⟨c, ns⟩ | t) | t <;> exact ⟨_, rfl⟩

/-- A step that may stop, and the next: both must succeed for the whole to. -/
theorem slotwise_bind_ok {m : Slotwise α} {f : α → Slotwise β} {b : β} : (m >>= f) = .ok b ↔ ∃ a, m = .ok a ∧ f a = .ok b := by
  rcases m with e | a <;> simp

/-- What a check says when it passes. -/
theorem need_ok {b : Bool} {e : Stop} : need b e = .ok () ↔ b = true := by cases b <;> simp

/-! ### Results -/

theorem putS_ok {s : State} {r : Fin 64} (h : wrS s r = .ok ()) (v : Word) (lat : Nat) (fl : Flags) :
    putS s r v lat fl = .ok (s.latch (.sreg (s.me.bankOf r) r v) lat fl) := by simp [putS, h]
theorem putT_ok {s : State} {ty : Ty} {r : Fin 64} (h : wrT s ty r = .ok ()) (v : Word) (lat : Nat) (fl : Flags) :
    putT s ty r v lat fl = .ok (s.latch (s.me.destT ty r v) lat fl) := by simp [putT, h]

/-- On a type that is no link form, registers are read and written as they are. -/
@[simp] theorem rdT_fmt (s : State) (f : Fmt) (r : Fin 64) : rdT s (.fmt f) r = rdS s r := rfl
@[simp] theorem wrT_fmt (s : State) (f : Fmt) (r : Fin 64) : wrT s (.fmt f) r = wrS s r := rfl
@[simp] theorem destT_fmt (c : Ctx) (f : Fmt) (r : Fin 64) (v : Word) : c.destT (.fmt f) r v = .sreg (c.bankOf r) r v := rfl
@[simp] theorem popT_fmt (s : State) (f : Fmt) (rs : List (Fin 64)) : popT s (.fmt f) rs = s := by
  have h : rs.filterMap (linkIx (.fmt f)) = [] := List.filterMap_eq_nil_iff.2 fun _ _ => rfl
  simp [popT, h]

/-! ### The forms of the integer mould -/

theorem aluReg_ok {op : Fmt → Nat → Nat → Nat} {lat : Nat} {ty : Ty} {sd sa sb : Fin 64} {s : State} {a b : Word}
    (ha : rdT s ty sa = .ok a) (hb : rdT s ty sb = .ok b) (hw : wrT (popT s ty [sa, sb]) ty sd = .ok ()) :
    aluReg op lat ty sd sa sb s = .next ((popT s ty [sa, sb]).latch
      ((popT s ty [sa, sb]).me.destT ty sd (aluResult op ty.base a b)) lat 0) := by
  simp [aluReg, ha, hb, putT_ok hw]

theorem aluImm_ok {op : Fmt → Nat → Nat → Nat} {lat : Nat} {ty : Ty} {sd sa : Fin 64} {imm : Imm9} {s : State} {a : Word}
    (ha : rdT s ty sa = .ok a) (hw : wrT (popT s ty [sa]) ty sd = .ok ()) :
    aluImm op lat ty sd sa imm s = .next ((popT s ty [sa]).latch
      ((popT s ty [sa]).me.destT ty sd (aluResult op ty.base a imm.value)) lat 0) := by
  simp [aluImm, ha, putT_ok hw]

theorem aluCount_ok {op : Fmt → Nat → Nat} {ty : Ty} {sd sa : Fin 64} {s : State} {a : Word}
    (ha : rdT s ty sa = .ok a) (hw : wrT (popT s ty [sa]) ty sd = .ok ()) :
    aluCount op ty sd sa s = .next ((popT s ty [sa]).latch
      ((popT s ty [sa]).me.destT ty sd (BitVec.ofNat 64 (op ty.base (ty.base.low a)))) 1 0) := by
  simp [aluCount, ha, putT_ok hw]

/-- The low bits that a type works on are fewer than its width's power. -/
theorem low_lt (f : Fmt) (a : Word) : f.low a < 2 ^ f.opWidth := Nat.mod_lt _ (Nat.two_pow_pos _)

end Sys2Proof.Machine
end

