-- ==== Sys2Proof/Laws/Access.lean ====
section
/-! SUPPORT. What an access comes to: its checks, the operation put in flight, the banks it takes, the bytes of the local
aperture; and that every way to write device memory keeps its canonical form. -/

namespace Sys2Proof.Machine

/-! ### Operations in flight -/

/-- An operation is put in flight, and its translations are noted as used (R196), or it is held while as many of its kind are as there
may be (R156). -/
theorem pushOp_eq (s : State) (m : MemOp) : pushOp s m =
    if (s.me.mops.filter fun o => o.isLoad == m.isLoad).length < (if m.isLoad then 32 else 64) then
      .ok ((s.setMe { s.me with mops := s.me.mops ++ [m] }).placesUsed s.cur m.locs)
    else .error (.hold .memory []) := by
  unfold pushOp
  cases m.isLoad
  · by_cases c : (s.me.mops.filter (!·.isLoad)).length < 64 <;> simp [c, need]
  · by_cases c : (s.me.mops.filter (·.isLoad)).length < 32 <;> simp [c, need]

/-- Banks are taken or the bundle is held, and taking them changes nothing but what the open bundle has taken. -/
theorem useBanks_ok {s t : State} {offs : List Nat} (h : useBanks s offs = .ok t) : t = s ∨ ∃ i, s.me.iss = some i ∧
    t = s.setMe { s.me with iss := some { i with banks := i.banks ||| bankMask offs } } := by
  simp only [useBanks, slotwise_bind_ok] at h
  obtain ⟨-, -, -, -, h⟩ := h
  split at h
  · rename_i i hi
    exact .inr ⟨i, hi, (Except.ok.inj h).symm⟩
  · exact .inl (Except.ok.inj h).symm

/-- As many places, as many scratchpad bytes. -/
theorem length_of_spOf {c : Ctx} {ls : List Loc} {offs : List Nat} (h : ls.mapM c.spOf = some offs) : offs.length = ls.length := by
  induction ls generalizing offs with
  | nil => simp at h; simp [← h]
  | cons x l ih =>
    simp only [List.mapM_cons, Option.bind_eq_bind, Option.bind_eq_some_iff, Option.pure_def, Option.some.injEq] at h
    obtain ⟨a, -, b, hb, rfl⟩ := h
    simp [ih hb]

/-- A store whose bytes are all the core's own scratchpad's is one latched write. -/
theorem storeLocal_sp (s : State) (offs : List Nat) (bytes : List Byte) (h : offs.length = bytes.length) (h0 : 0 < offs.length) :
    s.storeLocal ((offs.map Loc.sp).zip bytes) 0 = s.latch (.spad (offs.zip bytes)) 1 0 := by
  have h1 : ((offs.map Loc.sp).zip bytes).filterMap spCell = offs.zip bytes := by
    clear h0 h
    induction offs generalizing bytes with
    | nil => simp
    | cons a l ih => cases bytes <;> simp [ih, spCell]
  have h2 : ∀ n, ((offs.map Loc.sp).zip bytes).filterMap (mcCell n) = [] := by
    clear h0 h h1
    intro n
    induction offs generalizing bytes with
    | nil => simp
    | cons a l ih =>
      cases bytes with
      | nil => simp
      | cons b m => rw [List.map_cons, List.zip_cons_cons, List.filterMap_cons, ih]; rfl
  have h3 : (offs.zip bytes).isEmpty = false := by
    cases offs with
    | nil => simp at h0
    | cons a l => cases bytes with
      | nil => simp at h
      | cons b m => rfl
  rw [State.storeLocal]
  simp [h1, h2, h3] <;> rfl

/-- A number's n bytes are n. -/
@[simp] theorem length_leBytes (n v : Nat) : (leBytes n v).length = n := by
  induction n generalizing v <;> simp_all [leBytes]

/-- n bytes translated have n places. -/
theorem length_xlateN {s : State} {acc : Acc} {va : Word} {n : Nat} {xs : List Xl} (h : xlateN s acc va n = .ok xs) : xs.length = n := by
  induction n generalizing va xs with
  | zero => simp [xlateN] at h; simp [← h]
  | succ n ih =>
    simp only [xlateN, slotwise_bind_ok] at h
    obtain ⟨a, -, b, hb, h⟩ := h
    cases h
    simp [ih hb]

/-- A scalar access is of its type's bytes, and of no scale byte. -/
theorem scalarAccess_bytes {s : State} {acc : Acc} {ty : Ty} {sc : Option Scope} {va : Word} {e : ElemLoc × Attr}
    (h : scalarAccess s acc ty sc va = .ok e) : e.1.bytes.length = ty.base.memWidth / 8 ∧ e.1.scale = none := by
  simp only [scalarAccess, slotwise_bind_ok] at h
  obtain ⟨-, -, xs, hx, a, h1, h⟩ := h
  have := length_xlateN hx
  cases xs with
  | nil => simp [oneAttr] at h1
  | cons x r =>
    simp only [slotwise_bind_ok] at h
    obtain ⟨-, -, h⟩ := h
    cases h
    simpa using this

/-! ### Device memory stays canonical -/

/-- Memory is written at the memory-side caches in its canonical form. -/
theorem memWrite_wf {s : State} (cs : List Host.Cell) (h : Memory.wf s.mem = true) : Memory.wf (s.memWrite cs).mem = true :=
  Memory.wf_writeAll cs h

/-- A step that keeps the form, taken over a list, keeps it. -/
theorem foldl_wf {f : State → α → State} (hf : ∀ s a, Memory.wf s.mem = true → Memory.wf (f s a).mem = true) (l : List α) {s : State}
    (h : Memory.wf s.mem = true) : Memory.wf (l.foldl f s).mem = true := by
  induction l generalizing s with
  | nil => exact h
  | cons a l ih => exact ih (hf s a h)

/-- A line written back. -/
theorem writeBack_wf {s : State} (l : Line) (n : Nat) (h : Memory.wf s.mem = true) : Memory.wf (s.writeBack l n).mem = true := by
  unfold State.writeBack
  split <;> exact memWrite_wf _ h

/-- A line of the atomic buffer evicted. -/
theorem evictAbuf_wf {s : State} (d n : Nat) (h : Memory.wf s.mem = true) : Memory.wf (s.evictAbuf d n).mem = true := by
  simp only [State.evictAbuf]
  split
  · exact h
  · exact writeBack_wf _ _ h

/-- What passes the atomic buffer leaves memory alone. -/
@[simp] theorem passAbuf_mem (s : State) (d n : Nat) (l : Line) : (s.passAbuf d n l).mem = s.mem := by
  simp only [State.passAbuf]
  split <;> rfl

/-- A cluster's line made clean. -/
theorem cleanLine_wf {s : State} (cl n : Nat) (h : Memory.wf s.mem = true) : Memory.wf (s.cleanLine cl n).mem = true := by
  simp only [State.cleanLine]
  split
  · exact h
  · rw [passAbuf_mem]
    exact writeBack_wf _ _ h

/-- A line out of the L1s leaves memory alone. -/
@[simp] theorem dropL1_mem (s : State) (cl n : Nat) : (s.dropL1 cl n).mem = s.mem := by
  unfold State.dropL1
  generalize span (4 * cl) 4 = l
  induction l generalizing s with
  | nil => rfl
  | cons a l ih => rw [List.foldl_cons, ih]; split <;> rfl

/-- A cluster's line discarded, written back first. -/
theorem discardLine_wf {s : State} (cl n : Nat) (h : Memory.wf s.mem = true) : Memory.wf (s.discardLine cl n).mem = true := by
  simp only [State.discardLine, State.setCluster_mem, dropL1_mem]
  exact cleanLine_wf _ _ h

/-- Every line of a cluster made clean. -/
theorem cleanAll_wf {s : State} (cl : Nat) (h : Memory.wf s.mem = true) : Memory.wf (s.cleanAll cl).mem = true := by
  unfold State.cleanAll
  exact foldl_wf (f := fun s (p : Nat × Line) => s.cleanLine cl p.1) (fun _ p => cleanLine_wf cl p.1) _ h

/-- Every line of an atomic buffer written back. -/
theorem drainAbuf_wf {s : State} (d : Nat) (h : Memory.wf s.mem = true) : Memory.wf (s.drainAbuf d).mem = true := by
  unfold State.drainAbuf
  exact foldl_wf (f := fun s (p : Nat × Line) => s.evictAbuf d p.1) (fun _ p => evictAbuf_wf d p.1) _ h

/-- Every line of a cluster discarded. -/
theorem discardAll_wf {s : State} (cl : Nat) (h : Memory.wf s.mem = true) : Memory.wf (s.discardAll cl).mem = true := by
  have hl := foldl_wf (f := fun s (p : Nat × Line) => s.discardLine cl p.1) (fun _ p => discardLine_wf cl p.1)
    (s.cluster cl).lines h
  simp only [State.discardAll]
  refine foldl_wf (fun s c h => ?_) _ hl
  split <;> exact h

/-- A release's write-backs. -/
theorem releaseCaches_wf {s : State} (x : Nat) (sc : Scope) (h : Memory.wf s.mem = true) :
    Memory.wf (s.releaseCaches x sc).mem = true := by
  simp only [State.releaseCaches]
  split
  · exact h
  · split
    · exact cleanAll_wf _ h
    · exact drainAbuf_wf _ (cleanAll_wf _ h)

/-- An acquire's write-backs and discards. -/
theorem acquireCaches_wf {s : State} (x : Nat) (sc : Scope) (h : Memory.wf s.mem = true) :
    Memory.wf (s.acquireCaches x sc).mem = true := by
  simp only [State.acquireCaches]
  split
  · exact h
  · split
    · exact discardAll_wf _ h
    · exact drainAbuf_wf _ (discardAll_wf _ h)

/-- Room made in a cluster's cache. -/
theorem clusterRoom_wf {s : State} (cl : Nat) (h : Memory.wf s.mem = true) : Memory.wf (s.clusterRoom cl).mem = true := by
  unfold State.clusterRoom
  split
  · exact discardLine_wf _ _ h
  · exact h

/-- Room made in a die's atomic buffer. -/
theorem abufRoom_wf {s : State} (d : Nat) (h : Memory.wf s.mem = true) : Memory.wf (s.abufRoom d).mem = true := by
  unfold State.abufRoom
  split
  · exact evictAbuf_wf _ _ h
  · exact h

/-- A line brought to where an access is performed. -/
theorem enter_wf {s : State} (x : Nat) (p : Place) (n : Nat) (h : Memory.wf s.mem = true) : Memory.wf (s.enter x p n).mem = true := by
  cases p with
  | cluster =>
    simp only [State.enter]
    split
    · exact h
    · rw [State.setCluster_mem]
      exact clusterRoom_wf _ (evictAbuf_wf _ _ h)
  | die =>
    simp only [State.enter]
    split
    · exact discardLine_wf _ _ h
    · rw [State.setDie_mem]
      exact abufRoom_wf _ (discardLine_wf _ _ h)
  | memory => exact evictAbuf_wf _ _ (discardLine_wf _ _ h)

/-- A byte written at a place whose line is ready. -/
theorem pokeAt_wf {s : State} (x : Nat) (p : Place) (pa : Nat) (b : Byte) (h : Memory.wf s.mem = true) :
    Memory.wf (s.pokeAt x p pa b).mem = true := by
  have hw := memWrite_wf [(pa, b)] h
  cases p with
  | cluster =>
    simp only [State.pokeAt]
    split
    · exact h
    · exact hw
  | die =>
    simp only [State.pokeAt]
    split
    · exact h
    · exact hw
  | memory => exact hw

/-- A byte written where an access is performed. -/
theorem putByte_wf {s : State} (x : Nat) (p : Place) (l : Loc) (b : Byte) (h : Memory.wf s.mem = true) :
    Memory.wf (s.putByte x p l b).mem = true := by
  cases l with
  | mem pa => exact pokeAt_wf x p pa b (enter_wf x p (pa / 128) h)
  | win wn va off o => simp only [State.putByte]; split <;> exact h
  | sp _ => exact h
  | peer _ _ => exact h
  | mc _ _ => exact h
  | lit _ => exact h

/-- A trace record written. -/
theorem trace_wf {s : State} (x typ ba body : Nat) (h : Memory.wf s.mem = true) : Memory.wf (s.trace x typ ba body).mem = true := by
  simp only [State.trace]
  split
  · exact h
  · split
    · exact h
    · simp only [State.setDie_mem, State.setCtx_mem]
      exact memWrite_wf _ h

end Sys2Proof.Machine
end

