-- ==== Sys2Proof/Laws/PerInstr.lean ====
section
/-! SUPPORT. What holds of every instruction's encoding, one lemma per constructor: the words of an instruction stand in a slot class
named once (V1 for V0 and V1, C0 for both copy slots), with at most two extension words. -/

namespace Sys2Proof.Laws.Encoding

/-- The words of an instruction: their slot class and how many extension words they have. -/
def Statement (i : Instr) : Prop := ∀ e : Enc, encode i = some e → e.slot ≠ .V0 ∧ e.slot ≠ .C1 ∧ e.ext.length ≤ 2

/-- An optional modifier word is at most one extension word. -/
theorem modWords_length (m : Option Modifier) : (modWords m).length ≤ 2 := by cases m <;> simp [modWords]

/-- An optional notification word is at most one extension word. -/
theorem notif_length (n : Notif) : n.words.length ≤ 1 := by
  cases h : n.word <;> simp [Notif.words, h]

theorem doorbell (fn : Nat) (q : Nat) (v : BitVec 32) : Statement (.doorbell fn q v) := by
  intro e h; cases h
theorem workerPlace (x : CtxId) : Statement (.workerPlace x) := by
  intro e h; cases h
theorem launchComplete (l : Nat) : Statement (.launchComplete l) := by
  intro e h; cases h
theorem heldCompletionWrite (q : Nat) : Statement (.heldCompletionWrite q) := by
  intro e h; cases h
theorem msixCoalesceExpiry (q : Nat) : Statement (.msixCoalesceExpiry q) := by
  intro e h; cases h
theorem graphEdgeComplete (r : Nat) (e : Nat) : Statement (.graphEdgeComplete r e) := by
  intro e h; cases h
theorem nodeStart (r : Nat) (n : Nat) : Statement (.nodeStart r n) := by
  intro e h; cases h
theorem preemptTrigger (l : Nat) : Statement (.preemptTrigger l) := by
  intro e h; cases h
theorem imageSeal (p : PairId) : Statement (.imageSeal p) := by
  intro e h; cases h
theorem heldResponseAppend (p : PairId) : Statement (.heldResponseAppend p) := by
  intro e h; cases h
theorem leanRestore (x : CtxId) (n : Nat) : Statement (.leanRestore x n) := by
  intro e h; cases h
theorem restoreImage (p : PairId) (n : Nat) : Statement (.restoreImage p n) := by
  intro e h; cases h
theorem collisionPrioritySwap (c : CoreId) : Statement (.collisionPrioritySwap c) := by
  intro e h; cases h
theorem granuleRetentionEntry (c : CoreId) (g : Fin 64) : Statement (.granuleRetentionEntry c g) := by
  intro e h; cases h
theorem retentionWakeComplete (c : CoreId) (g : Fin 64) : Statement (.retentionWakeComplete c g) := by
  intro e h; cases h
theorem tokenRefill (d : Fin 4) : Statement (.tokenRefill d) := by
  intro e h; cases h
theorem tokenRequestServed (d : Fin 4) : Statement (.tokenRequestServed d) := by
  intro e h; cases h
theorem mldFillComplete (p : PairId) (om : Fin 16) : Statement (.mldFillComplete p om) := by
  intro e h; cases h
theorem summaryOpComplete (c : CoreId) : Statement (.summaryOpComplete c) := by
  intro e h; cases h
theorem loadLand (n : Nat) : Statement (.loadLand n) := by
  intro e h; cases h
theorem multicastStoreLand (d : Fin 4) (n : Nat) : Statement (.multicastStoreLand d n) := by
  intro e h; cases h
theorem tlbWalkComplete (d : Fin 4) (n : Nat) : Statement (.tlbWalkComplete d n) := by
  intro e h; cases h
theorem copyEngineStart (c : CoreId) (e : Bool) : Statement (.copyEngineStart c e) := by
  intro e h; cases h
theorem copyDataLand (c : CoreId) (e : Bool) : Statement (.copyDataLand c e) := by
  intro e h; cases h
theorem copyComplete (c : CoreId) (e : Bool) : Statement (.copyComplete c e) := by
  intro e h; cases h
theorem barrierArrival (m : BarrierMsg) : Statement (.barrierArrival m) := by
  intro e h; cases h
theorem flagIncrement (n : Nat) : Statement (.flagIncrement n) := by
  intro e h; cases h
theorem windowRead (n : Nat) : Statement (.windowRead n) := by
  intro e h; cases h
theorem windowReadForOwnership (n : Nat) : Statement (.windowReadForOwnership n) := by
  intro e h; cases h
theorem windowUpgrade (n : Nat) : Statement (.windowUpgrade n) := by
  intro e h; cases h
theorem windowForwardedRequest (n : Nat) : Statement (.windowForwardedRequest n) := by
  intro e h; cases h
theorem windowInvalidation (n : Nat) : Statement (.windowInvalidation n) := by
  intro e h; cases h
theorem windowAcknowledgement (n : Nat) : Statement (.windowAcknowledgement n) := by
  intro e h; cases h
theorem windowData (n : Nat) : Statement (.windowData n) := by
  intro e h; cases h
theorem windowNotBusy (n : Nat) : Statement (.windowNotBusy n) := by
  intro e h; cases h
theorem windowWriteback (n : Nat) : Statement (.windowWriteback n) := by
  intro e h; cases h
theorem windowHomeAck (n : Nat) : Statement (.windowHomeAck n) := by
  intro e h; cases h
theorem directoryRecall (d : Fin 12) : Statement (.directoryRecall d) := by
  intro e h; cases h
theorem remoteRead (n : Nat) : Statement (.remoteRead n) := by
  intro e h; cases h
theorem remoteWrite (n : Nat) : Statement (.remoteWrite n) := by
  intro e h; cases h
theorem remoteAtomic (n : Nat) : Statement (.remoteAtomic n) := by
  intro e h; cases h
theorem readData (n : Nat) : Statement (.readData n) := by
  intro e h; cases h
theorem atomicAnswer (n : Nat) : Statement (.atomicAnswer n) := by
  intro e h; cases h
theorem acknowledgement (n : Nat) : Statement (.acknowledgement n) := by
  intro e h; cases h
theorem fabricForward (n : Nat) : Statement (.fabricForward n) := by
  intro e h; cases h
theorem linkFlitReceive (l : Fin 16) (f : LinkFlit) : Statement (.linkFlitReceive l f) := by
  intro e h; cases h
theorem linkReplay (l : Fin 16) (seq : BitVec 12) : Statement (.linkReplay l seq) := by
  intro e h; cases h
theorem linkCrcThreshold (l : Fin 16) : Statement (.linkCrcThreshold l) := by
  intro e h; cases h
theorem linkLaneLoss (l : Fin 16) (lanes : BitVec 8) : Statement (.linkLaneLoss l lanes) := by
  intro e h; cases h
theorem linkReplayLimit (l : Fin 16) : Statement (.linkReplayLimit l) := by
  intro e h; cases h
theorem linkTrainComplete (l : Fin 16) (v : LinkView) : Statement (.linkTrainComplete l v) := by
  intro e h; cases h
theorem linkTrainTimeout (l : Fin 16) : Statement (.linkTrainTimeout l) := by
  intro e h; cases h
theorem linkHandshakeComplete (l : Fin 16) (far : Option LinkView) : Statement (.linkHandshakeComplete l far) := by
  intro e h; cases h
theorem lnkctlRetrain (l : Fin 16) : Statement (.lnkctlRetrain l) := by
  intro e h; cases h
theorem lnkctlBringUp (l : Fin 16) : Statement (.lnkctlBringUp l) := by
  intro e h; cases h
theorem lnkctlForceDown (l : Fin 16) : Statement (.lnkctlForceDown l) := by
  intro e h; cases h
theorem linkFifoWords (n : Nat) : Statement (.linkFifoWords n) := by
  intro e h; cases h
theorem channelArrival (n : Nat) : Statement (.channelArrival n) := by
  intro e h; cases h
theorem channelCredit (n : Nat) : Statement (.channelCredit n) := by
  intro e h; cases h
theorem reduceContribution (n : Nat) : Statement (.reduceContribution n) := by
  intro e h; cases h
theorem reduceResult (n : Nat) : Statement (.reduceResult n) := by
  intro e h; cases h
theorem reductionTableWrite (i : Fin 1024) (v : BitVec 128) : Statement (.reductionTableWrite i v) := by
  intro e h; cases h
theorem routeTableWrite (i : Nat) (v : BitVec 32) : Statement (.routeTableWrite i v) := by
  intro e h; cases h
theorem routeEntryApply (n : Nat) : Statement (.routeEntryApply n) := by
  intro e h; cases h
theorem didtWrite (d : Fin 4) (v : BitVec 64) : Statement (.didtWrite d v) := by
  intro e h; cases h
theorem pkgidWrite (v : BitVec 64) : Statement (.pkgidWrite v) := by
  intro e h; cases h
theorem commctlStart (v : BitVec 64) : Statement (.commctlStart v) := by
  intro e h; cases h
theorem trcctlWrite (d : Fin 4) (v : BitVec 64) : Statement (.trcctlWrite d v) := by
  intro e h; cases h
theorem registerWrite (a : Nat) (v : BitVec 64) : Statement (.registerWrite a v) := by
  intro e h; cases h
theorem peerWrite (fn : Nat) (off : Nat) (bytes : List Byte) : Statement (.peerWrite fn off bytes) := by
  intro e h; cases h
theorem peerRead (fn : Nat) (off : Nat) : Statement (.peerRead fn off) := by
  intro e h; cases h
theorem attestationRequest (nonce : BitVec 256) : Statement (.attestationRequest nonce) := by
  intro e h; cases h
theorem telemetryRecord (d : Fin 4) (v : Sensors) : Statement (.telemetryRecord d v) := by
  intro e h; cases h
theorem powerThrottle (watts : Nat) : Statement (.powerThrottle watts) := by
  intro e h; cases h
theorem traceSample (d : Fin 4) : Statement (.traceSample d) := by
  intro e h; cases h
theorem uncorrectableError (e : ErrSite) : Statement (.uncorrectableError e) := by
  intro e h; cases h
theorem dbgHalt (x : CtxId) (h : Bool) : Statement (.dbgHalt x h) := by
  intro e h; cases h
theorem dbgStep (x : CtxId) : Statement (.dbgStep x) := by
  intro e h; cases h
theorem dbgRegisterWrite (x : CtxId) (r : DbgDest) (v : BitVec 4096) : Statement (.dbgRegisterWrite x r v) := by
  intro e h; cases h
theorem dbgLatchEdit (x : CtxId) (n : Nat) (v : BitVec 4096) : Statement (.dbgLatchEdit x n v) := by
  intro e h; cases h
theorem tlbinvEntry (sa : Fin 64) : Statement (.tlbinvEntry sa) := by
  intro e h; cases h
theorem tlbinvAsid (sa : Fin 64) : Statement (.tlbinvAsid sa) := by
  intro e h; cases h
theorem tlbinvAll (sa : Fin 64) : Statement (.tlbinvAll sa) := by
  intro e h; cases h
theorem tbaWrite (sa : Fin 64) : Statement (.tbaWrite sa) := by
  intro e h; cases h
theorem add (ty : Ty) (sd : Fin 64) (sa : Fin 64) (sb : Fin 64) : Statement (.add ty sd sa sb) := by
  intro e h; cases h; simp
theorem addImm (ty : Ty) (sd : Fin 64) (sa : Fin 64) (imm : Imm9) : Statement (.addImm ty sd sa imm) := by
  intro e h; cases imm <;> (cases h; simp)
theorem sub (ty : Ty) (sd : Fin 64) (sa : Fin 64) (sb : Fin 64) : Statement (.sub ty sd sa sb) := by
  intro e h; cases h; simp
theorem subImm (ty : Ty) (sd : Fin 64) (sa : Fin 64) (imm : Imm9) : Statement (.subImm ty sd sa imm) := by
  intro e h; cases imm <;> (cases h; simp)
theorem mul (ty : Ty) (sd : Fin 64) (sa : Fin 64) (sb : Fin 64) : Statement (.mul ty sd sa sb) := by
  intro e h; cases h; simp
theorem mulImm (ty : Ty) (sd : Fin 64) (sa : Fin 64) (imm : Imm9) : Statement (.mulImm ty sd sa imm) := by
  intro e h; cases imm <;> (cases h; simp)
theorem mulh (ty : Ty) (sd : Fin 64) (sa : Fin 64) (sb : Fin 64) : Statement (.mulh ty sd sa sb) := by
  intro e h; cases h; simp
theorem div (ty : Ty) (sd : Fin 64) (sa : Fin 64) (sb : Fin 64) : Statement (.div ty sd sa sb) := by
  intro e h; cases h; simp
theorem rem (ty : Ty) (sd : Fin 64) (sa : Fin 64) (sb : Fin 64) : Statement (.rem ty sd sa sb) := by
  intro e h; cases h; simp
theorem min (ty : Ty) (sd : Fin 64) (sa : Fin 64) (sb : Fin 64) : Statement (.min ty sd sa sb) := by
  intro e h; cases h; simp
theorem minImm (ty : Ty) (sd : Fin 64) (sa : Fin 64) (imm : Imm9) : Statement (.minImm ty sd sa imm) := by
  intro e h; cases imm <;> (cases h; simp)
theorem max (ty : Ty) (sd : Fin 64) (sa : Fin 64) (sb : Fin 64) : Statement (.max ty sd sa sb) := by
  intro e h; cases h; simp
theorem maxImm (ty : Ty) (sd : Fin 64) (sa : Fin 64) (imm : Imm9) : Statement (.maxImm ty sd sa imm) := by
  intro e h; cases imm <;> (cases h; simp)
theorem and (ty : Ty) (sd : Fin 64) (sa : Fin 64) (sb : Fin 64) : Statement (.and ty sd sa sb) := by
  intro e h; cases h; simp
theorem andImm (ty : Ty) (sd : Fin 64) (sa : Fin 64) (imm : Imm9) : Statement (.andImm ty sd sa imm) := by
  intro e h; cases imm <;> (cases h; simp)
theorem or (ty : Ty) (sd : Fin 64) (sa : Fin 64) (sb : Fin 64) : Statement (.or ty sd sa sb) := by
  intro e h; cases h; simp
theorem orImm (ty : Ty) (sd : Fin 64) (sa : Fin 64) (imm : Imm9) : Statement (.orImm ty sd sa imm) := by
  intro e h; cases imm <;> (cases h; simp)
theorem xor (ty : Ty) (sd : Fin 64) (sa : Fin 64) (sb : Fin 64) : Statement (.xor ty sd sa sb) := by
  intro e h; cases h; simp
theorem xorImm (ty : Ty) (sd : Fin 64) (sa : Fin 64) (imm : Imm9) : Statement (.xorImm ty sd sa imm) := by
  intro e h; cases imm <;> (cases h; simp)
theorem shl (ty : Ty) (sd : Fin 64) (sa : Fin 64) (sb : Fin 64) : Statement (.shl ty sd sa sb) := by
  intro e h; cases h; simp
theorem shlImm (ty : Ty) (sd : Fin 64) (sa : Fin 64) (imm : Imm9) : Statement (.shlImm ty sd sa imm) := by
  intro e h; cases imm <;> (cases h; simp)
theorem shr (ty : Ty) (sd : Fin 64) (sa : Fin 64) (sb : Fin 64) : Statement (.shr ty sd sa sb) := by
  intro e h; cases h; simp
theorem shrImm (ty : Ty) (sd : Fin 64) (sa : Fin 64) (imm : Imm9) : Statement (.shrImm ty sd sa imm) := by
  intro e h; cases imm <;> (cases h; simp)
theorem shra (ty : Ty) (sd : Fin 64) (sa : Fin 64) (sb : Fin 64) : Statement (.shra ty sd sa sb) := by
  intro e h; cases h; simp
theorem shraImm (ty : Ty) (sd : Fin 64) (sa : Fin 64) (imm : Imm9) : Statement (.shraImm ty sd sa imm) := by
  intro e h; cases imm <;> (cases h; simp)
theorem cmp (ty : Ty) (c : Cond) (pd : Fin 16) (sa : Fin 64) (sb : Fin 64) : Statement (.cmp ty c pd sa sb) := by
  intro e h; cases h; simp
theorem sel (p : Fin 16) (sd : Fin 64) (sa : Fin 64) (sb : Fin 64) : Statement (.sel p sd sa sb) := by
  intro e h; cases h; simp
theorem clz (ty : Ty) (sd : Fin 64) (sa : Fin 64) : Statement (.clz ty sd sa) := by
  intro e h; cases h; simp
theorem popc (ty : Ty) (sd : Fin 64) (sa : Fin 64) : Statement (.popc ty sd sa) := by
  intro e h; cases h; simp
theorem bfx (sx : Bool) (sd : Fin 64) (sa : Fin 64) (pos : Fin 64) (lenm1 : Fin 64) : Statement (.bfx sx sd sa pos lenm1) := by
  intro e h; cases h; simp
theorem bfi (sd : Fin 64) (sa : Fin 64) (pos : Fin 64) (lenm1 : Fin 64) : Statement (.bfi sd sa pos lenm1) := by
  intro e h; cases h; simp
theorem fadd (ty : Ty) (rm : Rm) (sd : Fin 64) (sa : Fin 64) (sb : Fin 64) : Statement (.fadd ty rm sd sa sb) := by
  intro e h; cases h; simp
theorem fmul (ty : Ty) (rm : Rm) (sd : Fin 64) (sa : Fin 64) (sb : Fin 64) : Statement (.fmul ty rm sd sa sb) := by
  intro e h; cases h; simp
theorem fma (ty : Ty) (rm : Rm) (sd : Fin 64) (sa : Fin 64) (sb : Fin 64) : Statement (.fma ty rm sd sa sb) := by
  intro e h; cases h; simp
theorem fcmp (ty : Ty) (c : Cond) (pd : Fin 16) (sa : Fin 64) (sb : Fin 64) : Statement (.fcmp ty c pd sa sb) := by
  intro e h; cases h; simp
theorem fcvt (dst : Fmt) (src : Fmt) (rm : Rm) (sd : Fin 64) (sa : Fin 64) : Statement (.fcvt dst src rm sd sa) := by
  intro e h; cases h; simp
theorem movi (sd : Fin 64) (imm : Imm19) : Statement (.movi sd imm) := by
  intro e h; cases imm <;> (cases h; simp)
theorem movhi (sd : Fin 64) (w : BitVec 32) : Statement (.movhi sd w) := by
  intro e h; cases h; simp
theorem ld (ty : Ty) (sc : Option Scope) (sd : Fin 64) (m : MemArg) : Statement (.ld ty sc sd m) := by
  intro e h; cases h; cases m.ext <;> simp
theorem st (ty : Ty) (sc : Option Scope) (sd : Fin 64) (m : MemArg) : Statement (.st ty sc sd m) := by
  intro e h; cases h; cases m.ext <;> simp
theorem acas (ty : Ty) (sc : Scope) (sd : Fin 64) (sa : Fin 64) (sb : Fin 64) (ext : Option (BitVec 32)) : Statement (.acas ty sc sd sa sb ext) := by
  intro e h; cases h; cases ext <;> simp
theorem flush (sc : Scope) (sa : Fin 64) (sb : Fin 64) (ext : Option (BitVec 32)) : Statement (.flush sc sa sb ext) := by
  intro e h; cases h; cases ext <;> simp
theorem inval (sc : Scope) (sa : Fin 64) (sb : Fin 64) (ext : Option (BitVec 32)) : Statement (.inval sc sa sb ext) := by
  intro e h; cases h; cases ext <;> simp
theorem zline (sc : Option Scope) (sa : Fin 64) (sb : Fin 64) (ext : Option (BitVec 32)) : Statement (.zline sc sa sb ext) := by
  intro e h; cases h; cases ext <;> simp
theorem wdecl (wn : Fin 16) (sa : Fin 64) (sb : Fin 64) (se : Fin 64) : Statement (.wdecl wn sa sb se) := by
  intro e h; cases h; simp
theorem wdrop (wn : Fin 16) : Statement (.wdrop wn) := by
  intro e h; cases h; simp
theorem atomAdd (ty : Ty) (sc : Scope) (sd : Fin 64) (sa : Fin 64) (sb : Fin 64) (ext : Option (BitVec 32)) : Statement (.atomAdd ty sc sd sa sb ext) := by
  intro e h; cases h; cases ext <;> simp
theorem atomMax (ty : Ty) (sc : Scope) (sd : Fin 64) (sa : Fin 64) (sb : Fin 64) (ext : Option (BitVec 32)) : Statement (.atomMax ty sc sd sa sb ext) := by
  intro e h; cases h; cases ext <;> simp
theorem atomMin (ty : Ty) (sc : Scope) (sd : Fin 64) (sa : Fin 64) (sb : Fin 64) (ext : Option (BitVec 32)) : Statement (.atomMin ty sc sd sa sb ext) := by
  intro e h; cases h; cases ext <;> simp
theorem atomAnd (ty : Ty) (sc : Scope) (sd : Fin 64) (sa : Fin 64) (sb : Fin 64) (ext : Option (BitVec 32)) : Statement (.atomAnd ty sc sd sa sb ext) := by
  intro e h; cases h; cases ext <;> simp
theorem atomOr (ty : Ty) (sc : Scope) (sd : Fin 64) (sa : Fin 64) (sb : Fin 64) (ext : Option (BitVec 32)) : Statement (.atomOr ty sc sd sa sb ext) := by
  intro e h; cases h; cases ext <;> simp
theorem atomXor (ty : Ty) (sc : Scope) (sd : Fin 64) (sa : Fin 64) (sb : Fin 64) (ext : Option (BitVec 32)) : Statement (.atomXor ty sc sd sa sb ext) := by
  intro e h; cases h; cases ext <;> simp
theorem atomSwap (ty : Ty) (sc : Scope) (sd : Fin 64) (sa : Fin 64) (sb : Fin 64) (ext : Option (BitVec 32)) : Statement (.atomSwap ty sc sd sa sb ext) := by
  intro e h; cases h; cases ext <;> simp
theorem br (pn : Bool) (p : Fin 16) (off : BitVec 20) : Statement (.br pn p off) := by
  intro e h; cases h; simp
theorem jmp (off : BitVec 20) : Statement (.jmp off) := by
  intro e h; cases h; simp
theorem jmpReg (sn : Fin 64) : Statement (.jmpReg sn) := by
  intro e h; cases h; simp
theorem call (off : BitVec 20) : Statement (.call off) := by
  intro e h; cases h; simp
theorem callReg (sn : Fin 64) : Statement (.callReg sn) := by
  intro e h; cases h; simp
theorem loop (pin : Bool) (sa : Fin 64) (bodyw : BitVec 10) : Statement (.loop pin sa bodyw) := by
  intro e h; cases h; simp
theorem trap (code : BitVec 16) : Statement (.trap code) := by
  intro e h; cases h; simp
theorem brk (code : BitVec 16) : Statement (.brk code) := by
  intro e h; cases h; simp
theorem sysr (sd : Fin 64) (n : Fin 4096) : Statement (.sysr sd n) := by
  intro e h; cases h; simp
theorem sysw (sa : Fin 64) (n : Fin 4096) : Statement (.sysw sa n) := by
  intro e h; cases h; simp
theorem viewset (vw : Fin 64) (sa : Fin 64) : Statement (.viewset vw sa) := by
  intro e h; cases h; simp
theorem mbreq (sa : Fin 64) (pd : Option (Fin 16)) : Statement (.mbreq sa pd) := by
  intro e h; cases pd <;> (cases h; simp)
theorem mbtake (sd : Fin 64) (pd : Option (Fin 16)) : Statement (.mbtake sd pd) := by
  intro e h; cases pd <;> (cases h; simp)
theorem acq (sc : Scope) : Statement (.acq sc) := by
  intro e h; cases h; simp
theorem rel (sc : Scope) : Statement (.rel sc) := by
  intro e h; cases h; simp
theorem fence (sc : Scope) (loads : Bool) (stores : Bool) (copies : Bool) : Statement (.fence sc loads stores copies) := by
  intro e h; cases h; simp
theorem fpost (k : Fin 32) (n : BitVec 16) (target : Option PostTarget) : Statement (.fpost k n target) := by
  intro e h; cases target <;> (cases h; simp)
theorem fwait (k : Fin 32) (n : BitVec 16) : Statement (.fwait k n) := by
  intro e h; cases h; simp
theorem bara (g : Fin 256) : Statement (.bara g) := by
  intro e h; cases h; simp
theorem barw (g : Fin 256) : Statement (.barw g) := by
  intro e h; cases h; simp
theorem live (e : Fin 256) : Statement (.live e) := by
  intro e h; cases h; simp
theorem dead (vw : Fin 64) (first : Fin 512) (cntm1 : Fin 512) : Statement (.dead vw first cntm1) := by
  intro e h; cases h; simp
theorem xsvImm (vw : Fin 64) (sn : Fin 64) (row : Row8) (el : Elem) : Statement (.xsvImm vw sn row el) := by
  intro e h; cases el <;> (cases h; simp)
theorem xsvScalar (vw : Fin 64) (sn : Fin 64) (row : Row8) (sm : Fin 64) : Statement (.xsvScalar vw sn row sm) := by
  intro e h; cases h; simp
theorem xsvBcast (vw : Fin 64) (sn : Fin 64) (row : Row8) : Statement (.xsvBcast vw sn row) := by
  intro e h; cases h; simp
theorem xvsImm (vw : Fin 64) (sn : Fin 64) (row : Row8) (el : Elem) : Statement (.xvsImm vw sn row el) := by
  intro e h; cases el <;> (cases h; simp)
theorem xvsScalar (vw : Fin 64) (sn : Fin 64) (row : Row8) (sm : Fin 64) : Statement (.xvsScalar vw sn row sm) := by
  intro e h; cases h; simp
theorem vadd (vd : Fin 64) (va : Fin 64) (vb : Fin 64) (row : Row8) (md : Option Modifier) : Statement (.vadd vd va vb row md) := by
  intro e h; cases h; simp [modWords_length]
theorem vaddS (vd : Fin 64) (va : Fin 64) (sb : Fin 64) (row : Row8) (md : Option Modifier) : Statement (.vaddS vd va sb row md) := by
  intro e h; cases h; simp [modWords_length]
theorem vsub (vd : Fin 64) (va : Fin 64) (vb : Fin 64) (row : Row8) (md : Option Modifier) : Statement (.vsub vd va vb row md) := by
  intro e h; cases h; simp [modWords_length]
theorem vsubS (vd : Fin 64) (va : Fin 64) (sb : Fin 64) (row : Row8) (md : Option Modifier) : Statement (.vsubS vd va sb row md) := by
  intro e h; cases h; simp [modWords_length]
theorem vmul (vd : Fin 64) (va : Fin 64) (vb : Fin 64) (row : Row8) (md : Option Modifier) : Statement (.vmul vd va vb row md) := by
  intro e h; cases h; simp [modWords_length]
theorem vmulS (vd : Fin 64) (va : Fin 64) (sb : Fin 64) (row : Row8) (md : Option Modifier) : Statement (.vmulS vd va sb row md) := by
  intro e h; cases h; simp [modWords_length]
theorem vmax (vd : Fin 64) (va : Fin 64) (vb : Fin 64) (row : Row8) (md : Option Modifier) : Statement (.vmax vd va vb row md) := by
  intro e h; cases h; simp [modWords_length]
theorem vmaxS (vd : Fin 64) (va : Fin 64) (sb : Fin 64) (row : Row8) (md : Option Modifier) : Statement (.vmaxS vd va sb row md) := by
  intro e h; cases h; simp [modWords_length]
theorem vmin (vd : Fin 64) (va : Fin 64) (vb : Fin 64) (row : Row8) (md : Option Modifier) : Statement (.vmin vd va vb row md) := by
  intro e h; cases h; simp [modWords_length]
theorem vminS (vd : Fin 64) (va : Fin 64) (sb : Fin 64) (row : Row8) (md : Option Modifier) : Statement (.vminS vd va sb row md) := by
  intro e h; cases h; simp [modWords_length]
theorem vand (vd : Fin 64) (va : Fin 64) (vb : Fin 64) (row : Row8) (md : Option Modifier) : Statement (.vand vd va vb row md) := by
  intro e h; cases h; simp [modWords_length]
theorem vandS (vd : Fin 64) (va : Fin 64) (sb : Fin 64) (row : Row8) (md : Option Modifier) : Statement (.vandS vd va sb row md) := by
  intro e h; cases h; simp [modWords_length]
theorem vor (vd : Fin 64) (va : Fin 64) (vb : Fin 64) (row : Row8) (md : Option Modifier) : Statement (.vor vd va vb row md) := by
  intro e h; cases h; simp [modWords_length]
theorem vorS (vd : Fin 64) (va : Fin 64) (sb : Fin 64) (row : Row8) (md : Option Modifier) : Statement (.vorS vd va sb row md) := by
  intro e h; cases h; simp [modWords_length]
theorem vxor (vd : Fin 64) (va : Fin 64) (vb : Fin 64) (row : Row8) (md : Option Modifier) : Statement (.vxor vd va vb row md) := by
  intro e h; cases h; simp [modWords_length]
theorem vxorS (vd : Fin 64) (va : Fin 64) (sb : Fin 64) (row : Row8) (md : Option Modifier) : Statement (.vxorS vd va sb row md) := by
  intro e h; cases h; simp [modWords_length]
theorem vshl (vd : Fin 64) (va : Fin 64) (vb : Fin 64) (row : Row8) (md : Option Modifier) : Statement (.vshl vd va vb row md) := by
  intro e h; cases h; simp [modWords_length]
theorem vshlS (vd : Fin 64) (va : Fin 64) (sb : Fin 64) (row : Row8) (md : Option Modifier) : Statement (.vshlS vd va sb row md) := by
  intro e h; cases h; simp [modWords_length]
theorem vshr (vd : Fin 64) (va : Fin 64) (vb : Fin 64) (row : Row8) (md : Option Modifier) : Statement (.vshr vd va vb row md) := by
  intro e h; cases h; simp [modWords_length]
theorem vshrS (vd : Fin 64) (va : Fin 64) (sb : Fin 64) (row : Row8) (md : Option Modifier) : Statement (.vshrS vd va sb row md) := by
  intro e h; cases h; simp [modWords_length]
theorem vfma (vd : Fin 64) (va : Fin 64) (vb : Fin 64) (row : Row8) (md : Option Modifier) : Statement (.vfma vd va vb row md) := by
  intro e h; cases h; simp [modWords_length]
theorem vfmaS (vd : Fin 64) (va : Fin 64) (sb : Fin 64) (row : Row8) (md : Option Modifier) : Statement (.vfmaS vd va sb row md) := by
  intro e h; cases h; simp [modWords_length]
theorem vcmp (vd : Fin 64) (va : Fin 64) (vb : Fin 64) (row : Row8) (md : Option Modifier) : Statement (.vcmp vd va vb row md) := by
  intro e h; cases h; simp [modWords_length]
theorem vcmpS (vd : Fin 64) (va : Fin 64) (sb : Fin 64) (row : Row8) (md : Option Modifier) : Statement (.vcmpS vd va sb row md) := by
  intro e h; cases h; simp [modWords_length]
theorem vclamp (vd : Fin 64) (va : Fin 64) (vb : Fin 64) (row : Row8) (md : Option Modifier) : Statement (.vclamp vd va vb row md) := by
  intro e h; cases h; simp [modWords_length]
theorem vclampS (vd : Fin 64) (va : Fin 64) (sb : Fin 64) (row : Row8) (md : Option Modifier) : Statement (.vclampS vd va sb row md) := by
  intro e h; cases h; simp [modWords_length]
theorem vmov (vd : Fin 64) (va : Fin 64) (row : Row8) (md : Option Modifier) : Statement (.vmov vd va row md) := by
  intro e h; cases h; simp [modWords_length]
theorem vneg (vd : Fin 64) (va : Fin 64) (row : Row8) (md : Option Modifier) : Statement (.vneg vd va row md) := by
  intro e h; cases h; simp [modWords_length]
theorem vabs (vd : Fin 64) (va : Fin 64) (row : Row8) (md : Option Modifier) : Statement (.vabs vd va row md) := by
  intro e h; cases h; simp [modWords_length]
theorem vcvt (vd : Fin 64) (va : Fin 64) (row : Row8) (md : Option Modifier) : Statement (.vcvt vd va row md) := by
  intro e h; cases h; simp [modWords_length]
theorem viota (vd : Fin 64) (row : Row8) (md : Option Modifier) : Statement (.viota vd row md) := by
  intro e h; cases h; simp [modWords_length]
theorem vsel (vd : Fin 64) (va : Fin 64) (vb : Fin 64) (row : Row8) (md : Option Modifier) : Statement (.vsel vd va vb row md) := by
  intro e h; cases h; simp [modWords_length]
theorem vredAdd (vd : Fin 64) (va : Fin 64) (row : Row8) (md : Option Modifier) : Statement (.vredAdd vd va row md) := by
  intro e h; cases h; simp [modWords_length]
theorem vredMax (vd : Fin 64) (va : Fin 64) (row : Row8) (md : Option Modifier) : Statement (.vredMax vd va row md) := by
  intro e h; cases h; simp [modWords_length]
theorem vredMin (vd : Fin 64) (va : Fin 64) (row : Row8) (md : Option Modifier) : Statement (.vredMin vd va row md) := by
  intro e h; cases h; simp [modWords_length]
theorem vld (vd : Fin 64) (row : Row8) (sa : Fin 64) (off : BitVec 6) (md : Option Modifier) : Statement (.vld vd row sa off md) := by
  intro e h; cases h; simp [modWords_length]
theorem vst (vd : Fin 64) (row : Row8) (sa : Fin 64) (off : BitVec 6) (md : Option Modifier) : Statement (.vst vd row sa off md) := by
  intro e h; cases h; simp [modWords_length]
theorem vldx (vd : Fin 64) (vi : Fin 64) (sa : Fin 64) (row : Row8) (md : Option Modifier) : Statement (.vldx vd vi sa row md) := by
  intro e h; cases h; simp [modWords_length]
theorem vstx (vd : Fin 64) (vi : Fin 64) (sa : Fin 64) (row : Row8) (md : Option Modifier) : Statement (.vstx vd vi sa row md) := by
  intro e h; cases h; simp [modWords_length]
theorem vrcp (vd : Fin 64) (va : Fin 64) (row : Row8) (md : Option Modifier) : Statement (.vrcp vd va row md) := by
  intro e h; cases h; simp [modWords_length]
theorem vrsq (vd : Fin 64) (va : Fin 64) (row : Row8) (md : Option Modifier) : Statement (.vrsq vd va row md) := by
  intro e h; cases h; simp [modWords_length]
theorem vexp2 (vd : Fin 64) (va : Fin 64) (row : Row8) (md : Option Modifier) : Statement (.vexp2 vd va row md) := by
  intro e h; cases h; simp [modWords_length]
theorem vlog2 (vd : Fin 64) (va : Fin 64) (row : Row8) (md : Option Modifier) : Statement (.vlog2 vd va row md) := by
  intro e h; cases h; simp [modWords_length]
theorem vtanh (vd : Fin 64) (va : Fin 64) (row : Row8) (md : Option Modifier) : Statement (.vtanh vd va row md) := by
  intro e h; cases h; simp [modWords_length]
theorem skinit (vd : Fin 64) (kind : SumKind) (sb : Fin 64) (row : Row8) (md : Option Modifier) : Statement (.skinit vd kind sb row md) := by
  intro e h; cases h; simp [modWords_length]
theorem skq (vd : Fin 64) (va : Fin 64) (row : Row8) (md : Option Modifier) : Statement (.skq vd va row md) := by
  intro e h; cases h; simp [modWords_length]
theorem skh (vd : Fin 64) (va : Fin 64) (row : Row8) (md : Option Modifier) : Statement (.skh vd va row md) := by
  intro e h; cases h; simp [modWords_length]
theorem skd (vd : Fin 64) (va : Fin 64) (row : Row8) (md : Option Modifier) : Statement (.skd vd va row md) := by
  intro e h; cases h; simp [modWords_length]
theorem skmerge (vd : Fin 64) (va : Fin 64) (vb : Fin 64) (row : Row8) (md : Option Modifier) : Statement (.skmerge vd va vb row md) := by
  intro e h; cases h; simp [modWords_length]
theorem skqry (vd : Fin 64) (va : Fin 64) (sb : Fin 64) (row : Row8) (md : Option Modifier) : Statement (.skqry vd va sb row md) := by
  intro e h; cases h; simp [modWords_length]
theorem skest (vd : Fin 64) (va : Fin 64) (row : Row8) (md : Option Modifier) : Statement (.skest vd va row md) := by
  intro e h; cases h; simp [modWords_length]
theorem sktop (vd : Fin 64) (va : Fin 64) (row : Row8) (md : Option Modifier) : Statement (.sktop vd va row md) := by
  intro e h; cases h; simp [modWords_length]
theorem xperm (vd : Fin 64) (va : Fin 64) (sel : Fin 64) (row : Row7) (md : Option Modifier) : Statement (.xperm vd va sel row md) := by
  intro e h; cases h; simp [modWords_length]
theorem xbcast (vd : Fin 64) (va : Fin 64) (sel : Fin 128) (row : Row7) (md : Option Modifier) : Statement (.xbcast vd va sel row md) := by
  intro e h; cases h; simp [modWords_length]
theorem xrot (vd : Fin 64) (va : Fin 64) (sel : Fin 128) (row : Row7) (md : Option Modifier) : Statement (.xrot vd va sel row md) := by
  intro e h; cases h; simp [modWords_length]
theorem mclaim (om : Fin 16) (pd : Option (Fin 16)) : Statement (.mclaim om pd) := by
  intro e h; cases pd <;> (cases h; simp)
theorem mrel (om : Fin 16) : Statement (.mrel om) := by
  intro e h; cases h; simp
theorem mldSp (om : Fin 16) (sa : Fin 64) (banks : BitVec 32) : Statement (.mldSp om sa banks) := by
  intro e h; cases h; simp
theorem mldView (om : Fin 16) (vw : Fin 64) (row : Row8) : Statement (.mldView om vw row) := by
  intro e h; cases h; simp
theorem mma (oma : Fin 16) (omb : Fin 16) (acc : Fin 4) (cop : Cop) (rm : Rm) (beatsm1 : Fin 128) : Statement (.mma oma omb acc cop rm beatsm1) := by
  intro e h; cases h; simp
theorem mstView (acc : Fin 4) (vw : Fin 64) (row : Row8) : Statement (.mstView acc vw row) := by
  intro e h; cases h; simp
theorem mstSp (acc : Fin 4) (sa : Fin 64) (banks : BitVec 32) : Statement (.mstSp acc sa banks) := by
  intro e h; cases h; simp
theorem mzero (acc : Fin 4) : Statement (.mzero acc) := by
  intro e h; cases h; simp
theorem mseq (lenm1 : Fin 16) (seq : BitVec 32) : Statement (.mseq lenm1 seq) := by
  intro e h; cases h; simp
theorem cpy (sd : Fin 64) (sa : Fin 64) (sb : Fin 64) (nt : Notif) : Statement (.cpy sd sa sb nt) := by
  intro e h; cases h; have := notif_length nt; simp; omega
theorem cpy2d (sd : Fin 64) (sa : Fin 64) (sb : Fin 64) (nt : Notif) : Statement (.cpy2d sd sa sb nt) := by
  intro e h; cases h; have := notif_length nt; simp; omega
theorem cfill (sd : Fin 64) (sa : Fin 64) (sb : Fin 64) (nt : Notif) : Statement (.cfill sd sa sb nt) := by
  intro e h; cases h; have := notif_length nt; simp; omega
theorem cgather (sd : Fin 64) (sa : Fin 64) (sb : Fin 64) (nt : Notif) : Statement (.cgather sd sa sb nt) := by
  intro e h; cases h; have := notif_length nt; simp; omega
theorem cmcast (sd : Fin 64) (sa : Fin 64) (sb : Fin 64) (nt : Notif) : Statement (.cmcast sd sa sb nt) := by
  intro e h; cases h; have := notif_length nt; simp; omega
theorem cred (sd : Fin 64) (sa : Fin 64) (sb : Fin 64) (nt : Notif) (rw : RedWord) : Statement (.cred sd sa sb nt rw) := by
  intro e h; cases h; have := notif_length nt; simp; omega
theorem chsend (ch : Fin 256) (nt : Notif) : Statement (.chsend ch nt) := by
  intro e h; cases h; have := notif_length nt; simp; omega
theorem chrecv (ch : Fin 256) (nt : Notif) : Statement (.chrecv ch nt) := by
  intro e h; cases h; have := notif_length nt; simp; omega
theorem accessAtPointOfCoherence (n : Nat) : Statement (.accessAtPointOfCoherence n) := by
  intro e h; cases h
theorem storePerformed (n : Nat) : Statement (.storePerformed n) := by
  intro e h; cases h
theorem lineEvictionWriteBack (c : ClusterId) (line : Nat) : Statement (.lineEvictionWriteBack c line) := by
  intro e h; cases h
theorem linkFifoCredit (n : Nat) : Statement (.linkFifoCredit n) := by
  intro e h; cases h
theorem barrierSignal (m : BarrierMsg) : Statement (.barrierSignal m) := by
  intro e h; cases h
theorem admitLaunch : Statement (.admitLaunch) := by
  intro e h; cases h
theorem workerRetire : Statement (.workerRetire) := by
  intro e h; cases h
theorem graceWindowExpiry : Statement (.graceWindowExpiry) := by
  intro e h; cases h
theorem leanSave : Statement (.leanSave) := by
  intro e h; cases h
theorem dictIssue : Statement (.dictIssue) := by
  intro e h; cases h
theorem repeatIssue : Statement (.repeatIssue) := by
  intro e h; cases h
theorem literalIssue : Statement (.literalIssue) := by
  intro e h; cases h
theorem fetchFillComplete : Statement (.fetchFillComplete) := by
  intro e h; cases h
theorem resultWriteback : Statement (.resultWriteback) := by
  intro e h; cases h
theorem impreciseFaultTake : Statement (.impreciseFaultTake) := by
  intro e h; cases h
theorem userInterruptTake : Statement (.userInterruptTake) := by
  intro e h; cases h
theorem arrayBeat : Statement (.arrayBeat) := by
  intro e h; cases h
theorem matrixPassComplete : Statement (.matrixPassComplete) := by
  intro e h; cases h
theorem mstRowLand : Statement (.mstRowLand) := by
  intro e h; cases h
theorem linWatchdog : Statement (.linWatchdog) := by
  intro e h; cases h
theorem boot : Statement (.boot) := by
  intro e h; cases h
theorem ret : Statement (.ret) := by
  intro e h; cases h; simp
theorem halt : Statement (.halt) := by
  intro e h; cases h; simp
theorem rft : Statement (.rft) := by
  intro e h; cases h; simp
theorem rfui : Statement (.rfui) := by
  intro e h; cases h; simp
theorem waiti : Statement (.waiti) := by
  intro e h; cases h; simp

end Sys2Proof.Laws.Encoding
end

