-- ==== Sys2Proof/Laws/Trap.lean ====
section
/-! SUPPORT. What a trap that cannot be taken comes to, what the return from one restores, and what a hold notes. -/

namespace Sys2Proof.Machine

/-- A held context notes why, and nothing else. -/
@[simp] theorem State.me_heldBy (s : State) (c : Stall) : (s.heldBy c).me = { s.me with stall := some c } := by
  simp [State.heldBy]

/-- A token request withdrawn changes no context. -/
@[simp] theorem State.dropToken_ctx (s : State) (x y : Nat) : (s.dropToken x).ctx y = s.ctx y := by
  simp only [State.dropToken]
  split <;> rfl

/-- A launch's failure changes no context. -/
@[simp] theorem State.failLaunch_ctx (s : State) (l y : Nat) : (s.failLaunch l).ctx y = s.ctx y := rfl

/-- A context after its fatal context error (R261): its registers are as they were, and nothing of it goes on but its stores
and atomics, whose results go nowhere. -/
theorem fatalCtx_ctx (s : State) (x : Nat) : (s.fatalCtx x).ctx x = { (s.ctx x).dropWins with
    run := .fatal, iss := none, snap := none, lat := [], passes := [], drains := [], busy := 0, uiq := [], impq := [],
    sup := false, parked := Parked.none, grace := none, savept := none,
    mops := (s.ctx x).dropWins.mops.filterMap MemOp.orphan } := by
  unfold State.fatalCtx
  dsimp only
  split <;> simp [Ctx.dropWins]

/-- The return from a trap gives back what the trap parked (R255). -/
theorem returnFromTrap_ctx (s : State) (x : Nat) : (s.returnFromTrap x).ctx x = { s.ctx x with
    sup := false, lat := (s.ctx x).parked.lat, fetch := (s.ctx x).parked.fetch, iss := (s.ctx x).parked.iss,
    snap := (s.ctx x).parked.snap, parked := { Parked.none with spent := (s.ctx x).parked.spent } } := by
  simp [State.returnFromTrap]

end Sys2Proof.Machine
end

