-- ==== Sys2Proof/Tests/Slice0.lean ====
section
/-! SUPPORT. Tests: what the decode checks refuse, words written out from the spec's encodings, single steps on small states, and states
that meet the hypotheses of the statements. -/



namespace Sys2Proof.Tests

set_option Elab.async false

open Sys2Proof.Machine

/-! ### Ill-formed terms: one for each check of WellFormed -/

theorem test_wf_type_of_add : (Instr.add (.fmt .f32) 1 2 3).wf = false := by decide
theorem test_wf_type_of_mul : (Instr.mul (.fmt .fx48) 1 2 3).wf = false := by decide
theorem test_wf_type_of_clz : (Instr.clz (.fmt .t8) 1 2).wf = false := by decide
theorem test_wf_un_of_cmp : (Instr.cmp (.fmt .i32) .un 1 2 3).wf = false := by decide
theorem test_wf_field_past_63 : (Instr.bfx false 1 2 32 32).wf = false := by decide
theorem test_wf_type_of_fadd : (Instr.fadd (.fmt .i32) .ne 1 2 3).wf = false := by decide
theorem test_wf_fcvt_fx48 : (Instr.fcvt .fx48 .f32 .ne 1 2).wf = false := by decide
theorem test_wf_loop_body : (Instr.loop false 1 0).wf = false ∧ (Instr.loop true 1 257).wf = false := by decide
theorem test_wf_sysr_unnamed : (Instr.sysr 1 0x00A).wf = false := by decide
theorem test_wf_fence_nothing : (Instr.fence .core false false false).wf = false := by decide
theorem test_wf_fpost_core_target : (Instr.fpost 1 1 (some ⟨.core, ⟨0, 0, 0, false⟩⟩)).wf = false := by decide
theorem test_wf_modifier_pneg : (Instr.vadd 1 2 3 (.imm 0) (some ⟨0, 0, 0, 0, false, 0, true⟩)).wf = false := by decide
theorem test_wf_modifier_boff : (Instr.vmov 1 2 (.imm 0) (some ⟨0, 0, 1, 0, false, 0, false⟩)).wf = false := by decide
theorem test_wf_modifier_aoff : (Instr.viota 1 (.imm 0) (some ⟨0, 1, 0, 0, false, 0, false⟩)).wf = false := by decide
theorem test_wf_modifier_rm : (Instr.vmax 1 2 3 (.imm 0) (some ⟨0, 0, 0, 1, false, 0, false⟩)).wf = false := by decide
theorem test_wf_mseq_past_length : (Instr.mseq 0 4).wf = false := by decide
theorem test_wf_notification_k : (Instr.cpy 1 2 3 ⟨false, false, false, 1, none⟩).wf = false := by decide
theorem test_wf_notification_gv : (Instr.cpy 1 2 3 ⟨false, true, false, 0, none⟩).wf = false := by decide
theorem test_wf_notification_group : (Instr.cpy 1 2 3 ⟨false, false, false, 0, some ⟨1, false, ⟨0, 0, 0, false⟩⟩⟩).wf = false := by decide
theorem test_wf_notification_rf : (Instr.cpy 1 2 3 ⟨false, false, false, 0, some ⟨0, true, ⟨0, 0, 0, false⟩⟩⟩).wf = false := by decide
theorem test_wf_notification_id : (Instr.cpy 1 2 3 ⟨false, false, true, 0, some ⟨0, false, ⟨0, 1, 0, false⟩⟩⟩).wf = false := by decide
theorem test_wf_cgather_odd : (Instr.cgather 1 2 3 ⟨false, false, false, 0, none⟩).wf = false := by decide
theorem test_wf_route_index : (Instr.routeTableWrite 3072 0).wf = false := by decide
theorem test_fits_special_in_v0 : (Instr.vrcp 1 2 (.imm 0) none).fits .V0 = false := by decide
theorem test_place_link_form : (Instr.add .link 1 2 3).inPlace false 0 = false ∧ (Instr.add .link 1 2 3).inPlace true 0 = true := by decide
theorem test_place_lfto : (Instr.sysr 1 0x080).inPlace false 0 = false := by decide
theorem test_place_live : (Instr.live 3).inPlace false 3 = false ∧ (Instr.live 2).inPlace false 3 = true := by decide

/-! ### Words written out from the encodings of R61 to R77 -/

/-- Format SR: OP 0x01, I 0, SD 5, SA 6, SB 7, TY 7 (i32), MOD 0. -/
theorem test_word_add : decodeSlot .S 0b000001_0_000101_000110_000111_0111_000 [] = some (.add (.fmt .i32) 5 6 7) := by decide
/-- Format SI: the same with I 1, TY 8 (i64) and IMM9 −1. -/
theorem test_word_add_imm : decodeSlot .S 0b000001_1_000101_000110_1000_111111111 [] = some (.addImm (.fmt .i64) 5 6 (.short (-1))) := by decide
/-- Format SI with an extension word: IMM9 is zero. -/
theorem test_word_add_long : decodeSlot .S 0b000001_1_000101_000110_1000_000000000 [0x12345678] =
  some (.addImm (.fmt .i64) 5 6 (.long 0x12345678)) := by decide
/-- CMP, OP 0x0F: PD in [22:19], TY 7, CND 2 (lt). -/
theorem test_word_cmp : decodeSlot .S 0b001111_0_00_0011_000001_000010_0111_010 [] = some (.cmp (.fmt .i32) .lt 3 1 2) := by decide
/-- FMA, OP 0x17: TY 0, RM 1. -/
theorem test_word_fma : decodeSlot .S 0b010111_0_000001_000010_000011_0000_001 [] = some (.fma (.fmt .f32) .rz 1 2 3) := by decide
/-- FCVT, OP 0x19: source type in SB[3:0], 7; TY 0. -/
theorem test_word_fcvt : decodeSlot .S 0b011001_0_000001_000010_000111_0000_000 [] = some (.fcvt .f32 .i32 .ne 1 2) := by decide
/-- LD, OP 0x1C: XB 1, SD 1, SA 2, SB 3, TY 8, SC 5 (plain). -/
theorem test_word_ld : decodeSlot .S 0b011100_1_000001_000010_000011_1000_101 [] =
  some (.ld (.fmt .i64) none 1 ⟨2, 3, true, none⟩) := by decide
/-- ATOM.add, OP 0x28: SC 3 (package). -/
theorem test_word_atom_add : decodeSlot .S 0b101000_0_000001_000010_000011_1100_011 [] =
  some (.atomAdd (.fmt .n64) .package 1 2 3 none) := by decide
/-- BR, OP 0x30: RG 0, PN 1, P 4, OFF20 −2. -/
theorem test_word_br : decodeSlot .S 0b110000_0_1_0100_11111111111111111110 [] = some (.br true 4 (-2)) := by decide
/-- JMP to s12 (R343) and RET (R358). -/
theorem test_word_jmp : decodeSlot .S 0xC6030000 [] = some (.jmpReg 12) ∧ decodeSlot .S 0xCC000000 [] = some .ret := by decide
/-- LOOP, OP 0x34: PIN 0, SA 5, BODYW 16. -/
theorem test_word_loop : decodeSlot .S 0b110100_0_000101_0000010000_000000000 [] = some (.loop false 5 16) := by decide
/-- SYSR, OP 0x3A: SD 1, N 0x100. -/
theorem test_word_sysr : decodeSlot .S 0b111010_0_000001_000100000000_0000000 [] = some (.sysr 1 0x100) := by decide
/-- MBREQ, OP 0x3D: NB 1, SA 2, PD 3. -/
theorem test_word_mbreq : decodeSlot .S 0b111101_1_000010_0011_000000000000000 [] = some (.mbreq 2 (some 3)) := by decide
/-- FENCE, Y-slot OP 0x03: SC 3, C 0, S 1, L 1. -/
theorem test_word_fence : decodeSlot .Y 0b000011_011_0_1_1_00000000000000000000 [] = some (.fence .package true true false) := by decide
/-- FPOST, OP 0x04, with its target word: K 2, N 1. -/
theorem test_word_fpost : decodeSlot .Y 0b000100_00010_0000000000000001_1_0000 [0b011_000000000001_10_000101_1_00000000] =
  some (.fpost 2 1 (some ⟨.package, ⟨1, 2, 5, true⟩⟩)) := by decide
/-- DEAD, OP 0x09: VW 1, FIRST 8, CNTM1 3. -/
theorem test_word_dead : decodeSlot .Y 0b001001_000001_000001000_000000011_00 [] = some (.dead 1 8 3) := by decide
/-- VADD, OP 0x02 in format VR: VD 1, VA 2, VB 3, ROW8 4. -/
theorem test_word_vadd : decodeSlot .V0 0b000010_000001_000010_000011_00000100 [] = some (.vadd 1 2 3 (.imm 4) none) := by decide
/-- The same with a scalar row, s5, and a modifier word: DOFF 1, AOFF 2, BOFF 3, RM 1, PEN 1, P 2, PN 1. -/
theorem test_word_vadd_mod : decodeSlot .V1 0b000010_000001_000010_000011_10000101 [0b00000001_00000010_00000011_01_1_0010_1] =
  some (.vadd 1 2 3 (.reg 5) (some ⟨1, 2, 3, 1, true, 2, true⟩)) := by decide
/-- SKINIT, OP 0x38 in V1 alone: the kind in VA. -/
theorem test_word_skinit : decodeSlot .V1 0b111000_000101_000001_000010_00000000 [] = some (.skinit 5 .heavy 2 (.imm 0) none) ∧
  decodeSlot .V0 0b111000_000101_000001_000010_00000000 [] = none := by decide
/-- XROT, OP 0x03: VD 1, VA 2, SEL7 127, ROW7 scalar s4; XPERM takes no pattern above 63. -/
theorem test_word_xrot : decodeSlot .X 0b000011_000001_000010_1111111_1000100 [] = some (.xrot 1 2 127 (.reg 4) none) ∧
  decodeSlot .X 0b000001_000001_000010_1000000_0000000 [] = none := by decide
/-- XSV with an immediate element in the word and in the extension word. -/
theorem test_word_xsv : decodeSlot .T 0b000001_000001_000010_00000011_000101 [] = some (.xsvImm 1 2 (.imm 3) (.short 5)) ∧
  decodeSlot .T 0b000001_000001_000010_00000011_000000 [511] = some (.xsvImm 1 2 (.imm 3) (.long 511)) ∧
  decodeSlot .T 0b000001_000001_000010_00000011_000000 [512] = none := by decide
/-- MMA, OP 0x04: OMA 1, OMB 2, ACC 3, COP 4, RM 0, BEATSM1 127; COP 5 traps. -/
theorem test_word_mma : decodeSlot .M 0b000100_0001_0010_11_100_00_1111111_0000 [] = some (.mma 1 2 3 .seq .ne 127) ∧
  decodeSlot .M 0b000100_0001_0010_11_101_00_1111111_0000 [] = none := by decide
/-- MLD with VS 0 and its bank set, and with VS 1. -/
theorem test_word_mld : decodeSlot .M 0b000011_0101_000111_0_000000000000000 [0xFF] = some (.mldSp 5 7 0xFF) ∧
  decodeSlot .M 0b000011_0101_000111_1_00000010_0000000 [] = some (.mldView 5 7 (.imm 2)) := by decide
/-- CPY, OP 0x01: SD 1, SA 2, SB 3, UI 1, GV 1, FV 1, K 4, with its notification word. -/
theorem test_word_cpy : decodeSlot .C1 0b000001_000001_000010_000011_1_1_1_00100 [0b00000101_1_000000000001_10_000011_1_00] =
  some (.cpy 1 2 3 ⟨true, true, true, 4, some ⟨5, true, ⟨1, 2, 3, true⟩⟩⟩) := by decide
/-- CRED, OP 0x06: the reduction word, RID 9, ROP 1, LW 2. -/
theorem test_word_cred : decodeSlot .C0 0b000110_000001_000010_000011_0_0_0_00000 [0b0000001001_001_10_00000000000000000] =
  some (.cred 1 2 3 ⟨false, false, false, 0, none⟩ ⟨9, .max, 2⟩) := by decide
/-- The header of R56: slots S and V0; a set reserved bit, and an owner that is not present, are no header. -/
theorem test_header : Header.ofWord 0x0000000A = some ⟨0b000001010, 0, 0, 0⟩ ∧ Header.ofWord 0x00080002 = none ∧
  Header.ofWord 0x00000202 = none := by decide

/-! ### Small states -/

/-- The bundle in issue of the test worker. -/
def tIss : Iss := ⟨0x100000, 0x100000, 0x100010, none, 0, 0, [(.S, .halt)], [(.S, .halt)], none, none, none, .plain, 0, 0, none, []⟩

/-- Views of the test worker: vw0 unset; 1 vectors of f32, 2 vectors of i32, 3 vectors of bf16, 4 tiles of bf16, 5 an accumulator,
6 summaries, 7 vectors of n8, 8 vectors of i64. -/
def tViews : Vector Word 64 :=
  ((((((((Vector.replicate 64 0).set 1 0x180000).set 2 0x70180000).set 3 0x10180000).set 4 0x114002000).set 5 0x208000800).set 6
    0x390810000).set 7 0x90180000).set 8 0x80180000

/-- A worker in context 0 with the whole register space and scratchpad, the local aperture mapped, registers s1 to s9 set. -/
def tCtx : Ctx := { Ctx.reset with
  occ := .worker 0 0
  run := .running
  rslim := 64
  splim := 512
  vw := tViews
  lmap := (Vector.replicate 32 0).set 0 (BitVec.ofNat 64 (2 ^ 59 + 2 ^ 58 + 511 * 2 ^ 31))
  code := ⟨0x100000, 0, 0, 64, 0, 0, 0⟩
  fetch := ⟨0x100000, none, 0⟩
  iss := some tIss
  s := ((((((Vector.replicate 64 0).set 1 0x100000).set 2 0x00FFFFFFC0000000).set 3 128).set 4 5).set 5 0x100001).set 6 511 }

/-- A page of local memory that everybody may use. -/
def tPage : TlbEntry := ⟨0, 0x100000, 0x100000, 0x100000, ⟨.f32, 0, 0, false, 0, false⟩, true, true, true, true, false⟩

/-- The package with a context 0 of some contents. -/
def tWith (c : Ctx) : State := { State.reset with
  hub := { Hub.reset with boot := .done, nclu := List.replicate 4 (10, 0) }
  ctxs := [(0, c)]
  dies := [(0, { DieSt.reset with tlb := [tPage] })] }

/-- The test worker's state. -/
def t0 : State := tWith tCtx

/-- The same in supervisor mode. -/
def tSup : State := tWith { tCtx with sup := true }

/-- A link form's operand at hand: a word in lin 0. -/
def tLin : State := tWith { tCtx with lin := (Vector.replicate 16 []).set 0 [7] }

/-- A modifier word whose predicate does not hold. -/
def tOff : Option Modifier := some ⟨0, 0, 0, 0, true, 0, false⟩

/-! ### States that meet the hypotheses of the statements -/

theorem witness_IntegerForms : rdT t0 (.fmt .i64) 63 = .ok 0 ∧ rdT t0 (.fmt .i64) 1 = .ok 0x100000 ∧
  wrT (popT t0 (.fmt .i64) [63, 1]) (.fmt .i64) 0 = .ok () := ⟨rfl, rfl, rfl⟩
theorem witness_IntegerForms_link : rdT tLin .link 48 = .ok 7 ∧ rdT tLin .link 0 = .ok 0 ∧
  wrT (popT tLin .link [48, 0]) .link 63 = .ok () := ⟨rfl, rfl, rfl⟩
theorem witness_DivisionAndHighProduct : wrS (tWith { tCtx with s := (tCtx.s.set 2 (-7)).set 3 2 }) 1 = .ok () ∧
  rdS (tWith { tCtx with s := (tCtx.s.set 2 (-7)).set 3 2 }) 2 = .ok (-7) ∧
  rdS (tWith { tCtx with s := (tCtx.s.set 2 (-7)).set 3 2 }) 3 = .ok 2 := ⟨rfl, rfl, rfl⟩
theorem witness_DivisionAndHighProduct_mulh :
  rdS (tWith { tCtx with s := (tCtx.s.set 2 0xFFFFFFFFFFFFFFFD).set 3 0x4000000000000000 }) 2 = .ok 0xFFFFFFFFFFFFFFFD ∧
  rdS (tWith { tCtx with s := (tCtx.s.set 2 0xFFFFFFFFFFFFFFFD).set 3 0x4000000000000000 }) 3 = .ok 0x4000000000000000 := ⟨rfl, rfl⟩
theorem witness_FieldsAndMoves : rdS t0 1 = .ok 0x100000 ∧ rdS t0 0 = .ok 0 ∧ wrS t0 0 = .ok () ∧
  (0 : Fin 64).val + (63 : Fin 64).val + 1 ≤ 64 ∧ (63 : Fin 64).val + (0 : Fin 64).val + 1 ≤ 64 := ⟨rfl, rfl, rfl, by decide, by decide⟩
theorem witness_failingSlotTraps : decodeSlot .S 0 [] = none ∧ decodeSlot .S 0x6C180001 [0] = none := by decide
theorem witness_Compares : rdT t0 (.fmt .fx48) 1 = .ok 0x100000 ∧ rdT t0 (.fmt .fx48) 63 = .ok 0 ∧ rdS t0 1 = .ok 0x100000 := ⟨rfl, rfl, rfl⟩
theorem witness_ScalarFloating : Fmt.f32.isFloat = true ∧ Fmt.f16.isFloat = true ∧ rdS t0 1 = .ok 0x100000 ∧ rdS t0 2 = .ok 0x00FFFFFFC0000000 ∧
  rdS t0 3 = .ok 128 ∧ wrS t0 3 = .ok () ∧ Fmt.t6 ≠ .fx48 ∧ Fmt.n64.isInt = true := ⟨rfl, rfl, rfl, rfl, rfl, rfl, by decide, rfl⟩
theorem witness_Transfers : t0.me.iss = some tIss ∧ rdS t0 12 = .ok 0 ∧ rdS t0 55 = .ok 0 ∧ wrS t0 55 = .ok () := ⟨rfl, rfl, rfl, rfl⟩
/-- A count of 5 with no loop, a count of 0, and a fifth loop. -/
theorem witness_LoopPushes : t0.me.iss = some tIss ∧ rdS t0 4 = .ok 5 ∧ rdS t0 0 = .ok 0 ∧ tIss.rep = 0 ∧ t0.me.stack.depth < 4 := by
  refine ⟨rfl, rfl, rfl, rfl, by decide⟩
theorem witness_LoopPushes_full :
  let s := tWith { tCtx with loops := { Loops.empty with depth := 4 } }
  s.me.iss = some tIss ∧ rdS s 4 = .ok 5 ∧ 4 ≤ s.me.stack.depth := ⟨rfl, rfl, by decide⟩
theorem witness_EndingInstructions : t0.me.iss = some tIss ∧ t0.me.sup = false ∧ t0.me.uiact = false ∧ tSup.me.sup = true ∧ tSup.me.lat = [] ∧
  tSup.me.mops = [] ∧ (tWith { tCtx with ctxctl := 8 }).me.uiact = true ∧ t0.me.uiq = [] ∧
  (tWith { tCtx with uiq := [1] }).me.uiq ≠ [] := by decide
theorem witness_SystemRegisters : t0.me.sup = false ∧ sysReadSup 0x000 = false ∧ sysReadSup 0x110 = true ∧ wrS t0 63 = .ok () ∧
  rdS t0 4 = .ok 5 ∧ (0x110 : Fin 4096).val ≠ 0x119 := ⟨rfl, rfl, rfl, rfl, rfl, by decide⟩
theorem witness_TlbInvalidation :
  let s := tWith { tCtx with sup := true, ssup := tCtx.ssup.set 0 8 }
  rdS s 48 = .ok 8 ∧ s.me.sup = true ∧ (8 : Word).toNat / 2 ^ 16 = 0 ∧ field (8 : Word).toNat 3 2 = 2 ∧
    canonical s.me.tlbiva.toNat = true ∧ s.accessesDone (invDies s.cur 2) (s.me.inv.getD s.clock) = true := ⟨rfl, rfl, rfl, rfl, rfl, rfl⟩
theorem witness_TlbInvalidation_die :
  let s := tWith { tCtx with sup := true, ssup := tCtx.ssup.set 0 4 }
  rdS s 48 = .ok 4 ∧ field (4 : Word).toNat 3 2 = 1 ∧ s.accessesDone (invDies s.cur 1) (s.me.inv.getD s.clock) = true ∧ t0.me.sup = false := ⟨rfl, rfl, rfl, rfl⟩
theorem witness_ViewRegisters : rdS (tWith { tCtx with s := tCtx.s.set 7 (tViews.get 1) }) 7 = .ok 0x180000 ∧
  (ViewReg.of 0x180000).fieldsOk = true ∧ (ViewReg.of 0x180000).geometryOk 64 = true := ⟨rfl, by decide, by decide⟩
theorem witness_VectorForms : predOn t0 none = true ∧ row8 t0 (.imm 127) = .ok 127 ∧ viewUnit t0 1 0 127 = .ok (.f32, 127) ∧
  rmFloat .f32 3 = true ∧ mulFmt .f32 0 = true ∧ anyFmt .f32 0 = true ∧ (∃ a, vecOperand t0 1 127 .f32 = .ok a) ∧
  (∃ b, (OpB.view 1).read t0 127 .f32 = .ok b) ∧ (∃ b, (OpB.scalar 4).read t0 127 .f32 = .ok b) ∧
  (∃ old, rdRow t0 127 = .ok old) ∧ wrRow t0 127 = .ok () :=
  ⟨rfl, rfl, rfl, rfl, rfl, rfl, ⟨_, rfl⟩, ⟨_, rfl⟩, ⟨_, rfl⟩, ⟨_, rfl⟩, rfl⟩
theorem witness_VectorForms_shift : viewUnit t0 2 0 511 = .ok (.i32, 511) ∧ shiftFmt .i32 0 = true ∧
  (∃ a, vecOperand t0 2 511 .i32 = .ok a) ∧ row8 t0 (.reg 6) = .ok 511 := ⟨rfl, rfl, ⟨_, rfl⟩, rfl⟩
theorem witness_VectorElements : Fmt.i8.isInt = true ∧ 255 < 2 ^ Fmt.i8.viewWidth ∧ Fmt.n64.isInt = true ∧ 2 ^ 64 - 1 < 2 ^ Fmt.n64.viewWidth ∧
  Fmt.f32.isFp = true ∧ (Fmt.f32.fp.dec 0x7F800001).isSig = true ∧ (Fmt.f32.fp.dec 0x7FC00000).isNan = true := by decide
theorem witness_Reductions : predOn t0 none = true ∧ viewUnit t0 1 0 0 = .ok (.f32, 0) ∧ (∃ a, vecOperand t0 1 0 .f32 = .ok a) ∧
  wrRow t0 0 = .ok () ∧ rmFloat .f32 0 = true := ⟨rfl, rfl, ⟨_, rfl⟩, rfl, rfl⟩
theorem witness_SpecialFunctions : viewUnit t0 1 0 511 = .ok (.f32, 511) ∧ (∃ b, rdRow t0 511 = .ok b) ∧ wrRow t0 511 = .ok () :=
  ⟨rfl, ⟨_, rfl⟩, rfl⟩
theorem witness_MovesIndexRows : viewUnit t0 7 0 3 = .ok (.n8, 3) ∧ viewUnit t0 1 0 3 = .ok (.f32, 3) ∧ (∃ b, rdRow t0 3 = .ok b) ∧
  wrRow t0 3 = .ok () := ⟨rfl, rfl, ⟨_, rfl⟩, rfl⟩
/-- A row of bf16 into two rows of f32. -/
theorem witness_Conversion : viewUnit t0 1 0 0 = .ok (.f32, 0) ∧ viewUnit t0 3 0 5 = .ok (.bf16, 5) ∧ cvtOk .bf16 .f32 0 = true ∧
  unitsFrom t0 1 0 (max Fmt.bf16.perRow Fmt.f32.perRow / Fmt.f32.perRow) = .ok [(.f32, 0), (.f32, 1)] ∧
  unitsFrom t0 3 5 (max Fmt.bf16.perRow Fmt.f32.perRow / Fmt.bf16.perRow) = .ok [(.bf16, 5)] ∧ (∃ rs, rdRows t0 [5] = .ok rs) ∧
  wrRow t0 0 = .ok () ∧ wrRow t0 1 = .ok () := ⟨rfl, rfl, rfl, rfl, rfl, ⟨_, rfl⟩, rfl, rfl⟩
theorem witness_PredicatedOff : predOn t0 tOff = false ∧ t0.myCore.sumop = none := ⟨rfl, rfl⟩
/-- The last element of a row, and the first past it. -/
theorem witness_ElementMoves : row8 t0 (.imm 0) = .ok 0 ∧ viewUnit t0 1 0 0 = .ok (.f32, 0) ∧ rdS t0 4 = .ok 5 ∧ wrRow t0 0 = .ok () ∧
  (∃ b, rdRow t0 0 = .ok b) ∧ wrS t0 63 = .ok () ∧ Elem.ix (.long 127) = 127 ∧ 127 < Fmt.f32.perRow ∧ Elem.ix (.long 128) = 128 ∧
  ¬ 128 < Fmt.f32.perRow ∧ Row.zero.dead = false := by
  refine ⟨rfl, rfl, rfl, rfl, ⟨_, rfl⟩, rfl, rfl, by decide, rfl, by decide, rfl⟩
theorem witness_DeadRows : viewUnit t0 1 0 (511 + 0) = .ok (.f32, 511) ∧ (ViewReg.of (rdVw t0 0)).rows ≤ 0 := ⟨rfl, by decide⟩
theorem witness_DeadRows_read :
  let s := t0.setCore 0 { t0.core 0 with rows := [(3, ⟨0, true⟩)] }
  s.me.snap = none ∧ s.myCore.sumop = none ∧ s.me.pendingRow 3 = false ∧ s.myCore.retained 3 = false ∧ (s.myCore.row 3).dead = true := by
  decide
theorem witness_Crossbar : row7 t0 (.imm 63) = .ok 63 ∧ viewUnit t0 1 0 63 = .ok (.f32, 63) ∧ (∃ b, rdRow t0 63 = .ok b) ∧ wrRow t0 63 = .ok () ∧
  (∃ r, patternRow t0 63 = .ok r) := ⟨rfl, rfl, ⟨_, rfl⟩, rfl, ⟨_, rfl⟩⟩
/-- In the scratchpad, in memory, and at an address that is no multiple of the size. -/
theorem witness_ScalarAccesses : memAddr t0 (.fmt .i64) ⟨2, 0, false, none⟩ = .ok 0x00FFFFFFC0000000 ∧ wrT t0 (.fmt .i64) 9 = .ok () ∧
  rdT t0 (.fmt .i64) 9 = .ok 0 ∧ (∃ e offs u, scalarAccess t0 .load (.fmt .i64) none 0x00FFFFFFC0000000 = .ok e ∧
    e.1.bytes.mapM t0.me.spOf = some offs ∧ useBanks t0 offs = .ok u) := ⟨rfl, rfl, rfl, _, _, _, rfl, rfl, rfl⟩
theorem witness_ScalarAccesses_memory : memAddr t0 (.fmt .i64) ⟨1, 0, false, none⟩ = .ok 0x100000 ∧
  (∃ e, scalarAccess t0 .store (.fmt .i64) (some .package) 0x100000 = .ok e ∧ e.1.bytes.mapM t0.me.spOf = none) ∧
  inFlight t0 true < 32 ∧ inFlight t0 false < 64 ∧ memAddr t0 (.fmt .i64) ⟨5, 0, false, none⟩ = .ok 0x100001 ∧
  (0x100001 : Word).toNat % (Ty.base (.fmt .i64)).memWidth / 8 = 0 ∧ (0x100001 : Word).toNat % ((Ty.base (.fmt .i64)).memWidth / 8) ≠ 0 :=
  ⟨rfl, ⟨_, rfl, rfl⟩, by decide, by decide, rfl, by decide, by decide⟩
theorem witness_Atomics : rdT t0 (.fmt .n64) 1 = .ok 0x100000 ∧ rdT t0 (.fmt .n64) 4 = .ok 5 ∧ rdT t0 (.fmt .n64) 9 = .ok 0 ∧
  t0.me.openAtomic t0.slot = none ∧ wrT t0 (.fmt .n64) 9 = .ok () ∧ atomRefused atomcap .add .n64 = none ∧
  atomRefused atomcap .add .t8 ≠ none ∧
  (∃ e, scalarAccess t0 .store (.fmt .n64) (some .package) 0x100000 = .ok e ∧ e.1.bytes.mapM t0.me.spOf = none) ∧
  (∃ e offs u, scalarAccess t0 .store (.fmt .n64) (some .core) 0x00FFFFFFC0000000 = .ok e ∧ e.1.bytes.mapM t0.me.spOf = some offs ∧
    useBanks t0 offs = .ok u) :=
  ⟨rfl, rfl, rfl, rfl, rfl, by decide, by decide, ⟨_, rfl, rfl⟩, ⟨_, _, _, rfl, rfl, rfl⟩⟩
theorem witness_LineOperations : rdS t0 1 = .ok 0x100000 ∧ rdS t0 3 = .ok 128 ∧ touchesWindow t0.me 0x100000 128 = false ∧
  t0.me.mops.all (·.performed) = true ∧ (∃ ls, lineRange t0 .store 0x100000 1 = .ok ls ∧
    ∀ l ∈ ls, scopeOk t0.me (BitVec.ofNat 64 l.1) none l.2 = .ok ()) ∧ 5 % 128 ≠ 0 := by
  refine ⟨rfl, rfl, rfl, rfl, ⟨_, rfl, ?_⟩, by decide⟩
  intro l h; simp only [List.mem_singleton] at h; subst h; rfl
set_option maxRecDepth 8000 in
theorem witness_VectorLoads : (∃ x es, xlate t0 .load 0x100000 false = .ok x ∧ crossOk x.attr.fmt .f32 0 = true ∧
  vecElems t0 .load x x.attr.es true none ((List.range 128).map fun e => (0x100000 : Word) + BitVec.ofNat 64 (4 * e)) = .ok es ∧
  (es.flatMap ElemLoc.all).mapM t0.me.spOf = none) ∧ rdS t0 1 = .ok 0x100000 ∧ inFlight t0 true < 32 := ⟨⟨_, _, rfl, rfl, rfl, rfl⟩, rfl, by decide⟩
set_option maxRecDepth 8000 in
theorem witness_VectorLoads_scratchpad : ∃ x es offs u, xlate t0 .load 0x00FFFFFFC0000000 false = .ok x ∧ crossOk x.attr.fmt .f32 0 = true ∧
  vecElems t0 .load x x.attr.es true none ((List.range 128).map fun e => (0x00FFFFFFC0000000 : Word) + BitVec.ofNat 64 (4 * e)) = .ok es ∧
  (es.flatMap ElemLoc.all).mapM t0.me.spOf = some offs ∧ useBanks t0 offs = .ok u := ⟨_, _, _, _, rfl, rfl, rfl, rfl, rfl⟩
set_option maxRecDepth 8000 in
theorem witness_VectorLoads_index : ∃ ix, indexList t0 2 0 128 = .ok ix := ⟨_, rfl⟩
set_option maxRecDepth 8000 in
theorem witness_VectorStores : (∃ x es b u, rdRow t0 0 = .ok b ∧ xlate t0 .store 0x100000 false = .ok x ∧ crossOk x.attr.fmt .f32 0 = true ∧
  vecElems t0 .store x x.attr.es true none (rowAddrs 0x100000 0 128 4) = .ok es ∧
  storeElems t0 x es .f32 .ne ((rowAddrs 0x100000 0 128 4).zip (elems .f32 b)) = .ok u ∧ x.attr.block = none ∧ x.attr.fmt.isTap = false ∧
  (es.flatMap ElemLoc.all).mapM t0.me.spOf = none) ∧ inFlight t0 false < 64 :=
  ⟨⟨_, _, _, _, rfl, rfl, rfl, rfl, rfl, rfl, rfl, rfl⟩, by decide⟩

/-! ### A launch with a group table and a kernel, in memory -/

/-- Page tables that map the first GiB to itself, root 1 (R192); a group table at 0x10000 whose group 1 has two members at die scope (R24);
a kernel header at 0x20000 with one live-table entry at 0x21000 (R46). -/
def tMem : List Host.Cell :=
  [(0x2000, 1), (0x2008, 4), (0x4000, 1), (0x4008, 6), (0x6000, 63), (0x10045, 96), (0x10046, 2), (0x10048, 1),
  (0x1004a, 2), (0x2001c, 128), (0x20024, 64), (0x20029, 16), (0x2002a, 2), (0x2003a, 16)]

/-- An admitted launch of two workers on die 0. -/
def tLaunch : Launch := ⟨0, 0, 0, 0, 0, none, ⟨0x100000, 0, 0x21000, 64, 0, 0, 1⟩, tViews, 0x2000, 0, 0x30000, 0x10000, 2, 1, 1,
  [(0, 2), (0, 0), (0, 0), (0, 0)], [0, 0, 0, 0], 64, 512, 0, 0, false, [], false, false, [0, 0, 0, 0]⟩

/-- The package with that launch, a context 0 of some contents and some more bytes in memory. -/
def tRun (c : Ctx) (q : List Host.Cell) : State :=
  let s := tWith c
  { s with mem := tMem ++ q, hub := { s.hub with launches := [tLaunch], qtbase := 0x800000 } }

/-- A load that has not been performed. -/
def tOp : MemOp := ⟨.load (.scalar (.fmt .i64) .main 9), none, ⟨.f32, 0, 0, false, 0, false⟩,
  [⟨(List.range 8).map fun i => .mem (0x100000 + i), none⟩], .waiting [], 0x100000, .S, false, 0⟩

/-- A declared window at 0x200000 that no more than its core shares. -/
def tWin : Win := ⟨0x200000, 4096, 4096, .core, 0, 4096, false, (0, 0, 0), true, false, 0⟩

/-- An access to that window on its way. -/
def tWinOp : MemOp := { tOp with elems := [⟨[.win 0 0x200000 0 ⟨none, false, 0, [0x200000], 4096⟩], none⟩] }

/-- A line of an aperture page; a ZLINE whose lines are done, has failed, or is on its way. -/
def tAway (ops : List MemOp) : State :=
  { tWith { tCtx with mops := ops } with dies := [(0, { DieSt.reset with tlb := [{ tPage with attr := { tPage.attr with ap := true, pkg := 5 } }] })] }
theorem witness_LineOperations_away : (∃ ls, lineRange (tAway []) .store 0x100000 1 = .ok ls ∧
    (ls.map (·.2)).filter (·.loc.isPeer) ≠ [] ∧
    ∀ l ∈ ls, scopeOk (tAway []).me (BitVec.ofNat 64 l.1) (some .pod) l.2 = .ok ()) ∧
  [MemPhase.done [], .failed, .sent 3 []].all (fun p =>
    let m : MemOp := { tOp with kind := .zero, phase := p }
    (tAway [m]).me.openAtomic (tAway [m]).slot == some m) = true := by
  refine ⟨⟨_, rfl, by decide, ?_⟩, by decide⟩
  intro l h; simp only [List.mem_singleton] at h; subst h; rfl
theorem witness_ReleasesAndAcquires : t0.tooWide t0.cur .package = false ∧ (∀ m ∈ t0.me.mops, m.performed = true) ∧
  t0.mcastDone t0.cur = true ∧ t0.transient? t0.cur = false ∧ t0.copiesDone t0.cur = true := by decide
theorem witness_ReleasesAndAcquires_waits : (tWith { tCtx with mops := [tOp] }).tooWide 0 .package = false ∧
  ¬ ∀ m ∈ (tWith { tCtx with mops := [tOp] }).me.mops, m.isLoad = true → m.performed = true := by decide
theorem witness_ReleasesAndAcquires_wide : (tWith { tCtx with mops := [tWinOp], wins := [(0, tWin)] }).tooWide 0 .cluster = true := by decide
theorem witness_CountingFlags : t0.tooWide t0.cur .core = false ∧ t0.released t0.cur = true ∧
  Ident.within ⟨0, 0, 0, false⟩ .cluster t0.hub.pkgid t0.cur = true ∧ Ident.within ⟨0, 1, 0, false⟩ .die t0.hub.pkgid t0.cur = false ∧
  (t0.me.k.get 31).toNat < (1 : BitVec 16).toNat ∧ (0 : BitVec 16).toNat ≤ (t0.me.k.get 31).toNat ∧
  t0.tooWide t0.cur (t0.me.ktag.get 31) = false ∧ t0.me.mayAcquire = true := by decide
theorem witness_CountingFlags_order : let s := tWith { tCtx with mops := [tOp], wins := [(0, tWin)] }
  (0 : BitVec 16).toNat ≤ (s.me.k.get 31).toNat ∧ s.tooWide s.cur (s.me.ktag.get 31) = false ∧ s.me.mayAcquire = false := by decide
theorem witness_Barriers :
  let s := tRun { tCtx with bars := [⟨0, 0, 0⟩, ⟨1, 5, 4⟩] } []
  s.workerOf s.cur = some (tLaunch, 0) ∧ s.me.bars.find? (·.g == 0) = some ⟨0, 0, 0⟩ ∧ gExpect (s.group tLaunch 0) = 0 ∧
    s.me.bars.find? (·.g == 2) = none ∧ s.me.bars.find? (·.g == 1) = some ⟨1, 5, 4⟩ ∧ gExpect (s.group tLaunch 1) ≠ 0 ∧
    s.tooWide s.cur (gScope (s.group tLaunch 1)) = false ∧ s.released s.cur = true ∧ s.me.mayAcquire = true ∧ 2 ^ 15 ≤ ((4 : BitVec 16) - 5).toNat := by
  decide +kernel
theorem witness_Barriers_reached : ((5 : BitVec 16) - 5).toNat < 2 ^ 15 ∧ ((4 : BitVec 16) - 65533).toNat < 2 ^ 15 := by decide
theorem witness_Mailboxes : rdS t0 1 = .ok 0x100000 ∧ t0.tooWide t0.cur .cluster = false ∧ t0.mailCount 0 < 8 ∧ t0.released t0.cur = true ∧
  t0.isComm t0.cur = false := ⟨rfl, rfl, by decide, rfl, rfl⟩
theorem witness_Mailboxes_full : 8 ≤ (t0.setCluster 0 { t0.cluster 0 with mail := List.replicate 8 0 }).mailCount 0 := by decide
/-- The communication context of cluster 0, with an entry in the mailbox and without one. -/
theorem witness_Mailboxes_take :
  let s : State := { (t0.setCtx 7 { tCtx with occ := .comm }).setCluster 0 { t0.cluster 0 with mail := [9] } with cur := 7 }
  let e : State := { t0.setCtx 7 { tCtx with occ := .comm } with cur := 7 }
  s.isComm s.cur = true ∧ wrS s 9 = .ok () ∧ (s.cluster (clusterOf s.cur)).mail = [9] ∧ s.tooWide s.cur .cluster = false ∧
    s.me.mayAcquire = true ∧ e.isComm e.cur = true ∧ (e.cluster (clusterOf e.cur)).mail = [] := ⟨rfl, rfl, rfl, rfl, rfl, rfl, rfl⟩
/-- A window of 4,096 bytes in tile objects of 128, die scope, one granule of local copies; a length that is no multiple of the object. -/
theorem witness_WindowDeclarations :
  let s := tWith { tCtx with s := ((tCtx.s.set 7 0x200000).set 8 4096).set 9 (BitVec.ofNat 64 (2 ^ 22 + 3 * 2 ^ 10)) }
  rdS s 7 = .ok 0x200000 ∧ rdS s 8 = .ok 4096 ∧ rdS s 9 = .ok 0x400C00 ∧ winOk s 15 0x200000 4096 0x400C00 = true ∧
    winOk s 0 0x200000 100 0x400C00 = false := ⟨rfl, rfl, rfl, by decide, by decide⟩
theorem witness_WindowDeclarations_drop : Map.find (tWith { tCtx with wins := [(3, tWin)] }).me.wins 3 = some tWin ∧ tWin.dropping = false ∧
  Map.find t0.me.wins 0 = none := by decide

/-- A worker in array mode 2 with sixteen operand slots. -/
def tArr : Ctx := { tCtx with arrcfg := 0x500, mpitch := 2 }

/-- Its pair with slots 0 and 1 claimed and filled. -/
def tArrS (c : Ctx) (o : OSlot) : State := (tWith c).setPair 0 { PairSt.reset with oslot := [(0, o), (1, o)] }

/-- A claimed slot. -/
def tClaimed : OSlot := { OSlot.reset with claimed := true }

theorem witness_inArrayMode : (tArrS tArr tClaimed).me.sup = false ∧ (tArrS tArr tClaimed).me.amode = 2 ∧
  (tArrS tArr tClaimed).otherSolo (tArrS tArr tClaimed).cur = false ∧ (15 : Fin 16).val < (tArrS tArr tClaimed).me.omcnt ∧
  ((tArrS tArr tClaimed).pair (pairOf 0)).slot 0 = tClaimed := by decide
theorem witness_OperandSlots : t0.me.sup = false ∧ t0.me.amode ≠ 1 ∧ t0.me.amode ≠ 2 ∧ tSup.me.sup = true ∧ tClaimed.claimed = true ∧
  OSlot.reset.claimed = false ∧ OSlot.reset.fill = none ∧ (tArrS tArr tClaimed).reads 0 0 = false := by decide
theorem witness_OperandSlots_waits :
  ¬ (({ OSlot.reset with fill := some ⟨8, 0, 0, [], .bf16, 0, [], []⟩ } : OSlot).claimed = true ∨
    ({ OSlot.reset with fill := some ⟨8, 0, 0, [], .bf16, 0, [], []⟩ } : OSlot).fill = none ∧ t0.reads 0 0 = false) := by decide
theorem witness_OperandSlots_view : row8 (tArrS tArr tClaimed) (.imm 0) = .ok 0 ∧ viewUnit (tArrS tArr tClaimed) 4 1 0 = .ok (.bf16, 0) ∧
  (∃ bs, rdRows (tArrS tArr tClaimed) ((List.range 64).map fun k => (0 + k) % 512) = .ok bs) := ⟨rfl, rfl, ⟨_, rfl⟩⟩
/-- A tile of bf16 at the start of the scratchpad, all banks named. -/
def tTile : State := tArrS { tArr with
  lmap := (Vector.replicate 32 0).set 0 (BitVec.ofNat 64 (2 ^ 59 + 2 ^ 58 + 1 * 2 ^ 49 + 511 * 2 ^ 31)) } tClaimed
set_option maxRecDepth 16000 in
theorem witness_OperandSlots_scratchpad : ∃ g offs ls,
  let vas := (List.range 128).map fun r => (0x00FFFFFFC0000000 : Word) + BitVec.ofNat 64 (256 * pitchOf tTile * r)
  rdS tTile 2 = .ok 0x00FFFFFFC0000000 ∧ (0x00FFFFFFC0000000 : Word).toNat % 256 = 0 ∧ pitchOf tTile ≠ 0 ∧
    localGranule tTile .load 0x00FFFFFFC0000000 = .ok g ∧
    localRows tTile .load (fun b => b.fmt == g.2.attr.fmt && b.bl == g.2.attr.bl && b.sws == g.2.attr.sws && tileFmt b.fmt) 1 vas = .ok offs ∧
    coversBanks 0xFFFFFFFF offs = true ∧ takeBanks tTile 0xFFFFFFFF = .ok () ∧ fillScales tTile g.2.attr vas = .ok ls ∧
    tTile.me.owesSp (fun _ => true) (offs.flatMap fun o => span o 256) = false ∧ tTile.me.owesSp (fun _ => true) (ls.filterMap tTile.me.spOf) = false ∧
    (numbered ls).filter (fun p => (tTile.me.spOf p.2).isNone) = [] ∧ inFlight tTile true < 32 :=
  ⟨_, _, _, rfl, by decide, by decide, rfl, rfl, by decide +kernel, rfl, rfl, rfl, rfl, rfl, by decide⟩
theorem witness_ArrayOperations : (tArrS tArr tClaimed).me.busy = 0 ∧ ownsAcc (tArrS tArr tClaimed).me.amode 0 3 = true ∧
  tClaimed.fill = none ∧ tClaimed.fmt.memWidth = tClaimed.fmt.memWidth ∧ (tArrS tArr tClaimed).tokenServed 0 = true ∧
  (∀ p ∈ (tArrS tArr tClaimed).me.passes, p.acc ≠ 3) ∧ (tArrS { tArr with busy := 1 } tClaimed).me.busy ≠ 0 ∧
  ownsAcc 1 0 2 = false := by decide
theorem witness_ArrayOperations_view : viewUnit (tArrS tArr tClaimed) 5 2 0 = .ok (.f32, 0) ∧
  (∀ k < 128, wrRow (tArrS tArr tClaimed) ((0 + k) % 512) = .ok ()) ∧ row8 (tArrS tArr tClaimed) (.imm 0) = .ok 0 := by
  refine ⟨rfl, ?_, rfl⟩
  intro k _; rfl
set_option maxRecDepth 16000 in
theorem witness_ArrayOperations_scratchpad : ∃ offs, rdS (tArrS tArr tClaimed) 2 = .ok 0x00FFFFFFC0000000 ∧ 2 ≤ pitchOf (tArrS tArr tClaimed) ∧
  localRows (tArrS tArr tClaimed) .store (fun b => b.fmt == .f32) 2
    ((List.range 128).map fun r => (0x00FFFFFFC0000000 : Word) + BitVec.ofNat 64 (256 * 2 * r)) = .ok offs ∧
  coversBanks 0xFFFFFFFF offs = true ∧ takeBanks (tArrS tArr tClaimed) 0xFFFFFFFF = .ok () :=
  ⟨_, rfl, by decide, rfl, by decide +kernel, rfl⟩

/-! ### Queues, packets, launches -/

/-- Queue 0 at QTBASE 0x800000 (R211): one packet between HEAD and TAIL, a ring of 16 at 0x810000, root 1, weight 1, enabled; the packet
is a launch of two workers of the kernel at 0x20000 (R213). -/
def tHostCells : List Host.Cell :=
  [(0x800008, 2), (0x800009, 1), (0x80000e, 4), (0x80000f, 4), (0x800010, 1), (0x80001a, 129), (0x800029, 32),
  (0x810026, 129), (0x81002d, 1), (0x810034, 2), (0x810050, 7)]
/-- The rest of the packet: the address of the kernel header. -/
def tHostCells2 : List Host.Cell :=
  [(0x81007a, 2)]

/-- The package with that queue and packet; the other way, with a header address that is not aligned. -/
def tHost (bad : Bool) : State := tRun Ctx.reset (tHostCells ++ (if bad then [(0x810078, 8)] else []) ++ tHostCells2)

/-- A graph's two nodes at 0x30000, the first with an edge to the second; their kernel is that at 0x20000 (R222). -/
def tGraphCells : List Host.Cell :=
  [(0x3001e, 1), (0x30026, 129), (0x3002d, 1), (0x30034, 2), (0x30050, 7), (0x30059, 16), (0x3005a, 3), (0x3007a, 2),
  (0x3009c, 1), (0x300a6, 129), (0x300ad, 1), (0x300b4, 2), (0x300d0, 7), (0x300fa, 2), (0x31000, 1)]

/-- A replay of a graph of two nodes at 0x30000, the first with an edge to the second. -/
def tReplay : Replay := ⟨9, 0, 0, 0, 0, 0x2000, 0, 0, 0, 0x30000, 2, [0], [0], [], none⟩

/-- The package with that replay; the second node runs the first kernel. -/
def tGraph : State :=
  let s := tRun Ctx.reset tGraphCells
  { s with hub := { s.hub with replays := [tReplay], launches := [] } }

/-- A core whose rows 0 to 7 hold an object. -/
def tSum (o : SumObj) : State :=
  t0.setCore 0 { t0.core 0 with rows := (List.range 8).zip ((objRows o).map fun b => ⟨b, false⟩) }

theorem witness_Summaries : t0.me.sup = false ∧ t0.myCore.sumop = none ∧ predOn t0 none = true ∧ row8 t0 (.imm 0) = .ok 0 ∧
  sumUnit t0 6 0 = .ok 0 ∧ rdS t0 4 = .ok 5 ∧ (∀ r ∈ objSpan 0, wrRow t0 r = .ok ()) ∧ sumRow t0 1 127 holdsF32 = .ok (.f32, 127) ∧
  (∃ bs, rdRowsEng t0 (objSpan 0 ++ [127]) = .ok (some bs)) ∧ kindOf 0 = some .distinct := by
  refine ⟨rfl, rfl, rfl, rfl, rfl, rfl, ?_, rfl, ⟨_, rfl⟩, by decide⟩
  intro r h; simp only [objSpan, List.mem_map, List.mem_range] at h; obtain ⟨n, -, rfl⟩ := h; rfl
theorem witness_Summaries_occupied : tSup.me.sup = true ∧
  (t0.setCore 0 { t0.core 0 with sumop := some ⟨0, 1, [], 0⟩ }).myCore.sumop ≠ none := by decide
theorem witness_Summaries_quantile : kindOf (Quant.fresh 1).obj = some .quantile ∧ (Quant.of (Quant.fresh 1).obj).wellFormed = true := by
  decide +kernel
theorem witness_Summaries_query :
  let q := ((Quant.of (Quant.fresh 1).obj).row (List.replicate 128 0x3F800000)).obj
  ((Quant.of q).query 0x3F000000).1 = some 0x3F800000 := by decide +kernel
theorem witness_Summaries_heavy : kindOf (Heavy.mk 0 (List.replicate 252 HSlot.empty)).obj = some .heavy ∧
  mergeObjs 0 (Heavy.mk 0 (List.replicate 252 HSlot.empty)).obj = none ∧ mergeObjs 0 0 ≠ none := by decide +kernel
theorem witness_Summaries_object : ∃ bs, rdRowsEng (tSum (Quant.fresh 1).obj) (objSpan 0) = .ok (some bs) ∧ bs.length = 8 := ⟨_, rfl, rfl⟩
theorem witness_Summaries_top : (List.range 8).mapM (fun j => sumRow t0 1 (120 + j) (fun f => f.viewWidth == 32)) =
  .ok ((List.range 8).map fun j => (.f32, 120 + j)) := rfl

/-! ### Copies -/

/-- Notifications of nothing. -/
def tNt : Notif := ⟨false, false, false, 0, none⟩

theorem witness_CopyCommands : rdS t0 1 = .ok 0x100000 ∧ rdS t0 5 = .ok 0x100001 ∧ rdS t0 4 = .ok 5 ∧ rdS t0 (4 + 1) = .ok 0x100001 ∧
  freeEntry (t0.myCore.queue (engineOf t0.slot)) = some 0 ∧ groupUsed t0 tNt = .ok () ∧ (∀ m ∈ t0.me.mops, m.performed = true) := by
  refine ⟨rfl, rfl, rfl, rfl, by decide, rfl, by decide⟩
theorem witness_CopyCommands_banks : ∃ n,
  let v := t0.sweep 0
  copyCmd v .cpy 0 0x100000 0x100001 5 0 tNt none (.sp 0) = .ok n ∧ v.storesBefore = false ∧
  (n.probe v []).rangesOk v = .ok () ∧ takeBanks v ((n.probe v []).allBanks v) = .ok () := ⟨_, rfl, rfl, rfl, rfl⟩
/-- Sixteen commands in a queue. -/
theorem witness_CopyCommands_full :
  freeEntry ((List.range 16).map fun i => newCmd t0 .cpy i 0 0 0 0 tNt none (.sp 0)) = none := by decide
/-- A multicast window that holds 5 elements of 4 bytes from its base. -/
theorem witness_CopyCommands_multicast : ∃ n,
  let s := tWith { tCtx with wins := [(0, { tWin with mcast := true, base := 0x100000 })] }
  copyCmd s .cmcast 0 0x100000 0x104000 5 0 tNt none (.sp 0) = .ok n ∧ inMcast n = true := ⟨_, rfl, by decide⟩
/-- The communication context of cluster 0 with a sending entry at 0x100000, and a receiving one, a malformed one. -/
def tChan (dir : Bool) (depth : Nat) : State :=
  let e := (if dir then 2 ^ 287 else 0) + depth * 2 ^ 288 + 127 * 2 ^ 300 + 9 * 2 ^ 296
  let s := (tWith Ctx.reset).setCtx 7 { tCtx with occ := .comm, chtab := 0x100000 }
  { s with cur := 7, mem := Memory.writeAll [] (cellsAt 0x100000 (leBytes 64 e)) }
theorem witness_CopyCommands_channels : t0.isComm t0.cur = false ∧ (tChan false 1).isComm (tChan false 1).cur = true ∧
  [(false, 1, true, false), (true, 1, true, true), (true, 0, false, true)].all (fun q =>
    let c := (((tChan q.1 q.2.1).sweep 7).enterAll 7 [.mem 0x100000]).chan 7 (.mem 0x100000)
    c.ok == q.2.2.1 && c.dir == q.2.2.2) = true := by decide +kernel
set_option maxRecDepth 8000 in
theorem witness_CopyCommands_entry : ∃ xs,
  let w := (tChan false 1).sweep 7
  let ls : List Loc := xs.map (·.loc)
  xlateN (tChan false 1) .load ((tChan false 1).me.chtab + BitVec.ofNat 64 (64 * (0 : Fin 256).val)) 64 = .ok xs ∧
  (tChan false 1).chanPlace ls = some (.mem 0x100000) ∧ w.storesBefore = false ∧ w.storesTo ls = false ∧ w.entryHome 7 ls = none ∧
  (w.enterAll 7 [.mem 0x100000]).poisonOf ls = none ∧ (∀ l ∈ ls, w.locInStack l = true) ∧
  ({ w.enterAll 7 [.mem 0x100000] with poison := [0x2000] } : State).poisonOf ls = some 0x100000 :=
  ⟨_, rfl, rfl, rfl, rfl, rfl, rfl, by decide, rfl⟩

/-! ### Queues, admission, graphs -/

theorem witness_DoorbellsAndCompletions : (tHost false).hub.boot = .done ∧ field ((tHost false).qdesc 0) 69 66 = 0 ∧
  ((16 : BitVec 32).toNat + 2 ^ 32 - qHead ((tHost false).qdesc 0)) % 2 ^ 32 = 2 ^ qLog ((tHost false).qdesc 0) := by decide +kernel
theorem witness_DoorbellsAndCompletions_held :
  let c : Completion := ⟨0, 7, 0, 0, 0, 0⟩
  [({ c with q := 1 } : Completion), c] = [{ c with q := 1 }] ++ c :: [] ∧ (∀ b ∈ [({ c with q := 1 } : Completion)], b.q ≠ c.q) ∧
  [(⟨3, 10⟩ : Coal)].find? (·.q == 3) = some ⟨3, 10⟩ := by decide
theorem witness_DoorbellsAndCompletions_launch : (tRun Ctx.reset []).launch 0 = some tLaunch ∧ (tRun Ctx.reset []).launchOver tLaunch = false ∧
  (tRun Ctx.reset []).launchOver { tLaunch with nextIx := [2, 0, 0, 0] } = true ∧ tLaunch.replay = none := by decide +kernel
/-- The check of the packet at the head of queue 0. -/
def tCheck (s : State) : Except Nat Launch :=
  let v := s.qdesc 0
  let k := s.headPacket v
  let u := s.setQ 0 191 160 (qHead v + 1)
  checkTask u k k.low false (qPrio v) (BitVec.ofNat 64 (field v 383 320)) fun c vw =>
    k.launch u.hub.admitted 0 (qHead v) none c vw (BitVec.ofNat 64 (field v 383 320)) (BitVec.ofNat 64 (field v 447 384)) (BitVec.ofNat 64 k.args)

theorem witness_AdmissionAndPlacement :
  (tHost false).queues.find? (fun q => qOn ((tHost false).qdesc q) && qBad ((tHost false).qdesc q)) = none ∧
  (tHost false).hub.holding < 64 ∧ (tHost false).chooseQueue = some (0, 0) ∧
  ((tHost false).headPacket ((tHost false).qdesc 0)).typ = 0 := by decide +kernel
theorem witness_AdmissionAndPlacement_passes : (tCheck (tHost false)).toBool = true := by decide +kernel
theorem witness_AdmissionAndPlacement_fails : (tHost true).chooseQueue = some (0, 0) ∧ (tCheck (tHost true)).toBool = false := by
  decide +kernel
theorem witness_AdmissionAndPlacement_held :
  64 ≤ ({ Hub.reset with heldc := List.replicate 64 ⟨0, 7, 0, 0, 0, 0⟩ } : Hub).holding := by decide
theorem witness_AdmissionAndPlacement_place :
  let s := tRun Ctx.reset []
  s.dispatch (dieOf 0) = some (.fresh 0 tLaunch.id) ∧ s.launch tLaunch.id = some tLaunch ∧ tLaunch.cohort = false ∧
  (s.fitOf tLaunch 0).isSome = true := by decide +kernel
theorem witness_AdmissionAndPlacement_retire :
  let s := tRun { tCtx with run := .retiring, iss := none } []
  let t : State := { s with hub := { s.hub with launches := [{ tLaunch with nextIx := [2, 0, 0, 0] }] } }
  s.me.run = .retiring ∧ (s.pair (pairOf s.cur)).frozen = none ∧ s.workerOf s.cur = some (tLaunch, 0) ∧ s.me.impq = [] ∧
  s.drained s.cur = true ∧ s.me.wins = [] ∧ t.workerOf t.cur = some ({ tLaunch with nextIx := [2, 0, 0, 0] }, 0) ∧
  ({ tLaunch with nextIx := [2, 0, 0, 0] } : Launch).hasNext (dieOf t.cur) = false ∧
  (tRun { tCtx with run := .retiring } []).drained 0 = false ∧
  (tRun { tCtx with run := .retiring, impq := [⟨14, 0, .c0, 0, 0, 0, false⟩] } []).me.impq ≠ [] := by decide +kernel
theorem witness_AdmissionAndPlacement_edges : tGraph.hub.replays.find? (·.id == tReplay.id) = some tReplay ∧ 0 ∈ tReplay.ended ∧
  (0, 0) ∉ tReplay.edges ∧ (tGraph.node 0x2000 0x30000 0).isSome = true ∧ tGraph.edgesOf 0x2000 0x30000 0 = some [(1, [])] := by
  decide +kernel
/-- The replay after its edge, its package, the check of its second node. -/
def tEdged : Replay := { tReplay with edges := [(0, 0)] }
def tGraph2 : State := { tGraph with hub := { tGraph.hub with replays := [tEdged] } }
def tNodeCheck : Option Bool := (tGraph2.node 0x2000 0x30000 1).map fun tk =>
  (checkTask tGraph2 { tk.1 with typ := 0 } (field tk.1.low 281 256 + field tk.1.low 223 0) true tEdged.prio 0x2000
    (fun k vw => tk.1.launch tGraph2.hub.admitted tEdged.q tEdged.pktidx (some (tEdged.id, 1)) k vw 0x2000 0
      (tEdged.pb + BitVec.ofNat 64 tk.1.args))).toBool

theorem witness_AdmissionAndPlacement_node : tGraph2.hub.holding < 64 ∧ tGraph2.startable tEdged 1 = true ∧
  (∀ m < 1, tGraph2.startable tEdged m = false) := by decide +kernel
theorem witness_AdmissionAndPlacement_nodePasses : tNodeCheck = some true := by decide +kernel

/-! ### Preemption -/

/-- A launch of a higher priority that has waited 20 µs on die 0. -/
def tUrgent : Launch := { tLaunch with id := 1, prio := 2, waited := [50000, 0, 0, 0] }

/-- It beside the first launch, whose worker runs in context 0. -/
def tTwo : State := let s := tRun tCtx []; { s with hub := { s.hub with launches := [tLaunch, tUrgent] } }

theorem witness_Preemption : tTwo.launch tUrgent.id = some tUrgent ∧ tTwo.waitedOut tUrgent 0 = true ∧ 0 < tTwo.hub.grace ∧
  tTwo.pickVictims tUrgent 0 (fun _ => false) = some [0] ∧ field (0x400000 : BitVec 32).toNat 15 0 = 0 := by decide +kernel
theorem witness_Preemption_grace : (tRun { tCtx with grace := some 0 } []).kilnRefuses 0 = false ∧
  (tRun { tCtx with grace := some 0 } []).me.run = .running := by decide
/-- A worker stopped at save point 0. -/
def tSaving : State := tRun { tCtx with run := .saving, iss := none, savept := some 0, ptroot := 0x2000 } []
theorem witness_Preemption_save : tSaving.drained 0 = true ∧ tSaving.cohortStill 0 = true ∧ tSaving.me.wins = [] ∧
  tSaving.workerOf 0 = some (tLaunch, 0) ∧ tSaving.liveEntry tSaving.me.ptroot tLaunch.code 0 = some ⟨[], [], 0, 0⟩ := by decide +kernel
/-- Its record among the saved workers. -/
def tRecord : LeanRec := tSaving.leanRec 0 ⟨[], [], 0, 0⟩
def tSaved : State :=
  let s := tRun Ctx.reset []
  { s with hub := { s.hub with saved := [⟨0, 0, some tRecord, none, none, []⟩] } }
theorem witness_Preemption_restore : tSaved.dispatch 0 = some (.lean 0 0) ∧ tSaved.launch 0 = some tLaunch ∧
  (tSaved.fitOf tLaunch 0).isSome = true := by decide +kernel
/-- Pair 0 stopped by the kiln with nothing held. -/
def tFrozen : State := (tRun tCtx []).setPair 0 { PairSt.reset with frozen := some ⟨0, [], [], [], false⟩ }
theorem witness_Preemption_seal : tFrozen.sealable 0 = true ∧ (tFrozen.core 0).wcopy = [] ∧ (tFrozen.core 1).wcopy = [] := by decide
/-- An image of pair 0, and a response for it. -/
def tImage (final : Bool) : Image := ⟨0, 0, [], [], PairSt.reset, [], [], [], 0, if final then [] else [3], final, false, []⟩
def tPkt (t : PType) (cls : Nat) (ext : Nat) (via : Option (Fin 16)) : Packet :=
  ⟨(⟨0, 0, 0, 0, cls, 0, 0, t.code, 0x100000, 3, ext⟩ : Hdr).bits, [], via⟩
theorem witness_Preemption_response :
  let h := Hdr.of (tPkt .data 1 0 none).hdr
  [((5 : Nat), tImage false)].find? (fun m => m.2.pair == 0 && !m.2.final) = some (5, tImage false) ∧ h.dpkg = 0 ∧ h.cls = 1 ∧
  (tImage false).awaited.contains h.tag = true := by decide +kernel
theorem witness_Preemption_image :
  let r := tRun Ctx.reset []
  let s : State := { r with hub := { r.hub with saved := [⟨0, 0, none, some 5, none, []⟩], images := [(5, tImage true)] } }
  s.dispatch 0 = some (.image 0 5) ∧ Map.find s.hub.images 5 = some (tImage true) ∧ ∀ l ∈ s.hub.launches, l.cohort = false := by
  decide +kernel

/-! ### Small units, arrays, accesses -/

theorem witness_SmallUnits : [0, 1].filter (coreOf · == (0 : CoreId).val) = [0, 1] ∧
  (t0.core 0).gated 8 = false ∧ Map.find (t0.core 0).gwake 8 = none ∧ (t0.pair 0).frozen = none ∧ 8 ∉ (t0.core 0).gret := by decide
theorem witness_SmallUnits_wake : Map.find ({ CoreSt.reset with gwake := [(8, 0)] } : CoreSt).gwake 8 = some 0 ∧
  (t0.setDie 0 { DieSt.reset with reqs := [⟨1, .wake 0 8, true, 0, 0⟩] }).wakeServed 0 8 = true := by decide
theorem witness_SmallUnits_tokens :
  let r : TokReq := ⟨1, .pair 0, false, 0, 0⟩
  [({ r with served := true } : TokReq), r] = [{ r with served := true }] ++ r :: [] ∧ field (0x41388 : Word).toNat 15 0 ≠ 0 := by decide
theorem witness_SmallUnits_multicast :
  let m : McStore := ⟨0, tCtx.launchKey, 0, 2, .none, [(0, 1)], none, []⟩
  let w := { tWin with mcast := true }
  let s := (tWith { tCtx with wins := [(0, w)] }).setDie 0 { DieSt.reset with mcast := [m] }
  (s.die 0).mcast[0]? = some m ∧ (∀ o ∈ (s.die 0).mcast, o.left = 0 → coreOf o.ctx ≤ coreOf m.ctx) ∧ s.mcMembers 0 m.launch m.wn = [(0, w)] := by
  decide +kernel
theorem witness_SmallUnits_walk :
  let w : Walk := ⟨0x2000, 0, 0x100000, [], [], 0⟩
  let s := (tRun tCtx []).setDie 0 { DieSt.reset with walks := [w] }
  (s.die 0).walks[0]? = some w ∧ (walkFrom s w.asid w.va 4 w.root).toBool = true ∧ (walkFrom s 0 0x100000 4 0x600000).toBool = false := by
  decide +kernel
theorem witness_ArrayEvents :
  let f : Fill := ⟨1, 0, 0, [0], .bf16, 0, [0], []⟩
  let s := tArrS tArr { tClaimed with fill := some f }
  ((s.pair 0).slot 0).fill = some f ∧ f.src.map (tileRow (s.core f.core).sp) = f.rows ∧ (s.pair 0).frozen = none ∧
  s.scalesOwed 0 0 = false := by decide +kernel
theorem witness_ArrayEvents_scales :
  let m : MemOp := { tOp with kind := .load (.scales 0 [0]) }
  (tArrS { tArr with mops := [m] } tClaimed).scalesOwed 0 0 = true := by decide
/-- A pass with its first beat released and not executed. -/
def tPass : Pass := ⟨3, 0, 1, false, [], .ne, 1, 4, 1, 0, 4, 0, 0⟩
theorem witness_ArrayEvents_beat : (tArrS { tArr with passes := [tPass] } tClaimed).me.nextBeat = some (0, tPass) ∧
  (let u := tWith { tCtx with arrcfg := 0x200 }; ({ u with clock := 1 } : State).arrayCycle 0 = false) := by decide +kernel
theorem witness_ArrayEvents_cycle : (tArrS { tArr with passes := [tPass], adv := true } tClaimed).arrayCycle 0 = true := by decide +kernel
theorem witness_ArrayEvents_drain :
  let d : Drain := ⟨3, .rows 0, 4, 600, List.replicate 128 0, 126, 0, 0, 0⟩
  ([d] : List Drain).find? Drain.due = some d := by decide +kernel
theorem witness_ArrayEvents_summary : (t0.setCore 0 { t0.core 0 with sumop := some ⟨0, 1, [], 0⟩ }).myCore.sumop = some ⟨0, 1, [], 0⟩ ∧
  (t0.ctx 0).sup = false ∧ (tSup.ctx 0).sup = true ∧ (t0.ctx 0).adv = false ∧ ((tWith { tCtx with adv := true }).ctx 0).adv = true ∧
  (t0.pair 0).frozen = none := by decide
theorem witness_AccessesAndCopies : let s := tWith { tCtx with mops := [tOp] }
  s.me.mops[0]? = some tOp ∧ tOp.phase = .waiting [] ∧ s.opReady s.me.mops 0 tOp = true ∧ s.sourcesOwed s.cur tOp = false ∧
  s.poisonedBy tOp = none ∧ tOp.locs.all s.locInStack = true ∧ tOp.remote = false ∧ tOp.objects = [] ∧
  ({ s with poison := [0x2000] } : State).poisonedBy tOp = some 0x100000 ∧
  t0.opReady [tOp, tOp] 1 { tOp with kind := .store (List.replicate 8 1) } = false := by decide +kernel
/-- A peer's byte next, a byte past the capacity of its stack, a block to rewrite; a store behind a copy that has its sources to read. -/
theorem witness_AccessesAndCopies_kinds :
  let m := { tOp with elems := [⟨[.peer 5 0x1000], none⟩] }
  let o := { tOp with elems := [⟨[.mem (2 ^ 39)], none⟩] }
  let b := { tOp with kind := .tapStore .t8 .f32 .ne [⟨.mem 0x100100, [(.mem 0x100000, some 0)], false⟩] }
  let w := { m with kind := .store [1] }
  let c := { newCmd t0 .cpy 0 0x100000 0x104000 5 0 tNt none (.sp 0) with afar := true }
  t0.opReady [m] 0 m = true ∧ t0.poisonedBy m = none ∧ m.locs.all t0.locInStack = true ∧ m.locs.drop 0 = [.peer 5 0x1000] ∧
  t0.opReady [o] 0 o = true ∧ t0.poisonedBy o = none ∧ o.locs.all t0.locInStack = false ∧
  t0.opReady [b] 0 b = true ∧ t0.poisonedBy b = none ∧ b.locs.all t0.locInStack = true ∧
  (t0.setQueue 0 false [c]).sourcesOwed 0 { w with born := c.came + 1 } = true := by decide +kernel
theorem witness_AccessesAndCopies_land :
  let m := { tOp with phase := .done (List.replicate 8 1) }
  (m.result (List.replicate 8 1)).isSome = true ∧ (tOp.result (List.replicate tOp.locs.length 0)).isSome = true ∧
  (m.remote && m.isStore) = false ∧ ({ m with kind := .store (List.replicate 8 1) } : MemOp).isLoad = false ∧ (t0.pair (pairOf t0.cur)).frozen = none ∧
  m.pendRow.elim false t0.myCore.retained = false ∧ MemKind.store (List.replicate 8 1) ≠ .zero := by decide +kernel
theorem witness_AccessesAndCopies_line : Memory.wf tMem = true ∧ Map.find [((64 : Nat), (⟨1, 1, false⟩ : Line))] 64 = some ⟨1, 1, false⟩ := ⟨by decide, rfl⟩
/-- The head of the queue of engine 0: queued, running with its bytes to come or all moved, landed, faulted. -/
def tHead (ph : CmdPhase) (done : Nat) : State :=
  t0.setQueue 0 false [{ newCmd t0 .cpy 0 0x100000 0x104000 5 0 tNt none (.sp 0) with phase := ph, done := done }]
theorem witness_AccessesAndCopies_copy : [(CmdPhase.queued, 0), (.running, 0), (.running, 5), (.landed, 5), (.faulted, 2)].all (fun q =>
  ((tHead q.1 q.2).headCmd 0 false).map (fun k => (k.phase, k.done, k.total, k.kind, k.tag, k.afar)) == some (q.1, q.2, 5, .cpy, none, false) &&
  ((tHead q.1 q.2).pair 0).frozen == none) = true := by decide +kernel

/-! ### Messages, the fabric, the platform -/

/-- The package with messages and packets on their way. -/
def tNet (msgs : List Msg) (inq : List Packet) : State :=
  let s := tRun { tCtx with bars := [⟨1, 5, 4⟩] } []
  { s with hub := { s.hub with msgs := msgs, inq := inq } }

/-- One message of each kind. -/
def tMsgs : State := tNet [.arrival 0 1, .signal 0 1 5, .flag 0 3 1 .core, .chanArrival 7 0] []
theorem witness_MessagesArrive : [Msg.arrival 0 1, .signal 0 1 5, .flag 0 3 1 .core, .chanArrival 7 0, .chanCredit 7 0].all (fun m =>
    (tNet [m] []).message 0 == some m) = true ∧ (List.range 3).map tMsgs.message = [some (.arrival 0 1), some (.signal 0 1 5), none] ∧
  tMsgs.launch 0 = some tLaunch ∧ (tMsgs.pair 0).frozen = none ∧ tMsgs.exists? 0 = true ∧ (tMsgs.ctx 0).occ = .worker 0 0 := by
  decide +kernel
/-- Words of a link FIFO and a credit that came through link 2 for cluster 0. -/
theorem witness_MessagesArrive_words :
  let p := tPkt .words 0 (2 * 2 ^ 8) (some 2)
  let q := tPkt .words 0 (5 * 2 ^ 16) (some 2)
  (tNet [] [p]).arrived 0 .words = some (Hdr.of p.hdr, p) ∧ (tNet [] [p]).commAt (Hdr.of p.hdr).dloc = some 7 ∧
  field (Hdr.of p.hdr).ext 15 8 = 2 ∧ (tNet [] [q]).arrived 0 .words = some (Hdr.of q.hdr, q) ∧ field (Hdr.of q.hdr).ext 15 8 = 0 := by
  decide +kernel
/-- A tile object whose home is die 0, a copy of it in the core of context 0, and a message of a kind. -/
def tObj : WObj := ⟨some 0, false, 0, [0x200000], 4096⟩
def tMsg (k : WKind) : WMsg := ⟨k, tObj, 0, 2, none, 0, false, false, .core⟩
def tWnet (k : WKind) (st : WState) : State :=
  let s := tWith { tCtx with wins := [(0, tWin)] }
  ({ s with hub := { s.hub with wnet := [tMsg k] } } : State).setCore 0 { CoreSt.reset with wcopy := [⟨0, 0, 0x200000, tObj, st, 4096, 0, false, false, false, 0⟩] }
theorem witness_WindowMessages : [WKind.read, .rfo, .upgrade, .ack, .data, .notBusy, .wback, .homeAck, .inv].all (fun k =>
  (tWnet k .S).wmsg 0 [k] == some (tMsg k)) = true := by decide +kernel
theorem witness_WindowMessages_copy : [WState.S, .E, .O, .M, .IS, .SM, .OM, .MI].all (fun st =>
  (((tWnet .inv st).wtake 0).copyObj 0 tObj).map (·.st) == some st) = true := by decide +kernel
theorem witness_WindowMessages_forward : (tWnet .fwdOwn .M).wmsg 0 [.fwdRead, .fwdOwn] = some (tMsg .fwdOwn) ∧
  ((tWnet .inv .S).directory 3).1.length < ((tWnet .inv .S).directory 3).2 := by decide +kernel
/-- A directory of die 0 whose entries are full: all but the first are busy, and that one is recalled; and one all of whose entries are. -/
def tBusy : DirEntry := ⟨tObj, [0], none, true, [], [], 5, false, [], none⟩
def tRest (b : Bool) : DirEntry := ⟨{ tObj with tas := [0x300000] }, [1], none, b, [], [], 3, false, [], none⟩
def tFull (b : Bool) : State := t0.setDie 0 { DieSt.reset with dir := tRest b :: List.replicate 131072 tBusy }
theorem tFull_filter (b : Bool) : ((tFull b).directory 0).1.filter (tFull b).mayRecall = if b then [] else [tRest false] := by
  have h1 : (tFull b).mayRecall tBusy = false := rfl
  have h2 : ((tFull b).directory 0).1 = tRest b :: List.replicate 131072 tBusy := rfl
  rw [h2, List.filter_cons, List.filter_replicate, h1]
  cases b <;> rfl
theorem tFull_length (b : Bool) : ((tFull b).directory 0).2 ≤ ((tFull b).directory 0).1.length := by
  have h (n : Nat) : n ≤ (tRest b :: List.replicate n tBusy).length := by simp
  exact h 131072
theorem witness_WindowMessages_recall : ((tFull false).directory 0).2 ≤ ((tFull false).directory 0).1.length ∧
    (∃ e, oldestEntry (((tFull false).directory 0).1.filter (tFull false).mayRecall) = some e) ∧
    ((tFull true).directory 0).2 ≤ ((tFull true).directory 0).1.length ∧
    oldestEntry (((tFull true).directory 0).1.filter (tFull true).mayRecall) = none := by
  rw [tFull_filter, tFull_filter]
  exact ⟨tFull_length _, ⟨_, rfl⟩, tFull_length _, rfl⟩
theorem witness_FabricPackets : [PType.read, .write, .atomic].all (fun t => let p := tPkt t 0 128 none;
  (tNet [] [p]).arrived 0 t == some (Hdr.of p.hdr, p)) = true ∧ [PType.data, .answer, .ack].all (fun t => let p := tPkt t 1 0 none;
  (tNet [] [p]).arrived 0 t == some (Hdr.of p.hdr, p)) = true := by decide +kernel
/-- With an exported page at the address, and without one. -/
def tExport (on : Bool) : State :=
  let s := tNet [] []
  { s with hub := { s.hub with xtlb := if on then [{ tPage with pin := true }] else [] } }
theorem witness_FabricPackets_target : let h := Hdr.of (tPkt .read 0 128 none).hdr
  ((tExport true).target h false 128).toBool = true ∧ ((tExport true).target h true 128).toBool = true ∧
  ((tExport false).target h false 128).toBool = false ∧ h.writeKind = 0 ∧ (Hdr.of (tPkt .write 0 (2 ^ 33) none).hdr).writeKind = 2 ∧
  (Hdr.of (tPkt .write 0 (2 ^ 32) none).hdr).writeKind = 1 ∧ (∀ a : Nat, a ∉ (tExport true).poison) := by
  refine ⟨by decide +kernel, by decide +kernel, by decide +kernel, by decide +kernel, by decide +kernel, by decide +kernel, ?_⟩
  intro a h; cases h
theorem witness_FabricPackets_atomic : atomRefused atomcap .add .n64 = none ∧ (atomRefused atomcap .add .t8).isSome = true := by decide
theorem witness_FabricPackets_leave : (tPkt .read 0 128 none).via = none ∧ sameWay [] (tPkt .read 0 128 none) = false ∧
  (Hdr.of (tPkt .read 0 128 none).hdr).dpkg ≠ 1 ∧ (tPkt .read 0 128 (some 3)).via = some 3 ∧
  (0x80000 : BitVec 32).toNat % 2 ^ 19 = 0 ∧ (3071 : Fin 4096).val < 3072 ∧ t0.settledTo 5 = true ∧ t0.hub.boot = .done := by
  decide +kernel
theorem witness_LinkStates : t0.link 0 = Link.reset ∧ Link.reset.st = .down ∧ Link.reset.crc ≤ 64 ∧ Link.reset.replays < 8 ∧
  t0.hub.boot = .done ∧
  (let r : RetryFlit := ⟨5, 0, ⟨0, [], none⟩, 0, 8⟩
   let k : Link := { Link.reset with st := .active, crcs := List.replicate 65 0, retry := [{ r with seq := 4 }, r] }
   ((t0.setLink 15 k).link 15 = k) ∧ 64 < k.crc ∧ 8 ≤ k.replays ∧ k.place 5 = some 1 ∧ k.retry = [{ r with seq := 4 }] ++ r :: [] ∧
    (∀ q ∈ [({ r with seq := 4 } : RetryFlit)], q.seq ≠ r.seq)) ∧
  (⟨0, true, none, some 5⟩ : LinkFlit).ack = some 5 ∧ (⟨0, true, some 0, none⟩ : LinkFlit).flit = some 0 ∧
  (⟨0, false, none, none⟩ : LinkFlit).good = false ∧
  ((t0.setLink 15 { Link.reset with st := .train }).link 15).st = .train ∧
  ((t0.setLink 15 { Link.reset with st := .handshake }).link 15).st = .handshake ∧ (⟨1, 0, false⟩ : LinkView) ≠ Link.reset.view := by decide +kernel
/-- Entry 5 of the reduction table: group 1, one local member, 8 bytes, at the root; and under link 3. -/
def tRed (parent : Nat) (ranks : List Nat) : RedEntry :=
  { RedEntry.reset with bits := BitVec.ofNat 128 (1 + 2 ^ 36 + parent * 2 ^ 59 + 2 ^ 80), ranks := ranks }
def tTree (e : RedEntry) (seq : Nat) (t : PType) (via : Option (Fin 16)) : State :=
  (tNet [] [tPkt t 0 (5 * 2 ^ 22 + seq * 2 ^ 32 + 8 * 2 ^ 64) via]).setRed 5 e
theorem witness_ReductionTree : [0, 1, 2, 2 ^ 32 - 1024, 2 ^ 32 - 1023, 2 ^ 32 - 1].all (fun q =>
  (tTree (tRed 16 [0]) q .contrib none).arrived 0 .contrib == some (Hdr.of (tPkt .contrib 0 (5 * 2 ^ 22 + q * 2 ^ 32 + 8 * 2 ^ 64) none).hdr,
    tPkt .contrib 0 (5 * 2 ^ 22 + q * 2 ^ 32 + 8 * 2 ^ 64) none)) = true ∧ (tRed 16 [0]).ok = true ∧ (tRed 16 [0]).len = 8 ∧
  (tTree (tRed 16 [0]) 1 .contrib none).redRank (tRed 16 [0]) (ctxOfLoc 0) false = some 0 ∧ (tRed 16 [0]).parts = [] ∧ 0 ∈ (tRed 16 [0]).ranks := by
  decide +kernel
theorem witness_ReductionTree_result : (tTree (tRed 3 [0]) 1 .result (some 3)).arrived 0 .result =
    some (Hdr.of (tPkt .result 0 (5 * 2 ^ 22 + 2 ^ 32 + 8 * 2 ^ 64) (some 3)).hdr, tPkt .result 0 (5 * 2 ^ 22 + 2 ^ 32 + 8 * 2 ^ 64) (some 3)) ∧
  (tRed 3 [0]).parent = some 3 ∧ (tRed 3 [0]).full = true ∧
  (tRed 3 [0]).agrees (Contrib.of (5 * 2 ^ 22 + 2 ^ 32 + 8 * 2 ^ 64)) = true ∧ 1 = ((tRed 3 [0]).round + 1) % 2 ^ 32 ∧
  t0.hub.boot = .done ∧ (t0.red 1023).waiters = [] ∧ (1 : BitVec 128).getLsbD 0 = true := by decide +kernel
theorem witness_Platform : State.reset.hub.boot = .rom ∧ State.reset.hub.boot ≠ .done ∧ t0.hub.boot = .done ∧
  State.reset.hub.fuse.board.toNat / 2 ^ 24 = 0 ∧ t0.queues.any (fun q => field (t0.qdesc q) 65 65 == 1) = false ∧ t0.ctxs.any (fun p => p.2.commRuns) = false := by decide +kernel
theorem witness_Platform_comm : let s := tRun Ctx.reset []
  (({ s with hub := { s.hub with commpt := 0x2000, commkh := 0x20000 } } : State).header 0x2000 (0x20000 : Word).toNat).isSome = true := by
  decide +kernel
theorem witness_Platform_trace : (0x0100000000000001 : Word).toNat / 2 ^ 56 ≠ 0 ∧ (0x00FFFFFFFFFFFF01 : Word).toNat / 2 ^ 56 = 0 ∧
  (0x00FFFFFFFFFFFF01 : Word).toNat / 2 % 2 ^ 7 = 0 ∧ (t0.die 3).trcctl.toNat % 2 = 0 ∧ (0x00FFFFFFFFFFFF01 : Word).toNat % 2 = 1 ∧
  0 + 2 ^ 12 ≤ 2 ^ 36 ∧ t0.inStack 0 = true ∧ t0.inStack (2 ^ 39 - 1) = true ∧ t0.inStack (2 ^ 39) = false := by decide +kernel
theorem witness_Debugger : let s := tWith { tCtx with dbgctl := 1, lat := [⟨.pred 3 true, 2, 0, .S, 0, 0⟩] }
  s.exists? 0 = true ∧ (s.ctx 0).dbgctl.getLsbD 0 = true ∧ (∀ m ∈ (s.ctx 0).mops, m.pendS ≠ some ((s.ctx 0).bankOf 63, 63)) ∧
  (s.ctx 0).lat[0]? = some ⟨.pred 3 true, 2, 0, .S, 0, 0⟩ ∧ (t0.ctx 0).dbgctl.getLsbD 0 = false := by decide +kernel
/-- A load pending on s9, a row of the partition and one past it, an entry parked by a trap. -/
theorem witness_Debugger_edits : let s := tWith { tCtx with dbgctl := 1, mops := [tOp], parked := { Parked.none with lat := [⟨.pred 3 true, 2, 0, .S, 0, 0⟩] } }
  s.hub.boot = .done ∧ tOp ∈ (s.ctx 0).mops ∧ tOp.pendS = some ((s.ctx 0).bankOf 9, 9) ∧ (511 : Fin 512).val < 8 * (s.ctx 0).rslim.toNat ∧
  (∀ m ∈ (s.ctx 0).mops, m.pendRow ≠ some (8 * (s.ctx 0).rsbase.toNat + 511)) ∧
  8 * (tWith { tCtx with rslim := 63 }).me.rslim.toNat ≤ (511 : Fin 512).val ∧
  (s.ctx 0).parked.lat[0]? = some ⟨.pred 3 true, 2, 0, .S, 0, 0⟩ ∧ (s.die 0).trcctl.toNat % 2 = 0 := by decide +kernel
theorem witness_Debugger_sampled : let s := t0.setDie 0 { DieSt.reset with trcctl := 0x101, trctick := 1 }
  (s.die 0).trcctl.toNat % 2 = 1 ∧ 0 < (s.die 0).trcctl.toNat / 2 ^ 8 % 2 ^ 24 ∧
  (s.die 0).trcctl.toNat / 2 ^ 8 % 2 ^ 24 ≤ (s.die 0).trctick := by decide
theorem witness_Debugger_samples : (0x00000101 : Word).toNat % 2 = 1 ∧ 0 < (0x00000101 : Word).toNat / 2 ^ 8 % 2 ^ 24 ∧
  (0x00000101 : Word).toNat / 2 ^ 8 % 2 ^ 24 ≤ 1 ∧ State.reset.ctxs = [] ∧ (State.reset.die 3).trcctl.toNat % 2 = 0 := by decide

/-! ### Bundles -/

/-- The placed program of log entry 14: a literal bundle whose slot S holds MOVI s3, −5. -/
def tStart : State := State.reset.withFetchWord 32 0x681FFFFB

theorem witness_IssueEvents : tStart.mayPresent 0 = true ∧ tStart.fetchWord 0 = .ok 0xFFFF ∧ (tStart.fetchBundle 0).toBool = true :=
  ⟨rfl, rfl, rfl⟩
/-- A dictionary of one entry at 0x100800, of the bundle of slot S with MOVI s3, −5, at hand, which the index word 0 names; a repeat
word after a bundle. -/
def tDict : State := { tStart.setCtx 0 { tStart.ctx 0 with code := ⟨0x100000, 0x100800, 0, 64, 0, 1, 0⟩ } with
  mem := Memory.writeAll [] (cellsAt 0x100800 (leBytes 8 (2 + 0x681FFFFB * 2 ^ 32)))
  cores := [(0, { tStart.core 0 with dict := [0x100800] })] }
theorem witness_IssueEvents_dict : tDict.mayPresent tDict.cur = true ∧ tDict.fetchWord tDict.cur = .ok 0 ∧ 0 < tDict.me.stream.dictn ∧
  tDict.me.stack.runsPast 0x100000 2 = false ∧
  (match tDict.entryWords tDict.cur 0x100000 0 with
    | .ok ws => match decodeBundle (tDict.placeOk tDict.cur) ws with
      | .ok (h, b) => (ws.drop h.length).all (· == 0) && !tDict.loopBars tDict.cur (issOf tDict tDict.cur 0x100000 0x100002 0 0 b)
      | .error _ => false
    | .error _ => false) = true := ⟨rfl, rfl, by decide, rfl, by decide +kernel⟩
def tRepeat : State := { tStart.setCtx 0 { tStart.ctx 0 with fetch := ⟨0x100000, some ⟨[(.S, .movi 3 (.short 5))], 0xFFFF8, none⟩, 0⟩ } with
  mem := [(0x100000, 0xF1), (0x100001, 0xFF)] }
theorem witness_IssueEvents_repeat : tRepeat.mayPresent tRepeat.cur = true ∧ tRepeat.fetchWord tRepeat.cur = .ok 0xFFF1 ∧
  tRepeat.me.fetch.last = some ⟨[(.S, .movi 3 (.short 5))], 0xFFFF8, none⟩ ∧ tRepeat.me.stack.runsPast 0x100000 2 = false ∧
  tRepeat.loopBars tRepeat.cur (issOf tRepeat tRepeat.cur 0xFFFF8 0x100002 1 3 [(.S, .movi 3 (.short 5))]) = false := ⟨rfl, rfl, rfl, rfl, rfl⟩
/-- The entry not at hand; memory that holds it clean and within its stack. -/
theorem witness_IssueEvents_entry : let s : State := { tDict with cores := tStart.cores }
  s.fetchWord s.cur = .ok 0 ∧ s.fetchBundle s.cur = .error (.entry 0x100800) ∧ s.myCore.dict.length < 2048 ∧
  (∀ a : Nat, a ∉ s.poison) ∧ s.inStack 0x100800 = true ∧ s.inStack (0x100800 + 48 - 1) = true := by
  refine ⟨rfl, rfl, by decide, ?_, by decide +kernel, by decide +kernel⟩
  intro a h; cases h
/-- A dictionary index that the dictionary does not hold; a bundle whose second word's line is not at hand. -/
theorem witness_IssueEvents_trap : let s : State := { tStart with mem := [] }
  s.mayPresent s.cur = true ∧ s.fetchWord s.cur = .ok 0 ∧ ∃ t, s.fetchBundle s.cur = .error (.fault t) := by
  refine ⟨rfl, rfl, ⟨_, rfl⟩⟩
theorem witness_IssueEvents_line :
  let s : State := { tStart.setCtx 0 { tStart.ctx 0 with fetch := ⟨0x10007E, none, 0⟩, code := ⟨0x100000, 0, 0, 128, 0, 0, 0⟩ } with
    mem := [(0x10007E, 255), (0x10007F, 255)] }
  s.mayPresent s.cur = true ∧ s.fetchWord s.cur = .ok 0xFFFF ∧ s.fetchBundle s.cur = .error (.line 0x2001) := ⟨rfl, rfl, rfl⟩
theorem witness_IssueEvents_writeback : let s := tWith { tCtx with adv := true, iss := none, lat := [⟨.sreg .main 3 7, 1, 0, .S, 0, 0⟩] }
  s.me.adv = true ∧ s.me.iss = none ∧ s.me.parked.spent = false ∧ s.me.lat = [⟨.sreg .main 3 7, 1, 0, .S, 0, 0⟩] ∧ s.me.drains = [] ∧ s.me.passes = [] ∧
  t0.me.adv = false := by decide
theorem witness_IssueEvents_interrupts : let c := tStart.ctx 0
  let s := tStart.setCtx 0 { c with ctxctl := 4, uiq := [5], impq := [⟨14, 0, .c0, 0, 0, 0, false⟩] }
  s.takesUser 0 = true ∧ s.takesImprecise 0 = true ∧ s.me.uiq = [5] := by decide +kernel
theorem witness_IssueEvents_watchdog : let c := tStart.ctx 0
  let s := tStart.setCtx 0 { c with lfto := 1, linwait := 1024 }
  s.me.watchdog = true ∧ s.mayPresent 0 = true ∧ t0.me.watchdog = false ∧ ∃ i, s.fetchBundle 0 = .ok i ∧ ∀ p ∈ i.slots, p.1 ≠ .Y :=
  ⟨by decide +kernel, rfl, by decide, _, rfl, by decide⟩
theorem witness_EncodingRoundTrips : encode (.clz (.fmt .n32) 3 4) = some ⟨.S, 0x44188058, []⟩ ∧ (Instr.clz (.fmt .n32) 3 4).wf = true := by decide
theorem witness_WordsHaveOneMeaning : decodeSlot .V0 0xB0200240 [] = some (.vld 2 (.imm 0) 9 0 none) := by decide
theorem witness_MemoryStaysCanonical : Memory.wf tStart.mem = true ∧ ∃ t, step tStart = .next t := ⟨by decide +kernel, ⟨_, rfl⟩⟩
theorem witness_StepRunsTheBundle : tStart.todo = [] ∧ tStart.ring = 0 :: [] ∧ tStart.mayPresent 0 = true ∧
  (tStart.ctx 0).dbgctl.getLsbD 0 = false ∧ (tStart.ctx 0).dstep = false ∧ (tStart.ctx 0).watchdog = false ∧
  (tStart.ctx 0).waking = false ∧ tStart.landsAsleep 0 = false ∧ tStart.takesImprecise 0 = false ∧ tStart.takesUser 0 = false ∧
  (tStart.core 0).mask = 0 := by decide +kernel
/-- The bundle that is in issue, and its slot's commit. -/
theorem witness_StepRunsTheBundle_slots : ∃ (i : Iss) (t : State), tStart.fetchBundle 0 = .ok i ∧ i.todo = [(.S, .movi 3 (.short (-5)))] ∧
  (∀ p ∈ i.todo, p.2 ≠ .rft) ∧
  let v : State := ({ tStart with ring := [], cur := 0 } : State).useTlb 0 fun e => e.covers (field (tStart.ctx 0).ptroot.toNat 63 52)
    (tStart.ctx 0).fetch.pc
  let u := v.setCtx 0 { v.ctx 0 with iss := some i, stall := none, pres := presMask i.slots, pba := some i.ba, linwait := 0 }
  (u.ctx 0).awaits = false ∧ slotsRun 0 i.todo (u.setCtx 0 { u.ctx 0 with snap := some (u.capture 0), ncol := 0 }) t :=
  ⟨_, _, rfl, rfl, by decide, rfl, _, rfl, rfl, by decide, _, rfl, rfl, rfl⟩
theorem witness_StepRunsTheBundle_literal : ∃ (ws : List Nat) (h : Header) (b : Bundle),
  tStart.codeWords 0 0x100000 6 = .ok (0xFFFF :: 2 :: ws) ∧ decodeBundle (tStart.placeOk 0) (pairWords ws) = .ok (h, b) ∧
  h.length = 2 ∧ (tStart.ctx 0).stack.runsPast 0x100000 12 = false ∧ (tStart.ctx 0).stack.runsPast 0x100000 2 = false ∧
  tStart.loopBars 0 (issOf tStart 0 0x100000 0x10000C 0 0 b) = false := ⟨_, _, _, rfl, rfl, rfl, rfl, rfl, rfl⟩
theorem witness_StepRunsTheBundle_todo : ({ t0 with todo := [(0, .halt)] } : State).todo = (0, .halt) :: [] := rfl
/-- A bundle in user mode with a supervisor kernel, its operands latched. -/
def tTrap : State := let s := tRun { tCtx with tvec := 0x20000, ptroot := 0x2000 } []; s.setMe { s.me with snap := some (s.capture 0) }
theorem witness_TrapEntryAndReturn : tTrap.me.iss = some tIss ∧ tTrap.me.snap.isSome = true ∧ tTrap.me.sup = false ∧ tTrap.me.tvec ≠ 0 ∧
  (tTrap.supKernel tTrap.me).isSome = true ∧ (TrapInfo.of 1 2).cls < 256 ∧ (TrapInfo.of 1 2).cause < 256 ∧ tIss.rep < 32 ∧
  tSup.me.sup = true ∧ (tSup.supKernel tSup.me).isSome = false := by decide +kernel
theorem witness_FlagSaturation : ({ tCtx with k := tCtx.k.set 31 0xFFFF } : Ctx).k.get 31 = 0xFFFF ∧ tCtx.k.get 0 = 0 ∧ 0 < 1 ∧
  [(⟨.flagAdd 3 2 .core, 0, 0, .S, 0, 0⟩ : Latch), ⟨.flagSub 3 1, 0, 0, .S, 0, 0⟩].all (fun e =>
    (match e.w with
      | .flagAdd j n _ => if j = 3 then some (n : Int) else none
      | .flagSub j n => if j = 3 then some (-n) else none
      | _ => none : Option Int).isSome) = true := by decide
theorem witness_Select : (0x40086210 : BitVec 32).toNat / 2 ^ 26 = 0x10 ∧ rdS t0 1 = .ok 0x100000 ∧ rdS t0 63 = .ok 0 ∧ wrS t0 63 = .ok () :=
  ⟨by decide, rfl, rfl, rfl⟩
theorem witness_BitCounts : (0x44188058 : BitVec 32).toNat / 2 ^ 26 = 0x11 ∧ (0x48188050 : BitVec 32).toNat / 2 ^ 26 = 0x12 ∧
  rdT t0 (.fmt .n32) 2 = .ok 0x00FFFFFFC0000000 ∧ wrT (popT t0 (.fmt .n32) [2]) (.fmt .n32) 3 = .ok () ∧
  rdS (tWith { tCtx with s := tCtx.s.set 4 0x0000000100000100 }) 4 = .ok 0x0000000100000100 := ⟨by decide, by decide, rfl, rfl, rfl⟩
theorem witness_RegistersWaitForWriteback : ∃ e t, encode (.movi 3 (.short (-5))) = some e ∧ exec (.movi 3 (.short (-5))) t0 = .next t ∧
  t0.me.run = .running ∧ t.me.run = .running ∧ t.me.sup = t0.me.sup ∧ t0.me.iss ≠ none := ⟨_, _, rfl, rfl, rfl, rfl, rfl, by decide⟩

/-! ### States that meet the further clauses -/

theorem witness_IntegerForms_counts : rdS t0 1 = .ok 0x100000 ∧ rdS t0 63 = .ok 0 ∧ wrS t0 63 = .ok () ∧ rdT t0 (.fmt .i8) 1 = .ok 0x100000 ∧
  wrT (popT t0 (.fmt .i8) [1]) (.fmt .i8) 0 = .ok () ∧ rdT tLin .link 48 = .ok 7 ∧ wrT (popT tLin .link [48]) .link 63 = .ok () :=
  ⟨rfl, rfl, rfl, rfl, rfl, rfl, rfl⟩
/-- Two numbers of different order, the two zeros of bf16, one NaN and two. -/
theorem witness_VectorElements_floats : (Fmt.f32.fp.dec 0x3F800000).isNan = false ∧
  (Fmt.f32.fp.dec 0xBF800000).lt (Fmt.f32.fp.dec 0x3F800000) = true ∧ (Fmt.bf16.fp.dec 0x8000).eq (Fmt.bf16.fp.dec 0) = true ∧
  (Fmt.bf16.fp.dec 0x8000).neg? = true ∧ (Fmt.bf16.fp.dec 0).neg? = false ∧ (Fmt.f16.fp.dec 0x7E00).isNan = true ∧
  (Fmt.f16.fp.dec 0x7D00).isSig = true ∧ 0xFFFF < 2 ^ Fmt.f16.viewWidth := by decide +kernel
theorem witness_DeadRows_ranges : t0.myCore.sumop = none ∧ (ViewReg.of (rdVw t0 1)).kind = 0 ∧ Fmt.ofCode (ViewReg.of (rdVw t0 1)).fmt = some .f32 ∧
  511 < (ViewReg.of (rdVw t0 1)).rows ∧ (ViewReg.of (rdVw t0 1)).rows < 511 + 1 + 1 ∧ (ViewReg.of (rdVw t0 4)).kind ≠ 0 ∧
  0 < (ViewReg.of (rdVw t0 4)).rows := by decide
theorem witness_EndingInstructions_returns : let u := tWith { tCtx with ctxctl := 8, sup := true }
  rdS (tWith { tCtx with ctxctl := 8 }) 57 = .ok 0 ∧ u.me.sup = true ∧ u.me.uiact = true ∧ u.me.pendingS .shadow 57 = false := ⟨rfl, rfl, by decide, rfl⟩
theorem witness_TlbInvalidation_waits :
  let s := tWith { tCtx with sup := true, ssup := tCtx.ssup.set 0 8, inv := some 0 }
  s.me.inv = some 0 ∧ rdS s 48 = .ok 8 ∧ (tWith { tCtx with sup := true }).me.inv = none := ⟨rfl, rfl, rfl⟩
/-- A cluster with one dirty line. -/
theorem witness_ReleasesAndAcquires_lines : let s := t0.setCluster 0 { t0.cluster 0 with lines := [(64, ⟨1, 1, false⟩)] }
  Memory.wf s.mem = true ∧ ((s.cluster (clusterOf s.cur)).lines.map (·.1)).Nodup ∧ ((s.die (dieOf s.cur)).abuf.map (·.1)).Nodup ∧
  (∀ m ∈ s.me.mops, m.isLoad = true → m.performed = true) ∧ s.tooWide s.cur .die = false ∧
  ((⟨1, 1, false⟩ : Line).dirty.getLsbD 0 = true) := by decide +kernel
theorem witness_OperandSlots_mode : t0.myCore.sumop = none ∧ t0.me.sup = false ∧ t0.me.amode = 0 := by decide
/-- A channel entry beyond its stack's capacity. -/
theorem witness_CopyCommands_capacity :
  let p : TlbEntry := { tPage with frame := 0x8000000000 }
  let s := (tChan false 1).setDie 0 { (tChan false 1).die 0 with tlb := [p] }
  (match xlateN s .load s.me.chtab 64 with
    | .ok xs => s.chanPlace (xs.map (·.loc)) == some (.mem 0x8000000000) && (xs.map (·.loc)).any fun l => !(s.sweep 7).locInStack l
    | .error _ => false) = true := by decide +kernel
/-- A copy held in a core of the memory that a plain load reads. -/
theorem witness_AccessesAndCopies_before :
  let o : WObj := ⟨some 0, false, 0, [0x100000], 4096⟩
  let k : WCopy := ⟨0, 0, 0x200000, o, .M, 0, 0, false, false, false, 0⟩
  let s := (tWith { tCtx with mops := [tOp] }).setCore 0 { CoreSt.reset with wcopy := [k] }
  s.opReady s.me.mops 0 tOp = true ∧ s.sourcesOwed s.cur tOp = false ∧ s.copyBefore s.cur tOp.locs = some k ∧ t0.copyBefore 0 tOp.locs = none := by
  decide +kernel
theorem witness_AccessesAndCopies_far :
  let k : Cmd := { newCmd t0 .cpy 0 0x100000 0x104000 5 0 tNt none (.sp 0) with phase := .running, afar := true }
  let q : Cmd := newCmd t0 .cpy 0 0x100000 0x104000 5 0 tNt none (.sp 0)
  (t0.setQueue 0 false [k]).headCmd 0 false = some k ∧ k.tag = none ∧ 0 < q.total ∧ (q.sized t0).toBool = true ∧ t0.poisonOf [k.entry] = none := by
  decide +kernel
/-- The unit of group 1 here, and that of a group of pod scope whose home is package 5. -/
theorem witness_MessagesArrive_outside : tMsgs.unitHere (tMsgs.group tLaunch 1) = true ∧
  tMsgs.unitHere (setField (setField 0 47 45 Scope.pod.code) 44 33 5) = false := by decide +kernel
/-- An acknowledgement that a die directory collects, a message between the levels, a full home, a frozen pair's edge. -/
theorem witness_WindowMessages_levels :
  let m : WMsg := { tMsg .ack with lvl := .die }
  let f : WMsg := { tMsg .fwdRead with lvl := .pkg }
  let s := tWnet .inv .S
  ({ s with hub := { s.hub with wnet := [m] } } : State).wmsg 0 [.ack] = some m ∧
  ({ s with hub := { s.hub with wnet := [f] } } : State).wmsg 0 [.fwdRead, .fwdOwn] = some f ∧ s.hasRoom (some 0) tObj = true ∧
  ((s.setPair 0 { PairSt.reset with frozen := some ⟨0, [], [], [], false⟩ }).wtake 0).atEdge (tMsg .inv) = true ∧ (s.wtake 0).atEdge (tMsg .inv) = false ∧
  ((tWnet .fwdRead .M).wtake 0).writeHeld? ⟨0, 0, 0x200000, tObj, .M, 4096, 0, false, false, false, 0⟩ = false := by decide +kernel
theorem witness_LinkStates_views : (⟨1, 0, false⟩ : LinkView).width = 0 ∧ (⟨255, 3, true⟩ : LinkView).width ≠ 0 ∧
  (⟨255, 3, true⟩ : LinkView) ≠ Link.reset.view := by decide
theorem witness_ReductionTree_kept : field (5 * 2 ^ 22 + 2 ^ 32 + 8 * 2 ^ 64) 143 128 ≠ stLost := by decide +kernel
/-- A load pending on the user's s48, which UBANK48 names. -/
theorem witness_Debugger_banks :
  let m : MemOp := { tOp with kind := .load (.scalar (.fmt .i64) .main 48) }
  let c : Ctx := { tCtx with dbgctl := 1, mops := [m], sup := true }
  ubankReg 0x120 = some 48 ∧ m.pendS = some (c.userBank 48, 48) ∧ ubankReg 0x100 = none := by decide +kernel
theorem witness_SmallUnits_waits : (⟨3, tCtx.launchKey, 0, 2, .none, [(0, 1)], none, []⟩ : McStore).left ≠ 0 := by decide
theorem witness_IssueEvents_body : tStart.bodyStop 0 = none ∧ tDict.bodyStop 0 = none ∧ tRepeat.bodyStop 0 = none ∧
  tRepeat.fetchBundle 0 ≠ .error (.line 0) := ⟨rfl, rfl, rfl, nofun⟩
theorem witness_IssueEvents_poison :
  let s : State := { tStart.setCtx 0 { tStart.ctx 0 with fetch := ⟨0x10007E, none, 0⟩, code := ⟨0x100000, 0, 0, 128, 0, 0, 0⟩ } with
    mem := [(0x10007E, 255), (0x10007F, 255)], poison := [0x2001], cores := [(0, { tStart.core 0 with cline := [0x2000, 0x2001] })] }
  s.mayPresent s.cur = true ∧ s.fetchWord s.cur = .ok 0xFFFF ∧ s.fetchBundle s.cur = .error (.poison 0x100080) := ⟨rfl, rfl, rfl⟩
theorem witness_StepRunsTheBundle_requests : (∀ q ∈ (tStart.die 0).reqs, q.served = true) ∧ tStart.bodyStop 0 = none := ⟨nofun, rfl⟩
/-- The illegal forms, by the mode, the kind of context and the array mode that they stand in. -/
theorem witness_EveryStepGoesOn_traps : t0.me.sup = false ∧ tSup.me.sup = true ∧ sysReadSup 0x110 = true ∧ rdS t0 4 = .ok 5 ∧
  rdS tSup 4 = .ok 5 ∧ sysWriteUser 0x110 = false ∧ sysReadOnly 0x112 = true ∧ predOn tSup none = true ∧ t0.me.uiact = false ∧
  t0.isComm t0.cur = false ∧ (tChan false 1).isComm (tChan false 1).cur = true ∧ t0.workerOf t0.cur = none := by
  refine ⟨rfl, rfl, by decide, rfl, rfl, by decide, by decide, rfl, by decide, by decide, by decide +kernel, by decide⟩
/-- The steps that are not enabled: a package just booted, whose one context runs nothing. -/
theorem witness_EveryStepGoesOn_rests : let s := tWith Ctx.reset
  s.mayPresent s.cur = false ∧ s.me.impq = [] ∧ s.me.uiq = [] ∧ s.me.adv = false ∧ s.me.watchdog = false ∧
  s.me.nextBeat = none ∧ s.me.drains.find? Drain.due = none ∧ ((s.pair 3).slot 15).fill = none ∧ (s.core 5).sumop = none ∧ s.me.mops[0]? = none ∧
  s.headCmd 5 true = none ∧ s.hub.msgs[0]? = none ∧ s.hub.wnet[0]? = none ∧ s.hub.inq[0]? = none ∧ s.hub.routeq[0]? = none ∧
  (s.link 15).st = .down ∧ s.hub.boot = .done ∧ Map.find (s.core 5).gwake 63 ≠ some 0 := by decide +kernel
theorem witness_EveryStepGoesOn_rests_units : let s := tWith Ctx.reset
  (s.die 3).mcast[0]? = none ∧ (s.die 3).walks[0]? = none ∧ s.launch 0 = none ∧ (∀ k ∈ s.hub.heldc, k.q ≠ 0) ∧
  s.hub.coal.find? (·.q == 0) = none ∧ s.hub.replays.find? (·.id == 0) = none ∧ s.dispatch 3 = none ∧ (s.pair 3).frozen = none ∧
  s.hub.images.find? (fun i => i.2.pair == 3 && !i.2.final) = none ∧ s.me.run ≠ .retiring ∧ s.me.run ≠ .fatal ∧ s.me.run ≠ .saving ∧
  s.me.grace ≠ some 0 ∧ s.hub.boot ≠ .rom := by decide +kernel
theorem witness_EveryStepGoesOn_frozen : let s := t0.setPair 0 { PairSt.reset with frozen := some ⟨0, [], [], [], false⟩ }
  (s.pair (pairOf s.cur)).frozen ≠ none ∧ s.mayRetain 0 5 = false ∧ ((t0.setLink 15 { Link.reset with st := .active }).link 15).st ≠ .down := by
  decide +kernel

/-! ### Single steps: expected values from the spec's examples and tables, or by hand -/

/-- The last latch that an instruction adds on a state: what it writes and its latency. -/
def lastLatch (i : Instr) (s : State) : Option (Write × Nat) :=
  match exec i s with
  | .next t => t.me.lat.getLast?.map fun l => (l.w, l.left)
  | _ => none

/-- s2 and s3 of the test worker set. -/
def tAb (a b : Word) : State := tWith { tCtx with s := (tCtx.s.set 2 a).set 3 b }

/-- R333's table: −7 / 2 and its remainder, division by zero. -/
theorem test_div : lastLatch (.div (.fmt .i32) 1 2 3) (tAb (-7) 2) = some (.sreg .main 1 (-3), 12) ∧
  lastLatch (.rem (.fmt .i32) 1 2 3) (tAb (-7) 2) = some (.sreg .main 1 (-1), 12) ∧
  lastLatch (.div (.fmt .n32) 1 2 3) (tAb 5 0) = some (.sreg .main 1 0xFFFFFFFF, 12) := by decide
/-- R356's two products. -/
theorem test_mulh : (lastLatch (.mulh (.fmt .i64) 1 2 3) (tAb 0xFFFFFFFFFFFFFFFD 0x4000000000000000)).map (·.1) = some (.sreg .main 1 (-1)) ∧
  (lastLatch (.mulh (.fmt .n64) 1 2 3) (tAb 0xFFFFFFFFFFFFFFFD 0x4000000000000000)).map (·.1) =
    some (.sreg .main 1 0x3FFFFFFFFFFFFFFF) := by decide
/-- A sum that passes the largest i32 is sign-extended (R303). -/
theorem test_add_wraps : lastLatch (.addImm (.fmt .i32) 1 2 (.short 1)) (tAb 0x7FFFFFFF 0) =
  some (.sreg .main 1 0xFFFFFFFF80000000, 1) := by decide
/-- R319: bits 19 to 8, and their sign. -/
theorem test_bfx : lastLatch (.bfx false 1 2 8 11) (tAb 0xABCDEF12 0) = some (.sreg .main 1 0xDEF, 1) ∧
  lastLatch (.bfx true 1 2 8 11) (tAb 0xABCDEF12 0) = some (.sreg .main 1 0xFFFFFFFFFFFFFDEF, 1) ∧
  lastLatch (.bfi 1 2 8 11) (tWith { tCtx with s := (tCtx.s.set 1 0xFFFFFFFF).set 2 0x123 }) = some (.sreg .main 1 0xFFF123FF, 1) := by decide
/-- R355: the low half is kept. -/
theorem test_movhi : lastLatch (.movhi 3 0x12345678) (tAb 0 0x0ABCDEF0) = some (.sreg .main 3 0x123456780ABCDEF0, 1) := by decide
/-- R328, R357: the examples' counts. -/
theorem test_clz : lastLatch (.clz (.fmt .n32) 3 2) (tAb 0x0000000100000100 0) = some (.sreg .main 3 23, 1) := by decide
theorem test_popc : lastLatch (.popc (.fmt .n16) 3 2) (tAb 0xFFFF000000008001 0) = some (.sreg .main 3 2, 1) := by decide
/-- 1.5 + 2.25 = 3.75 in FP32. -/
theorem test_fadd : (lastLatch (.fadd (.fmt .f32) .ne 1 2 3) (tAb 0x3FC00000 0x40100000)).map (·.1) = some (.sreg .main 1 0x40700000) := by
  decide +kernel
/-- R320: the branch's target is the origin and twice the offset. -/
theorem test_br : (match exec (.br false 0 (-3)) (tWith { tCtx with p := tCtx.p.set 0 true }) with
    | .next t => t.me.iss.bind (·.target)
    | _ => none) = some 0xFFFFA := by decide
/-- R252: a trap instruction's class, slot and code. -/
theorem test_trap : (match exec (.trap 0x1234) tTrap with
    | .next t => (t.me.iss.bind (·.after)).map fun f => (f.cls, f.code)
    | _ => none) = some (15, 0x1234) := by decide

end Sys2Proof.Tests
end

section
/-! PROOF. Counting flags (R30): an increment and a subtraction are steps of saturating arithmetic, the entries that land in one core
cycle are a permutation of those that are due, so that the flag ends as saturating arithmetic in some order has it. -/

namespace Sys2Proof.Machine

/-! ### One increment, one subtraction -/

/-- One change of a counting flag in saturating arithmetic on 16 bits (R30). -/
def satStep (v d : Int) : Int := max 0 (min 65535 (v + d))

theorem Ctx.addFlag_k (c : Ctx) (k : Fin 32) (n : Nat) (sc : Scope) :
    (c.addFlag k n sc).k.get k = BitVec.ofNat 16 (min ((c.k.get k).toNat + n) 0xFFFF) :=
  Vector.getElem_set_self k.isLt

theorem Ctx.addFlag_ctxctl (c : Ctx) (k : Fin 32) (n : Nat) (sc : Scope) :
    (c.addFlag k n sc).ctxctl = if 0xFFFF < (c.k.get k).toNat + n then c.ctxctl ||| 2 else c.ctxctl := rfl

theorem Ctx.subFlag_k (c : Ctx) (k : Fin 32) (n : Nat) : (c.subFlag k n).k.get k = BitVec.ofNat 16 ((c.k.get k).toNat - n) :=
  Vector.getElem_set_self k.isLt

theorem Ctx.subFlag_ctxctl (c : Ctx) (k : Fin 32) (n : Nat) :
    (c.subFlag k n).ctxctl = if (c.k.get k).toNat < n then c.ctxctl ||| 2 else c.ctxctl := rfl

theorem Ctx.addFlag_saturated (c : Ctx) (k : Fin 32) (n : Nat) (sc : Scope) (hn : 0 < n) (hk : c.k.get k = 0xFFFF) :
    (c.addFlag k n sc).k.get k = 0xFFFF ∧ (c.addFlag k n sc).ctxctl.getLsbD 1 = true := by
  have hv : (c.k.get k).toNat = 0xFFFF := by rw [hk]; rfl
  have hover : 0xFFFF < (c.k.get k).toNat + n := by omega
  constructor
  · rw [Ctx.addFlag_k, Nat.min_eq_right (Nat.le_of_lt hover)]; rfl
  · rw [Ctx.addFlag_ctxctl, if_pos hover]; simp

theorem Ctx.subFlag_saturated (c : Ctx) (k : Fin 32) (n : Nat) (hn : 0 < n) (hk : c.k.get k = 0) :
    (c.subFlag k n).k.get k = 0 ∧ (c.subFlag k n).ctxctl.getLsbD 1 = true := by
  have hv : (c.k.get k).toNat = 0 := by rw [hk]; rfl
  constructor
  · rw [Ctx.subFlag_k, hv, Nat.zero_sub]; rfl
  · rw [Ctx.subFlag_ctxctl, if_pos (hv ▸ hn)]; simp

theorem Ctx.addFlag_satStep (c : Ctx) (k : Fin 32) (n : Nat) (sc : Scope) :
    (((c.addFlag k n sc).k.get k).toNat : Int) = satStep (c.k.get k).toNat n := by
  rw [Ctx.addFlag_k, BitVec.toNat_ofNat, Nat.mod_eq_of_lt (by omega), satStep]
  omega

theorem Ctx.subFlag_satStep (c : Ctx) (k : Fin 32) (n : Nat) :
    (((c.subFlag k n).k.get k).toNat : Int) = satStep (c.k.get k).toNat (-n) := by
  have hv := (c.k.get k).isLt
  rw [Ctx.subFlag_k, BitVec.toNat_ofNat, Nat.mod_eq_of_lt (by omega), satStep]
  omega

/-! ### The writes of a flag -/

/-- What a write adds to a counting flag, if it is a write of that flag. -/
def Write.flagDelta (k : Fin 32) : Write → Option Int
  | .flagAdd j n _ => if j = k then some n else none
  | .flagSub j n => if j = k then some (-n) else none
  | _ => none

theorem Write.flagDelta_eq_some {k : Fin 32} {w : Write} {d : Int} (h : w.flagDelta k = some d) :
    (∃ n sc, w = .flagAdd k n sc ∧ d = n) ∨ ∃ n : Nat, w = .flagSub k n ∧ d = -n := by
  cases w with
  | flagAdd j n sc =>
    obtain ⟨rfl, ⟨⟩⟩ := Option.ite_none_right_eq_some.1 h
    exact .inl ⟨n, sc, rfl, rfl⟩
  | flagSub j n =>
    obtain ⟨rfl, ⟨⟩⟩ := Option.ite_none_right_eq_some.1 h
    exact .inr ⟨n, rfl, rfl⟩
  | _ => cases h

theorem State.land_satStep (s : State) (x : Nat) {k : Fin 32} {w : Write} {d : Int} (h : w.flagDelta k = some d) :
    ((((s.land x w).ctx x).k.get k).toNat : Int) = satStep ((s.ctx x).k.get k).toNat d := by
  obtain ⟨n, sc, rfl, rfl⟩ | ⟨n, rfl, rfl⟩ := Write.flagDelta_eq_some h
  · rw [State.land, State.setCtx_ctx_same, Ctx.addFlag_satStep]
  · rw [State.land, State.setCtx_ctx_same, Ctx.subFlag_satStep]

/-- Writes of one flag that land one after another give what saturating arithmetic gives in that order. -/
theorem State.foldl_land_satStep (x : Nat) (k : Fin 32) (ls : List Latch) (h : ∀ l ∈ ls, (l.w.flagDelta k).isSome) (s : State) :
    ((((ls.foldl (fun s l => s.land x l.w) s).ctx x).k.get k).toNat : Int) =
      (ls.filterMap fun l => l.w.flagDelta k).foldl satStep ((s.ctx x).k.get k).toNat := by
  induction ls generalizing s with
  | nil => rfl
  | cons l ls ih =>
    obtain ⟨hl, hls⟩ := List.forall_mem_cons.1 h
    obtain ⟨d, hd⟩ := Option.isSome_iff_exists.1 hl
    rw [List.foldl_cons, ih hls, State.land_satStep s x hd, List.filterMap_cons_some (f := fun l : Latch => l.w.flagDelta k) hd,
      List.foldl_cons]

/-! ### The entries of one core cycle -/

theorem insertLatch_perm (l : Latch) (ms : List Latch) : (insertLatch l ms).Perm (l :: ms) := by
  induction ms with
  | nil => rfl
  | cons m ms ih =>
    rw [insertLatch]
    split
    · rfl
    · exact (ih.cons m).trans (.swap l m ms)

/-- The order of issue (R41) keeps every entry. -/
theorem foldr_insertLatch_perm (es : List Latch) : (es.foldr insertLatch []).Perm es := by
  induction es with
  | nil => rfl
  | cons e es ih => exact (insertLatch_perm e _).trans (ih.cons e)

/-- Requests withdrawn change no context. -/
@[simp] theorem State.dropWakes_ctx (s : State) (core y : Nat) : (s.dropWakes core).ctx y = s.ctx y := by
  simp only [State.dropWakes]
  split <;> rfl

/-- No write of a flag gives way to another entry. -/
theorem Latch.not_yields_of_flag {k : Fin 32} {l : Latch} (h : (l.w.flagDelta k).isSome) (ls : List Latch) : l.yields ls = false := by
  obtain ⟨d, hd⟩ := Option.isSome_iff_exists.1 h
  obtain ⟨n, sc, hw, -⟩ | ⟨n, hw, -⟩ := Write.flagDelta_eq_some hd <;> simp [Latch.yields, hw]

/-- No write of a flag is applied before the others of its cycle. -/
theorem Write.not_first_of_flag {k : Fin 32} {w : Write} (h : (w.flagDelta k).isSome) : w.first = false := by
  obtain ⟨d, hd⟩ := Option.isSome_iff_exists.1 h
  obtain ⟨n, sc, rfl, -⟩ | ⟨n, rfl, -⟩ := Write.flagDelta_eq_some hd <;> rfl

/-- Where all entries of a cycle write one flag, the counting flags end as the entries leave them in the order of issue. -/
theorem State.landAll_flags_k (s : State) (x : Nat) {k : Fin 32} {es : List Latch} (h : ∀ e ∈ es, (e.w.flagDelta k).isSome) :
    ((s.landAll x es).ctx x).k =
      (((es.foldr insertLatch []).foldl (fun s l => s.land x l.w) (s.dropWakes (coreOf x))).ctx x).k := by
  have hs : ∀ l ∈ es.foldr insertLatch [], (l.w.flagDelta k).isSome := fun l hl => h l ((foldr_insertLatch_perm es).subset hl)
  have hdue : (es.foldr insertLatch []).filter (fun l => !l.yields es) = es.foldr insertLatch [] :=
    List.filter_eq_self.2 fun l hl => by simp [Latch.not_yields_of_flag (hs l hl)]
  have hfirst : (es.foldr insertLatch []).filter (·.w.first) = [] :=
    List.filter_eq_nil_iff.2 fun l hl => by simp [Write.not_first_of_flag (hs l hl)]
  have hrest : (es.foldr insertLatch []).filter (!·.w.first) = es.foldr insertLatch [] :=
    List.filter_eq_self.2 fun l hl => by simp [Write.not_first_of_flag (hs l hl)]
  simp only [State.landAll, hdue, hfirst, hrest, List.foldl_nil, State.setCtx_ctx_same]

theorem State.landAll_satStep (s : State) (x : Nat) (k : Fin 32) (es : List Latch) (h : ∀ e ∈ es, (e.w.flagDelta k).isSome) :
    ∃ ds : List Int, ds.Perm (es.filterMap fun e => e.w.flagDelta k) ∧
      ((((s.landAll x es).ctx x).k.get k).toNat : Int) = ds.foldl satStep ((s.ctx x).k.get k).toNat := by
  refine ⟨(es.foldr insertLatch []).filterMap fun e => e.w.flagDelta k, (foldr_insertLatch_perm es).filterMap _, ?_⟩
  rw [State.landAll_flags_k s x h, State.foldl_land_satStep x k _ fun l hl => h l ((foldr_insertLatch_perm es).subset hl),
    State.dropWakes_ctx]

/-- Settles O57: each landing is a saturating step, and the order of issue permutes the entries that land. -/
theorem flagSaturation : Obligations.FlagSaturation :=
  ⟨Ctx.addFlag_saturated, Ctx.subFlag_saturated, State.landAll_satStep⟩

end Sys2Proof.Machine
end

section
/-! PROOF. Decoding in slot S (R60, R63): the fields of a slot word read straight from the word, the layouts SR, SF and SW in closed
form, and what a failing slot comes to. -/

namespace Sys2Proof

/-! ### The fields of a word -/

/-- The fields of a word, each read from the whole word: its offset is the sum of the widths below it. -/
def fieldsAt : List Nat → Nat → List Nat
  | [], _ => []
  | w :: ws, n => n / 2 ^ ws.sum % 2 ^ w :: fieldsAt ws n

theorem unpack_mod (ws : List Nat) (n : Nat) : unpack ws (n % 2 ^ ws.sum) = fieldsAt ws n := by
  induction ws generalizing n with
  | nil => rfl
  | cons w ws ih =>
    have hhead : n % 2 ^ (w + ws.sum) / 2 ^ ws.sum = n / 2 ^ ws.sum % 2 ^ w := by
      rw [Nat.add_comm, Nat.pow_add, Nat.mod_mul_right_div_self]
    have htail : n % 2 ^ (w + ws.sum) % 2 ^ ws.sum = n % 2 ^ ws.sum := by
      rw [Nat.pow_add, Nat.mod_mul_left_mod]
    rw [List.sum_cons, unpack, fieldsAt, hhead, htail, ih]

theorem unpack_toNat (w : BitVec 32) {ws : List Nat} (h : ws.sum = 32) : unpack ws w.toNat = fieldsAt ws w.toNat := by
  rw [← unpack_mod, h, Nat.mod_eq_of_lt w.isLt]

/-- A field of one bit. -/
theorem bit_field_eq_zero (w : BitVec n) (i : Nat) : w.toNat / 2 ^ i % 2 ^ 1 = 0 ↔ w.getLsbD i = false := by
  rw [BitVec.getLsbD, Nat.testBit_eq_decide_div_mod_eq, decide_eq_false_iff_not, Nat.mod_two_not_eq_one, Nat.pow_one]

theorem bit_bit_field (w : BitVec n) (i : Nat) : bit (w.toNat / 2 ^ i % 2 ^ 1) = w.getLsbD i := by
  rw [bit, Nat.pow_one, Nat.mod_mod, BitVec.getLsbD, Nat.testBit_eq_decide_div_mod_eq]
  rfl

/-- A field of six bits names a register or a position. -/
theorem fn_field (v : Nat) : fn 64 (v % 2 ^ 6) = Fin.ofNat 64 v := Fin.ext (Nat.mod_mod v 64)

/-- The lowest field. -/
theorem div_two_pow_zero (n : Nat) : n / 2 ^ 0 = n := by rw [Nat.pow_zero, Nat.div_one]

/-! ### The layouts in closed form -/

theorem unpack_SR (w : BitVec 32) : unpack [6, 1, 6, 6, 6, 4, 3] w.toNat =
    [w.toNat / 2 ^ 26 % 2 ^ 6, w.toNat / 2 ^ 25 % 2 ^ 1, w.toNat / 2 ^ 19 % 2 ^ 6, w.toNat / 2 ^ 13 % 2 ^ 6,
      w.toNat / 2 ^ 7 % 2 ^ 6, w.toNat / 2 ^ 3 % 2 ^ 4, w.toNat % 2 ^ 3] := by
  rw [unpack_toNat w rfl]
  simp only [-Nat.reducePow, fieldsAt, List.sum_cons, List.sum_nil, Nat.reduceAdd, Nat.add_zero, div_two_pow_zero]

theorem unpack_SF (w : BitVec 32) : unpack [6, 1, 6, 6, 6, 6, 1] w.toNat =
    [w.toNat / 2 ^ 26 % 2 ^ 6, w.toNat / 2 ^ 25 % 2 ^ 1, w.toNat / 2 ^ 19 % 2 ^ 6, w.toNat / 2 ^ 13 % 2 ^ 6,
      w.toNat / 2 ^ 7 % 2 ^ 6, w.toNat / 2 ^ 1 % 2 ^ 6, w.toNat / 2 ^ 0 % 2 ^ 1] := unpack_toNat w rfl

theorem unpack_SW (w : BitVec 32) : unpack [6, 1, 6, 19] w.toNat =
    [w.toNat / 2 ^ 26 % 2 ^ 6, w.toNat / 2 ^ 25 % 2 ^ 1, w.toNat / 2 ^ 19 % 2 ^ 6, w.toNat % 2 ^ 19] := by
  rw [unpack_toNat w rfl]
  simp only [-Nat.reducePow, fieldsAt, List.sum_cons, List.sum_nil, Nat.reduceAdd, Nat.add_zero, div_two_pow_zero]

theorem decSR_eq (f : Ty → Fin 64 → Fin 64 → Fin 64 → Instr) (w : BitVec 32) (x : List (BitVec 32)) :
    decSR f w.toNat x = if x = [] ∧ w.getLsbD 25 = false ∧ w.toNat % 2 ^ 3 = 0 then
      (Ty.ofCode (w.toNat / 2 ^ 3 % 2 ^ 4)).map fun ty =>
        f ty (Fin.ofNat 64 (w.toNat / 2 ^ 19)) (Fin.ofNat 64 (w.toNat / 2 ^ 13)) (Fin.ofNat 64 (w.toNat / 2 ^ 7)) else none := by
  unfold decSR
  rw [unpack_SR]
  cases x with
  | nil => simp only [-Nat.reducePow, bit_field_eq_zero, fn_field, true_and]
  | cons e x => simp only [reduceCtorEq, false_and, if_false]

theorem decUn_eq (f : Ty → Fin 64 → Fin 64 → Instr) (w : BitVec 32) (x : List (BitVec 32)) :
    decUn f w.toNat x = if x = [] ∧ w.getLsbD 25 = false ∧ w.toNat / 2 ^ 7 % 2 ^ 6 = 0 ∧ w.toNat % 2 ^ 3 = 0 then
      (Ty.ofCode (w.toNat / 2 ^ 3 % 2 ^ 4)).map fun ty =>
        f ty (Fin.ofNat 64 (w.toNat / 2 ^ 19)) (Fin.ofNat 64 (w.toNat / 2 ^ 13)) else none := by
  unfold decUn
  rw [unpack_SR]
  cases x with
  | nil => simp only [-Nat.reducePow, bit_field_eq_zero, fn_field, true_and]
  | cons e x => simp only [reduceCtorEq, false_and, if_false]

theorem decSF_eq (f : Bool → Fin 64 → Fin 64 → Fin 64 → Fin 64 → Option Instr) (w : BitVec 32) (x : List (BitVec 32)) :
    decSF f w.toNat x = if x = [] ∧ w.getLsbD 0 = false then
      f (w.getLsbD 25) (Fin.ofNat 64 (w.toNat / 2 ^ 19)) (Fin.ofNat 64 (w.toNat / 2 ^ 13)) (Fin.ofNat 64 (w.toNat / 2 ^ 7))
        (Fin.ofNat 64 (w.toNat / 2 ^ 1)) else none := by
  unfold decSF
  rw [unpack_SF]
  cases x with
  | nil => simp only [-Nat.reducePow, bit_field_eq_zero, fn_field, bit_bit_field, true_and]
  | cons e x => simp only [reduceCtorEq, false_and, if_false]

theorem decMovi_eq (w : BitVec 32) (x : List (BitVec 32)) :
    decMovi w.toNat x = if w.getLsbD 25 = false ∧ x = [] then some (.movi (Fin.ofNat 64 (w.toNat / 2 ^ 19)) (.short (w.extractLsb' 0 19)))
      else if w.getLsbD 25 = false ∧ w.toNat % 2 ^ 19 = 0 ∧ x.length = 1 then
        some (.movi (Fin.ofNat 64 (w.toNat / 2 ^ 19)) (.long (x.headD 0))) else none := by
  have himm : BitVec.ofNat 19 (w.toNat % 2 ^ 19) = w.extractLsb' 0 19 := by
    rw [← BitVec.setWidth_eq_extractLsb' (by decide), ← BitVec.toNat_setWidth, BitVec.ofNat_toNat, BitVec.setWidth_eq]
  unfold decMovi
  rw [unpack_SW, ← himm]
  rcases x with _ | ⟨e, _ | ⟨e', x⟩⟩
  · simp only [-Nat.reducePow, bit_field_eq_zero, fn_field, and_true, List.length_nil, Nat.zero_ne_one, and_false, if_false]
  · simp only [-Nat.reducePow, bit_field_eq_zero, fn_field, reduceCtorEq, and_false, if_false, List.length_singleton,
      and_true, List.headD_cons]
  · simp only [reduceCtorEq, and_false, if_false, List.length_cons, Nat.add_eq_right, Nat.add_eq_zero_iff, Nat.one_ne_zero]

theorem decMovhi_eq (w : BitVec 32) (x : List (BitVec 32)) :
    decMovhi w.toNat x = if w.getLsbD 25 = false ∧ w.toNat % 2 ^ 19 = 0 ∧ x.length = 1 then
      some (.movhi (Fin.ofNat 64 (w.toNat / 2 ^ 19)) (x.headD 0)) else none := by
  unfold decMovhi
  rw [unpack_SW]
  rcases x with _ | ⟨e, _ | ⟨e', x⟩⟩
  · simp only [and_false, if_false, List.length_nil, Nat.zero_ne_one]
  · simp only [-Nat.reducePow, bit_field_eq_zero, fn_field, List.length_singleton, and_true, List.headD_cons]
  · simp only [and_false, if_false, List.length_cons, Nat.add_eq_right, Nat.add_eq_zero_iff, Nat.one_ne_zero]

/-! ### The checks of a slot -/

/-- In slot S the layout decides, then the checks on the instruction alone (R60). -/
theorem decodeSlot_S (w : BitVec 32) (x : List (BitVec 32)) : decodeSlot .S w x = (decodeS w.toNat x).filter Instr.wf := by
  have hfits : ∀ i : Instr, i.fits .S = true := fun _ => rfl
  cases h : decodeS w.toNat x <;> simp [decodeSlot, decodeClass, h, hfits, Option.filter]

/-- A check inside a check: both must hold. -/
theorem ite_ite_none (c d : Prop) [Decidable c] [Decidable d] (o : Option α) :
    (if c then if d then o else none else none) = if c ∧ d then o else none := by
  by_cases hc : c
  · rw [if_pos hc]
    exact ite_congr (propext ⟨fun hd => ⟨hc, hd⟩, And.right⟩) (fun _ => rfl) fun _ => rfl
  · rw [if_neg hc, if_neg fun h => hc h.1]

theorem filter_wf_ite_some (c : Prop) [Decidable c] (i : Instr) :
    (if c then some i else none).filter Instr.wf = if c ∧ i.wf = true then some i else none := by
  rw [apply_ite (Option.filter Instr.wf), Option.filter_none, Option.filter_some, ite_ite_none]

/-- Of the type codes the integer types and the link form are 5 to 12 and 14 (R61). -/
theorem Ty.ofCode_filter_intOrLink : ∀ t < 16,
    (Ty.ofCode t).filter Ty.intOrLink = if (5 ≤ t ∧ t ≤ 12) ∨ t = 14 then Ty.ofCode t else none := by decide

/-- A layout that reads a type and makes an instruction of the integer types and the link form. -/
theorem filter_wf_map_ofCode {mk : Ty → Instr} (hwf : ∀ ty, (mk ty).wf = ty.intOrLink) (c : Prop) [Decidable c] {t : Nat}
    (ht : t < 16) : (if c then (Ty.ofCode t).map mk else none).filter Instr.wf =
      if c ∧ ((5 ≤ t ∧ t ≤ 12) ∨ t = 14) then (Ty.ofCode t).map mk else none := by
  have hcomp : Instr.wf ∘ mk = Ty.intOrLink := funext hwf
  rw [apply_ite (Option.filter Instr.wf), Option.filter_none, Option.filter_map, hcomp, Ty.ofCode_filter_intOrLink t ht,
    apply_ite (Option.map mk), Option.map_none, ite_ite_none]

theorem type_field_lt (n : Nat) : n / 2 ^ 3 % 2 ^ 4 < 16 := Nat.mod_lt _ (by decide)

/-- An opcode of format SR whose instructions take the integer types and the link form. -/
theorem decodesSR_of_decodeS {op : Nat} {mk : Ty → Fin 64 → Fin 64 → Fin 64 → Instr}
    (hdec : ∀ n x, n / 2 ^ 26 = op → decodeS n x = decSR mk n x) (hwf : ∀ ty d a b, (mk ty d a b).wf = ty.intOrLink) :
    Machine.decodesSR op mk := by
  intro w x hop t ok
  rw [decodeSlot_S, hdec _ _ hop, decSR_eq, filter_wf_map_ofCode (fun ty => hwf ty _ _ _) _ (type_field_lt _)]
  simp only [ok, t, and_assoc]

/-! ### A slot that fails -/

theorem decodeBundle_error_of_slot (ok : Instr → Bool) {hw w : BitVec 32} {x : List (BitVec 32)} {h : Header} {sl : Slot}
    (hhead : Header.ofWord hw = some h) (hslots : h.slots = [sl]) (hxc : h.xc = x.length)
    (hnone : decodeSlot sl w (h.extOf x sl) = none) : decodeBundle ok (hw :: w :: x) = .error (.slot sl) := by
  have hlen : ¬ (w :: x).length + 1 < h.length := by
    simp only [Header.length, hslots, hxc, List.length_cons, List.length_nil]; omega
  simp only [decodeBundle, hhead, if_neg hlen, hslots, hxc, List.length_singleton, List.drop_succ_cons, List.drop_zero,
    List.take_succ_cons, List.take_length, decodeSlots, hnone, Except.map]

namespace Machine

theorem decoded_error_of_slot {ok : Instr → Bool} {ws : List (BitVec 32)} {sl : Slot} (h : decodeBundle ok ws = .error (.slot sl)) :
    decoded ok ws = .error (.fault (TrapInfo.of 1 2)) := by simp [decoded, h]

/-- The header 0x2 names slot S alone, 0xA02 slot S with one extension word that it owns (R56). -/
theorem failingSlot_traps : failingSlotTraps := by
  intro ok w x hx hnone
  rcases x with _ | ⟨e, _ | ⟨e', x⟩⟩
  · have hhead : Header.ofWord 0x2 = some ⟨2, 0, 0, 0⟩ := by decide
    exact decoded_error_of_slot (decodeBundle_error_of_slot ok hhead rfl rfl hnone)
  · have hhead : Header.ofWord 0xA02 = some ⟨2, 1, 1, 0⟩ := by decide
    exact decoded_error_of_slot (decodeBundle_error_of_slot ok hhead rfl rfl hnone)
  · simp at hx

end Machine
end Sys2Proof
end

section
/-! PROOF. DIV, REM and MULH (R333, R356): three instructions of format SR that are forms of the integer mould. -/

namespace Sys2Proof.Machine

/-! ### The arms of the dispatch -/

theorem exec_div (ty : Ty) (sd sa sb : Fin 64) (s : State) : exec (.div ty sd sa sb) s = aluReg iDiv 12 ty sd sa sb s := rfl
theorem exec_rem (ty : Ty) (sd sa sb : Fin 64) (s : State) : exec (.rem ty sd sa sb) s = aluReg iRem 12 ty sd sa sb s := rfl
theorem exec_mulh (ty : Ty) (sd sa sb : Fin 64) (s : State) : exec (.mulh ty sd sa sb) s = aluReg iMulh 3 ty sd sa sb s := rfl

/-! ### The register form of the integer mould -/

theorem regForm_of_exec {mk : Ty → Fin 64 → Fin 64 → Fin 64 → Instr} {op : Fmt → Nat → Nat → Nat} {lat : Nat}
    (h : ∀ ty sd sa sb s, exec (mk ty sd sa sb) s = aluReg op lat ty sd sa sb s) : RegForm lat mk op := by
  intro s ty sd sa sb a b ha hb hw
  rw [h, aluReg_ok ha hb hw, aluResult]

/-- On a type that is no link form the result is that of a scalar register. -/
theorem RegForm.fmt {lat : Nat} {mk : Ty → Fin 64 → Fin 64 → Fin 64 → Instr} {val : Fmt → Nat → Nat → Nat}
    (h : RegForm lat mk val) {s : State} {f : Fmt} {sd sa sb : Fin 64} {a b : Word} (ha : rdS s sa = .ok a) (hb : rdS s sb = .ok b)
    (hw : wrS s sd = .ok ()) {v : Word} (hv : f.extend (val f (f.low a) (f.low b)) = v) :
    exec (mk (.fmt f) sd sa sb) s = .next (s.latch (.sreg (s.me.bankOf sd) sd v) lat 0) := by
  have h := h s (.fmt f) sd sa sb a b ha hb (by rwa [popT_fmt, wrT_fmt])
  rwa [popT_fmt, destT_fmt, show (Ty.fmt f).base = f from rfl, hv] at h

theorem regForm_div : RegForm 12 .div iDiv := regForm_of_exec exec_div
theorem regForm_rem : RegForm 12 .rem iRem := regForm_of_exec exec_rem
theorem regForm_mulh : RegForm 3 .mulh iMulh := regForm_of_exec exec_mulh

/-! ### Encodings -/

theorem decodesSR_div : decodesSR 0x05 .div :=
  decodesSR_of_decodeS (fun n x h => by simp only [decodeS, h]) fun _ _ _ _ => rfl
theorem decodesSR_rem : decodesSR 0x06 .rem :=
  decodesSR_of_decodeS (fun n x h => by simp only [decodeS, h]) fun _ _ _ _ => rfl
theorem decodesSR_mulh : decodesSR 0x04 .mulh :=
  decodesSR_of_decodeS (fun n x h => by simp only [decodeS, h]) fun _ _ _ _ => rfl

/-- Settles O2: the encodings are those of format SR, the results those of the integer mould's register form. -/
theorem divisionAndHighProduct : Obligations.DivisionAndHighProduct := by
  refine ⟨decodesSR_div, decodesSR_rem, decodesSR_mulh, failingSlot_traps, regForm_div, regForm_rem, regForm_mulh,
    by decide, by decide, ?_⟩
  intro s hw put
  refine ⟨fun ha hb => ⟨?_, ?_⟩, fun ha hb => ⟨?_, ?_⟩⟩
  · exact regForm_div.fmt ha hb hw (by decide)
  · exact regForm_rem.fmt ha hb hw (by decide)
  · exact regForm_mulh.fmt ha hb hw (by decide)
  · exact regForm_mulh.fmt ha hb hw (by decide)

end Sys2Proof.Machine
end

section
/-! PROOF. Bit fields and immediate moves (R319, R355): the field of a register as the bits it is, the bits of BFI, the closed forms of
their layouts. -/

namespace Sys2Proof.Machine

/-! ### The bits of a field -/

theorem bitField_eq_toNat (a : Word) (pos lenm1 : Nat) : bitField a pos lenm1 = (a.extractLsb' pos (lenm1 + 1)).toNat := by
  rw [bitField, BitVec.extractLsb'_toNat, Nat.shiftRight_eq_div_pow]

theorem sextNat_toNat (v : BitVec (n + 1)) : sextNat (n + 1) v.toNat = v.toInt := by
  have hpow : 2 ^ (n + 1) = 2 * 2 ^ n := Nat.pow_succ'
  rw [sextNat, Nat.mod_eq_of_lt v.isLt, BitVec.toInt_eq_toNat_cond, Nat.add_sub_cancel]
  split <;> split <;> omega

/-- The bits of a register that BFI replaces (R319). -/
def fieldMask (pos lenm1 : Nat) : Word := BitVec.ofNat 64 ((2 ^ (lenm1 + 1) - 1) * 2 ^ pos)

/-- What BFI writes: a's low bits in the place of d's field (R319). -/
def insertField (a d : Word) (pos lenm1 : Nat) : Word := (d &&& ~~~fieldMask pos lenm1) ||| ((a <<< pos) &&& fieldMask pos lenm1)

theorem getLsbD_fieldMask (pos lenm1 : Nat) {i : Nat} (hi : i < 64) :
    (fieldMask pos lenm1).getLsbD i = decide (pos ≤ i ∧ i ≤ pos + lenm1) := by
  rw [fieldMask, BitVec.getLsbD_ofNat, Nat.testBit_mul_two_pow, Nat.testBit_two_pow_sub_one]
  simp only [hi, decide_true, Bool.true_and, ← Bool.decide_and]
  exact decide_eq_decide.2 (by omega)

theorem getLsbD_insertField (a d : Word) (pos lenm1 : Nat) {i : Nat} (hi : i < 64) :
    (insertField a d pos lenm1).getLsbD i = if pos ≤ i ∧ i ≤ pos + lenm1 then a.getLsbD (i - pos) else d.getLsbD i := by
  rw [insertField, BitVec.getLsbD_or, BitVec.getLsbD_and, BitVec.getLsbD_and, BitVec.getLsbD_not, BitVec.getLsbD_shiftLeft,
    getLsbD_fieldMask pos lenm1 hi]
  by_cases h : pos ≤ i ∧ i ≤ pos + lenm1 <;> simp [h, hi]

/-! ### Results -/

theorem exec_bfx_ok {s : State} {sd sa : Fin 64} {a : Word} (ha : rdS s sa = .ok a) (hw : wrS s sd = .ok ()) (sx : Bool)
    (pos lenm1 : Fin 64) :
    let field := a.extractLsb' pos.val (lenm1.val + 1)
    exec (.bfx sx sd sa pos lenm1) s =
      .next (s.latch (.sreg (s.me.bankOf sd) sd (if sx then field.signExtend 64 else field.setWidth 64)) 1 0) := by
  change execBfx sx sd sa pos lenm1 s = _
  simp only [execBfx, ha, slotwise_ok_bind, putS_ok hw, slotDo_ok, bitField_eq_toNat, sextNat_toNat, BitVec.ofNat_toNat, BitVec.signExtend]

theorem exec_bfi_ok {s : State} {sd sa : Fin 64} {a d : Word} (ha : rdS s sa = .ok a) (hd : rdS s sd = .ok d) (hw : wrS s sd = .ok ())
    (pos lenm1 : Fin 64) :
    exec (.bfi sd sa pos lenm1) s =
      .next (s.latch (.sreg (s.me.bankOf sd) sd (insertField a d pos.val lenm1.val)) 1 0) := by
  change execBfi sd sa pos lenm1 s = _
  simp only [execBfi, ha, hd, slotwise_ok_bind, putS_ok hw, slotDo_ok, insertField, fieldMask]

theorem exec_movi_ok {s : State} {sd : Fin 64} (hw : wrS s sd = .ok ()) (imm : Imm19) :
    exec (.movi sd imm) s = .next (s.latch (.sreg (s.me.bankOf sd) sd imm.value) 1 0) := by
  change execMovi sd imm s = _
  simp only [execMovi, putS_ok hw, slotDo_ok]

theorem exec_movhi_ok {s : State} {sd : Fin 64} {d : Word} (hd : rdS s sd = .ok d) (hw : wrS s sd = .ok ()) (v : BitVec 32) :
    exec (.movhi sd v) s = .next (s.latch (.sreg (s.me.bankOf sd) sd (v ++ d.extractLsb' 0 32)) 1 0) := by
  change execMovhi sd v s = _
  simp only [execMovhi, hd, slotwise_ok_bind, putS_ok hw, slotDo_ok, BitVec.setWidth_eq_extractLsb' (show 32 ≤ 64 by decide)]

/-! ### Encodings -/

theorem wf_bfx (sx : Bool) (sd sa pos lenm1 : Fin 64) :
    (Instr.bfx sx sd sa pos lenm1).wf = decide (pos.val + lenm1.val + 1 ≤ 64) := rfl
theorem wf_bfi (sd sa pos lenm1 : Fin 64) : (Instr.bfi sd sa pos lenm1).wf = decide (pos.val + lenm1.val + 1 ≤ 64) := rfl

theorem decodeSlot_bfx {w : BitVec 32} (h : w.toNat / 2 ^ 26 = 0x13) (x : List (BitVec 32)) :
    decodeSlot .S w x =
      if x = [] ∧ w.getLsbD 0 = false ∧ (Fin.ofNat 64 (w.toNat / 2 ^ 7)).val + (Fin.ofNat 64 (w.toNat / 2 ^ 1)).val + 1 ≤ 64 then
        some (.bfx (w.getLsbD 25) (Fin.ofNat 64 (w.toNat / 2 ^ 19)) (Fin.ofNat 64 (w.toNat / 2 ^ 13)) (Fin.ofNat 64 (w.toNat / 2 ^ 7))
          (Fin.ofNat 64 (w.toNat / 2 ^ 1))) else none := by
  simp only [decodeSlot_S, decodeS, h, decSF_eq]
  simp only [filter_wf_ite_some, wf_bfx, decide_eq_true_eq, and_assoc]

theorem decodeSlot_bfi {w : BitVec 32} (h : w.toNat / 2 ^ 26 = 0x14) (x : List (BitVec 32)) :
    decodeSlot .S w x =
      if (x = [] ∧ w.getLsbD 0 = false ∧ (Fin.ofNat 64 (w.toNat / 2 ^ 7)).val + (Fin.ofNat 64 (w.toNat / 2 ^ 1)).val + 1 ≤ 64) ∧
          w.getLsbD 25 = false then
        some (.bfi (Fin.ofNat 64 (w.toNat / 2 ^ 19)) (Fin.ofNat 64 (w.toNat / 2 ^ 13)) (Fin.ofNat 64 (w.toNat / 2 ^ 7))
          (Fin.ofNat 64 (w.toNat / 2 ^ 1))) else none := by
  simp only [decodeSlot_S, decodeS, h, decSF_eq]
  cases w.getLsbD 25 with
  | true => simp
  | false => simp only [Bool.false_eq_true, if_false, filter_wf_ite_some, wf_bfi, decide_eq_true_eq, and_assoc, and_true]

theorem decodeSlot_movi {w : BitVec 32} (h : w.toNat / 2 ^ 26 = 0x1A) (x : List (BitVec 32)) :
    decodeSlot .S w x =
      if w.getLsbD 25 = false ∧ x = [] then some (.movi (Fin.ofNat 64 (w.toNat / 2 ^ 19)) (.short (w.extractLsb' 0 19)))
      else if w.getLsbD 25 = false ∧ w.toNat % 2 ^ 19 = 0 ∧ x.length = 1 then
        some (.movi (Fin.ofNat 64 (w.toNat / 2 ^ 19)) (.long (x.headD 0))) else none := by
  simp only [decodeSlot_S, decodeS, h, decMovi_eq]
  split
  · rfl
  · split <;> rfl

theorem decodeSlot_movhi {w : BitVec 32} (h : w.toNat / 2 ^ 26 = 0x1B) (x : List (BitVec 32)) :
    decodeSlot .S w x = if w.getLsbD 25 = false ∧ w.toNat % 2 ^ 19 = 0 ∧ x.length = 1 then
      some (.movhi (Fin.ofNat 64 (w.toNat / 2 ^ 19)) (x.headD 0)) else none := by
  simp only [decodeSlot_S, decodeS, h, decMovhi_eq]
  split <;> rfl

/-- Settles O3: the layouts in closed form, and the results bit by bit. -/
theorem fieldsAndMoves : Obligations.FieldsAndMoves := by
  refine ⟨fun w x => ⟨fun h => decodeSlot_bfx h x, fun h => decodeSlot_bfi h x, fun h => decodeSlot_movi h x,
    fun h => decodeSlot_movhi h x⟩, failingSlot_traps, ?_, by decide, by decide, by decide, by decide, by decide⟩
  intro s sd sa a d ha hd hw put
  refine ⟨fun pos lenm1 _ => ⟨exec_bfx_ok ha hw false pos lenm1, exec_bfx_ok ha hw true pos lenm1, ?_⟩,
    fun v => exec_movi_ok hw (.short v), fun v => ⟨exec_movi_ok hw (.long v), exec_movhi_ok hd hw v⟩⟩
  exact ⟨_, exec_bfi_ok ha hd hw pos lenm1, fun i hi => getLsbD_insertField a d pos.val lenm1.val hi⟩

end Sys2Proof.Machine
end

section
/-! PROOF. CLZ and POPC (R328, R357): their layout, and the counts of the model's arithmetic as counts of bits. -/

namespace Sys2Proof.Machine

/-! ### The arms of the dispatch -/

theorem exec_clz (ty : Ty) (sd sa : Fin 64) (s : State) : exec (.clz ty sd sa) s = aluCount iClz ty sd sa s := rfl
theorem exec_popc (ty : Ty) (sd sa : Fin 64) (s : State) :
    exec (.popc ty sd sa) s = aluCount (fun f a => popCount a f.opWidth) ty sd sa s := rfl

/-! ### Encodings -/

/-- An opcode of format SR with SB zero whose instructions take the integer types and the link form. -/
theorem decodeSlot_of_decUn {op : Nat} {mk : Ty → Fin 64 → Fin 64 → Instr}
    (hdec : ∀ n x, n / 2 ^ 26 = op → decodeS n x = decUn mk n x) (hwf : ∀ ty d a, (mk ty d a).wf = ty.intOrLink)
    (w : BitVec 32) (x : List (BitVec 32)) (hop : w.toNat / 2 ^ 26 = op) :
    let t := w.toNat / 2 ^ 3 % 2 ^ 4
    decodeSlot .S w x =
      if x = [] ∧ w.getLsbD 25 = false ∧ w.toNat / 2 ^ 7 % 2 ^ 6 = 0 ∧ w.toNat % 2 ^ 3 = 0 ∧
          ((5 ≤ t ∧ t ≤ 12) ∨ t = 14) then
        (Ty.ofCode t).map fun ty => mk ty (Fin.ofNat 64 (w.toNat / 2 ^ 19)) (Fin.ofNat 64 (w.toNat / 2 ^ 13)) else none := by
  intro t
  rw [decodeSlot_S, hdec _ _ hop, decUn_eq, filter_wf_map_ofCode (fun ty => hwf ty _ _) _ (type_field_lt _)]
  simp only [t, and_assoc]

/-! ### The counts -/

theorem opWidth_pos (f : Fmt) : 0 < f.opWidth := by cases f <;> decide

theorem testBit_low (f : Fmt) (a : Word) {i : Nat} (hi : i < f.opWidth) : (f.low a).testBit i = a.getLsbD i := by
  rw [Fmt.low, Nat.testBit_mod_two_pow, decide_eq_true hi, Bool.true_and, BitVec.getLsbD]

theorem popCount_eq_length_filter (a n : Nat) : popCount a n = ((List.range n).filter a.testBit).length := by
  induction n with
  | zero => rfl
  | succ n ih =>
    have hbit : a / 2 ^ n % 2 = ([n].filter a.testBit).length := by
      rw [List.filter_cons, Nat.testBit_eq_decide_div_mod_eq]
      rcases Nat.mod_two_eq_zero_or_one (a / 2 ^ n) with h | h <;> rw [h] <;> rfl
    rw [popCount, ih, hbit, List.range_succ, List.filter_append, List.length_append]

theorem length_filter_getLsbD (f : Fmt) (a : Word) :
    ((List.range f.opWidth).filter fun i => a.getLsbD i).length = popCount (f.low a) f.opWidth := by
  rw [popCount_eq_length_filter]
  congr 1
  exact List.filter_congr fun i hi => (testBit_low f a (List.mem_range.1 hi)).symm

/-- The leading zeros of a number of w bits: all w of zero, else those above its highest bit. -/
theorem findIdx_range_testBit {n w : Nat} (h : n < 2 ^ w) :
    (List.range w).findIdx (fun i => n.testBit (w - 1 - i)) = if n = 0 then w else w - 1 - n.log2 := by
  split
  case isTrue hzero =>
    subst hzero
    have hall : (List.range w).findIdx (fun i => Nat.testBit 0 (w - 1 - i)) = (List.range w).length :=
      List.findIdx_eq_length.2 fun i _ => Nat.zero_testBit _
    rwa [List.length_range] at hall
  case isFalse hpos =>
    have hlog : n.log2 < w := (Nat.log2_lt hpos).2 h
    rw [List.findIdx_eq (by rw [List.length_range]; omega), List.getElem_range]
    refine ⟨?_, fun j hj => ?_⟩
    · rw [show w - 1 - (w - 1 - n.log2) = n.log2 by omega, Nat.testBit_log2 hpos]
    · rw [List.getElem_range]
      exact Nat.testBit_lt_two_pow ((Nat.log2_lt hpos).1 (by omega))

theorem length_takeWhile_not_getLsbD (f : Fmt) (a : Word) :
    ((List.range f.opWidth).takeWhile fun i => !a.getLsbD (f.opWidth - 1 - i)).length = iClz f (f.low a) := by
  have hbits : (fun i => !a.getLsbD (f.opWidth - 1 - i)) = fun i => !(f.low a).testBit (f.opWidth - 1 - i) := by
    funext i
    have hpos := opWidth_pos f
    rw [testBit_low f a (by omega)]
  simp only [hbits, List.takeWhile_eq_take_findIdx_not, List.length_take, Bool.not_not]
  rw [Nat.min_eq_left List.findIdx_le_length, findIdx_range_testBit (low_lt f a), iClz]

/-! ### Results -/

/-- On a type that is no link form a count goes to a scalar register. -/
theorem aluCount_fmt_ok {op : Fmt → Nat → Nat} {f : Fmt} {sd sa : Fin 64} {s : State} {a v : Word} (ha : rdS s sa = .ok a)
    (hw : wrS s sd = .ok ()) (hv : BitVec.ofNat 64 (op f (f.low a)) = v) :
    aluCount op (.fmt f) sd sa s = .next (s.latch (.sreg (s.me.bankOf sd) sd v) 1 0) := by
  rw [aluCount_ok (ty := .fmt f) ha (by rwa [popT_fmt, wrT_fmt]), popT_fmt, destT_fmt, show (Ty.fmt f).base = f from rfl, hv]

theorem exec_clz_ok {s : State} {ty : Ty} {sd sa : Fin 64} {a : Word} (ha : rdT s ty sa = .ok a)
    (hw : wrT (popT s ty [sa]) ty sd = .ok ()) :
    exec (.clz ty sd sa) s = .next ((popT s ty [sa]).latch ((popT s ty [sa]).me.destT ty sd (BitVec.ofNat 64
      ((List.range ty.base.opWidth).takeWhile fun i => !a.getLsbD (ty.base.opWidth - 1 - i)).length)) 1 0) := by
  rw [exec_clz, aluCount_ok ha hw, length_takeWhile_not_getLsbD]

theorem exec_popc_ok {s : State} {ty : Ty} {sd sa : Fin 64} {a : Word} (ha : rdT s ty sa = .ok a)
    (hw : wrT (popT s ty [sa]) ty sd = .ok ()) :
    exec (.popc ty sd sa) s = .next ((popT s ty [sa]).latch ((popT s ty [sa]).me.destT ty sd (BitVec.ofNat 64
      ((List.range ty.base.opWidth).filter fun i => a.getLsbD i).length)) 1 0) := by
  rw [exec_popc, aluCount_ok ha hw, length_filter_getLsbD]

/-- Settles O59: the layout is SR's with SB zero, the counts those of the bits. -/
theorem bitCounts : Obligations.BitCounts := by
  refine ⟨fun w x => ⟨decodeSlot_of_decUn (fun n x h => by simp only [decodeS, h]) (fun _ _ _ => rfl) w x,
      decodeSlot_of_decUn (fun n x h => by simp only [decodeS, h]) (fun _ _ _ => rfl) w x⟩,
    fun s ty sd sa a ha hw => ⟨exec_clz_ok ha hw, exec_popc_ok ha hw⟩, ?_⟩
  intro s hw put
  refine ⟨by decide, by decide, fun ha => ?_, fun ha => ?_⟩
  · rw [exec_clz]; exact aluCount_fmt_ok ha hw (by decide)
  · rw [exec_popc]; exact aluCount_fmt_ok ha hw (by decide)

end Sys2Proof.Machine
end

section
/-! PROOF. SEL (R361): the predicate in the type field's place, and the register that it selects. -/

namespace Sys2Proof.Machine

/-! ### Encoding -/

/-- A field of four bits names a predicate. -/
theorem fn_predicate_field (v : Nat) : fn 16 (v % 2 ^ 4) = Fin.ofNat 16 v := Fin.ext (Nat.mod_mod v 16)

theorem decSel_eq (w : BitVec 32) (x : List (BitVec 32)) :
    decSel w.toNat x = if x = [] ∧ w.getLsbD 25 = false ∧ w.toNat % 2 ^ 3 = 0 then
      some (.sel (Fin.ofNat 16 (w.toNat / 2 ^ 3)) (Fin.ofNat 64 (w.toNat / 2 ^ 19)) (Fin.ofNat 64 (w.toNat / 2 ^ 13))
        (Fin.ofNat 64 (w.toNat / 2 ^ 7))) else none := by
  unfold decSel
  rw [unpack_SR]
  cases x with
  | nil => simp only [-Nat.reducePow, bit_field_eq_zero, fn_field, fn_predicate_field, true_and]
  | cons e x => simp only [reduceCtorEq, false_and, if_false]

/-- Every SEL passes the checks on the instruction alone. -/
theorem wf_sel (p : Fin 16) (sd sa sb : Fin 64) : (Instr.sel p sd sa sb).wf = true := rfl

theorem decodeSlot_sel {w : BitVec 32} (h : w.toNat / 2 ^ 26 = 0x10) (x : List (BitVec 32)) :
    decodeSlot .S w x = if x = [] ∧ w.getLsbD 25 = false ∧ w.toNat % 2 ^ 3 = 0 then
      some (.sel (Fin.ofNat 16 (w.toNat / 2 ^ 3)) (Fin.ofNat 64 (w.toNat / 2 ^ 19)) (Fin.ofNat 64 (w.toNat / 2 ^ 13))
        (Fin.ofNat 64 (w.toNat / 2 ^ 7))) else none := by
  simp only [decodeSlot_S, decodeS, h, decSel_eq]
  simp only [filter_wf_ite_some, wf_sel, and_true]

/-! ### Result -/

theorem exec_sel (p : Fin 16) (sd sa sb : Fin 64) (s : State) : exec (.sel p sd sa sb) s = execSel p sd sa sb s := rfl

theorem exec_sel_ok {s : State} {sd sa sb : Fin 64} {a b : Word} (ha : rdS s sa = .ok a) (hb : rdS s sb = .ok b)
    (hw : wrS s sd = .ok ()) (p : Fin 16) :
    exec (.sel p sd sa sb) s = .next (s.latch (.sreg (s.me.bankOf sd) sd (if rdP s p then a else b)) 1 0) := by
  simp only [exec_sel, execSel, ha, hb, slotwise_ok_bind, putS_ok hw, slotDo_ok]

/-- Settles O58: the layout is SR's with a predicate in the type's place, and the selected register goes to SD with latency 1. -/
theorem select : Obligations.Select :=
  ⟨fun _ x h => decodeSlot_sel h x, fun _ p _ _ _ _ _ ha hb hw => exec_sel_ok ha hb hw p, fun _ _ _ _ => rfl, by decide⟩

end Sys2Proof.Machine
end

section
/-! PROOF. Words and fields (R56 to R72): `pack` and `unpack` are inverse on fields that fit their widths, and so are the codes of every
operand form. -/

namespace Sys2Proof

/-! ### Facts about core types: the package's files stand on core Lean alone -/

theorem ite_eq_of_iff {α : Type u} {p q : Prop} [Decidable p] [Decidable q] {a b c d : α} (h : p ↔ q) (hac : a = c) (hbd : b = d) :
    (if p then a else b) = if q then c else d := by
  rw [hac, hbd]
  exact ite_congr (propext h) (fun _ => rfl) fun _ => rfl

theorem getD_eq_getElem_of_lt {α : Type u} (l : List α) (d : α) {i : Nat} (h : i < l.length) : l.getD i d = l[i] := by
  rw [List.getD_eq_getElem?_getD, List.getElem?_eq_getElem h, Option.getD_some]

theorem getD_eq_default_of_le {α : Type u} (l : List α) (d : α) {i : Nat} (h : l.length ≤ i) : l.getD i d = d := by
  rw [List.getD_eq_getElem?_getD, List.getElem?_eq_none h, Option.getD_none]

theorem takeWhile_eq_self {α : Type u} {p : α → Bool} {l : List α} (h : ∀ a ∈ l, p a = true) : l.takeWhile p = l := by
  induction l with
  | nil => rfl
  | cons a l ih => rw [List.takeWhile_cons_of_pos (h a (List.mem_cons_self ..)), ih fun b hb => h b (List.mem_cons_of_mem a hb)]

theorem vector_get_ofFn {α : Type u} {n : Nat} (f : Fin n → α) (i : Fin n) : (Vector.ofFn f).get i = f i :=
  Vector.getElem_ofFn i.isLt

theorem eq_of_lt_four {m : Nat} (h : m < 4) : m = 0 ∨ m = 1 ∨ m = 2 ∨ m = 3 := by omega

/-! ### Layouts -/

theorem pack_lt : ∀ {ws vs : List Nat}, fitsIn ws vs → pack ws vs < 2 ^ ws.sum
  | [], [], _ => Nat.one_pos
  | w :: ws, v :: vs, ⟨hv, h⟩ => by
    have hp := pack_lt h
    calc v * 2 ^ ws.sum + pack ws vs < v * 2 ^ ws.sum + 2 ^ ws.sum := Nat.add_lt_add_left hp _
      _ = (v + 1) * 2 ^ ws.sum := (Nat.succ_mul _ _).symm
      _ ≤ 2 ^ w * 2 ^ ws.sum := Nat.mul_le_mul_right _ hv
      _ = 2 ^ (w :: ws).sum := by rw [List.sum_cons, Nat.pow_add]

theorem pack_cons_div {w v : Nat} {ws vs : List Nat} (h : fitsIn ws vs) : pack (w :: ws) (v :: vs) / 2 ^ ws.sum = v := by
  rw [pack, Nat.mul_comm, Nat.mul_add_div (Nat.two_pow_pos _), Nat.div_eq_of_lt (pack_lt h), Nat.add_zero]

theorem pack_cons_mod {w v : Nat} {ws vs : List Nat} (h : fitsIn ws vs) :
    pack (w :: ws) (v :: vs) % 2 ^ ws.sum = pack ws vs := by
  rw [pack, Nat.mul_comm, Nat.mul_add_mod, Nat.mod_eq_of_lt (pack_lt h)]

/-- Fields that fit their widths are read back. -/
theorem unpack_pack : ∀ {ws vs : List Nat}, fitsIn ws vs → unpack ws (pack ws vs) = vs
  | [], [], _ => rfl
  | _ :: _, _ :: _, ⟨_, h⟩ => by rw [unpack, pack_cons_div h, pack_cons_mod h, unpack_pack h]

/-- The fields of a word fit their widths and make the word. -/
theorem fitsIn_unpack : ∀ {ws : List Nat} {n : Nat}, n < 2 ^ ws.sum → fitsIn ws (unpack ws n)
  | [], _, _ => trivial
  | w :: ws, n, h => by
    rw [List.sum_cons, Nat.pow_add] at h
    exact ⟨Nat.div_lt_of_lt_mul (by rwa [Nat.mul_comm] at h), fitsIn_unpack (Nat.mod_lt _ (Nat.two_pow_pos _))⟩

theorem pack_unpack : ∀ {ws : List Nat} {n : Nat}, n < 2 ^ ws.sum → pack ws (unpack ws n) = n
  | [], n, h => (Nat.lt_one_iff.1 h).symm
  | w :: ws, n, _ => by
    rw [unpack, pack, pack_unpack (Nat.mod_lt _ (Nat.two_pow_pos _)), Nat.mul_comm, Nat.div_add_mod]

/-- A word of 32 bits has exactly the fields of which it is made. -/
theorem unpack_eq_iff {ws vs : List Nat} {n : Nat} (h : n < 2 ^ ws.sum) : unpack ws n = vs ↔ fitsIn ws vs ∧ pack ws vs = n := by
  constructor
  · rintro rfl
    exact ⟨fitsIn_unpack h, pack_unpack h⟩
  · rintro ⟨hf, rfl⟩
    exact unpack_pack hf

theorem unpack_head {w : Nat} {ws vs : List Nat} {v n : Nat} (h : unpack (w :: ws) n = v :: vs) : v = n / 2 ^ ws.sum :=
  (List.cons.inj h).1.symm

end Sys2Proof
end

section
/-! PROOF. The codes of operands (R61 to R72): each reads back what was written, and writes back what was read. -/

namespace Sys2Proof

/-! ### Bits and numbers -/

theorem ofBit_lt (b : Bool) : ofBit b < 2 ^ 1 := by cases b <;> decide
@[simp] theorem bit_ofBit (b : Bool) : bit (ofBit b) = b := by cases b <;> rfl
theorem ofBit_bit (n : Nat) : ofBit (bit n) = n % 2 := by
  unfold ofBit bit
  rcases Nat.mod_two_eq_zero_or_one n with h | h <;> rw [h] <;> rfl
@[simp] theorem fn_val {n : Nat} [NeZero n] (a : Fin n) : fn n a.val = a := Fin.ofNat_val_eq_self a

/-! ### Named alternatives -/

theorem Fmt.code_lt (f : Fmt) : f.code < 2 ^ 4 := by cases f <;> decide
@[simp] theorem Fmt.ofCode_code (f : Fmt) : Fmt.ofCode f.code = some f := by cases f <;> rfl
theorem Fmt.code_of_ofCode {n : Nat} {f : Fmt} (h : Fmt.ofCode n = some f) : f.code = n := by
  unfold Fmt.ofCode at h
  split at h <;> cases h <;> rfl

theorem Ty.code_lt : ∀ t : Ty, t.code < 2 ^ 4
  | .fmt f => f.code_lt
  | .link => by decide
@[simp] theorem Ty.ofCode_code : ∀ t : Ty, Ty.ofCode t.code = some t
  | .fmt f => by cases f <;> rfl
  | .link => rfl
theorem Ty.code_of_ofCode {n : Nat} {t : Ty} (h : Ty.ofCode n = some t) : t.code = n := by
  unfold Ty.ofCode at h
  split at h
  · cases h; rfl
  · obtain ⟨f, hf, rfl⟩ := Option.map_eq_some_iff.1 h
    exact Fmt.code_of_ofCode hf

theorem Scope.code_lt (c : Scope) : c.code < 2 ^ 3 := by cases c <;> decide
@[simp] theorem Scope.ofCode_code (c : Scope) : Scope.ofCode c.code = some c := by cases c <;> rfl
theorem Scope.code_of_ofCode {n : Nat} {c : Scope} (h : Scope.ofCode n = some c) : c.code = n := by
  unfold Scope.ofCode at h
  split at h <;> cases h <;> rfl

theorem scopeCode_lt (c : Option Scope) : scopeCode c < 2 ^ 3 := by rcases c with _ | ⟨_ | _⟩ <;> decide
@[simp] theorem scopeOpt_scopeCode (c : Option Scope) : scopeOpt (scopeCode c) = some c := by rcases c with _ | ⟨_ | _⟩ <;> rfl
theorem scopeCode_of_scopeOpt {n : Nat} {c : Option Scope} (h : scopeOpt n = some c) : scopeCode c = n := by
  unfold scopeOpt at h
  split at h
  · cases h; exact Eq.symm ‹n = 5›
  · obtain ⟨s, hs, rfl⟩ := Option.map_eq_some_iff.1 h
    exact Scope.code_of_ofCode hs

theorem Cond.code_lt (c : Cond) : c.code < 2 ^ 3 := by cases c <;> decide
@[simp] theorem Cond.ofCode_code (c : Cond) : Cond.ofCode c.code = some c := by cases c <;> rfl
theorem Cond.code_of_ofCode {n : Nat} {c : Cond} (h : Cond.ofCode n = some c) : c.code = n := by
  unfold Cond.ofCode at h
  split at h <;> cases h <;> rfl

theorem Cop.code_lt (c : Cop) : c.code < 2 ^ 3 := by cases c <;> decide
@[simp] theorem Cop.ofCode_code (c : Cop) : Cop.ofCode c.code = some c := by cases c <;> rfl
theorem Cop.code_of_ofCode {n : Nat} {c : Cop} (h : Cop.ofCode n = some c) : c.code = n := by
  unfold Cop.ofCode at h
  split at h <;> cases h <;> rfl

theorem Rop.code_lt (r : Rop) : r.code < 2 ^ 3 := by cases r <;> decide
@[simp] theorem Rop.ofCode_code (r : Rop) : Rop.ofCode r.code = some r := by cases r <;> rfl
theorem Rop.code_of_ofCode {n : Nat} {r : Rop} (h : Rop.ofCode n = some r) : r.code = n := by
  unfold Rop.ofCode at h
  split at h <;> cases h <;> rfl

theorem SumKind.code_lt (k : SumKind) : k.code < 2 ^ 6 := by cases k <;> decide
@[simp] theorem SumKind.ofCode_code (k : SumKind) : SumKind.ofCode k.code = some k := by cases k <;> rfl
theorem SumKind.code_of_ofCode {n : Nat} {k : SumKind} (h : SumKind.ofCode n = some k) : k.code = n := by
  unfold SumKind.ofCode at h
  split at h <;> cases h <;> rfl

theorem Rm.code_lt (r : Rm) : r.code < 2 ^ 2 := by cases r <;> decide
@[simp] theorem Rm.ofCode_code (r : Rm) : Rm.ofCode r.code = r := by cases r <;> rfl
theorem Rm.code_ofCode (n : Nat) : (Rm.ofCode n).code = n % 4 := by
  unfold Rm.ofCode
  have h : n % 4 < 4 := Nat.mod_lt _ (by decide)
  generalize n % 4 = m at h
  obtain rfl | rfl | rfl | rfl := eq_of_lt_four h <;> rfl

/-! ### Row fields (R66) -/

theorem Row8.code_lt : ∀ r : Row8, r.code < 2 ^ 8
  | .imm b => by have := b.isLt; simp only [Row8.code]; omega
  | .reg r => by have := r.isLt; simp only [Row8.code]; omega
@[simp] theorem Row8.ofCode_code : ∀ r : Row8, Row8.ofCode r.code = some r
  | .imm b => by rw [Row8.code, Row8.ofCode, if_pos b.isLt, fn_val]
  | .reg r => by
    have hmod : fn 64 (128 + r.val) = r := Fin.ext (by have := r.isLt; simp only [Fin.ofNat]; omega)
    rw [Row8.code, Row8.ofCode, if_neg (by omega), if_pos (by omega), hmod]
theorem Row8.code_of_ofCode {n : Nat} {r : Row8} (h : Row8.ofCode n = some r) : r.code = n := by
  unfold Row8.ofCode at h
  split at h
  · cases h; exact Nat.mod_eq_of_lt ‹_›
  · split at h
    · cases h; simp only [Row8.code, Fin.ofNat]; omega
    · cases h

theorem Row7.code_lt : ∀ r : Row7, r.code < 2 ^ 7
  | .imm b => by have := b.isLt; simp only [Row7.code]; omega
  | .reg r => by have := r.isLt; simp only [Row7.code]; omega
@[simp] theorem Row7.ofCode_code : ∀ r : Row7, Row7.ofCode r.code = r
  | .imm b => by rw [Row7.code, Row7.ofCode, if_pos b.isLt, fn_val]
  | .reg r => by
    have hmod : fn 64 (64 + r.val) = r := Fin.ext (by have := r.isLt; simp only [Fin.ofNat]; omega)
    rw [Row7.code, Row7.ofCode, if_neg (by omega), hmod]
theorem Row7.code_ofCode {n : Nat} (h : n < 128) : (Row7.ofCode n).code = n := by
  unfold Row7.ofCode
  split
  · exact Nat.mod_eq_of_lt ‹_›
  · simp only [Row7.code, Fin.ofNat]; omega

/-! ### Extension words -/

theorem ofNat_pack_toNat {ws vs : List Nat} (hs : ws.sum = 32) (h : fitsIn ws vs) : (BitVec.ofNat 32 (pack ws vs)).toNat = pack ws vs :=
  Nat.mod_eq_of_lt (hs ▸ pack_lt h)

/-- An extension word of fields that fit reads back as them. -/
theorem unpack_ofNat_pack {ws vs : List Nat} (hs : ws.sum = 32) (h : fitsIn ws vs) :
    unpack ws (BitVec.ofNat 32 (pack ws vs)).toNat = vs := by rw [ofNat_pack_toNat hs h, unpack_pack h]

@[simp] theorem Modifier.ofWord_word (m : Modifier) : Modifier.ofWord m.word = some m := by
  have hf : fitsIn [8, 8, 8, 2, 1, 4, 1] [m.doff.val, m.aoff.val, m.boff.val, m.rm.val, ofBit m.pen, m.psel.val, ofBit m.pneg] :=
    ⟨m.doff.isLt, m.aoff.isLt, m.boff.isLt, m.rm.isLt, ofBit_lt _, m.psel.isLt, ofBit_lt _, trivial⟩
  simp only [Modifier.ofWord, Modifier.word, unpack_ofNat_pack rfl hf, fn_val, bit_ofBit]
theorem Modifier.word_of_ofWord {w : BitVec 32} {m : Modifier} (h : Modifier.ofWord w = some m) : m.word = w := by
  cases h
  apply BitVec.eq_of_toNat_eq
  simp [Modifier.word, pack, ofBit_bit]
  omega

@[simp] theorem modOf_modWords (m : Option Modifier) : modOf (modWords m) = some m := by
  cases m <;> simp [modWords, modOf]
theorem modWords_of_modOf {x : List (BitVec 32)} {m : Option Modifier} (h : modOf x = some m) : modWords m = x := by
  unfold modOf at h
  split at h
  · cases h; rfl
  · obtain ⟨m, hm, rfl⟩ := Option.map_eq_some_iff.1 h
    simp [modWords, Modifier.word_of_ofWord hm]
  · cases h

@[simp] theorem optWord_toList (e : Option (BitVec 32)) : optWord e.toList = some e := by cases e <;> rfl
theorem toList_of_optWord {x : List (BitVec 32)} {e : Option (BitVec 32)} (h : optWord x = some e) : e.toList = x := by
  unfold optWord at h
  split at h <;> cases h <;> rfl

@[simp] theorem PostTarget.ofWord_word (t : PostTarget) : PostTarget.ofWord t.word = some t := by
  have hf : fitsIn [3, 12, 2, 6, 1, 8] [t.sc.code, t.id.pkg.toNat, t.id.die.val, t.id.core.val, ofBit t.id.ctx, 0] :=
    ⟨t.sc.code_lt, t.id.pkg.isLt, t.id.die.isLt, t.id.core.isLt, ofBit_lt _, Nat.two_pow_pos _, trivial⟩
  rw [PostTarget.ofWord, PostTarget.word, unpack_ofNat_pack rfl hf]
  simp
theorem PostTarget.word_of_ofWord {w : BitVec 32} {t : PostTarget} (h : PostTarget.ofWord w = some t) : t.word = w := by
  simp [PostTarget.ofWord, unpack] at h
  obtain ⟨hz, sc, hs, rfl⟩ := h
  apply BitVec.eq_of_toNat_eq
  simp [PostTarget.word, pack, ofBit_bit, Scope.code_of_ofCode hs]
  omega

@[simp] theorem NotifWord.ofWord_word (n : NotifWord) : NotifWord.ofWord n.word = some n := by
  have hf : fitsIn [8, 1, 12, 2, 6, 1, 2]
      [n.group.val, ofBit n.rf, n.id.pkg.toNat, n.id.die.val, n.id.core.val, ofBit n.id.ctx, 0] :=
    ⟨n.group.isLt, ofBit_lt _, n.id.pkg.isLt, n.id.die.isLt, n.id.core.isLt, ofBit_lt _, Nat.two_pow_pos _, trivial⟩
  rw [NotifWord.ofWord, NotifWord.word, unpack_ofNat_pack rfl hf]
  simp
theorem NotifWord.word_of_ofWord {w : BitVec 32} {n : NotifWord} (h : NotifWord.ofWord w = some n) : n.word = w := by
  simp [NotifWord.ofWord, unpack] at h
  obtain ⟨hz, rfl⟩ := h
  apply BitVec.eq_of_toNat_eq
  simp [NotifWord.word, pack, ofBit_bit]
  omega

@[simp] theorem RedWord.ofWord_word (r : RedWord) : RedWord.ofWord r.word = some r := by
  have hf : fitsIn [10, 3, 2, 17] [r.rid.val, r.rop.code, r.lw.val, 0] :=
    ⟨r.rid.isLt, r.rop.code_lt, r.lw.isLt, Nat.two_pow_pos _, trivial⟩
  rw [RedWord.ofWord, RedWord.word, unpack_ofNat_pack rfl hf]
  simp
theorem RedWord.word_of_ofWord {w : BitVec 32} {r : RedWord} (h : RedWord.ofWord w = some r) : r.word = w := by
  simp [RedWord.ofWord, unpack] at h
  obtain ⟨hz, op, ho, rfl⟩ := h
  apply BitVec.eq_of_toNat_eq
  simp [RedWord.word, pack, Rop.code_of_ofCode ho]
  omega

@[simp] theorem notifOf_words (n : Notif) : notifOf (ofBit n.ui) (ofBit n.gv) (ofBit n.fv) n.k.val n.words = some n := by
  obtain ⟨ui, gv, fv, k, _ | w⟩ := n <;> simp [notifOf, Notif.words]
/-- The notification that fields and words stand for. -/
theorem notif_of_notifOf {ui gv fv k : Nat} {x : List (BitVec 32)} {n : Notif} (h : notifOf ui gv fv k x = some n) :
    n.words = x ∧ ofBit n.ui = ui % 2 ∧ ofBit n.gv = gv % 2 ∧ ofBit n.fv = fv % 2 ∧ n.k.val = k % 32 := by
  unfold notifOf at h
  split at h
  · cases h
    exact ⟨rfl, ofBit_bit _, ofBit_bit _, ofBit_bit _, rfl⟩
  · obtain ⟨m, hm, rfl⟩ := Option.map_eq_some_iff.1 h
    exact ⟨by simp [Notif.words, NotifWord.word_of_ofWord hm], ofBit_bit _, ofBit_bit _, ofBit_bit _, rfl⟩
  · cases h

end Sys2Proof
end

section
/-! PROOF. The formats of slot S (R63): what an encoder of a format writes its decoder reads, and a word that the decoder reads is what the
encoder writes. A format's lemmas take the opcode with its row of the table of R74. -/

namespace Sys2Proof

/-- The words decode to the instruction, by the layouts of their slot class. -/
def Enc.Reads (e : Enc) (i : Instr) : Prop := e.word < 2 ^ 32 ∧ decodeClass e.slot e.word e.ext = some i

/-- Fields that fit behind their opcode read as what the opcode's decoder makes of them. -/
theorem Enc.reads_of_fits {sl : Slot} {op : Nat} {ws vs : List Nat} {x : List (BitVec 32)} {i : Instr}
    {dec : Nat → List (BitVec 32) → Option Instr} (hdec : ∀ w x, w / 2 ^ 26 = op → decodeClass sl w x = dec w x)
    (hsum : ws.sum = 26) (hf : fitsIn (6 :: ws) (op :: vs)) (h : dec (pack (6 :: ws) (op :: vs)) x = some i) :
    Enc.Reads ⟨sl, pack (6 :: ws) (op :: vs), x⟩ i := by
  have hop : pack (6 :: ws) (op :: vs) / 2 ^ 26 = op := hsum ▸ pack_cons_div (w := 6) hf.2
  have hlt := pack_lt hf
  rw [List.sum_cons, hsum] at hlt
  exact ⟨hlt, (hdec _ _ hop).trans h⟩

section
variable {op w : Nat} {e : Enc} {i : Instr} {x : List (BitVec 32)}

/-! ### SR and its variants -/

theorem reads_SR {f} {ty : Ty} {d a b : Fin 64} (hdec : ∀ w x, w / 2 ^ 26 = op → decodeS w x = decSR f w x)
    (hop : op < 2 ^ 6) (he : encSR op ty d a b 0 = some e) : e.Reads (f ty d a b) := by
  cases he
  have hf : fitsIn [6, 1, 6, 6, 6, 4, 3] [op, 0, d.val, a.val, b.val, ty.code, 0] :=
    ⟨hop, Nat.two_pow_pos _, d.isLt, a.isLt, b.isLt, ty.code_lt, Nat.two_pow_pos _, trivial⟩
  refine Enc.reads_of_fits hdec rfl hf ?_
  simp only [decSR, unpack_pack hf]
  simp

theorem words_SR {f} (henc : ∀ ty d a b, encode (f ty d a b) = encSR op ty d a b 0) (hop : w / 2 ^ 26 = op)
    (h : decSR f w x = some i) : encode i = some ⟨.S, w, x⟩ := by
  rcases x with _ | _ <;> simp [decSR, unpack] at h
  obtain ⟨⟨h1, h2⟩, ty, ht, rfl⟩ := h
  simp [henc, encSR, pack, Ty.code_of_ofCode ht]
  omega

theorem bit_pack_SI (ty : Ty) (d a : Fin 64) (m : Nat) (hm : m < 2 ^ 9) :
    bit (pack [6, 1, 6, 6, 4, 9] [op, 1, d.val, a.val, ty.code, m] / 2 ^ 25) = true := by
  have := ty.code_lt
  simp [pack, bit]
  omega

theorem reads_SI {f g} {ty : Ty} {d a : Fin 64} {m : Imm9} (hdec : ∀ w x, w / 2 ^ 26 = op → decodeS w x = decMould f g w x)
    (hop : op < 2 ^ 6) (he : encSI op ty d a m = some e) : e.Reads (g ty d a m) := by
  cases m with
  | short v =>
    cases he
    have hf : fitsIn [6, 1, 6, 6, 4, 9] [op, 1, d.val, a.val, ty.code, v.toNat] :=
      ⟨hop, by decide, d.isLt, a.isLt, ty.code_lt, v.isLt, trivial⟩
    refine Enc.reads_of_fits hdec rfl hf ?_
    rw [decMould, if_pos (bit_pack_SI ty d a _ v.isLt)]
    simp only [decSI, unpack_pack hf]
    simp
  | long v =>
    cases he
    have hf : fitsIn [6, 1, 6, 6, 4, 9] [op, 1, d.val, a.val, ty.code, 0] :=
      ⟨hop, by decide, d.isLt, a.isLt, ty.code_lt, Nat.two_pow_pos _, trivial⟩
    refine Enc.reads_of_fits hdec rfl hf ?_
    rw [decMould, if_pos (bit_pack_SI ty d a _ (Nat.two_pow_pos _))]
    simp only [decSI, unpack_pack hf]
    simp

theorem words_SI {g} (henc : ∀ ty d a m, encode (g ty d a m) = encSI op ty d a m) (hop : w / 2 ^ 26 = op)
    (hi : bit (w / 2 ^ 25) = true) (h : decSI g w x = some i) : encode i = some ⟨.S, w, x⟩ := by
  simp [bit] at hi
  rcases x with _ | ⟨e, _ | _⟩ <;> simp [decSI, unpack] at h
  · obtain ⟨ty, ht, rfl⟩ := h
    simp [henc, encSI, pack, Ty.code_of_ofCode ht]
    omega
  · obtain ⟨hm, ty, ht, rfl⟩ := h
    simp [henc, encSI, pack, Ty.code_of_ofCode ht]
    omega

/-- The register form of a member of the mould is format SR: bit 25 is zero there. -/
theorem decSR_of_bit_false {f g} (h : decSR f w x = some i) : decMould f g w x = some i := by
  have hb : ¬ bit (w / 2 ^ 25) = true := by
    rcases x with _ | _ <;> simp [decSR, unpack] at h
    obtain ⟨⟨h1, h2⟩, -⟩ := h
    simp [bit]
    omega
  rw [decMould, if_neg hb, h]

theorem reads_mould {f g} {ty : Ty} {d a b : Fin 64} (hdec : ∀ w x, w / 2 ^ 26 = op → decodeS w x = decMould f g w x)
    (hop : op < 2 ^ 6) (he : encSR op ty d a b 0 = some e) : e.Reads (f ty d a b) := by
  cases he
  have hf : fitsIn [6, 1, 6, 6, 6, 4, 3] [op, 0, d.val, a.val, b.val, ty.code, 0] :=
    ⟨hop, Nat.two_pow_pos _, d.isLt, a.isLt, b.isLt, ty.code_lt, Nat.two_pow_pos _, trivial⟩
  refine Enc.reads_of_fits hdec rfl hf (decSR_of_bit_false ?_)
  simp only [decSR, unpack_pack hf]
  simp

theorem words_mould {f g} (hf : ∀ ty d a b, encode (f ty d a b) = encSR op ty d a b 0)
    (hg : ∀ ty d a m, encode (g ty d a m) = encSI op ty d a m) (hop : w / 2 ^ 26 = op) (h : decMould f g w x = some i) :
    encode i = some ⟨.S, w, x⟩ := by
  unfold decMould at h
  split at h
  · exact words_SI hg hop ‹_› h
  · exact words_SR hf hop h

theorem reads_Cmp {f} {ty : Ty} {c : Cond} {p : Fin 16} {a b : Fin 64}
    (hdec : ∀ w x, w / 2 ^ 26 = op → decodeS w x = decCmp f w x) (hop : op < 2 ^ 6) (he : encCmp op ty c p a b = some e) :
    e.Reads (f ty c p a b) := by
  cases he
  have hf : fitsIn [6, 1, 2, 4, 6, 6, 4, 3] [op, 0, 0, p.val, a.val, b.val, ty.code, c.code] :=
    ⟨hop, Nat.two_pow_pos _, Nat.two_pow_pos _, p.isLt, a.isLt, b.isLt, ty.code_lt, c.code_lt, trivial⟩
  refine Enc.reads_of_fits hdec rfl hf ?_
  simp only [decCmp, unpack_pack hf]
  simp

theorem words_Cmp {f} (henc : ∀ ty c p a b, encode (f ty c p a b) = encCmp op ty c p a b) (hop : w / 2 ^ 26 = op)
    (h : decCmp f w x = some i) : encode i = some ⟨.S, w, x⟩ := by
  rcases x with _ | _ <;> simp [decCmp, unpack] at h
  obtain ⟨⟨h1, h2⟩, h⟩ := h
  split at h
  · rename_i ht hc
    cases h
    simp [henc, encCmp, pack, Ty.code_of_ofCode ht, Cond.code_of_ofCode hc]
    omega
  · cases h

theorem reads_Round {f} {ty : Ty} {rm : Rm} {d a b : Fin 64} (hdec : ∀ w x, w / 2 ^ 26 = op → decodeS w x = decRound f w x)
    (hop : op < 2 ^ 6) (he : encRound op ty rm d a b = some e) : e.Reads (f ty rm d a b) := by
  cases he
  have hf : fitsIn [6, 1, 6, 6, 6, 4, 1, 2] [op, 0, d.val, a.val, b.val, ty.code, 0, rm.code] :=
    ⟨hop, Nat.two_pow_pos _, d.isLt, a.isLt, b.isLt, ty.code_lt, Nat.two_pow_pos _, rm.code_lt, trivial⟩
  refine Enc.reads_of_fits hdec rfl hf ?_
  simp only [decRound, unpack_pack hf]
  simp

theorem words_Round {f} (henc : ∀ ty rm d a b, encode (f ty rm d a b) = encRound op ty rm d a b) (hop : w / 2 ^ 26 = op)
    (h : decRound f w x = some i) : encode i = some ⟨.S, w, x⟩ := by
  rcases x with _ | _ <;> simp [decRound, unpack] at h
  obtain ⟨⟨h1, h2⟩, ty, ht, rfl⟩ := h
  simp [henc, encRound, pack, Ty.code_of_ofCode ht, Rm.code_ofCode]
  omega

theorem reads_Un {f} {ty : Ty} {d a : Fin 64} (hdec : ∀ w x, w / 2 ^ 26 = op → decodeS w x = decUn f w x)
    (hop : op < 2 ^ 6) (he : encSR op ty d a 0 0 = some e) : e.Reads (f ty d a) := by
  cases he
  have hf : fitsIn [6, 1, 6, 6, 6, 4, 3] [op, 0, d.val, a.val, (0 : Fin 64).val, ty.code, 0] :=
    ⟨hop, Nat.two_pow_pos _, d.isLt, a.isLt, Fin.isLt _, ty.code_lt, Nat.two_pow_pos _, trivial⟩
  refine Enc.reads_of_fits hdec rfl hf ?_
  simp only [decUn, unpack_pack hf]
  simp

theorem words_Un {f} (henc : ∀ ty d a, encode (f ty d a) = encSR op ty d a 0 0) (hop : w / 2 ^ 26 = op)
    (h : decUn f w x = some i) : encode i = some ⟨.S, w, x⟩ := by
  rcases x with _ | _ <;> simp [decUn, unpack] at h
  obtain ⟨⟨h1, h2, h3⟩, ty, ht, rfl⟩ := h
  simp [henc, encSR, pack, Ty.code_of_ofCode ht]
  omega

theorem reads_Sel {p : Fin 16} {d a b : Fin 64} (he : encode (.sel p d a b) = some e) : e.Reads (.sel p d a b) := by
  cases he
  have hf : fitsIn [6, 1, 6, 6, 6, 4, 3] [0x10, 0, d.val, a.val, b.val, p.val, 0] :=
    ⟨by decide, Nat.two_pow_pos _, d.isLt, a.isLt, b.isLt, p.isLt, Nat.two_pow_pos _, trivial⟩
  refine Enc.reads_of_fits (dec := decSel) (fun w x h => show decodeS w x = _ by rw [decodeS, h]; rfl) rfl hf ?_
  simp only [decSel, unpack_pack hf]
  simp

theorem words_Sel (hop : w / 2 ^ 26 = 0x10) (h : decSel w x = some i) : encode i = some ⟨.S, w, x⟩ := by
  rcases x with _ | _ <;> simp [decSel, unpack] at h
  obtain ⟨⟨h1, h2⟩, rfl⟩ := h
  simp [encode, pack]
  omega

theorem reads_Fcvt {dst src : Fmt} {rm : Rm} {d a : Fin 64} (he : encode (.fcvt dst src rm d a) = some e) :
    e.Reads (.fcvt dst src rm d a) := by
  cases he
  have hf : fitsIn [6, 1, 6, 6, 2, 4, 4, 1, 2] [0x19, 0, d.val, a.val, 0, src.code, dst.code, 0, rm.code] :=
    ⟨by decide, Nat.two_pow_pos _, d.isLt, a.isLt, Nat.two_pow_pos _, src.code_lt, dst.code_lt, Nat.two_pow_pos _, rm.code_lt,
      trivial⟩
  refine Enc.reads_of_fits (dec := decFcvt) (fun w x h => show decodeS w x = _ by rw [decodeS, h]; rfl) rfl hf ?_
  simp only [decFcvt, unpack_pack hf]
  simp

theorem words_Fcvt (hop : w / 2 ^ 26 = 0x19) (h : decFcvt w x = some i) : encode i = some ⟨.S, w, x⟩ := by
  rcases x with _ | _ <;> simp [decFcvt, unpack] at h
  obtain ⟨⟨h1, h2, h3⟩, h⟩ := h
  split at h
  · rename_i ht hs
    cases h
    simp [encode, pack, Fmt.code_of_ofCode ht, Fmt.code_of_ofCode hs, Rm.code_ofCode]
    omega
  · cases h

/-! ### SF, SW -/

theorem reads_SF {f} {s : Bool} {d a p l : Fin 64} (hdec : ∀ w x, w / 2 ^ 26 = op → decodeS w x = decSF f w x)
    (hop : op < 2 ^ 6) (hi : f s d a p l = some i) (he : encSF op s d a p l = some e) : e.Reads i := by
  cases he
  have hf : fitsIn [6, 1, 6, 6, 6, 6, 1] [op, ofBit s, d.val, a.val, p.val, l.val, 0] :=
    ⟨hop, ofBit_lt s, d.isLt, a.isLt, p.isLt, l.isLt, Nat.two_pow_pos _, trivial⟩
  refine Enc.reads_of_fits hdec rfl hf ?_
  simp only [decSF, unpack_pack hf]
  simpa using hi

theorem words_SF {f} (henc : ∀ s d a p l i, f s d a p l = some i → encode i = encSF op s d a p l) (hop : w / 2 ^ 26 = op)
    (h : decSF f w x = some i) : encode i = some ⟨.S, w, x⟩ := by
  rcases x with _ | _ <;> simp [decSF, unpack] at h
  obtain ⟨h1, h⟩ := h
  rw [henc _ _ _ _ _ _ h]
  simp [encSF, pack, ofBit_bit]
  omega

theorem reads_movi {d : Fin 64} {m : Imm19} (he : encode (.movi d m) = some e) : e.Reads (.movi d m) := by
  cases m with
  | short v =>
    cases he
    have hf : fitsIn [6, 1, 6, 19] [0x1A, 0, d.val, v.toNat] := ⟨by decide, Nat.two_pow_pos _, d.isLt, v.isLt, trivial⟩
    refine Enc.reads_of_fits (dec := decMovi) (fun w x h => show decodeS w x = _ by rw [decodeS, h]; rfl) rfl hf ?_
    simp only [decMovi, unpack_pack hf]
    simp
  | long v =>
    cases he
    have hf : fitsIn [6, 1, 6, 19] [0x1A, 0, d.val, 0] := ⟨by decide, Nat.two_pow_pos _, d.isLt, Nat.two_pow_pos _, trivial⟩
    refine Enc.reads_of_fits (dec := decMovi) (fun w x h => show decodeS w x = _ by rw [decodeS, h]; rfl) rfl hf ?_
    simp only [decMovi, unpack_pack hf]
    simp

theorem words_movi (hop : w / 2 ^ 26 = 0x1A) (h : decMovi w x = some i) : encode i = some ⟨.S, w, x⟩ := by
  rcases x with _ | ⟨e, _ | _⟩ <;> simp [decMovi, unpack] at h
  · obtain ⟨h1, rfl⟩ := h
    simp [encode, pack]
    omega
  · obtain ⟨⟨h1, h2⟩, rfl⟩ := h
    simp [encode, pack]
    omega

theorem reads_movhi {d : Fin 64} {v : BitVec 32} (he : encode (.movhi d v) = some e) : e.Reads (.movhi d v) := by
  cases he
  have hf : fitsIn [6, 1, 6, 19] [0x1B, 0, d.val, 0] := ⟨by decide, Nat.two_pow_pos _, d.isLt, Nat.two_pow_pos _, trivial⟩
  refine Enc.reads_of_fits (dec := decMovhi) (fun w x h => show decodeS w x = _ by rw [decodeS, h]; rfl) rfl hf ?_
  simp only [decMovhi, unpack_pack hf]
  simp

theorem words_movhi (hop : w / 2 ^ 26 = 0x1B) (h : decMovhi w x = some i) : encode i = some ⟨.S, w, x⟩ := by
  rcases x with _ | ⟨e, _ | _⟩ <;> simp [decMovhi, unpack] at h
  obtain ⟨⟨h1, h2⟩, rfl⟩ := h
  simp [encode, pack]
  omega

/-! ### SM -/

theorem fitsIn_SM (hop : op < 2 ^ 6) {xb : Bool} {d a b : Fin 64} {t c : Nat} (ht : t < 2 ^ 4) (hc : c < 2 ^ 3) :
    fitsIn [6, 1, 6, 6, 6, 4, 3] [op, ofBit xb, d.val, a.val, b.val, t, c] :=
  ⟨hop, ofBit_lt xb, d.isLt, a.isLt, b.isLt, ht, hc, trivial⟩

theorem reads_SM {f} {ty : Ty} {sc : Option Scope} {d : Fin 64} {m : MemArg}
    (hdec : ∀ w x, w / 2 ^ 26 = op → decodeS w x = decSM f w x) (hop : op < 2 ^ 6)
    (he : encSM op m.xb d m.sa m.sb ty.code (scopeCode sc) m.ext = some e) : e.Reads (f ty sc d m) := by
  cases he
  have hf := fitsIn_SM hop (xb := m.xb) (d := d) (a := m.sa) (b := m.sb) ty.code_lt (scopeCode_lt sc)
  refine Enc.reads_of_fits hdec rfl hf ?_
  simp only [decSM, unpack_pack hf, optWord_toList]
  simp

theorem words_SM {f} (henc : ∀ ty sc d (m : MemArg), encode (f ty sc d m) =
    encSM op m.xb d m.sa m.sb ty.code (scopeCode sc) m.ext) (hop : w / 2 ^ 26 = op) (h : decSM f w x = some i) :
    encode i = some ⟨.S, w, x⟩ := by
  unfold decSM at h
  rcases hx : optWord x with _ | e <;> simp [hx, unpack] at h
  split at h
  · rename_i ht hc
    cases h
    simp [henc, encSM, pack, Ty.code_of_ofCode ht, scopeCode_of_scopeOpt hc, ofBit_bit, toList_of_optWord hx]
    omega
  · cases h

theorem reads_Atom {f} {ty : Ty} {sc : Scope} {d a b : Fin 64} {v : Option (BitVec 32)}
    (hdec : ∀ w x, w / 2 ^ 26 = op → decodeS w x = decAtom f w x) (hop : op < 2 ^ 6)
    (he : encSM op false d a b ty.code sc.code v = some e) : e.Reads (f ty sc d a b v) := by
  cases he
  have hf := fitsIn_SM hop (xb := false) (d := d) (a := a) (b := b) ty.code_lt sc.code_lt
  refine Enc.reads_of_fits hdec rfl hf ?_
  simp only [decAtom, unpack_pack hf, optWord_toList]
  simp [scopeReq, ofBit]

theorem words_Atom {f} (henc : ∀ ty sc d a b v, encode (f ty sc d a b v) = encSM op false d a b ty.code sc.code v)
    (hop : w / 2 ^ 26 = op) (h : decAtom f w x = some i) : encode i = some ⟨.S, w, x⟩ := by
  unfold decAtom at h
  rcases hx : optWord x with _ | e <;> simp [hx, unpack, scopeReq] at h
  split at h
  · rename_i ht hc
    simp at h
    obtain ⟨hb, rfl⟩ := h
    simp [henc, encSM, pack, Ty.code_of_ofCode ht, Scope.code_of_ofCode hc, ofBit, toList_of_optWord hx]
    omega
  · cases h

theorem reads_Lines {f} {sc : Scope} {a b : Fin 64} {v : Option (BitVec 32)}
    (hdec : ∀ w x, w / 2 ^ 26 = op → decodeS w x = decLines f w x) (hop : op < 2 ^ 6)
    (he : encSM op false 0 a b 0 sc.code v = some e) : e.Reads (f sc a b v) := by
  cases he
  have hf := fitsIn_SM hop (xb := false) (d := 0) (a := a) (b := b) (t := 0) (by decide) sc.code_lt
  refine Enc.reads_of_fits hdec rfl hf ?_
  simp only [decLines, unpack_pack hf, optWord_toList]
  simp [scopeReq, ofBit]

theorem words_Lines {f} (henc : ∀ sc a b v, encode (f sc a b v) = encSM op false 0 a b 0 sc.code v) (hop : w / 2 ^ 26 = op)
    (h : decLines f w x = some i) : encode i = some ⟨.S, w, x⟩ := by
  unfold decLines at h
  rcases hx : optWord x with _ | e <;> simp [hx, unpack, scopeReq] at h
  obtain ⟨⟨h1, h2, h3⟩, sc, hc, rfl⟩ := h
  simp [henc, encSM, pack, Scope.code_of_ofCode hc, ofBit, toList_of_optWord hx]
  omega

theorem reads_zline {sc : Option Scope} {a b : Fin 64} {v : Option (BitVec 32)} (he : encode (.zline sc a b v) = some e) :
    e.Reads (.zline sc a b v) := by
  cases he
  have hf := fitsIn_SM (op := 0x21) (by decide) (xb := false) (d := 0) (a := a) (b := b) (t := 0) (by decide) (scopeCode_lt sc)
  refine Enc.reads_of_fits (dec := decZline) (fun w x h => show decodeS w x = _ by rw [decodeS, h]; rfl) rfl hf ?_
  simp only [decZline, unpack_pack hf, optWord_toList]
  simp [ofBit]

theorem words_zline (hop : w / 2 ^ 26 = 0x21) (h : decZline w x = some i) : encode i = some ⟨.S, w, x⟩ := by
  unfold decZline at h
  rcases hx : optWord x with _ | e <;> simp [hx, unpack] at h
  obtain ⟨⟨h1, h2, h3⟩, sc, hc, rfl⟩ := h
  simp [encode, encSM, pack, scopeCode_of_scopeOpt hc, ofBit, toList_of_optWord hx]
  omega

theorem reads_wdecl {n : Fin 16} {a b s : Fin 64} (he : encode (.wdecl n a b s) = some e) : e.Reads (.wdecl n a b s) := by
  cases he
  have hf : fitsIn [6, 1, 6, 6, 6, 4, 3] [0x22, 0, a.val, b.val, s.val, n.val, 0] :=
    ⟨by decide, Nat.two_pow_pos _, a.isLt, b.isLt, s.isLt, n.isLt, Nat.two_pow_pos _, trivial⟩
  refine Enc.reads_of_fits (dec := decWdecl) (fun w x h => show decodeS w x = _ by rw [decodeS, h]; rfl) rfl hf ?_
  simp only [decWdecl, unpack_pack hf]
  simp

theorem words_wdecl (hop : w / 2 ^ 26 = 0x22) (h : decWdecl w x = some i) : encode i = some ⟨.S, w, x⟩ := by
  rcases x with _ | _ <;> simp [decWdecl, unpack] at h
  obtain ⟨⟨h1, h2⟩, rfl⟩ := h
  simp [encode, pack]
  omega

theorem reads_wdrop {n : Fin 16} (he : encode (.wdrop n) = some e) : e.Reads (.wdrop n) := by
  cases he
  have hf : fitsIn [6, 19, 4, 3] [0x23, 0, n.val, 0] := ⟨by decide, Nat.two_pow_pos _, n.isLt, Nat.two_pow_pos _, trivial⟩
  refine Enc.reads_of_fits (dec := decWdrop) (fun w x h => show decodeS w x = _ by rw [decodeS, h]; rfl) rfl hf ?_
  simp only [decWdrop, unpack_pack hf]
  simp

theorem words_wdrop (hop : w / 2 ^ 26 = 0x23) (h : decWdrop w x = some i) : encode i = some ⟨.S, w, x⟩ := by
  rcases x with _ | _ <;> simp [decWdrop, unpack] at h
  obtain ⟨⟨h1, h2⟩, rfl⟩ := h
  simp [encode, pack]
  omega

/-! ### Control -/

theorem reads_br {n : Bool} {p : Fin 16} {o : BitVec 20} (he : encode (.br n p o) = some e) : e.Reads (.br n p o) := by
  cases he
  have hf : fitsIn [6, 1, 1, 4, 20] [0x30, 0, ofBit n, p.val, o.toNat] :=
    ⟨by decide, Nat.two_pow_pos _, ofBit_lt n, p.isLt, o.isLt, trivial⟩
  refine Enc.reads_of_fits (dec := decBr) (fun w x h => show decodeS w x = _ by rw [decodeS, h]; rfl) rfl hf ?_
  simp only [decBr, unpack_pack hf]
  simp

theorem words_br (hop : w / 2 ^ 26 = 0x30) (h : decBr w x = some i) : encode i = some ⟨.S, w, x⟩ := by
  rcases x with _ | _ <;> simp [decBr, unpack] at h
  obtain ⟨h1, rfl⟩ := h
  simp [encode, pack, ofBit_bit]
  omega

theorem reads_jmp {f g} {o : BitVec 20} (hdec : ∀ w x, w / 2 ^ 26 = op → decodeS w x = decJmp f g w x) (hop : op < 2 ^ 6)
    (he : some ⟨.S, pack [6, 1, 5, 20] [op, 0, 0, o.toNat], []⟩ = some e) : e.Reads (f o) := by
  cases he
  have hf : fitsIn [6, 1, 5, 20] [op, 0, 0, o.toNat] := ⟨hop, Nat.two_pow_pos _, Nat.two_pow_pos _, o.isLt, trivial⟩
  have hb : ¬ bit (pack [6, 1, 5, 20] [op, 0, 0, o.toNat] / 2 ^ 25) = true := by simp [pack, bit]; omega
  refine Enc.reads_of_fits hdec rfl hf ?_
  unfold decJmp
  rw [if_neg hb]
  simp only [unpack_pack hf]
  simp

theorem reads_jmpReg {f g} {n : Fin 64} (hdec : ∀ w x, w / 2 ^ 26 = op → decodeS w x = decJmp f g w x) (hop : op < 2 ^ 6)
    (he : some ⟨.S, pack [6, 1, 5, 6, 14] [op, 1, 0, n.val, 0], []⟩ = some e) : e.Reads (g n) := by
  cases he
  have hf : fitsIn [6, 1, 5, 6, 14] [op, 1, 0, n.val, 0] :=
    ⟨hop, by decide, Nat.two_pow_pos _, n.isLt, Nat.two_pow_pos _, trivial⟩
  have hb : bit (pack [6, 1, 5, 6, 14] [op, 1, 0, n.val, 0] / 2 ^ 25) = true := by simp [pack, bit]; omega
  refine Enc.reads_of_fits hdec rfl hf ?_
  unfold decJmp
  rw [if_pos hb]
  simp only [unpack_pack hf]
  simp

theorem words_jmp {f g} (hf : ∀ o : BitVec 20, encode (f o) = some ⟨.S, pack [6, 1, 5, 20] [op, 0, 0, o.toNat], []⟩)
    (hg : ∀ n : Fin 64, encode (g n) = some ⟨.S, pack [6, 1, 5, 6, 14] [op, 1, 0, n.val, 0], []⟩) (hop : w / 2 ^ 26 = op)
    (h : decJmp f g w x = some i) : encode i = some ⟨.S, w, x⟩ := by
  unfold decJmp at h
  split at h
  · rename_i hb
    simp [bit] at hb
    rcases x with _ | _ <;> simp [unpack] at h
    obtain ⟨⟨h1, h2⟩, rfl⟩ := h
    simp [hg, pack]
    omega
  · rename_i hb
    simp [bit] at hb
    rcases x with _ | _ <;> simp [unpack] at h
    obtain ⟨h1, rfl⟩ := h
    simp [hf, pack]
    omega

theorem reads_Bare {sl : Slot} (hdec : ∀ w x, w / 2 ^ 26 = op → decodeClass sl w x = decBare i w x) (hop : op < 2 ^ 6)
    (he : encBare sl op = some e) : e.Reads i := by
  cases he
  have hf : fitsIn [6, 26] [op, 0] := ⟨hop, Nat.two_pow_pos _, trivial⟩
  refine Enc.reads_of_fits hdec rfl hf ?_
  simp only [decBare, unpack_pack hf]
  simp

theorem words_Bare {j : Instr} {sl : Slot} (henc : encode j = encBare sl op) (hop : w / 2 ^ 26 = op) (h : decBare j w x = some i) :
    encode i = some ⟨sl, w, x⟩ := by
  rcases x with _ | _ <;> simp [decBare, unpack] at h
  obtain ⟨h1, rfl⟩ := h
  simp [henc, encBare, pack]
  omega

theorem reads_loop {p : Bool} {a : Fin 64} {b : BitVec 10} (he : encode (.loop p a b) = some e) : e.Reads (.loop p a b) := by
  cases he
  have hf : fitsIn [6, 1, 6, 10, 9] [0x34, ofBit p, a.val, b.toNat, 0] :=
    ⟨by decide, ofBit_lt p, a.isLt, b.isLt, Nat.two_pow_pos _, trivial⟩
  refine Enc.reads_of_fits (dec := decLoop) (fun w x h => show decodeS w x = _ by rw [decodeS, h]; rfl) rfl hf ?_
  simp only [decLoop, unpack_pack hf]
  simp

theorem words_loop (hop : w / 2 ^ 26 = 0x34) (h : decLoop w x = some i) : encode i = some ⟨.S, w, x⟩ := by
  rcases x with _ | _ <;> simp [decLoop, unpack] at h
  obtain ⟨h1, rfl⟩ := h
  simp [encode, pack, ofBit_bit]
  omega

theorem reads_Code {f} {c : BitVec 16} (hdec : ∀ w x, w / 2 ^ 26 = op → decodeS w x = decCode f w x) (hop : op < 2 ^ 6)
    (he : some ⟨.S, pack [6, 10, 16] [op, 0, c.toNat], []⟩ = some e) : e.Reads (f c) := by
  cases he
  have hf : fitsIn [6, 10, 16] [op, 0, c.toNat] := ⟨hop, Nat.two_pow_pos _, c.isLt, trivial⟩
  refine Enc.reads_of_fits hdec rfl hf ?_
  simp only [decCode, unpack_pack hf]
  simp

theorem words_Code {f} (henc : ∀ c : BitVec 16, encode (f c) = some ⟨.S, pack [6, 10, 16] [op, 0, c.toNat], []⟩)
    (hop : w / 2 ^ 26 = op) (h : decCode f w x = some i) : encode i = some ⟨.S, w, x⟩ := by
  rcases x with _ | _ <;> simp [decCode, unpack] at h
  obtain ⟨h1, rfl⟩ := h
  simp [henc, pack]
  omega

/-! ### System -/

theorem reads_Sys {f} {r : Fin 64} {n : Fin 4096} (hdec : ∀ w x, w / 2 ^ 26 = op → decodeS w x = decSys f w x) (hop : op < 2 ^ 6)
    (he : some ⟨.S, pack [6, 1, 6, 12, 7] [op, 0, r.val, n.val, 0], []⟩ = some e) : e.Reads (f r n) := by
  cases he
  have hf : fitsIn [6, 1, 6, 12, 7] [op, 0, r.val, n.val, 0] :=
    ⟨hop, Nat.two_pow_pos _, r.isLt, n.isLt, Nat.two_pow_pos _, trivial⟩
  refine Enc.reads_of_fits hdec rfl hf ?_
  simp only [decSys, unpack_pack hf]
  simp

theorem words_Sys {f} (henc : ∀ (r : Fin 64) (n : Fin 4096), encode (f r n) =
    some ⟨.S, pack [6, 1, 6, 12, 7] [op, 0, r.val, n.val, 0], []⟩) (hop : w / 2 ^ 26 = op) (h : decSys f w x = some i) :
    encode i = some ⟨.S, w, x⟩ := by
  rcases x with _ | _ <;> simp [decSys, unpack] at h
  obtain ⟨⟨h1, h2⟩, rfl⟩ := h
  simp [henc, pack]
  omega

theorem reads_viewset {v a : Fin 64} (he : encode (.viewset v a) = some e) : e.Reads (.viewset v a) := by
  cases he
  have hf : fitsIn [6, 1, 6, 6, 13] [0x3C, 0, v.val, a.val, 0] :=
    ⟨by decide, Nat.two_pow_pos _, v.isLt, a.isLt, Nat.two_pow_pos _, trivial⟩
  refine Enc.reads_of_fits (dec := decViewset) (fun w x h => show decodeS w x = _ by rw [decodeS, h]; rfl) rfl hf ?_
  simp only [decViewset, unpack_pack hf]
  simp

theorem words_viewset (hop : w / 2 ^ 26 = 0x3C) (h : decViewset w x = some i) : encode i = some ⟨.S, w, x⟩ := by
  rcases x with _ | _ <;> simp [decViewset, unpack] at h
  obtain ⟨⟨h1, h2⟩, rfl⟩ := h
  simp [encode, pack]
  omega

theorem reads_Mb {f} {r : Fin 64} {p : Option (Fin 16)} (hdec : ∀ w x, w / 2 ^ 26 = op → decodeS w x = decMb f w x)
    (hop : op < 2 ^ 6) (he : encMb op r p = some e) : e.Reads (f r p) := by
  cases p with
  | none =>
    cases he
    have hf : fitsIn [6, 1, 6, 4, 15] [op, 0, r.val, 0, 0] :=
      ⟨hop, Nat.two_pow_pos _, r.isLt, Nat.two_pow_pos _, Nat.two_pow_pos _, trivial⟩
    refine Enc.reads_of_fits hdec rfl hf ?_
    simp only [decMb, unpack_pack hf]
    simp [bit]
  | some p =>
    cases he
    have hf : fitsIn [6, 1, 6, 4, 15] [op, 1, r.val, p.val, 0] :=
      ⟨hop, by decide, r.isLt, p.isLt, Nat.two_pow_pos _, trivial⟩
    refine Enc.reads_of_fits hdec rfl hf ?_
    simp only [decMb, unpack_pack hf]
    simp [bit]

theorem words_Mb {f} (henc : ∀ r p, encode (f r p) = encMb op r p) (hop : w / 2 ^ 26 = op) (h : decMb f w x = some i) :
    encode i = some ⟨.S, w, x⟩ := by
  rcases x with _ | _ <;> simp [decMb, unpack, bit] at h
  obtain ⟨h1, h⟩ := h
  split at h
  · cases h
    simp [henc, encMb, pack]
    omega
  · simp at h
    obtain ⟨h2, rfl⟩ := h
    simp [henc, encMb, pack]
    omega

end

end Sys2Proof
end

section
/-! PROOF. The formats of the slots Y, T, V0 and V1, X, M, C0 and C1 (R65 to R72). -/

namespace Sys2Proof

section
variable {op w : Nat} {e : Enc} {i : Instr} {x : List (BitVec 32)}

/-! ### Slot Y (R65) -/

theorem reads_Scope {f} {c : Scope} (hdec : ∀ w x, w / 2 ^ 26 = op → decodeY w x = decScope f w x) (hop : op < 2 ^ 6)
    (he : some ⟨.Y, pack [6, 3, 23] [op, c.code, 0], []⟩ = some e) : e.Reads (f c) := by
  cases he
  have hf : fitsIn [6, 3, 23] [op, c.code, 0] := ⟨hop, c.code_lt, Nat.two_pow_pos _, trivial⟩
  refine Enc.reads_of_fits hdec rfl hf ?_
  simp only [decScope, unpack_pack hf]
  simp [scopeReq]

theorem words_Scope {f} (henc : ∀ c : Scope, encode (f c) = some ⟨.Y, pack [6, 3, 23] [op, c.code, 0], []⟩)
    (hop : w / 2 ^ 26 = op) (h : decScope f w x = some i) : encode i = some ⟨.Y, w, x⟩ := by
  rcases x with _ | _ <;> simp [decScope, unpack, scopeReq] at h
  obtain ⟨h1, c, hc, rfl⟩ := h
  simp [henc, pack, Scope.code_of_ofCode hc]
  omega

theorem reads_fence {c : Scope} {l s p : Bool} (he : encode (.fence c l s p) = some e) : e.Reads (.fence c l s p) := by
  cases he
  have hf : fitsIn [6, 3, 1, 1, 1, 20] [0x03, c.code, ofBit p, ofBit s, ofBit l, 0] :=
    ⟨by decide, c.code_lt, ofBit_lt p, ofBit_lt s, ofBit_lt l, Nat.two_pow_pos _, trivial⟩
  refine Enc.reads_of_fits (dec := decFence) (fun w x h => show decodeY w x = _ by rw [decodeY, h]; rfl) rfl hf ?_
  simp only [decFence, unpack_pack hf]
  simp [scopeReq]

theorem words_fence (hop : w / 2 ^ 26 = 0x03) (h : decFence w x = some i) : encode i = some ⟨.Y, w, x⟩ := by
  rcases x with _ | _ <;> simp [decFence, unpack, scopeReq] at h
  obtain ⟨h1, c, hc, rfl⟩ := h
  simp [encode, pack, Scope.code_of_ofCode hc, ofBit_bit]
  omega

theorem reads_fpost {k : Fin 32} {n : BitVec 16} {t : Option PostTarget} (he : encode (.fpost k n t) = some e) :
    e.Reads (.fpost k n t) := by
  cases t with
  | none =>
    cases he
    have hf : fitsIn [6, 5, 16, 1, 4] [0x04, k.val, n.toNat, 0, 0] :=
      ⟨by decide, k.isLt, n.isLt, Nat.two_pow_pos _, Nat.two_pow_pos _, trivial⟩
    refine Enc.reads_of_fits (dec := decFpost) (fun w x h => show decodeY w x = _ by rw [decodeY, h]; rfl) rfl hf ?_
    simp only [decFpost, unpack_pack hf]
    simp
  | some t =>
    cases he
    have hf : fitsIn [6, 5, 16, 1, 4] [0x04, k.val, n.toNat, 1, 0] :=
      ⟨by decide, k.isLt, n.isLt, by decide, Nat.two_pow_pos _, trivial⟩
    refine Enc.reads_of_fits (dec := decFpost) (fun w x h => show decodeY w x = _ by rw [decodeY, h]; rfl) rfl hf ?_
    simp only [decFpost, unpack_pack hf]
    simp

theorem words_fpost (hop : w / 2 ^ 26 = 0x04) (h : decFpost w x = some i) : encode i = some ⟨.Y, w, x⟩ := by
  rcases x with _ | ⟨u, _ | _⟩ <;> simp [decFpost, unpack] at h
  · obtain ⟨⟨h1, h2⟩, rfl⟩ := h
    simp [encode, pack]
    omega
  · obtain ⟨⟨h1, h2⟩, t, ht, rfl⟩ := h
    simp [encode, pack, PostTarget.word_of_ofWord ht]
    omega

theorem reads_fwait {k : Fin 32} {n : BitVec 16} (he : encode (.fwait k n) = some e) : e.Reads (.fwait k n) := by
  cases he
  have hf : fitsIn [6, 5, 16, 5] [0x05, k.val, n.toNat, 0] := ⟨by decide, k.isLt, n.isLt, Nat.two_pow_pos _, trivial⟩
  refine Enc.reads_of_fits (dec := decFwait) (fun w x h => show decodeY w x = _ by rw [decodeY, h]; rfl) rfl hf ?_
  simp only [decFwait, unpack_pack hf]
  simp

theorem words_fwait (hop : w / 2 ^ 26 = 0x05) (h : decFwait w x = some i) : encode i = some ⟨.Y, w, x⟩ := by
  rcases x with _ | _ <;> simp [decFwait, unpack] at h
  obtain ⟨h1, rfl⟩ := h
  simp [encode, pack]
  omega

theorem reads_Byte {f} {g : Fin 256} (hdec : ∀ w x, w / 2 ^ 26 = op → decodeY w x = decByte f w x) (hop : op < 2 ^ 6)
    (he : encByte op g = some e) : e.Reads (f g) := by
  cases he
  have hf : fitsIn [6, 8, 18] [op, g.val, 0] := ⟨hop, g.isLt, Nat.two_pow_pos _, trivial⟩
  refine Enc.reads_of_fits hdec rfl hf ?_
  simp only [decByte, unpack_pack hf]
  simp

theorem words_Byte {f} (henc : ∀ g, encode (f g) = encByte op g) (hop : w / 2 ^ 26 = op) (h : decByte f w x = some i) :
    encode i = some ⟨.Y, w, x⟩ := by
  rcases x with _ | _ <;> simp [decByte, unpack] at h
  obtain ⟨h1, rfl⟩ := h
  simp [henc, encByte, pack]
  omega

theorem reads_dead {v : Fin 64} {f c : Fin 512} (he : encode (.dead v f c) = some e) : e.Reads (.dead v f c) := by
  cases he
  have hf : fitsIn [6, 6, 9, 9, 2] [0x09, v.val, f.val, c.val, 0] :=
    ⟨by decide, v.isLt, f.isLt, c.isLt, Nat.two_pow_pos _, trivial⟩
  refine Enc.reads_of_fits (dec := decDead) (fun w x h => show decodeY w x = _ by rw [decodeY, h]; rfl) rfl hf ?_
  simp only [decDead, unpack_pack hf]
  simp

theorem words_dead (hop : w / 2 ^ 26 = 0x09) (h : decDead w x = some i) : encode i = some ⟨.Y, w, x⟩ := by
  rcases x with _ | _ <;> simp [decDead, unpack] at h
  obtain ⟨h1, rfl⟩ := h
  simp [encode, pack]
  omega

/-! ### Slot T (R69) -/

theorem fitsIn_T (hop : op < 2 ^ 6) (v s : Fin 64) (r : Row8) {n : Nat} (hn : n < 2 ^ 6) :
    fitsIn [6, 6, 6, 8, 6] [op, v.val, s.val, r.code, n] := ⟨hop, v.isLt, s.isLt, r.code_lt, hn, trivial⟩

theorem reads_TImm {f} {v s : Fin 64} {r : Row8} {n : Elem} (hdec : ∀ w x, w / 2 ^ 26 = op → decodeT w x = decTImm f w x)
    (hop : op < 2 ^ 6) (he : encTImm op v s r n = some e) : e.Reads (f v s r n) := by
  cases n with
  | short n =>
    cases he
    have hf := fitsIn_T hop v s r n.isLt
    refine Enc.reads_of_fits hdec rfl hf ?_
    simp only [decTImm, unpack_pack hf]
    simp
  | long n =>
    cases he
    have hf := fitsIn_T hop v s r (Nat.two_pow_pos 6)
    have hn : n.val % 4294967296 = n.val := Nat.mod_eq_of_lt (by omega)
    refine Enc.reads_of_fits hdec rfl hf ?_
    simp only [decTImm, unpack_pack hf]
    simp [hn]

theorem words_TImm {f} (henc : ∀ v s r n, encode (f v s r n) = encTImm op v s r n) (hop : w / 2 ^ 26 = op)
    (h : decTImm f w x = some i) : encode i = some ⟨.T, w, x⟩ := by
  rcases x with _ | ⟨u, _ | _⟩ <;> simp [decTImm, unpack] at h
  · obtain ⟨r, hr, rfl⟩ := h
    simp [henc, encTImm, encT, pack, Row8.code_of_ofCode hr]
    omega
  · obtain ⟨⟨h1, h2⟩, r, hr, rfl⟩ := h
    simp [henc, encTImm, encT, pack, Row8.code_of_ofCode hr, Nat.mod_eq_of_lt h2]
    omega

theorem reads_TReg {f} {v s : Fin 64} {r : Row8} {n : Fin 64} (hdec : ∀ w x, w / 2 ^ 26 = op → decodeT w x = decTReg f w x)
    (hop : op < 2 ^ 6) (he : encT op v s r n.val [] = some e) : e.Reads (f v s r n) := by
  cases he
  have hf := fitsIn_T hop v s r n.isLt
  refine Enc.reads_of_fits hdec rfl hf ?_
  simp only [decTReg, unpack_pack hf]
  simp

theorem words_TReg {f} (henc : ∀ v s r n, encode (f v s r n) = encT op v s r n.val []) (hop : w / 2 ^ 26 = op)
    (h : decTReg f w x = some i) : encode i = some ⟨.T, w, x⟩ := by
  rcases x with _ | _ <;> simp [decTReg, unpack] at h
  obtain ⟨r, hr, rfl⟩ := h
  simp [henc, encT, pack, Row8.code_of_ofCode hr]
  omega

theorem reads_TAll {v s : Fin 64} {r : Row8} (he : encode (.xsvBcast v s r) = some e) : e.Reads (.xsvBcast v s r) := by
  cases he
  have hf := fitsIn_T (op := 0x03) (by decide) v s r (Nat.two_pow_pos 6)
  refine Enc.reads_of_fits (dec := decTAll) (fun w x h => show decodeT w x = _ by rw [decodeT, h]; rfl) rfl hf ?_
  simp only [decTAll, unpack_pack hf]
  simp

theorem words_TAll (hop : w / 2 ^ 26 = 0x03) (h : decTAll w x = some i) : encode i = some ⟨.T, w, x⟩ := by
  rcases x with _ | _ <;> simp [decTAll, unpack] at h
  obtain ⟨h1, r, hr, rfl⟩ := h
  simp [encode, encT, pack, Row8.code_of_ofCode hr]
  omega

/-! ### Slots V0 and V1 (R68) -/

theorem fitsIn_V (hop : op < 2 ^ 6) (d : Fin 64) (r : Row8) {a b : Nat} (ha : a < 2 ^ 6) (hb : b < 2 ^ 6) :
    fitsIn [6, 6, 6, 6, 8] [op, d.val, a, b, r.code] := ⟨hop, d.isLt, ha, hb, r.code_lt, trivial⟩

theorem reads_V3 {f} {d a b : Fin 64} {r : Row8} {m : Option Modifier} (hdec : ∀ w x, w / 2 ^ 26 = op → decodeV w x = decV3 f w x)
    (hop : op < 2 ^ 6) (he : encV op d a.val b.val r m = some e) : e.Reads (f d a b r m) := by
  cases he
  have hf := fitsIn_V hop d r a.isLt b.isLt
  refine Enc.reads_of_fits hdec rfl hf ?_
  simp only [decV3, unpack_pack hf, modOf_modWords]
  simp

theorem words_V3 {f} (henc : ∀ d a b r m, encode (f d a b r m) = encV op d a.val b.val r m) (hop : w / 2 ^ 26 = op)
    (h : decV3 f w x = some i) : encode i = some ⟨.V1, w, x⟩ := by
  unfold decV3 at h
  rcases hx : modOf x with _ | m <;> simp [hx, unpack] at h
  obtain ⟨r, hr, rfl⟩ := h
  simp [henc, encV, pack, Row8.code_of_ofCode hr, modWords_of_modOf hx]
  omega

theorem reads_V2 {f} {d a : Fin 64} {r : Row8} {m : Option Modifier} (hdec : ∀ w x, w / 2 ^ 26 = op → decodeV w x = decV2 f w x)
    (hop : op < 2 ^ 6) (he : encV op d a.val 0 r m = some e) : e.Reads (f d a r m) := by
  cases he
  have hf := fitsIn_V hop d r a.isLt (Nat.two_pow_pos 6)
  refine Enc.reads_of_fits hdec rfl hf ?_
  simp only [decV2, unpack_pack hf, modOf_modWords]
  simp

theorem words_V2 {f} (henc : ∀ d a r m, encode (f d a r m) = encV op d a.val 0 r m) (hop : w / 2 ^ 26 = op)
    (h : decV2 f w x = some i) : encode i = some ⟨.V1, w, x⟩ := by
  unfold decV2 at h
  rcases hx : modOf x with _ | m <;> simp [hx, unpack] at h
  obtain ⟨h1, r, hr, rfl⟩ := h
  simp [henc, encV, pack, Row8.code_of_ofCode hr, modWords_of_modOf hx]
  omega

theorem reads_viota {d : Fin 64} {r : Row8} {m : Option Modifier} (he : encode (.viota d r m) = some e) :
    e.Reads (.viota d r m) := by
  cases he
  have hf := fitsIn_V (op := 0x24) (by decide) d r (Nat.two_pow_pos 6) (Nat.two_pow_pos 6)
  refine Enc.reads_of_fits (dec := decV1 .viota) (fun w x h => show decodeV w x = _ by rw [decodeV, h]; rfl) rfl hf ?_
  simp only [decV1, unpack_pack hf, modOf_modWords]
  simp

theorem words_viota (hop : w / 2 ^ 26 = 0x24) (h : decV1 .viota w x = some i) : encode i = some ⟨.V1, w, x⟩ := by
  unfold decV1 at h
  rcases hx : modOf x with _ | m <;> simp [hx, unpack] at h
  obtain ⟨⟨h1, h2⟩, r, hr, rfl⟩ := h
  simp [encode, encV, pack, Row8.code_of_ofCode hr, modWords_of_modOf hx]
  omega

theorem reads_skinit {d b : Fin 64} {k : SumKind} {r : Row8} {m : Option Modifier} (he : encode (.skinit d k b r m) = some e) :
    e.Reads (.skinit d k b r m) := by
  cases he
  have hf := fitsIn_V (op := 0x38) (by decide) d r k.code_lt b.isLt
  refine Enc.reads_of_fits (dec := decSkinit) (fun w x h => show decodeV w x = _ by rw [decodeV, h]; rfl) rfl hf ?_
  simp only [decSkinit, unpack_pack hf, modOf_modWords]
  simp

theorem words_skinit (hop : w / 2 ^ 26 = 0x38) (h : decSkinit w x = some i) : encode i = some ⟨.V1, w, x⟩ := by
  unfold decSkinit at h
  rcases hx : modOf x with _ | m <;> simp [hx, unpack] at h
  split at h
  · rename_i hk hr
    cases h
    simp [encode, encV, pack, Row8.code_of_ofCode hr, SumKind.code_of_ofCode hk, modWords_of_modOf hx]
    omega
  · cases h

theorem reads_VM {f} {d a : Fin 64} {o : BitVec 6} {r : Row8} {m : Option Modifier}
    (hdec : ∀ w x, w / 2 ^ 26 = op → decodeV w x = decVM f w x) (hop : op < 2 ^ 6) (he : encVM op d r a o m = some e) :
    e.Reads (f d r a o m) := by
  cases he
  have hf : fitsIn [6, 6, 8, 6, 6] [op, d.val, r.code, a.val, o.toNat] :=
    ⟨hop, d.isLt, r.code_lt, a.isLt, o.isLt, trivial⟩
  refine Enc.reads_of_fits hdec rfl hf ?_
  simp only [decVM, unpack_pack hf, modOf_modWords]
  simp

theorem words_VM {f} (henc : ∀ d r a o m, encode (f d r a o m) = encVM op d r a o m) (hop : w / 2 ^ 26 = op)
    (h : decVM f w x = some i) : encode i = some ⟨.V1, w, x⟩ := by
  unfold decVM at h
  rcases hx : modOf x with _ | m <;> simp [hx, unpack] at h
  obtain ⟨r, hr, rfl⟩ := h
  simp [henc, encVM, pack, Row8.code_of_ofCode hr, modWords_of_modOf hx]
  omega

/-! ### Slot X (R70) -/

theorem reads_X {f} {d a : Fin 64} {s : Fin 128} {r : Row7} {m : Option Modifier}
    (hdec : ∀ w x, w / 2 ^ 26 = op → decodeX w x = decX f w x) (hop : op < 2 ^ 6) (hi : f d a s r m = some i)
    (he : encX op d a s.val r m = some e) : e.Reads i := by
  cases he
  have hf : fitsIn [6, 6, 6, 7, 7] [op, d.val, a.val, s.val, r.code] :=
    ⟨hop, d.isLt, a.isLt, s.isLt, r.code_lt, trivial⟩
  refine Enc.reads_of_fits hdec rfl hf ?_
  simp only [decX, unpack_pack hf, modOf_modWords]
  simpa using hi

theorem words_X {f} (henc : ∀ (d a : Fin 64) (s : Fin 128) r m i, f d a s r m = some i → encode i = encX op d a s.val r m)
    (hop : w / 2 ^ 26 = op) (h : decX f w x = some i) : encode i = some ⟨.X, w, x⟩ := by
  unfold decX at h
  rcases hx : modOf x with _ | m <;> simp [hx, unpack] at h
  rw [henc _ _ _ _ _ _ h]
  simp [encX, pack, Row7.code_ofCode (Nat.mod_lt w (show 0 < 128 by decide)), modWords_of_modOf hx]
  omega

/-! ### Slot M (R71) -/

theorem reads_mclaim {o : Fin 16} {p : Option (Fin 16)} (he : encode (.mclaim o p) = some e) : e.Reads (.mclaim o p) := by
  cases p with
  | none =>
    cases he
    have hf : fitsIn [6, 4, 1, 4, 17] [0x01, o.val, 0, 0, 0] :=
      ⟨by decide, o.isLt, Nat.two_pow_pos _, Nat.two_pow_pos _, Nat.two_pow_pos _, trivial⟩
    refine Enc.reads_of_fits (dec := decMclaim) (fun w x h => show decodeM w x = _ by rw [decodeM, h]; rfl) rfl hf ?_
    simp only [decMclaim, unpack_pack hf]
    simp [bit]
  | some p =>
    cases he
    have hf : fitsIn [6, 4, 1, 4, 17] [0x01, o.val, 1, p.val, 0] :=
      ⟨by decide, o.isLt, by decide, p.isLt, Nat.two_pow_pos _, trivial⟩
    refine Enc.reads_of_fits (dec := decMclaim) (fun w x h => show decodeM w x = _ by rw [decodeM, h]; rfl) rfl hf ?_
    simp only [decMclaim, unpack_pack hf]
    simp [bit]

theorem words_mclaim (hop : w / 2 ^ 26 = 0x01) (h : decMclaim w x = some i) : encode i = some ⟨.M, w, x⟩ := by
  rcases x with _ | _ <;> simp [decMclaim, unpack, bit] at h
  obtain ⟨h1, h⟩ := h
  split at h
  · cases h
    simp [encode, pack]
    omega
  · simp at h
    obtain ⟨h2, rfl⟩ := h
    simp [encode, pack]
    omega

theorem reads_mrel {o : Fin 16} (he : encode (.mrel o) = some e) : e.Reads (.mrel o) := by
  cases he
  have hf : fitsIn [6, 4, 22] [0x02, o.val, 0] := ⟨by decide, o.isLt, Nat.two_pow_pos _, trivial⟩
  refine Enc.reads_of_fits (dec := decMrel) (fun w x h => show decodeM w x = _ by rw [decodeM, h]; rfl) rfl hf ?_
  simp only [decMrel, unpack_pack hf]
  simp

theorem words_mrel (hop : w / 2 ^ 26 = 0x02) (h : decMrel w x = some i) : encode i = some ⟨.M, w, x⟩ := by
  rcases x with _ | _ <;> simp [decMrel, unpack] at h
  obtain ⟨h1, rfl⟩ := h
  simp [encode, pack]
  omega

theorem reads_mldSp {o : Fin 16} {a : Fin 64} {v : BitVec 32} (he : encode (.mldSp o a v) = some e) : e.Reads (.mldSp o a v) := by
  cases he
  have hf : fitsIn [6, 4, 6, 16] [0x03, o.val, a.val, 0] := ⟨by decide, o.isLt, a.isLt, Nat.two_pow_pos _, trivial⟩
  have hb : ¬ bit (pack [6, 4, 6, 16] [0x03, o.val, a.val, 0] / 2 ^ 15) = true := by simp [pack, bit]; omega
  refine Enc.reads_of_fits (dec := decMld) (fun w x h => show decodeM w x = _ by rw [decodeM, h]; rfl) rfl hf ?_
  unfold decMld
  rw [if_neg hb]
  simp only [unpack_pack hf]
  simp

theorem reads_mldView {o : Fin 16} {v : Fin 64} {r : Row8} (he : encode (.mldView o v r) = some e) : e.Reads (.mldView o v r) := by
  cases he
  have hr := r.code_lt
  have hf : fitsIn [6, 4, 6, 1, 8, 7] [0x03, o.val, v.val, 1, r.code, 0] :=
    ⟨by decide, o.isLt, v.isLt, by decide, hr, Nat.two_pow_pos _, trivial⟩
  have hb : bit (pack [6, 4, 6, 1, 8, 7] [0x03, o.val, v.val, 1, r.code, 0] / 2 ^ 15) = true := by simp [pack, bit]; omega
  refine Enc.reads_of_fits (dec := decMld) (fun w x h => show decodeM w x = _ by rw [decodeM, h]; rfl) rfl hf ?_
  unfold decMld
  rw [if_pos hb]
  simp only [unpack_pack hf]
  simp

theorem words_mld (hop : w / 2 ^ 26 = 0x03) (h : decMld w x = some i) : encode i = some ⟨.M, w, x⟩ := by
  unfold decMld at h
  split at h
  · rename_i hb
    simp [bit] at hb
    rcases x with _ | _ <;> simp [unpack] at h
    obtain ⟨h1, r, hr, rfl⟩ := h
    simp [encode, pack, Row8.code_of_ofCode hr]
    omega
  · rename_i hb
    simp [bit] at hb
    rcases x with _ | ⟨u, _ | _⟩ <;> simp [unpack] at h
    obtain ⟨h1, rfl⟩ := h
    simp [encode, pack]
    omega

theorem reads_mma {a b : Fin 16} {c : Fin 4} {o : Cop} {rm : Rm} {n : Fin 128} (he : encode (.mma a b c o rm n) = some e) :
    e.Reads (.mma a b c o rm n) := by
  cases he
  have hf : fitsIn [6, 4, 4, 2, 3, 2, 7, 4] [0x04, a.val, b.val, c.val, o.code, rm.code, n.val, 0] :=
    ⟨by decide, a.isLt, b.isLt, c.isLt, o.code_lt, rm.code_lt, n.isLt, Nat.two_pow_pos _, trivial⟩
  refine Enc.reads_of_fits (dec := decMma) (fun w x h => show decodeM w x = _ by rw [decodeM, h]; rfl) rfl hf ?_
  simp only [decMma, unpack_pack hf]
  simp

theorem words_mma (hop : w / 2 ^ 26 = 0x04) (h : decMma w x = some i) : encode i = some ⟨.M, w, x⟩ := by
  rcases x with _ | _ <;> simp [decMma, unpack] at h
  obtain ⟨h1, c, hc, rfl⟩ := h
  simp [encode, pack, Cop.code_of_ofCode hc, Rm.code_ofCode]
  omega

theorem reads_mstSp {c : Fin 4} {a : Fin 64} {v : BitVec 32} (he : encode (.mstSp c a v) = some e) : e.Reads (.mstSp c a v) := by
  cases he
  have hf : fitsIn [6, 2, 1, 6, 17] [0x05, c.val, 1, a.val, 0] :=
    ⟨by decide, c.isLt, by decide, a.isLt, Nat.two_pow_pos _, trivial⟩
  have hb : bit (pack [6, 2, 1, 6, 17] [0x05, c.val, 1, a.val, 0] / 2 ^ 23) = true := by simp [pack, bit]; omega
  refine Enc.reads_of_fits (dec := decMst) (fun w x h => show decodeM w x = _ by rw [decodeM, h]; rfl) rfl hf ?_
  unfold decMst
  rw [if_pos hb]
  simp only [unpack_pack hf]
  simp

theorem reads_mstView {c : Fin 4} {v : Fin 64} {r : Row8} (he : encode (.mstView c v r) = some e) : e.Reads (.mstView c v r) := by
  cases he
  have hr := r.code_lt
  have hf : fitsIn [6, 2, 1, 6, 8, 9] [0x05, c.val, 0, v.val, r.code, 0] :=
    ⟨by decide, c.isLt, Nat.two_pow_pos _, v.isLt, hr, Nat.two_pow_pos _, trivial⟩
  have hb : ¬ bit (pack [6, 2, 1, 6, 8, 9] [0x05, c.val, 0, v.val, r.code, 0] / 2 ^ 23) = true := by simp [pack, bit]; omega
  refine Enc.reads_of_fits (dec := decMst) (fun w x h => show decodeM w x = _ by rw [decodeM, h]; rfl) rfl hf ?_
  unfold decMst
  rw [if_neg hb]
  simp only [unpack_pack hf]
  simp

theorem words_mst (hop : w / 2 ^ 26 = 0x05) (h : decMst w x = some i) : encode i = some ⟨.M, w, x⟩ := by
  unfold decMst at h
  split at h
  · rename_i hb
    simp [bit] at hb
    rcases x with _ | ⟨u, _ | _⟩ <;> simp [unpack] at h
    obtain ⟨h1, rfl⟩ := h
    simp [encode, pack]
    omega
  · rename_i hb
    simp [bit] at hb
    rcases x with _ | _ <;> simp [unpack] at h
    obtain ⟨h1, r, hr, rfl⟩ := h
    simp [encode, pack, Row8.code_of_ofCode hr]
    omega

theorem reads_mzero {c : Fin 4} (he : encode (.mzero c) = some e) : e.Reads (.mzero c) := by
  cases he
  have hf : fitsIn [6, 2, 24] [0x06, c.val, 0] := ⟨by decide, c.isLt, Nat.two_pow_pos _, trivial⟩
  refine Enc.reads_of_fits (dec := decMzero) (fun w x h => show decodeM w x = _ by rw [decodeM, h]; rfl) rfl hf ?_
  simp only [decMzero, unpack_pack hf]
  simp

theorem words_mzero (hop : w / 2 ^ 26 = 0x06) (h : decMzero w x = some i) : encode i = some ⟨.M, w, x⟩ := by
  rcases x with _ | _ <;> simp [decMzero, unpack] at h
  obtain ⟨h1, rfl⟩ := h
  simp [encode, pack]
  omega

theorem reads_mseq {l : Fin 16} {v : BitVec 32} (he : encode (.mseq l v) = some e) : e.Reads (.mseq l v) := by
  cases he
  have hf : fitsIn [6, 4, 22] [0x07, l.val, 0] := ⟨by decide, l.isLt, Nat.two_pow_pos _, trivial⟩
  refine Enc.reads_of_fits (dec := decMseq) (fun w x h => show decodeM w x = _ by rw [decodeM, h]; rfl) rfl hf ?_
  simp only [decMseq, unpack_pack hf]
  simp

theorem words_mseq (hop : w / 2 ^ 26 = 0x07) (h : decMseq w x = some i) : encode i = some ⟨.M, w, x⟩ := by
  rcases x with _ | ⟨u, _ | _⟩ <;> simp [decMseq, unpack] at h
  obtain ⟨h1, rfl⟩ := h
  simp [encode, pack]
  omega

/-! ### Slots C0 and C1 (R72) -/

theorem fitsIn_Copy (hop : op < 2 ^ 6) (d a b : Fin 64) (n : Notif) :
    fitsIn [6, 6, 6, 6, 1, 1, 1, 5] [op, d.val, a.val, b.val, ofBit n.ui, ofBit n.gv, ofBit n.fv, n.k.val] :=
  ⟨hop, d.isLt, a.isLt, b.isLt, ofBit_lt _, ofBit_lt _, ofBit_lt _, n.k.isLt, trivial⟩

theorem reads_Copy {f} {d a b : Fin 64} {n : Notif} (hdec : ∀ w x, w / 2 ^ 26 = op → decodeC w x = decCopy f w x)
    (hop : op < 2 ^ 6) (he : encCopy op d a b n [] = some e) : e.Reads (f d a b n) := by
  cases he
  have hf := fitsIn_Copy hop d a b n
  refine Enc.reads_of_fits hdec rfl hf ?_
  simp only [decCopy, unpack_pack hf, List.nil_append, notifOf_words]
  simp

theorem words_Copy {f} (henc : ∀ d a b n, encode (f d a b n) = encCopy op d a b n []) (hop : w / 2 ^ 26 = op)
    (h : decCopy f w x = some i) : encode i = some ⟨.C0, w, x⟩ := by
  simp [decCopy, unpack] at h
  obtain ⟨n, hn, rfl⟩ := h
  obtain ⟨hx, hui, hgv, hfv, hk⟩ := notif_of_notifOf hn
  simp [henc, encCopy, pack, hx, hui, hgv, hfv, hk]
  omega

theorem decCred_words {d a b : Fin 64} {n : Notif} {r : RedWord} {u : BitVec 32} (hr : RedWord.ofWord u = some r)
    (hw : unpack [6, 6, 6, 6, 1, 1, 1, 5] w = [op, d.val, a.val, b.val, ofBit n.ui, ofBit n.gv, ofBit n.fv, n.k.val]) :
    decCred w (u :: n.words) = some (.cred d a b n r) := by
  simp only [decCred, hw, hr, notifOf_words]
  simp

theorem reads_cred {d a b : Fin 64} {n : Notif} {r : RedWord} (he : encode (.cred d a b n r) = some e) :
    e.Reads (.cred d a b n r) := by
  cases he
  have hf := fitsIn_Copy (op := 0x06) (by decide) d a b n
  exact Enc.reads_of_fits (dec := decCred) (fun w x h => show decodeC w x = _ by rw [decodeC, h]; rfl) rfl hf
    (decCred_words (RedWord.ofWord_word r) (unpack_pack hf))

theorem words_cred (hop : w / 2 ^ 26 = 0x06) (h : decCred w x = some i) : encode i = some ⟨.C0, w, x⟩ := by
  rcases x with _ | ⟨u, x⟩
  · cases h
  · unfold decCred at h
    rcases hr : RedWord.ofWord u with _ | r <;> simp [hr, unpack] at h
    obtain ⟨n, hn, rfl⟩ := h
    obtain ⟨hx, hui, hgv, hfv, hk⟩ := notif_of_notifOf hn
    simp [encode, encCopy, pack, hx, hui, hgv, hfv, hk, RedWord.word_of_ofWord hr]
    omega

theorem reads_Chan {f} {c : Fin 256} {n : Notif} (hdec : ∀ w x, w / 2 ^ 26 = op → decodeC w x = decChan f w x)
    (hop : op < 2 ^ 6) (he : encChan op c n = some e) : e.Reads (f c n) := by
  cases he
  have hf : fitsIn [6, 8, 10, 1, 1, 1, 5] [op, c.val, 0, ofBit n.ui, ofBit n.gv, ofBit n.fv, n.k.val] :=
    ⟨hop, c.isLt, Nat.two_pow_pos _, ofBit_lt _, ofBit_lt _, ofBit_lt _, n.k.isLt, trivial⟩
  refine Enc.reads_of_fits hdec rfl hf ?_
  simp only [decChan, unpack_pack hf, notifOf_words]
  simp

theorem words_Chan {f} (henc : ∀ c n, encode (f c n) = encChan op c n) (hop : w / 2 ^ 26 = op) (h : decChan f w x = some i) :
    encode i = some ⟨.C0, w, x⟩ := by
  simp [decChan, unpack] at h
  obtain ⟨h1, n, hn, rfl⟩ := h
  obtain ⟨hx, hui, hgv, hfv, hk⟩ := notif_of_notifOf hn
  simp [henc, encChan, pack, hx, hui, hgv, hfv, hk]
  omega

end

end Sys2Proof
end

section
/-! PROOF. The code stream's words and its instructions (R58 to R77): decoding inverts encoding, and encoding inverts decoding. -/

namespace Sys2Proof

/-! ### Every instruction's words read as it -/

/-- The words of an instruction of the code stream decode to it, by the layouts of its slot class (R63 to R77). -/
theorem Enc.reads_of_encode {i : Instr} {e : Enc} (he : encode i = some e) : e.Reads i := by
  cases i
  case add | sub | mul | min | max | and | or | xor | shl | shr | shra =>
    exact reads_mould (fun _ _ h => by rw [decodeS, h]; rfl) (by decide) he
  case addImm | subImm | mulImm | minImm | maxImm | andImm | orImm | xorImm | shlImm | shrImm | shraImm =>
    exact reads_SI (fun _ _ h => by rw [decodeS, h]; rfl) (by decide) he
  case mulh | div | rem => exact reads_SR (fun _ _ h => by rw [decodeS, h]; rfl) (by decide) he
  case cmp | fcmp => exact reads_Cmp (fun _ _ h => by rw [decodeS, h]; rfl) (by decide) he
  case sel => exact reads_Sel he
  case clz | popc => exact reads_Un (fun _ _ h => by rw [decodeS, h]; rfl) (by decide) he
  case bfx => exact reads_SF (fun _ _ h => by rw [decodeS, h]; rfl) (by decide) (by rfl) he
  case bfi => exact reads_SF (fun _ _ h => by rw [decodeS, h]; rfl) (by decide) (by rfl) he
  case fadd | fmul | fma => exact reads_Round (fun _ _ h => by rw [decodeS, h]; rfl) (by decide) he
  case fcvt => exact reads_Fcvt he
  case movi => exact reads_movi he
  case movhi => exact reads_movhi he
  case ld | st => exact reads_SM (fun _ _ h => by rw [decodeS, h]; rfl) (by decide) he
  case acas | atomAdd | atomMax | atomMin | atomAnd | atomOr | atomXor | atomSwap =>
    exact reads_Atom (fun _ _ h => by rw [decodeS, h]; rfl) (by decide) he
  case flush | inval => exact reads_Lines (fun _ _ h => by rw [decodeS, h]; rfl) (by decide) he
  case zline => exact reads_zline he
  case wdecl => exact reads_wdecl he
  case wdrop => exact reads_wdrop he
  case br => exact reads_br he
  case jmp | call => exact reads_jmp (fun _ _ h => by rw [decodeS, h]; rfl) (by decide) he
  case jmpReg | callReg => exact reads_jmpReg (fun _ _ h => by rw [decodeS, h]; rfl) (by decide) he
  case ret | halt | rft | rfui => exact reads_Bare (sl := .S) (fun w x h => show decodeS w x = _ by rw [decodeS, h]; rfl) (by decide) he
  case waiti => exact reads_Bare (sl := .Y) (fun w x h => show decodeY w x = _ by rw [decodeY, h]; rfl) (by decide) he
  case loop => exact reads_loop he
  case trap | brk => exact reads_Code (fun _ _ h => by rw [decodeS, h]; rfl) (by decide) he
  case sysr | sysw => exact reads_Sys (fun _ _ h => by rw [decodeS, h]; rfl) (by decide) he
  case viewset => exact reads_viewset he
  case mbreq | mbtake => exact reads_Mb (fun _ _ h => by rw [decodeS, h]; rfl) (by decide) he
  case acq | rel => exact reads_Scope (fun _ _ h => by rw [decodeY, h]; rfl) (by decide) he
  case fence => exact reads_fence he
  case fpost => exact reads_fpost he
  case fwait => exact reads_fwait he
  case bara | barw | live => exact reads_Byte (fun _ _ h => by rw [decodeY, h]; rfl) (by decide) he
  case dead => exact reads_dead he
  case xsvImm | xvsImm => exact reads_TImm (fun _ _ h => by rw [decodeT, h]; rfl) (by decide) he
  case xsvScalar | xvsScalar => exact reads_TReg (fun _ _ h => by rw [decodeT, h]; rfl) (by decide) he
  case xsvBcast => exact reads_TAll he
  case vadd | vaddS | vsub | vsubS | vmul | vmulS | vmax | vmaxS | vmin | vminS | vand | vandS | vor | vorS | vxor | vxorS | vshl
      | vshlS | vshr | vshrS | vfma | vfmaS | vcmp | vcmpS | vclamp | vclampS | vsel | vldx | vstx | skmerge | skqry =>
    exact reads_V3 (fun _ _ h => by rw [decodeV, h]; rfl) (by decide) he
  case vmov | vneg | vabs | vcvt | vredAdd | vredMax | vredMin | vrcp | vrsq | vexp2 | vlog2 | vtanh | skq | skh | skd | skest
      | sktop =>
    exact reads_V2 (fun _ _ h => by rw [decodeV, h]; rfl) (by decide) he
  case viota => exact reads_viota he
  case skinit => exact reads_skinit he
  case vld | vst => exact reads_VM (fun _ _ h => by rw [decodeV, h]; rfl) (by decide) he
  case xperm d a s r m =>
    have hs : (fn 128 s.val).val = s.val := Nat.mod_eq_of_lt (by omega)
    have hi : (if (fn 128 s.val).val < 64 then some (Instr.xperm d a (fn 64 (fn 128 s.val).val) r m) else none) =
        some (.xperm d a s r m) := by rw [hs, if_pos s.isLt, fn_val]
    exact reads_X (op := 0x01) (fun _ _ h => by rw [decodeX, h]; rfl) (by decide) hi (by rw [hs]; exact he)
  case xbcast => exact reads_X (fun _ _ h => by rw [decodeX, h]; rfl) (by decide) (by rfl) he
  case xrot => exact reads_X (fun _ _ h => by rw [decodeX, h]; rfl) (by decide) (by rfl) he
  case mclaim => exact reads_mclaim he
  case mrel => exact reads_mrel he
  case mldSp => exact reads_mldSp he
  case mldView => exact reads_mldView he
  case mma => exact reads_mma he
  case mstSp => exact reads_mstSp he
  case mstView => exact reads_mstView he
  case mzero => exact reads_mzero he
  case mseq => exact reads_mseq he
  case cpy | cpy2d | cfill | cgather | cmcast => exact reads_Copy (fun _ _ h => by rw [decodeC, h]; rfl) (by decide) he
  case cred => exact reads_cred he
  case chsend | chrecv => exact reads_Chan (fun _ _ h => by rw [decodeC, h]; rfl) (by decide) he
  all_goals cases he

/-! ### Every word that is read is its instruction's -/

section
variable {w : Nat} {x : List (BitVec 32)} {i : Instr}

/-- Slot S, row by row of R74. -/
theorem words_of_decodeS (h : decodeS w x = some i) : encode i = some ⟨.S, w, x⟩ := by
  unfold decodeS at h
  split at h <;> rename_i hop
  iterate 3 exact words_mould (fun _ _ _ _ => rfl) (fun _ _ _ _ => rfl) hop h
  iterate 3 exact words_SR (fun _ _ _ _ => rfl) hop h
  iterate 8 exact words_mould (fun _ _ _ _ => rfl) (fun _ _ _ _ => rfl) hop h
  exact words_Cmp (fun _ _ _ _ _ => rfl) hop h
  exact words_Sel hop h
  iterate 2 exact words_Un (fun _ _ _ => rfl) hop h
  exact words_SF (fun _ _ _ _ _ _ hi => by cases hi; rfl) hop h
  exact words_SF (fun s _ _ _ _ _ hi => by cases s <;> cases hi; rfl) hop h
  iterate 3 exact words_Round (fun _ _ _ _ _ => rfl) hop h
  exact words_Cmp (fun _ _ _ _ _ => rfl) hop h
  exact words_Fcvt hop h
  exact words_movi hop h
  exact words_movhi hop h
  iterate 2 exact words_SM (fun _ _ _ _ => rfl) hop h
  exact words_Atom (fun _ _ _ _ _ _ => rfl) hop h
  iterate 2 exact words_Lines (fun _ _ _ _ => rfl) hop h
  exact words_zline hop h
  exact words_wdecl hop h
  exact words_wdrop hop h
  iterate 7 exact words_Atom (fun _ _ _ _ _ _ => rfl) hop h
  exact words_br hop h
  iterate 2 exact words_jmp (fun _ => rfl) (fun _ => rfl) hop h
  exact words_Bare rfl hop h
  exact words_loop hop h
  iterate 2 exact words_Code (fun _ => rfl) hop h
  iterate 3 exact words_Bare rfl hop h
  iterate 2 exact words_Sys (fun _ _ => rfl) hop h
  exact words_viewset hop h
  iterate 2 exact words_Mb (fun _ _ => rfl) hop h
  cases h

/-- Slot Y, row by row of R73. -/
theorem words_of_decodeY (h : decodeY w x = some i) : encode i = some ⟨.Y, w, x⟩ := by
  unfold decodeY at h
  split at h <;> rename_i hop
  iterate 2 exact words_Scope (fun _ => rfl) hop h
  exact words_fence hop h
  exact words_fpost hop h
  exact words_fwait hop h
  iterate 3 exact words_Byte (fun _ => rfl) hop h
  exact words_dead hop h
  exact words_Bare rfl hop h
  cases h

/-- Slot T, row by row of R75. -/
theorem words_of_decodeT (h : decodeT w x = some i) : encode i = some ⟨.T, w, x⟩ := by
  unfold decodeT at h
  split at h <;> rename_i hop
  exact words_TImm (fun _ _ _ _ => rfl) hop h
  exact words_TReg (fun _ _ _ _ => rfl) hop h
  exact words_TAll hop h
  exact words_TImm (fun _ _ _ _ => rfl) hop h
  exact words_TReg (fun _ _ _ _ => rfl) hop h
  cases h

/-- Slots V0 and V1, row by row of R76. -/
theorem words_of_decodeV (h : decodeV w x = some i) : encode i = some ⟨.V1, w, x⟩ := by
  unfold decodeV at h
  split at h <;> rename_i hop
  iterate 26 exact words_V3 (fun _ _ _ _ _ => rfl) hop h
  iterate 4 exact words_V2 (fun _ _ _ _ => rfl) hop h
  exact words_viota hop h
  exact words_V3 (fun _ _ _ _ _ => rfl) hop h
  iterate 3 exact words_V2 (fun _ _ _ _ => rfl) hop h
  iterate 2 exact words_VM (fun _ _ _ _ _ => rfl) hop h
  iterate 2 exact words_V3 (fun _ _ _ _ _ => rfl) hop h
  iterate 5 exact words_V2 (fun _ _ _ _ => rfl) hop h
  exact words_skinit hop h
  iterate 3 exact words_V2 (fun _ _ _ _ => rfl) hop h
  iterate 2 exact words_V3 (fun _ _ _ _ _ => rfl) hop h
  iterate 2 exact words_V2 (fun _ _ _ _ => rfl) hop h
  cases h

/-- Slot X, row by row of R77. -/
theorem words_of_decodeX (h : decodeX w x = some i) : encode i = some ⟨.X, w, x⟩ := by
  unfold decodeX at h
  split at h <;> rename_i hop
  · refine words_X (fun d a s r m i hi => ?_) hop h
    split at hi <;> cases hi
    simp [encode, encX, Nat.mod_eq_of_lt ‹s.val < 64›]
  · exact words_X (fun _ _ _ _ _ _ hi => by cases hi; rfl) hop h
  · exact words_X (fun _ _ _ _ _ _ hi => by cases hi; rfl) hop h
  · cases h

/-- Slot M, row by row of R77. -/
theorem words_of_decodeM (h : decodeM w x = some i) : encode i = some ⟨.M, w, x⟩ := by
  unfold decodeM at h
  split at h <;> rename_i hop
  exact words_mclaim hop h
  exact words_mrel hop h
  exact words_mld hop h
  exact words_mma hop h
  exact words_mst hop h
  exact words_mzero hop h
  exact words_mseq hop h
  cases h

/-- Slots C0 and C1, row by row of R77. -/
theorem words_of_decodeC (h : decodeC w x = some i) : encode i = some ⟨.C0, w, x⟩ := by
  unfold decodeC at h
  split at h <;> rename_i hop
  iterate 5 exact words_Copy (fun _ _ _ _ => rfl) hop h
  exact words_cred hop h
  iterate 2 exact words_Chan (fun _ _ => rfl) hop h
  cases h

/-- A word that a slot class reads is that of the instruction it reads (R63 to R77). -/
theorem words_of_decodeClass {sl : Slot} (h : decodeClass sl w x = some i) :
    ∃ e : Enc, encode i = some e ∧ e.word = w ∧ e.ext = x ∧
      (e.slot = sl ∨ (sl = .V0 ∧ e.slot = .V1) ∨ (sl = .C1 ∧ e.slot = .C0)) := by
  cases sl
  case Y => exact ⟨_, words_of_decodeY h, rfl, rfl, .inl rfl⟩
  case S => exact ⟨_, words_of_decodeS h, rfl, rfl, .inl rfl⟩
  case T => exact ⟨_, words_of_decodeT h, rfl, rfl, .inl rfl⟩
  case V0 => exact ⟨_, words_of_decodeV h, rfl, rfl, .inr (.inl ⟨rfl, rfl⟩)⟩
  case V1 => exact ⟨_, words_of_decodeV h, rfl, rfl, .inl rfl⟩
  case X => exact ⟨_, words_of_decodeX h, rfl, rfl, .inl rfl⟩
  case M => exact ⟨_, words_of_decodeM h, rfl, rfl, .inl rfl⟩
  case C0 => exact ⟨_, words_of_decodeC h, rfl, rfl, .inl rfl⟩
  case C1 => exact ⟨_, words_of_decodeC h, rfl, rfl, .inr (.inr ⟨rfl, rfl⟩)⟩

end

/-- No instruction is encoded for slot V0: the class of V0 and V1 is named V1. -/
theorem Enc.slot_ne_V0 {i : Instr} {e : Enc} (he : encode i = some e) : e.slot ≠ .V0 := by
  intro hs
  obtain ⟨-, h⟩ := Enc.reads_of_encode he
  rw [hs] at h
  have hV1 := congrArg Enc.slot (Option.some.inj (he.symm.trans (words_of_decodeV h)))
  cases hs.symm.trans hV1

/-! ### The checks of a slot -/

/-- A slot reads its class's layouts and then makes the checks on the instruction and its place (R60, R76). -/
theorem decodeSlot_eq_some {sl : Slot} {w : BitVec 32} {x : List (BitVec 32)} {i : Instr} :
    decodeSlot sl w x = some i ↔ decodeClass sl w.toNat x = some i ∧ i.wf = true ∧ i.fits sl = true := by
  unfold decodeSlot
  split
  · rename_i j hj
    rw [Option.ite_none_right_eq_some, Bool.and_eq_true, Option.some.injEq]
    constructor
    · rintro ⟨h, rfl⟩
      exact ⟨hj, h⟩
    · rintro ⟨hi, h⟩
      cases hj.symm.trans hi
      exact ⟨h, rfl⟩
  · rename_i hj
    simp [hj]

/-- Only slot V0 refuses an instruction of its class. -/
theorem Instr.fits_of_ne {sl : Slot} (h : sl ≠ .V0) (i : Instr) : i.fits sl = true := by
  rw [Instr.fits, Bool.or_eq_true, bne_iff_ne]
  exact .inl h

/-- Settles O50: the words of an instruction read as it by the layouts, and the checks are those it passes. -/
theorem encodingRoundTrips : Obligations.EncodingRoundTrips := by
  intro i e he hwf
  obtain ⟨hlt, hread⟩ := Enc.reads_of_encode he
  have hword : (BitVec.ofNat 32 e.word).toNat = e.word := Nat.mod_eq_of_lt hlt
  have hown : decodeSlot e.slot (BitVec.ofNat 32 e.word) e.ext = some i :=
    decodeSlot_eq_some.2 ⟨by rwa [hword], hwf, Instr.fits_of_ne (Enc.slot_ne_V0 he) i⟩
  refine ⟨hlt, hown, fun hs hfit => ?_, fun hs => ?_⟩
  · rw [hs] at hread
    exact decodeSlot_eq_some.2 ⟨by rw [hword]; exact hread, hwf, hfit⟩
  · rw [hs] at hread
    exact decodeSlot_eq_some.2 ⟨by rw [hword]; exact hread, hwf, Instr.fits_of_ne (by decide) i⟩

/-- Settles O51: a word that decodes passed the checks of its slot, and every format writes back what it read. -/
theorem wordsHaveOneMeaning : Obligations.WordsHaveOneMeaning := by
  intro sl w x i h
  obtain ⟨hread, hwf, hfits⟩ := decodeSlot_eq_some.1 h
  obtain ⟨e, he, hw, hx, hsl⟩ := words_of_decodeClass hread
  exact ⟨hwf, hfits, e, he, by rw [hw, BitVec.ofNat_toNat, BitVec.setWidth_eq], hx, hsl⟩

end Sys2Proof
end

section
/-! PROOF. The reset state, and the words that the spec's examples write out. -/

namespace Sys2Proof

open Machine

/-- Settles O53: every clause is read off the record that `State.reset` is. -/
theorem resetState : Obligations.ResetState := by
  refine ⟨rfl, rfl, rfl, rfl, fun d => ?_, ⟨rfl, rfl, rfl, rfl, rfl, rfl, fun l => ?_⟩, fun x => ?_⟩
  · exact ⟨rfl, rfl, rfl, rfl, rfl, rfl⟩
  · revert l; decide
  · refine ⟨rfl, rfl, rfl, rfl, rfl, rfl, rfl, rfl, ?_, ?_, rfl, rfl, rfl, rfl, rfl, rfl, rfl, rfl, rfl, rfl, rfl, rfl, rfl, rfl,
      rfl, rfl, rfl, rfl, ?_⟩
    · rw [show State.reset.ctx x = State.reset.ctx 0 from rfl]
      decide
    · rw [show State.reset.ctx x = State.reset.ctx 0 from rfl]
      decide
    · rw [show State.reset.ctx x = State.reset.ctx 0 from rfl]
      decide

/-- Settles O55: each word is decoded on its own. -/
theorem wordsDecode : Obligations.WordsDecode := by
  refine ⟨?_, ?_, ?_, ?_, ?_, ?_, ?_, ?_, ?_, ?_, ?_, ?_, ?_, ?_, ?_⟩ <;> decide

end Sys2Proof
end

section
/-! PROOF. A step runs the bundle that its fetch decodes only where the word fetched is one of 16 bits: a loop buffer may list a greater
number, which is of none of the three kinds of word and so never presents its bundle. -/

namespace Sys2Proof.Machine

/-- The placed program of log entry 14: a literal bundle whose slot S holds MOVI s3, −5. -/
def placed : State := State.reset.withFetchWord 32 0x681FFFFB

/-- A pinned loop in its second iteration, whose buffer lists the number 2^16 at its only word's address, and the dictionary entry of
that index: the bundle of slot S with MOVI s3, −5. -/
def wideLoops : Loops := { Loops.empty with
  start := Loops.empty.start.set 0 0x100000, fin := Loops.empty.fin.set 0 0x100002, pin := Loops.empty.pin.set 0 true
  depth := 1, stat := [{ LoopStat.start with iter := 2 }], buf := [(0x100000, 0x10000)], ents := [⟨0x10000, 0, [2, 0x681FFFFB]⟩] }

/-- The placed program's state with that loop in context 0. -/
def wideState : State :=
  placed.setCtx 0 { placed.ctx 0 with code := ⟨0x100000, 0x100800, 0, 64, 0, 0x20000, 0⟩, loops := wideLoops }

/-- The bundle's one slot. -/
def wideBundle : Bundle := [(.S, .movi 3 (.short (-5)))]

/-- The bundle as it is fetched. -/
def wideIss : Iss := issOf wideState 0 0x100000 0x100002 0 0 wideBundle

/-- The state in which the bundle would be in issue. -/
def wideOpen : State :=
  let v : State := ({ wideState with ring := [], cur := 0 } : State).useTlb 0 fun e =>
    e.covers (field (wideState.ctx 0).ptroot.toNat 63 52) (wideState.ctx 0).fetch.pc
  v.setCtx 0 { v.ctx 0 with iss := some wideIss, stall := none, pres := presMask wideIss.slots, pba := some wideIss.ba, linwait := 0 }

/-- The state before the bundle's slots run. -/
def wideBefore : State := wideOpen.setCtx 0 { wideOpen.ctx 0 with snap := some (wideOpen.capture 0), ncol := 0 }

/-- The state that the bundle's slot leaves. -/
def wideAfter : State :=
  let s : State := { wideBefore.setCtx 0 { wideBefore.ctx 0 with iss := some wideIss } with cur := 0, slot := .S }
  s.latch (.sreg (s.me.bankOf 3) 3 (-5)) 1 0

theorem eq_ok_of_toOption {ε α : Type} {x : Except ε α} {a : α} (h : x.toOption = some a) : x = .ok a := by
  cases x with
  | error e => cases h
  | ok b => exact congrArg _ (Option.some.inj h)

theorem wideState_fetches : wideState.fetchBundle 0 = .ok wideIss := eq_ok_of_toOption (by decide +kernel)

theorem wideState_slotsRun : slotsRun 0 wideIss.todo wideBefore (wideAfter.finishBundle 0) := by
  refine ⟨wideIss, rfl, rfl, by decide, wideAfter, by rfl, rfl, ?_⟩
  rw [if_neg (by decide +kernel)]
  rfl

/-- The turn presents no bundle: the core's units stay free. -/
theorem step_wideState_mask : ∀ t, step wideState = .next t → (t.core (coreOf 0)).mask = 0 := by
  intro t h
  have hs : step wideState = .next (State.turn exec { wideState with ring := [] } 0) := rfl
  rw [hs] at h
  cases h
  decide +kernel

end Sys2Proof.Machine

namespace Sys2Proof

open Machine

/-- Refutes O54: at the number 2^16 in a loop buffer the bundle is fetched, but no step presents it. -/
theorem not_stepRunsTheBundle : ¬ Obligations.StepRunsTheBundle := by
  rintro ⟨-, h, -⟩
  have hstep := h wideState _ 0 [] wideIss rfl rfl (by decide +kernel) (by decide +kernel) rfl rfl (by decide +kernel)
    (by decide +kernel) (by decide +kernel) (by decide +kernel) wideState_fetches (by decide) (by decide +kernel) (by decide +kernel)
    (by
      intro p hp w hw
      obtain rfl : p = (.S, .movi 3 (.short (-5))) := List.mem_singleton.1 hp
      cases hw
      rfl) (by decide +kernel) wideState_slotsRun
  have hmask := step_wideState_mask _ hstep
  rw [State.setCore_core_same] at hmask
  exact absurd (BitVec.or_eq_zero_iff.1 hmask).2 (by decide)

end Sys2Proof
end

section
/-! PROOF. The integer mould (R312, R313): its arithmetic in closed form, and its two forms. -/

namespace Sys2Proof.Machine

/-! ### The arithmetic of the mould, on operands of w bits -/

theorem iSub_eq_differenceOf {f : Fmt} {b : Nat} (hb : b < 2 ^ f.opWidth) (a : Nat) : iSub f a b = differenceOf f a b := by
  unfold iSub wrap differenceOf
  have h : ((a : Int) - b) % (2 ^ f.opWidth : Nat) = ((a + (2 ^ f.opWidth - b) : Nat) : Int) % (2 ^ f.opWidth : Nat) := by
    rw [← Int.add_emod_right]
    congr 1
    omega
  rw [h, ← Int.natCast_emod, Int.toNat_natCast]

theorem iMin_eq_lesser (f : Fmt) (a b : Nat) : iMin f a b = lesser f a b := by
  unfold iMin lesser
  split <;> split <;> first | rfl | omega

theorem iMax_eq_greater (f : Fmt) (a b : Nat) : iMax f a b = greater f a b := by
  unfold iMax greater
  split <;> split <;> first | rfl | omega

theorem iShl_eq (f : Fmt) (a b : Nat) : iShl f a b = a * 2 ^ (b % 256) % 2 ^ f.opWidth := by
  unfold iShl
  dsimp only
  split
  case isTrue h => exact (Nat.mod_eq_zero_of_dvd (Nat.dvd_mul_left_of_dvd (Nat.pow_dvd_pow 2 h) a)).symm
  case isFalse => rfl

theorem iShr_eq {f : Fmt} {a : Nat} (ha : a < 2 ^ f.opWidth) (b : Nat) : iShr f a b = a / 2 ^ (b % 256) := by
  unfold iShr
  dsimp only
  split
  case isTrue h => exact (Nat.div_eq_of_lt (Nat.lt_of_lt_of_le ha (Nat.pow_le_pow_right (by decide) h))).symm
  case isFalse => rfl

/-- A word of w bits as a signed number lies between −2^w and 2^w. -/
theorem sextNat_bounds (w n : Nat) : -(2 ^ w : Nat) ≤ sextNat w n ∧ sextNat w n < (2 ^ w : Nat) := by
  have hm : n % 2 ^ w < 2 ^ w := Nat.mod_lt _ (Nat.two_pow_pos w)
  unfold sextNat
  dsimp only
  split <;> omega

/-- Shifted right by w or more, nothing but the sign is left. -/
theorem ediv_two_pow_min {i : Int} {w : Nat} (h : -(2 ^ w : Nat) ≤ i ∧ i < (2 ^ w : Nat)) (n : Nat) :
    i / (2 ^ min n w : Nat) = i / (2 ^ n : Nat) := by
  rcases Nat.le_total n w with hn | hn
  · rw [Nat.min_eq_left hn]
  rw [Nat.min_eq_right hn]
  have hpow : 2 ^ w ≤ 2 ^ n := Nat.pow_le_pow_right (by decide) hn
  have hpos : 0 < 2 ^ w := Nat.two_pow_pos w
  by_cases hi : i < 0
  · rw [Int.ediv_eq_neg_one_of_neg_of_le hi (by omega), Int.ediv_eq_neg_one_of_neg_of_le hi (by omega)]
  · have h0 : 0 ≤ i := Int.not_lt.1 hi
    rw [Int.ediv_eq_zero_of_lt h0 h.2, Int.ediv_eq_zero_of_lt h0 (by omega)]

theorem iShra_eq_signedRight (f : Fmt) (a b : Nat) : iShra f a b = signedRight f.opWidth a (b % 256) := by
  unfold iShra signedRight
  dsimp only
  rw [ediv_two_pow_min (sextNat_bounds f.opWidth a)]

/-! ### The two forms -/

/-- A register form whose arithmetic is `val` on words of w bits. -/
theorem regForm_of_aluReg {mk : Ty → Fin 64 → Fin 64 → Fin 64 → Instr} {op val : Fmt → Nat → Nat → Nat} {lat : Nat}
    (h : ∀ ty sd sa sb s, exec (mk ty sd sa sb) s = aluReg op lat ty sd sa sb s)
    (hval : ∀ f a b, a < 2 ^ f.opWidth → b < 2 ^ f.opWidth → op f a b = val f a b) : RegForm lat mk val := by
  intro s ty sd sa sb a b ha hb hw
  rw [h, aluReg_ok ha hb hw, aluResult, hval _ _ _ (low_lt _ a) (low_lt _ b)]

/-- An immediate form whose arithmetic is `val` on words of w bits. -/
theorem immForm_of_aluImm {mk : Ty → Fin 64 → Fin 64 → Imm9 → Instr} {op val : Fmt → Nat → Nat → Nat} {lat : Nat}
    (h : ∀ ty sd sa imm s, exec (mk ty sd sa imm) s = aluImm op lat ty sd sa imm s)
    (hval : ∀ f a b, a < 2 ^ f.opWidth → b < 2 ^ f.opWidth → op f a b = val f a b) : ImmForm lat mk val := by
  intro s ty sd sa imm a ha hw
  rw [h, aluImm_ok ha hw, aluResult, hval _ _ _ (low_lt _ a) (low_lt _ imm.value)]

/-- Settles O1: the forms of the mould by their arithmetic; SEL, CLZ and POPC by the lemmas of their own statements. -/
theorem integerForms : Obligations.IntegerForms := by
  refine ⟨⟨?_, ?_, ?_, ?_, ?_, ?_, ?_, ?_, ?_, ?_, ?_⟩, ⟨?_, ?_, ?_, ?_, ?_, ?_, ?_, ?_, ?_, ?_, ?_⟩,
    fun s p sd sa sb a b ha hb hw => exec_sel_ok ha hb hw p, fun s ty sd sa a ha hw => ⟨exec_clz_ok ha hw, exec_popc_ok ha hw⟩⟩
  · exact regForm_of_aluReg (op := iAdd) (fun _ _ _ _ _ => rfl) fun _ _ _ _ _ => rfl
  · exact regForm_of_aluReg (op := iSub) (fun _ _ _ _ _ => rfl) fun _ a _ _ hb => iSub_eq_differenceOf hb a
  · exact regForm_of_aluReg (op := iMul) (fun _ _ _ _ _ => rfl) fun _ _ _ _ _ => rfl
  · exact regForm_of_aluReg (op := iMin) (fun _ _ _ _ _ => rfl) fun f a b _ _ => iMin_eq_lesser f a b
  · exact regForm_of_aluReg (op := iMax) (fun _ _ _ _ _ => rfl) fun f a b _ _ => iMax_eq_greater f a b
  · exact regForm_of_aluReg (op := iAnd) (fun _ _ _ _ _ => rfl) fun _ _ _ _ _ => rfl
  · exact regForm_of_aluReg (op := iOr) (fun _ _ _ _ _ => rfl) fun _ _ _ _ _ => rfl
  · exact regForm_of_aluReg (op := iXor) (fun _ _ _ _ _ => rfl) fun _ _ _ _ _ => rfl
  · exact regForm_of_aluReg (op := iShl) (fun _ _ _ _ _ => rfl) fun f a b _ _ => iShl_eq f a b
  · exact regForm_of_aluReg (op := iShr) (fun _ _ _ _ _ => rfl) fun _ _ b ha _ => iShr_eq ha b
  · exact regForm_of_aluReg (op := iShra) (fun _ _ _ _ _ => rfl) fun f a b _ _ => iShra_eq_signedRight f a b
  · exact immForm_of_aluImm (op := iAdd) (fun _ _ _ _ _ => rfl) fun _ _ _ _ _ => rfl
  · exact immForm_of_aluImm (op := iSub) (fun _ _ _ _ _ => rfl) fun _ a _ _ hb => iSub_eq_differenceOf hb a
  · exact immForm_of_aluImm (op := iMul) (fun _ _ _ _ _ => rfl) fun _ _ _ _ _ => rfl
  · exact immForm_of_aluImm (op := iMin) (fun _ _ _ _ _ => rfl) fun f a b _ _ => iMin_eq_lesser f a b
  · exact immForm_of_aluImm (op := iMax) (fun _ _ _ _ _ => rfl) fun f a b _ _ => iMax_eq_greater f a b
  · exact immForm_of_aluImm (op := iAnd) (fun _ _ _ _ _ => rfl) fun _ _ _ _ _ => rfl
  · exact immForm_of_aluImm (op := iOr) (fun _ _ _ _ _ => rfl) fun _ _ _ _ _ => rfl
  · exact immForm_of_aluImm (op := iXor) (fun _ _ _ _ _ => rfl) fun _ _ _ _ _ => rfl
  · exact immForm_of_aluImm (op := iShl) (fun _ _ _ _ _ => rfl) fun f a b _ _ => iShl_eq f a b
  · exact immForm_of_aluImm (op := iShr) (fun _ _ _ _ _ => rfl) fun _ _ b ha _ => iShr_eq ha b
  · exact immForm_of_aluImm (op := iShra) (fun _ _ _ _ _ => rfl) fun f a b _ _ => iShra_eq_signedRight f a b

end Sys2Proof.Machine
end

section
/-! PROOF. The compares, the scalar floating instructions and the conversions (R329, R334 to R336). -/

namespace Sys2Proof.Machine

/-! ### Compares -/

theorem execCmp_ok {s : State} {ty : Ty} {sa sb : Fin 64} {a b : Word} (ha : rdT s ty sa = .ok a) (hb : rdT s ty sb = .ok b) (c : Cond)
    (pd : Fin 16) : exec (.cmp ty c pd sa sb) s = .next ((popT s ty [sa, sb]).latch
      (.pred pd (intCond c (ty.base.toInt a.toNat) (ty.base.toInt b.toNat))) 1 0) := by
  change execCmp ty c pd sa sb s = _
  simp only [execCmp, ha, hb, slotwise_ok_bind, slotDo_ok, putP]

theorem execFcmp_ok {s : State} {sa sb : Fin 64} {a b : Word} (ha : rdS s sa = .ok a) (hb : rdS s sb = .ok b) (f : Fmt) (c : Cond)
    (pd : Fin 16) :
    let r := fpCond c (f.fp.dec (f.low a)) (f.fp.dec (f.low b))
    exec (.fcmp (.fmt f) c pd sa sb) s = .next (s.latch (.pred pd r.1) 2 r.2) := by
  change execFcmp (.fmt f) c pd sa sb s = _
  simp only [execFcmp, ha, hb, slotwise_ok_bind, slotDo_ok, putP]
  rfl

/-- The conditions of R335: what a NaN makes of each. -/
theorem fpCond_fst (c : Cond) (x y : Val) :
    (fpCond c x y).1 = (if x.isNan ∨ y.isNan then c == .ne || c == .un else match c with
      | .eq => x.eq y | .ne => !x.eq y | .lt => x.lt y | .le => !y.lt x | .gt => y.lt x | .ge => !x.lt y | .un => false) := by
  rcases hx : x.isNan with _ | _ <;> rcases hy : y.isNan with _ | _ <;> cases c <;> simp [fpCond, hx, hy]

/-- A signalling NaN is a NaN. -/
theorem isNan_of_isSig {v : Val} (h : v.isSig = true) : v.isNan = true := by
  cases v <;> simp_all [Val.isSig, Val.isNan]

theorem fpCond_snd (c : Cond) (x y : Val) :
    (fpCond c x y).2 =
      (if (x.isNan ∨ y.isNan) ∧ (c = .lt ∨ c = .le ∨ c = .gt ∨ c = .ge) ∨ x.isSig ∨ y.isSig then flNV else 0) := by
  have hx := isNan_of_isSig (v := x)
  have hy := isNan_of_isSig (v := y)
  cases c with
  | eq | ne | un => simp [fpCond, Flags.when]
  | lt | le | gt | ge =>
    simp only [fpCond, Flags.when, Bool.or_eq_true]
    exact ite_eq_of_iff (by grind) rfl rfl

/-- Settles O4: the predicate and the flags by the tables of conditions. -/
theorem compares : Obligations.Compares := by
  refine ⟨?_, fun s f c pd sa sb a b ha hb => ?_⟩
  · intro s ty c pd sa sb a b ha hb x y r v hv
    rw [execCmp_ok ha hb]
    have hc : intCond c x y = v := by
      cases c with
      | eq | lt | le | gt | ge => exact Option.some.inj hv
      | ne => exact decide_not.symm.trans (Option.some.inj hv)
      | un => exact absurd (show none = some v from hv) nofun
    rw [hc]
  · exact ⟨_, _, execFcmp_ok ha hb f c pd, fpCond_fst _ _ _, fpCond_snd _ _ _⟩

/-! ### Floating results -/

theorem fpReg_ok {op : FpFmt → Rm → Val → Val → Val → Nat × Flags} {s : State} {f : Fmt} {sd sa sb : Fin 64} {a b d : Word}
    (ha : rdS s sa = .ok a) (hb : rdS s sb = .ok b) (hw : wrS s sd = .ok ()) {useD : Bool}
    (hd : (if useD then rdS s sd else .ok 0) = .ok d) (rm : Rm) (lat : Nat) :
    let r := op f.fp rm (f.fp.dec (f.low a)) (f.fp.dec (f.low b)) (f.fp.dec (f.low d))
    fpReg op (.fmt f) rm sd sa sb useD lat s = .next (s.latch (.sreg (s.me.bankOf sd) sd (f.extend r.1)) lat r.2) := by
  cases useD with
  | true => simp only [fpReg, ha, hb, show rdS s sd = .ok d from hd, slotwise_ok_bind, if_true, putS_ok hw, slotDo_ok]; rfl
  | false =>
    obtain rfl : 0 = d := by injection hd
    simp only [fpReg, ha, hb, slotwise_ok_bind, Bool.false_eq_true, if_false, putS_ok hw, slotDo_ok]; rfl

theorem execFcvt_ok {s : State} {sd sa : Fin 64} {a : Word} (ha : rdS s sa = .ok a) (hw : wrS s sd = .ok ()) (dst src : Fmt) (rm : Rm) :
    exec (.fcvt dst src rm sd sa) s =
      .next (s.latch (.sreg (s.me.bankOf sd) sd (dst.extend (fcvt dst src rm a).1)) 3 (fcvt dst src rm a).2) := by
  change execFcvt dst src rm sd sa s = _
  simp only [execFcvt, ha, slotwise_ok_bind, putS_ok hw, slotDo_ok]

/-- The floating types are unsigned, no integers and no tapered types. -/
theorem isFloat_cases {f : Fmt} (h : f.isFloat = true) :
    f.isInt = false ∧ f.isTap = false ∧ f.signed = false ∧ (f == .t6) = false := by
  revert h; cases f <;> decide

theorem extend_of_isFloat {f : Fmt} (h : f.isFloat = true) (n : Nat) : f.extend n = BitVec.ofNat 64 (n % 2 ^ f.opWidth) := by
  obtain ⟨-, -, hs, h6⟩ := isFloat_cases h
  simp [Fmt.extend, hs, h6]

theorem isTap_cases {f : Fmt} (h : f.isTap = true) : f = .t8 ∨ f = .t6 := by
  revert h; cases f <;> decide

theorem extend_of_isTap {f : Fmt} (h : f.isTap = true) (n : Nat) :
    f.extend n = BitVec.ofNat 64 (n % 2 ^ (if f = .t6 then 6 else 8)) := by
  rcases isTap_cases h with rfl | rfl <;> rfl

/-- A format's range is no empty one. -/
theorem range_le (f : Fmt) : f.range.1 ≤ f.range.2 := by cases f <;> decide

theorem satInt_eq (f : Fmt) (i : Int) : satInt f i = max f.range.1 (min f.range.2 i) := by
  have h := range_le f
  unfold satInt
  omega

theorem fcvt_of_isFloat {dst : Fmt} (h : dst.isFloat = true) (src : Fmt) (rm : Rm) (a : Word) :
    let v := src.scalarVal (src.low a)
    fcvt dst src rm a = ((dst.fp.rnd rm v).1, (dst.fp.rnd rm v).2 ||| sigFlags [v]) := by
  obtain ⟨hi, ht, -, -⟩ := isFloat_cases h
  simp [fcvt, hi, ht]

theorem fcvt_of_isTap {dst : Fmt} (h : dst.isTap = true) (src : Fmt) (rm : Rm) (a : Word) :
    let v := src.scalarVal (src.low a)
    fcvt dst src rm a = ((encTap dst rm v).1, (encTap dst rm v).2 ||| sigFlags [v]) := by
  rcases isTap_cases h with rfl | rfl <;> rfl

theorem fcvt_of_isInt {dst : Fmt} (h : dst.isInt = true) (src : Fmt) (rm : Rm) (a : Word) :
    fcvt dst src rm a = if src.isInt then (wrap dst.opWidth (max dst.range.1 (min dst.range.2 (src.toInt (src.low a)))), 0)
      else (wrap dst.opWidth (toIntFmt dst rm (src.scalarVal (src.low a))).1, (toIntFmt dst rm (src.scalarVal (src.low a))).2) := by
  simp only [fcvt, h, if_true, satInt_eq]

/-- Settles O5: each instruction is its expression, rounded once; a conversion goes by the kind of its destination. -/
theorem scalarFloating : Obligations.ScalarFloating := by
  constructor
  · intro s f rm sd sa sb a b d hf ha hb hd hw x y z put
    refine ⟨fpReg_ok (op := fun f rm a b _ => fpAdd f rm a b) (d := 0) (useD := false) ha hb hw rfl rm 4,
      fpReg_ok (op := fun f rm a b _ => fpMul f rm a b) (d := 0) (useD := false) ha hb hw rfl rm 4, ?_, fun src _ => ?_⟩
    · refine (fpReg_ok (op := fpFma) ha hb hw (useD := true) hd rm 4).trans ?_
      simp only [put, fpFma, BitVec.or_assoc]
      rfl
    · rw [execFcvt_ok ha hw, fcvt_of_isFloat hf, extend_of_isFloat hf]
  · intro s dst src rm sd sa a _ ha hw v put
    refine ⟨fun h => ?_, fun h => ?_⟩
    · rw [execFcvt_ok ha hw, fcvt_of_isInt h]
      split <;> rfl
    · rw [execFcvt_ok ha hw, fcvt_of_isTap h, extend_of_isTap h]

end Sys2Proof.Machine
end

section
/-! PROOF. Transfers, loops, the instructions that end a bundle, and the system registers (R320 to R323, R341 to R349, R358 to R369). -/

namespace Sys2Proof.Machine

/-! ### Transfers -/

/-- A state's transfer within a bundle notes the target. -/
theorem transfer_of_iss {s : State} {i : Iss} (h : s.me.iss = some i) (t : Nat) : s.transfer t = tookTransfer s i t := by
  simp [State.transfer, h, tookTransfer]

theorem relTarget_of_iss {s : State} {i : Iss} (h : s.me.iss = some i) (off : BitVec 20) :
    s.me.relTarget off = (BitVec.ofNat 64 i.origin + BitVec.ofInt 64 (2 * off.toInt)).toNat := by
  simp [Ctx.relTarget, Ctx.origin, h, BitVec.signExtend, BitVec.ofInt_mul]

/-- A result in the latches leaves the bundle in issue. -/
theorem iss_latch (s : State) (w : Write) (n : Nat) (fl : Flags) : (s.latch w n fl).me.iss = s.me.iss := by simp

/-- Settles O6: each form by its target. -/
theorem transfers : Obligations.Transfers := by
  intro s i off hi rel
  have hrel : s.me.relTarget off = rel := relTarget_of_iss hi off
  have htake := transfer_of_iss hi
  refine ⟨fun pn p => ?_, ?_, fun sn a ha => ?_, fun a ha => ?_, fun hw => ?_⟩
  · change execBr pn p off s = _
    rw [execBr, slotDo_ok, hrel, htake]
  · change execJmp off s = _
    rw [execJmp, slotDo_ok, hrel, htake]
  · change execJmpReg sn s = _
    simp only [execJmpReg, ha, slotwise_ok_bind, slotDo_ok, htake]
  · change execRet s = _
    simp only [execRet, ha, slotwise_ok_bind, slotDo_ok, htake]
  intro t
  have hlink : callLink s = .ok t := by rw [callLink, putS_ok hw, Ctx.nextBa, hi]
  have hit : t.me.iss = some i := (iss_latch _ _ _ _).trans hi
  refine ⟨?_, fun sn a ha => ?_⟩
  · change execCall off s = _
    simp only [execCall, hlink, slotwise_ok_bind, slotDo_ok, hrel, transfer_of_iss hit]
  · change execCallReg sn s = _
    simp only [execCallReg, ha, hlink, slotwise_ok_bind, slotDo_ok, transfer_of_iss hit]

/-! ### Loops -/

theorem get_setIfInBounds_of_ne {n : Nat} {v : Vector α n} {d : Nat} {a : α} {k : Fin n} (h : k.val ≠ d) :
    (v.setIfInBounds d a).get k = v.get k := by
  change (v.setIfInBounds d a)[k.val] = v[k.val]
  simp [h.symm]

theorem execLoop_legal {s : State} {i : Iss} {sa : Fin 64} {a : Word} (hi : s.me.iss = some i) (ha : rdS s sa = .ok a)
    (h : loopLegal s.me.stack.depth i.rep (a.toNat % 2 ^ 32) = true) (pin : Bool) (bodyw : BitVec 10) :
    let fin := i.nextBa + 2 * bodyw.toNat
    exec (.loop pin sa bodyw) s = .next (if a.toNat % 2 ^ 32 = 0 then
        s.setMe { s.me with iss := some { i with nextBa := fin, skip := some (i.nextBa, fin) } }
      else s.setMe (s.me.setStack (s.me.stack.push i.nextBa fin (a.toNat % 2 ^ 32) pin))) := by
  intro fin
  have hn : s.me.nextBa = i.nextBa := by rw [Ctx.nextBa, hi]
  change execLoop pin sa bodyw s = _
  simp only [execLoop, ha, slotwise_ok_bind, hi, h, need_true, hn]
  split <;> rfl

theorem execLoop_illegal {s : State} {i : Iss} {sa : Fin 64} {a : Word} (hi : s.me.iss = some i) (ha : rdS s sa = .ok a)
    (h : loopLegal s.me.stack.depth i.rep (a.toNat % 2 ^ 32) = false) (pin : Bool) (bodyw : BitVec 10) :
    exec (.loop pin sa bodyw) s = .next (s.slotTrap (TrapInfo.of 1 2)) := by
  change execLoop pin sa bodyw s = _
  simp only [execLoop, ha, slotwise_ok_bind, hi, h, need_false, slotwise_error_bind, illegal, slotDo_trap]

/-- Settles O7: by whether the loop is legal, and whether its count is 0. -/
theorem loopPushes : Obligations.LoopPushes := by
  intro s i pin sa bodyw a hi ha n l
  refine ⟨fun hrep hn hd => ⟨l.push i.nextBa (i.nextBa + 2 * bodyw.toNat) n pin, ?_, rfl, rfl, ?_, ?_, ?_, fun k hk => ?_⟩,
    fun hrep hn => ?_, fun h => ?_⟩
  · rw [execLoop_legal hi ha (by simp [loopLegal, hrep]; exact .inr hd), if_neg (Nat.pos_iff_ne_zero.1 hn)]
  · simp [Loops.push]
  · simp [Loops.push]
  · simp only [Loops.push, Vector.getElem_setIfInBounds_self, BitVec.toNat_ofNat]
    exact Nat.mod_eq_of_lt (Nat.mod_lt _ (by decide))
  · exact ⟨get_setIfInBounds_of_ne hk, get_setIfInBounds_of_ne hk, get_setIfInBounds_of_ne hk⟩
  · rw [execLoop_legal hi ha (by simp [loopLegal, hrep]; exact .inl hn), if_pos hn]
  · refine execLoop_illegal hi ha ?_ pin bodyw
    rcases h with h | ⟨hn, hd⟩
    · simp [loopLegal, h]
    · have hd' : ¬ s.me.stack.depth < 4 := Nat.not_lt.2 hd
      have hn' : a.toNat % 2 ^ 32 ≠ 0 := Nat.pos_iff_ne_zero.1 hn
      rw [loopLegal, beq_false_of_ne hn', decide_eq_false hd', Bool.or_false, Bool.and_false]

/-! ### The instructions that end a bundle -/

theorem ends_of_iss {s : State} {i : Iss} (h : s.me.iss = some i) (e : Ending) :
    s.ends e = s.setMe { s.me with iss := some { i with ending := e } } := by
  simp [State.ends, h]

theorem trapAfter_of_iss {s : State} {i : Iss} (h : s.me.iss = some i) (t : TrapInfo) :
    s.trapAfter t = s.setMe { s.me with iss := some { i with after := some t } } := by
  simp [State.trapAfter, h]

theorem execTrap_of_iss {s : State} {i : Iss} (h : s.me.iss = some i) (code : BitVec 16) :
    exec (.trap code) s = .next (s.setMe { s.me with iss := some { i with after := some ⟨15, 0, code.toNat, 0, false⟩ } }) := by
  change execTrap code s = _
  rw [execTrap, slotDo_ok, trapAfter_of_iss h]

theorem execBrk_of_iss {s : State} {i : Iss} (h : s.me.iss = some i) (code : BitVec 16) :
    exec (.brk code) s = .next (s.setMe { s.me with iss := some { i with after := some ⟨16, 0, code.toNat, 0, false⟩ } }) := by
  change execBrk code s = _
  rw [execBrk, slotDo_ok, trapAfter_of_iss h]

theorem execHalt_of_iss {s : State} {i : Iss} (h : s.me.iss = some i) :
    exec .halt s = .next (if s.isComm s.cur then s.slotTrap (TrapInfo.of 1 2)
      else s.setMe { s.me with iss := some { i with ending := .halt } }) := by
  change execHalt s = _
  cases hc : s.isComm s.cur with
  | true => simp [execHalt, hc, illegal]
  | false => simp [execHalt, hc, ends_of_iss h]

theorem execRft_user {s : State} (h : s.me.sup = false) : exec .rft s = .next (s.slotTrap (TrapInfo.of 2 0)) := by
  change execRft s = _
  simp [execRft, h, privilege]

theorem execRft_sup {s : State} {i : Iss} (hi : s.me.iss = some i) (h : s.me.sup = true) (hl : ∀ l ∈ s.me.lat, l.born = s.me.cc)
    (hm : ∀ m ∈ s.me.mops, m.sup = false ∨ m.hasResult = false) :
    exec .rft s = .next (s.setMe { s.me with iss := some { i with ending := .rft } }) := by
  change execRft s = _
  have hlanded : ((s.me.lat.all (·.born == s.me.cc)) && s.me.mops.all fun m => !(m.sup && m.hasResult)) = true := by
    simpa [List.all_eq_true, ← Bool.not_eq_true, Decidable.imp_iff_not_or] using And.intro hl hm
  simp only [execRft, h, hlanded, need_true, slotwise_ok_bind, ends_of_iss hi, slotDo_ok]

theorem execRfui_outside {s : State} (h : s.me.uiact = false) : exec .rfui s = .next (s.slotTrap (TrapInfo.of 1 2)) := by
  change execRfui s = _
  simp [execRfui, h, illegal]

theorem execRfui_inside {s : State} {i : Iss} {v : Word} (hi : s.me.iss = some i) (h : s.me.uiact = true)
    (hs : s.me.sup = true → s.me.pendingS .shadow 57 = false ∧ v = s.me.getS .shadow 57) (hu : s.me.sup = false → rdS s 57 = .ok v) :
    exec .rfui s = .next (s.setMe { s.me with iss := some { i with target := some v.toNat, ending := .rfui } }) := by
  have hends : (s.transfer v.toNat).ends .rfui =
      s.setMe { s.me with iss := some { i with target := some v.toNat, ending := .rfui } } := by
    rw [transfer_of_iss hi, tookTransfer, ends_of_iss (i := { i with target := some v.toNat }) (by simp)]
    simp
  change execRfui s = _
  cases hsup : s.me.sup with
  | true =>
    obtain ⟨hp, rfl⟩ := hs hsup
    simp [execRfui, h, hsup, hp, hends]
  | false => simp [execRfui, h, hsup, hu hsup, hends]

/-- A grace window runs when its count is there and above 0. -/
theorem inGrace_iff (c : Ctx) : c.inGrace = true ↔ c.grace ≠ none ∧ c.grace ≠ some 0 := by
  rw [Ctx.inGrace]
  cases c.grace <;> simp [Nat.pos_iff_ne_zero]

theorem execLive_of_iss {s : State} {i : Iss} (hi : s.me.iss = some i) (e : Fin 256) :
    exec (.live e) s = .next (
      if s.me.grace ≠ none ∧ s.me.grace ≠ some 0 ∧ s.me.sup = false ∧ s.me.uiact = false ∧ s.me.hasMcast = false ∧
          s.me.loops.depth = 0 then s.setMe { s.me with iss := some { i with live := some e } }
      else s) := by
  change execLive e s = _
  rw [execLive, slotDo_ok]
  simp only [hi]
  congr 1
  refine ite_eq_of_iff ?_ rfl rfl
  rw [← and_assoc (a := s.me.grace ≠ none), ← inGrace_iff]
  simp [and_assoc]

/-- Settles O8: each instruction by its checks. -/
theorem endingInstructions : Obligations.EndingInstructions := by
  refine ⟨fun s i code h => ⟨execTrap_of_iss h code, execBrk_of_iss h code⟩,
    fun s i h => ⟨execHalt_of_iss h, execRft_user, execRft_sup h, execRfui_outside, fun ha v hs hu => execRfui_inside h ha hs hu⟩,
    fun s i e h => execLive_of_iss h e, fun s h => ?_, fun s h hq => ?_, fun s h hq => ?_⟩
  · change execWaiti s = _
    simp [execWaiti, h, illegal]
  · change execWaiti s = _
    simp [execWaiti, h, hq]
  · change execWaiti s = _
    have hq' : s.me.uiq.isEmpty = false := by simpa using hq
    simp [execWaiti, h, hq']

/-! ### System registers and view registers -/

/-- A check that fails ends its slot with its stop. -/
theorem slotDo_need_false (s : State) (e : Stop) (f : Unit → Slotwise State) : slotDo s (need false e >>= f) = slotDo s (.error e) := rfl

theorem execSysr_ok {s : State} {sd : Fin 64} {n : Fin 4096} (h : s.me.sup = true ∨ sysReadSup n.val = false) (hw : wrS s sd = .ok ()) :
    exec (.sysr sd n) s = .next (if s.me.pendingBank n.val then s.heldBy .memory
      else s.latch (.sreg (s.me.bankOf sd) sd (sysRead s s.cur n.val)) 2 0) := by
  change execSysr sd n s = _
  have hpriv : (s.me.sup || !sysReadSup n.val) = true := by rcases h with h | h <;> simp [h]
  cases hp : s.me.pendingBank n.val <;> simp [execSysr, hpriv, hp, pendHold, putS_ok hw]

theorem execSysr_user {s : State} {n : Fin 4096} (hs : s.me.sup = false) (h : sysReadSup n.val = true) (sd : Fin 64) :
    exec (.sysr sd n) s = .next (s.slotTrap (TrapInfo.of 2 0)) := by
  change execSysr sd n s = _
  simp [execSysr, hs, h, privilege]

/-- What a write of a system register that is no TLBINV comes to (R365 to R368). -/
theorem slotDo_sysWrite (s : State) {n : Nat} (v : Word) (hn : n ≠ 0x119) :
    slotDo s (sysWrite s n v) = .next (
      if s.me.sup = false ∧ sysWriteUser n = false then s.slotTrap (TrapInfo.of 2 0)
      else if sysReadOnly n = true ∨ sysLayout n v = false then s.slotTrap (TrapInfo.of 1 2)
      else if s.me.pendingBank n then s.heldBy .memory
      else s.latch (.sys n v) 1 0) := by
  unfold sysWrite
  rw [if_neg hn]
  by_cases hp : s.me.sup = false ∧ sysWriteUser n = false
  · simp [hp, privilege]
  have hpriv : (s.me.sup || sysWriteUser n) = true := by
    rw [Bool.or_eq_true, ← Bool.not_eq_false, ← Bool.not_eq_false (sysWriteUser n)]
    exact Decidable.not_and_iff_not_or_not.1 hp
  rw [if_neg hp, hpriv]
  cases hro : sysReadOnly n with
  | true => simp [illegal]
  | false =>
    cases hl : sysLayout n v with
    | false => simp [illegal]
    | true => cases hb : s.me.pendingBank n <;> simp [pendHold]

/-- Settles O9: privilege, the read-only registers, the layout, the registers that a load is to write, in this order. -/
theorem systemRegisters : Obligations.SystemRegisters := by
  refine ⟨fun s sd n h hw => execSysr_ok h hw, fun s sd n hs h => execSysr_user hs h sd, fun s sa n v hv hn => ?_, fun s sa v hv => ?_⟩
  · change execSysw sa n s = _
    simp only [execSysw, hv, slotwise_ok_bind, slotDo_sysWrite s v hn]
  · change execTbaWrite sa s = _
    simp only [execTbaWrite, hv, slotwise_ok_bind, slotDo_sysWrite s v (show 0x111 ≠ 0x119 by decide)]
    have hb : s.me.pendingBank 0x111 = false := rfl
    cases s.me.sup <;> simp [show sysWriteUser 0x111 = false from rfl, show sysReadOnly 0x111 = false from rfl,
      show sysLayout 0x111 v = true from rfl, hb]

theorem rsvd_eq_zero_iff (v : Word) : (ViewReg.of v).rsvd = 0 ↔ v.toNat < 2 ^ 34 := by
  have hv := v.isLt
  change v.toNat / 2 ^ 34 % 2 ^ 30 = 0 ↔ _
  omega

/-- Settles O11: the reserved bits first, then the fields and the geometry. -/
theorem viewRegisters : Obligations.ViewRegisters := by
  intro s vw sa v hv r
  change execViewset vw sa s = _
  simp only [execViewset, hv, slotwise_ok_bind]
  by_cases h : v.toNat < 2 ^ 34
  · have hr : (r.rsvd == 0) = true := by simpa using (rsvd_eq_zero_iff v).2 h
    rw [if_neg (Nat.not_le.2 h)]
    cases hf : r.fieldsOk with
    | false => simp [r, hr, hf, viewFault]
    | true => cases hg : r.geometryOk (rdSys s 0x101).toNat <;> simp [r, hr, hf, hg, viewFault]
  · have hr : (r.rsvd == 0) = false := by simpa using fun hz => h ((rsvd_eq_zero_iff v).1 hz)
    rw [if_pos (Nat.not_lt.1 h), hr]
    rfl

end Sys2Proof.Machine
end

section
/-! PROOF. Rows and their elements (R35, R42, R43): the fields of a number, the bits that a masked write leaves. -/

namespace Sys2Proof.Machine

/-! ### Fields of a number -/

@[simp] theorem length_splitN (w n v : Nat) : (splitN w n v).length = n := by
  induction n generalizing v with
  | zero => rfl
  | succ n ih => rw [splitN, List.length_cons, ih]

theorem getElem_splitN (w : Nat) {n k : Nat} (v : Nat) (hk : k < (splitN w n v).length) :
    (splitN w n v)[k] = v / 2 ^ (w * k) % 2 ^ w := by
  induction n generalizing v k with
  | zero => exact absurd hk (by simp)
  | succ n ih =>
    cases k with
    | zero => simp [splitN]
    | succ k =>
      simp only [splitN, List.getElem_cons_succ]
      rw [ih, Nat.div_div_eq_div_mul, ← Nat.pow_add, show w + w * k = w * (k + 1) by rw [Nat.mul_add, Nat.mul_one, Nat.add_comm]]

theorem getD_splitN (w : Nat) {n k : Nat} (v : Nat) (hk : k < n) : (splitN w n v).getD k 0 = v / 2 ^ (w * k) % 2 ^ w := by
  rw [getD_eq_getElem_of_lt _ _ (by rwa [length_splitN]), getElem_splitN]

/-- The fields of joined fields are the fields, each cut to its bits. -/
theorem splitN_joinN (w : Nat) (l : List Nat) : splitN w l.length (joinN w l) = l.map (· % 2 ^ w) := by
  induction l with
  | nil => rfl
  | cons x l ih =>
    have hlow : (x % 2 ^ w + 2 ^ w * joinN w l) % 2 ^ w = x % 2 ^ w := by rw [Nat.add_mul_mod_self_left, Nat.mod_mod]
    have hrest : (x % 2 ^ w + 2 ^ w * joinN w l) / 2 ^ w = joinN w l := by
      rw [Nat.add_mul_div_left _ _ (Nat.two_pow_pos w), Nat.div_eq_of_lt (Nat.mod_lt _ (Nat.two_pow_pos w)), Nat.zero_add]
    rw [List.length_cons, splitN, joinN, hlow, hrest, ih, List.map_cons]

theorem joinN_lt (w : Nat) (l : List Nat) : joinN w l < 2 ^ (w * l.length) := by
  induction l with
  | nil => simp [joinN]
  | cons x l ih =>
    have hw : w * (l.length + 1) = w + w * l.length := by rw [Nat.mul_add, Nat.mul_one, Nat.add_comm]
    rw [joinN, List.length_cons, hw, Nat.pow_add]
    refine Nat.lt_of_lt_of_le (Nat.add_lt_add_right (Nat.mod_lt x (Nat.two_pow_pos w)) _) ?_
    rw [Nat.add_comm, ← Nat.mul_succ]
    exact Nat.mul_le_mul_left _ ih

theorem leNat_eq_joinN (l : List Byte) : leNat l = joinN 8 (l.map (·.toNat)) := by
  induction l with
  | nil => rfl
  | cons b l ih => rw [leNat, List.map_cons, joinN, ih, Nat.mod_eq_of_lt b.isLt, show (256 : Nat) = 2 ^ 8 from rfl]

/-! ### Elements -/

/-- A format's elements fill a row. -/
theorem viewWidth_mul_perRow (f : Fmt) : f.viewWidth * f.perRow = 4096 := by cases f <;> rfl

@[simp] theorem length_elems (f : Fmt) (b : RowBits) : (elems f b).length = f.perRow := length_splitN _ _ _

theorem getD_elems {f : Fmt} {e : Nat} (he : e < f.perRow) (b : RowBits) :
    (elems f b).getD e 0 = (b.extractLsb' (f.viewWidth * e) f.viewWidth).toNat := by
  rw [elems, getD_splitN _ _ he, BitVec.extractLsb'_toNat, Nat.shiftRight_eq_div_pow]

/-- The elements of a row made of a row's worth of them. -/
theorem elems_rowOf {f : Fmt} {l : List Nat} (h : l.length = f.perRow) : elems f (rowOf f l) = l.map (· % 2 ^ f.viewWidth) := by
  have hlt : joinN f.viewWidth l < 2 ^ 4096 := by
    have := joinN_lt f.viewWidth l
    rwa [h, viewWidth_mul_perRow] at this
  rw [elems, rowOf, BitVec.toNat_ofNat, Nat.mod_eq_of_lt hlt, ← h, splitN_joinN]

/-! ### Masked writes -/

/-- A byte of a row of listed bytes. -/
theorem extractLsb'_leNat (l : List Byte) (h : l.length = 512) {k : Nat} (hk : k < 512) :
    (BitVec.ofNat 4096 (leNat l)).extractLsb' (8 * k) 8 = l.getD k 0 := by
  have hk' : k < l.length := h ▸ hk
  have hlt : leNat l < 2 ^ 4096 := by
    have := joinN_lt 8 (l.map (·.toNat))
    rwa [List.length_map, h, ← leNat_eq_joinN] at this
  apply BitVec.eq_of_toNat_eq
  have hsplit : (splitN 8 512 (leNat l)).getD k 0 = (l.getD k 0).toNat := by
    have hs := splitN_joinN 8 (l.map (·.toNat))
    rw [List.length_map, h, ← leNat_eq_joinN] at hs
    have hb := l[k].isLt
    rw [hs, getD_eq_getElem_of_lt _ _ (by simpa using hk'), getD_eq_getElem_of_lt _ _ hk']
    simp only [List.getElem_map]
    exact Nat.mod_eq_of_lt hb
  rw [BitVec.extractLsb'_toNat, Nat.shiftRight_eq_div_pow, BitVec.toNat_ofNat, Nat.mod_eq_of_lt hlt, ← hsplit, getD_splitN _ _ hk]

/-- A row's bytes after a masked write: the new ones under the mask, elsewhere the old ones, zero in a row that was dead (R43). -/
theorem extractLsb'_write (row : Row) (mask : RowMask) (v : RowBits) {k : Nat} (hk : k < 512) :
    (row.write mask v).bits.extractLsb' (8 * k) 8 =
      if mask.getLsbD k then v.extractLsb' (8 * k) 8 else (if row.dead then 0 else row.bits).extractLsb' (8 * k) 8 := by
  unfold Row.write
  dsimp only
  split
  case isTrue h => rw [h, if_pos (by rw [BitVec.getLsbD_allOnes, decide_eq_true hk])]
  case isFalse =>
    rw [extractLsb'_leNat _ (by simp) hk, getD_eq_getElem_of_lt _ _ (by simpa using hk)]
    simp

theorem dead_write (row : Row) (mask : RowMask) (v : RowBits) : (row.write mask v).dead = false := by
  unfold Row.write
  dsimp only
  split <;> rfl

/-- The same, bit by bit. -/
theorem getLsbD_write (row : Row) (mask : RowMask) (v : RowBits) {i : Nat} (hi : i < 4096) :
    (row.write mask v).bits.getLsbD i =
      if mask.getLsbD (i / 8) then v.getLsbD i else (if row.dead then (0 : RowBits) else row.bits).getLsbD i := by
  have hbit : ∀ b : RowBits, b.getLsbD i = (b.extractLsb' (8 * (i / 8)) 8).getLsbD (i % 8) := by
    intro b
    rw [BitVec.getLsbD_extractLsb', Nat.div_add_mod, decide_eq_true (Nat.mod_lt _ (by decide)), Bool.true_and]
  rw [hbit, extractLsb'_write _ _ _ (by omega), apply_ite (fun b : Byte => b.getLsbD (i % 8)), ← hbit, ← hbit]

end Sys2Proof.Machine
end

section
/-! PROOF. The vector mould, VRED, the special functions, VMOV (R106 to R109, R370 to R376, R383). -/

namespace Sys2Proof.Machine

/-! ### Operands of a vector slot -/

theorem viewUnit_of_vecOperand {s : State} {vw : Fin 64} {ix : Nat} {d : Fmt} {a : Nat × List Nat} (h : vecOperand s vw ix d = .ok a) :
    ∃ u, viewUnit s vw 0 ix = .ok u := by
  obtain ⟨u, hu, -⟩ := slotwise_bind_ok.1 h
  exact ⟨u, hu⟩

theorem length_of_vecOperand {s : State} {vw : Fin 64} {ix : Nat} {d : Fmt} {a : Nat × List Nat} (h : vecOperand s vw ix d = .ok a) :
    a.2.length = d.perRow := by
  obtain ⟨u, -, hu⟩ := slotwise_bind_ok.1 h
  obtain ⟨-, -, hu⟩ := slotwise_bind_ok.1 hu
  obtain ⟨b, -, hb⟩ := slotwise_bind_ok.1 hu
  cases hb
  exact length_elems d b

/-- Rows whose views name units hold nothing (R137). -/
theorem sumNames_ok {s : State} {row : Slotwise Nat} {i : Nat} (hi : row = .ok i) {us : List (Fin 64 × Nat × Nat)}
    (h : ∀ u ∈ us, ∃ r, viewUnit s u.1 u.2.1 (i + u.2.2) = .ok r) : sumNames s row us = .ok () := by
  subst hi
  change us.forM _ = _
  induction us with
  | nil => rfl
  | cons u us ih =>
    obtain ⟨r, hr⟩ := h u (List.mem_cons_self ..)
    rw [List.forM_eq_forM] at ih ⊢
    rw [List.forM_cons, hr]
    exact ih fun v hv => h v (List.mem_cons_of_mem _ hv)

theorem length_of_read {b : OpB} {s : State} {ix : Nat} {d : Fmt} {bs : List Nat × List Nat} (h : b.read s ix d = .ok bs) :
    bs.2.length = d.perRow := by
  cases b with
  | view w =>
    rcases hv : vecOperand s w ix d with e | u
    · rw [OpB.read, hv] at h; cases h
    · rw [OpB.read, hv] at h
      cases h
      exact length_of_vecOperand hv
  | scalar r =>
    rcases hv : rdS s r with e | v
    · rw [OpB.read, scalarOperand, hv] at h; cases h
    · rw [OpB.read, scalarOperand, hv] at h
      cases h
      exact List.length_replicate
  | none =>
    cases h
    exact List.length_replicate

theorem viewUnit_of_read {b : OpB} {s : State} {ix off : Nat} {d : Fmt} {bs : List Nat × List Nat} (h : b.read s (ix + off) d = .ok bs) :
    ∀ u ∈ b.names off, ∃ r, viewUnit s u.1 u.2.1 (ix + u.2.2) = .ok r := by
  intro u hu
  cases b with
  | view w =>
    obtain rfl := List.mem_singleton.1 hu
    rcases hv : vecOperand s w (ix + off) d with e | x
    · rw [OpB.read, hv] at h; cases h
    · exact viewUnit_of_vecOperand hv
  | scalar r => cases hu
  | none => cases hu

theorem putRowT_ok {s : State} {r : Nat} (h : wrRow s r = .ok ()) (read : List Nat) (v : RowBits) (lat : Nat) (fl : Flags) :
    putRowT s read r v lat fl = .ok ((s.touched (r :: read)).latch (.row r fullMask v) lat fl) := by
  rw [putRowT, h, slotwise_ok_bind]

theorem predicated_on {s : State} {md : Option Modifier} (h : predOn s md = true) (m : Slotwise State) : predicated s md m = m := by
  unfold predicated
  rw [if_pos h]

/-! ### The mould -/

theorem zip3_eq (f : Nat → Nat → Nat → Nat × Flags) {n : Nat} {as bs ds : List Nat} (ha : as.length = n) (hb : bs.length = n)
    (hd : ds.length = n) :
    zip3 f as bs ds = (List.range n).map fun e => f (as.getD e 0) (bs.getD e 0) (ds.getD e 0) := by
  induction n generalizing as bs ds with
  | zero =>
    rw [List.length_eq_zero_iff.1 ha]
    rfl
  | succ n ih =>
    obtain ⟨a, as, rfl⟩ := List.exists_cons_of_length_eq_add_one ha
    obtain ⟨b, bs, rfl⟩ := List.exists_cons_of_length_eq_add_one hb
    obtain ⟨d, ds, rfl⟩ := List.exists_cons_of_length_eq_add_one hd
    rw [zip3, ih (by simpa using ha) (by simpa using hb) (by simpa using hd), List.range_succ_eq_map, List.map_cons, List.map_map]
    rfl

/-- The elements of the destination that a slot reads. -/
theorem destElems_ok {s : State} {f : Fmt} {r : Nat} {useD : Bool} {old : RowBits} (h : useD = true → rdRow s r = .ok old) :
    ∃ ds : List Nat, (∀ k : List Nat → Slotwise State,
        (if useD then (rdRow s r).map (elems f) >>= k else .ok (List.replicate f.perRow 0) >>= k) = k ds) ∧
      ds.length = f.perRow ∧ ∀ e < f.perRow, ds.getD e 0 = if useD then (elems f old).getD e 0 else 0 := by
  cases useD with
  | true => exact ⟨elems f old, fun k => by rw [if_pos rfl, h rfl]; rfl, length_elems f old, fun e _ => rfl⟩
  | false =>
    refine ⟨List.replicate f.perRow 0, fun k => rfl, List.length_replicate, fun e he => ?_⟩
    rw [getD_eq_getElem_of_lt _ _ (by simpa using he), List.getElem_replicate]
    rfl

theorem vecForm_of_vmould {useD : Bool} {ok : Fmt → Fin 4 → Bool} {lat : Fmt → Nat} {el : Fmt → Fin 4 → Nat → Nat → Nat → Nat × Flags}
    {vd va : Fin 64} {b : OpB} {mk : Row8 → Option Modifier → Instr}
    (h : ∀ row md s, exec (mk row md) s = vmould ok useD lat el vd va b row md s) : VecForm useD ok lat el vd va b mk := by
  intro s row md i d a bs old hp hi hd hok ha hb hold hw r
  obtain ⟨ds, hds, hlen, hget⟩ := destElems_ok (f := d.1) hold
  have hnames : sumNames s (row8 s row) ([(vd, 0, doff md), (va, 0, aoff md)] ++ b.names (boff md)) = .ok () := by
    refine sumNames_ok hi fun u hu => ?_
    rcases List.mem_append.1 hu with hu | hu
    · rcases List.mem_cons.1 hu with rfl | hu
      · exact ⟨d, hd⟩
      · obtain rfl := List.mem_singleton.1 hu
        exact viewUnit_of_vecOperand ha
    · exact viewUnit_of_read hb u hu
  have hzip : zip3 (el d.1 (rmField md)) a.2 bs.2 ds = r := by
    rw [zip3_eq _ (length_of_vecOperand ha) (length_of_read hb) hlen]
    refine List.map_congr_left fun e he => ?_
    rw [hget e (List.mem_range.1 he)]
  rw [h, vmould, predicated_on hp, hnames, slotwise_ok_bind, hi, slotwise_ok_bind, hd, slotwise_ok_bind, hok, need_true,
    slotwise_ok_bind, ha, slotwise_ok_bind, hb, slotwise_ok_bind]
  dsimp only
  rw [hds, hzip, putRowT_ok hw, slotDo_ok]

/-- Settles O12: every member is the mould with its own operation. -/
theorem vectorForms : Obligations.VectorForms := by
  refine ⟨fun vd va vb => ?_, fun vd va sb => ?_⟩
  · refine ⟨?_, ?_, ?_, ?_, ?_, ?_, ?_, ?_, ?_, ?_, ?_, ?_, ?_, ?_, ?_, ?_⟩ <;> exact vecForm_of_vmould fun _ _ _ => rfl
  · refine ⟨?_, ?_, ?_, ?_, ?_, ?_, ?_, ?_, ?_, ?_, ?_, ?_, ?_⟩ <;> exact vecForm_of_vmould fun _ _ _ => rfl

end Sys2Proof.Machine
end

section
/-! PROOF. VRED, the special functions, VMOV, VIOTA (R104, R108, R372, R376, R378, R383). -/

namespace Sys2Proof.Machine

/-! ### VRED -/

theorem redSeq_fst (f : Nat → Nat → Nat × Flags) (x : Nat) (xs : List Nat) :
    (redSeq f x xs).1 = xs.foldl (fun p q => (f p q).1) x := by
  induction xs generalizing x with
  | nil => rfl
  | cons y ys ih => exact ih _

/-- What a cluster's elements combine to, zero for none (R108). -/
def clusterRed (op : Nat → Nat → Nat × Flags) : List Nat → Nat
  | [] => 0
  | x :: xs => xs.foldl (fun p q => (op p q).1) x

/-- Groups of k numbers, each a first number and zeros, as one list. -/
theorem flatMap_cons_replicate (g : Nat → Nat) {k : Nat} (hk : 0 < k) (n : Nat) :
    ((List.range n).flatMap fun c => g c :: List.replicate (k - 1) 0) =
      (List.range (k * n)).map fun e => if e % k = 0 then g (e / k) else 0 := by
  induction n with
  | zero => simp
  | succ n ih =>
    have hgroup : g n :: List.replicate (k - 1) 0 = (List.range k).map fun j => if (k * n + j) % k = 0 then g ((k * n + j) / k) else 0 := by
      obtain ⟨m, rfl⟩ := Nat.exists_eq_add_of_lt hk
      rw [Nat.zero_add, List.range_succ_eq_map, List.map_cons, List.map_map, Nat.add_sub_cancel]
      congr 1
      · simp [Nat.mul_div_cancel_left n (Nat.succ_pos m)]
      · symm
        rw [List.eq_replicate_iff]
        refine ⟨by simp, fun b hb => ?_⟩
        obtain ⟨j, hj, rfl⟩ := List.mem_map.1 hb
        have hjm : j + 1 < m + 1 := Nat.succ_lt_succ (List.mem_range.1 hj)
        simp only [Function.comp, Nat.mul_add_mod, Nat.mod_eq_of_lt hjm]
        rw [if_neg (Nat.succ_ne_zero j)]
    rw [List.range_succ, List.flatMap_append, ih, List.flatMap_singleton, hgroup, Nat.mul_succ, List.range_add, List.map_append,
      List.map_map]
    rfl

theorem redRow_fst (f : Fmt) (op : Nat → Nat → Nat × Flags) (es : List Nat) :
    (redRow f op es).1 = (List.range f.perRow).map fun e =>
      if e % (f.perRow / 8) = 0 then clusterRed op ((es.drop e).take (f.perRow / 8)) else 0 := by
  have hk : 0 < f.perRow / 8 ∧ f.perRow / 8 * 8 = f.perRow := by cases f <;> decide
  have hclusters : (redRow f op es).1 = (List.range 8).flatMap fun c =>
      clusterRed op ((es.drop (f.perRow / 8 * c)).take (f.perRow / 8)) :: List.replicate (f.perRow / 8 - 1) 0 := by
    unfold redRow
    dsimp only
    rw [List.flatMap_map]
    congr 1
    funext c
    congr 1
    cases (es.drop (f.perRow / 8 * c)).take (f.perRow / 8) with
    | nil => rfl
    | cons x xs => exact redSeq_fst op x xs
  rw [hclusters, flatMap_cons_replicate (fun c => clusterRed op ((es.drop (f.perRow / 8 * c)).take (f.perRow / 8))) hk.1 8, hk.2]
  refine List.map_congr_left fun e _ => ?_
  split
  case isTrue h => rw [Nat.mul_div_cancel' (Nat.dvd_of_mod_eq_zero h)]
  case isFalse => rfl

/-- The two views of an instruction with one source. -/
theorem sumNames_pair {s : State} {row : Slotwise Nat} {i : Nat} (hi : row = .ok i) {vd va : Fin 64} {x y : Nat} {d a : Fmt × Nat}
    (hd : viewUnit s vd 0 (i + x) = .ok d) (ha : viewUnit s va 0 (i + y) = .ok a) :
    sumNames s row [(vd, 0, x), (va, 0, y)] = .ok () := by
  refine sumNames_ok hi fun u hu => ?_
  rcases List.mem_cons.1 hu with rfl | hu
  · exact ⟨d, hd⟩
  · obtain rfl := List.mem_singleton.1 hu
    exact ⟨a, ha⟩

theorem vred_ok {ok : Fmt → Fin 4 → Bool} {op : Fmt → Fin 4 → Nat → Nat → Nat × Flags} {vd va : Fin 64} {s : State} {row : Row8}
    {md : Option Modifier} {i : Nat} {d : Fmt × Nat} {a : Nat × List Nat} (hp : predOn s md = true) (hi : row8 s row = .ok i)
    (hd : viewUnit s vd 0 (i + doff md) = .ok d) (ha : vecOperand s va (i + aoff md) d.1 = .ok a) (hw : wrRow s d.2 = .ok ())
    (hok : ok d.1 (rmField md) = true) :
    vred ok op vd va row md s = .next ((s.touched [d.2, a.1]).latch
      (.row d.2 fullMask (rowOf d.1 (redRow d.1 (op d.1 (rmField md)) a.2).1)) 6 (redRow d.1 (op d.1 (rmField md)) a.2).2) := by
  obtain ⟨u, hu⟩ := viewUnit_of_vecOperand ha
  rw [vred, predicated_on hp, sumNames_pair hi hd hu, slotwise_ok_bind, hi, slotwise_ok_bind, hd, slotwise_ok_bind, hok, need_true,
    slotwise_ok_bind, ha, slotwise_ok_bind]
  dsimp only
  rw [putRowT_ok hw, slotDo_ok]

/-- Settles O14: each cluster's fold. -/
theorem reductions : Obligations.Reductions := by
  intro s vd va row md i d a hp hi hd ha hw k reduced
  have hreduced : ∀ op, reduced op (redRow d.1 op a.2).2 = (s.touched [d.2, a.1]).latch
      (.row d.2 fullMask (rowOf d.1 (redRow d.1 op a.2).1)) 6 (redRow d.1 op a.2).2 := by
    intro op
    simp only [reduced, redRow_fst]
    rfl
  have hvred : ∀ {ok : Fmt → Fin 4 → Bool} {op : Fmt → Fin 4 → Nat → Nat → Nat × Flags}, ok d.1 (rmField md) = true →
      vred ok op vd va row md s = .next (reduced (op d.1 (rmField md)) (redRow d.1 (op d.1 (rmField md)) a.2).2) :=
    fun hok => (vred_ok hp hi hd ha hw hok).trans (congrArg _ (hreduced _).symm)
  exact ⟨fun hok => ⟨_, hvred (ok := rmFloat) (op := fun f rm a b => elAdd f rm a b 0) hok⟩,
    ⟨_, hvred (ok := anyFmt) (op := fun f _ a b => elPick true f a b) rfl⟩,
    ⟨_, hvred (ok := anyFmt) (op := fun f _ a b => elPick false f a b) rfl⟩⟩

/-! ### Special functions -/

theorem special_ok {f : Nat → Nat × Flags} {lat : Nat} {vd va : Fin 64} {s : State} {row : Row8} {md : Option Modifier} {i d a : Nat}
    {b : RowBits} (hp : predOn s md = true) (hi : row8 s row = .ok i) (hd : viewUnit s vd 0 (i + doff md) = .ok (.f32, d))
    (ha : viewUnit s va 0 (i + aoff md) = .ok (.f32, a)) (hb : rdRow s a = .ok b) (hw : wrRow s d = .ok ()) :
    special f lat vd va row md s = .next ((s.touched [d, a]).latch
      (.row d fullMask (rowOf .f32 ((elems .f32 b).map fun e => (f e).1))) lat (Flags.all ((elems .f32 b).map fun e => (f e).2))) := by
  have hf : (Fmt.f32 == Fmt.f32) = true := rfl
  rw [special, predicated_on hp, sumNames_pair hi hd ha, slotwise_ok_bind, hi, slotwise_ok_bind, hd, slotwise_ok_bind]
  simp only [hf, need_true, slotwise_ok_bind, ha, hb, putRowT_ok hw, slotDo_ok, List.map_map]
  rfl

/-- Settles O15: the map over the row, and the table of edge cases by evaluation. -/
theorem specialFunctions : Obligations.SpecialFunctions := by
  refine ⟨fun s vd va row md i d a b hp hi hd ha hb hw => ?_, ?_⟩
  · exact ⟨special_ok hp hi hd ha hb hw, special_ok hp hi hd ha hb hw, special_ok hp hi hd ha hb hw, special_ok hp hi hd ha hb hw,
      special_ok hp hi hd ha hb hw⟩
  · intro pInf nInf nZero nan
    refine ⟨by decide +kernel, by decide +kernel, by decide +kernel, by decide +kernel, by decide +kernel, ?_⟩
    simp only [List.forall_mem_cons]
    exact ⟨by decide +kernel, by decide +kernel, by decide +kernel, by decide +kernel, by decide +kernel, nofun⟩

end Sys2Proof.Machine
end

section
/-! PROOF. VMOV, VIOTA and VCVT (R372, R375, R378). -/

namespace Sys2Proof.Machine

/-! ### Rows touched -/

@[simp] theorem me_touched (s : State) (rs : List Nat) : (s.touched rs).me = s.me := rfl
@[simp] theorem cur_touched (s : State) (rs : List Nat) : (s.touched rs).cur = s.cur := rfl
@[simp] theorem slot_touched (s : State) (rs : List Nat) : (s.touched rs).slot = s.slot := rfl
@[simp] theorem cur_latch (s : State) (w : Write) (n : Nat) (fl : Flags) : (s.latch w n fl).cur = s.cur := rfl
@[simp] theorem slot_latch (s : State) (w : Write) (n : Nat) (fl : Flags) : (s.latch w n fl).slot = s.slot := rfl
@[simp] theorem myCore_latch (s : State) (w : Write) (n : Nat) (fl : Flags) : (s.latch w n fl).myCore = s.myCore := rfl

theorem gret_foldl_touch (now : Nat) (rs : List Nat) (c : CoreSt) : (rs.foldl (fun c r => c.touch now r) c).gret = c.gret := by
  induction rs generalizing c with
  | nil => rfl
  | cons r rs ih => rw [List.foldl_cons, ih]; rfl

@[simp] theorem retained_touched (s : State) (rs : List Nat) (r : Nat) : (s.touched rs).myCore.retained r = s.myCore.retained r := by
  have hcore : (s.touched rs).myCore = rs.foldl (fun c r => c.touch s.clock r) s.myCore := State.setCore_core_same _ _ _
  rw [hcore, CoreSt.retained, CoreSt.retained, gret_foldl_touch]

/-- Whether a row can be written is no matter of what has been touched. -/
@[simp] theorem wrRow_touched (s : State) (rs : List Nat) (r : Nat) : wrRow (s.touched rs) r = wrRow s r := by
  simp only [wrRow, me_touched, retained_touched]
  rfl

/-- Nor of what is in the latches. -/
@[simp] theorem wrRow_latch (s : State) (w : Write) (n : Nat) (fl : Flags) (r : Nat) : wrRow (s.latch w n fl) r = wrRow s r := by
  simp only [wrRow, State.me_latch, myCore_latch]
  rfl

/-! ### Rows that land together -/

/-- Rows put one after another: their latches in order, the flags with the first. -/
theorem putRows_ok (lat : Nat) {rs : List (Nat × RowBits)} {s : State} (h : ∀ r ∈ rs, wrRow s r.1 = .ok ()) (fl : Flags) :
    ∃ (t : State) (fls : List Flags), putRows s lat fl rs = .ok t ∧
      t.me.lat = s.me.lat ++ (rs.zip fls).map fun r => ⟨.row r.1.1 fullMask r.1.2, lat, r.2, s.slot, s.me.ba, s.me.cc⟩ := by
  induction rs generalizing s fl with
  | nil => exact ⟨s, [], rfl, (List.append_nil _).symm⟩
  | cons r rs ih =>
    obtain ⟨r, v⟩ := r
    let u : State := (s.touched [r]).latch (.row r fullMask v) lat fl
    obtain ⟨t, fls, ht, hlat⟩ := ih (s := u) (fun q hq => by simpa [u] using h q (List.mem_cons_of_mem _ hq)) 0
    refine ⟨t, fl :: fls, ?_, ?_⟩
    · rw [putRows, putRowT_ok (h (r, v) (List.mem_cons_self ..)), slotwise_ok_bind]
      exact ht
    · rw [hlat]
      simp only [u, State.me_latch, me_touched, slot_latch, slot_touched, List.zip_cons_cons, List.map_cons, List.append_assoc,
        List.singleton_append]
      rfl

/-! ### VMOV and VIOTA -/

theorem execVmov_ok {s : State} {vd va : Fin 64} {row : Row8} {md : Option Modifier} {i : Nat} {d a : Fmt × Nat} {b : RowBits}
    (hp : predOn s md = true) (hi : row8 s row = .ok i) (hd : viewUnit s vd 0 (i + doff md) = .ok d) (hw : wrRow s d.2 = .ok ())
    (ha : viewUnit s va 0 (i + aoff md) = .ok a) (hb : rdRow s a.2 = .ok b) :
    exec (.vmov vd va row md) s = .next ((s.touched [d.2, a.2]).latch (.row d.2 fullMask b) 2 0) := by
  change execVmov vd va row md s = _
  rw [execVmov, predicated_on hp, sumNames_pair hi hd ha]
  simp only [slotwise_ok_bind, hi, hd, ha, hb, putRowT_ok hw, slotDo_ok]

theorem execViota_ok {s : State} {vd : Fin 64} {row : Row8} {md : Option Modifier} {i : Nat} {d : Fmt × Nat}
    (hp : predOn s md = true) (hi : row8 s row = .ok i) (hd : viewUnit s vd 0 (i + doff md) = .ok d) (hw : wrRow s d.2 = .ok ()) :
    exec (.viota vd row md) s = .next ((s.touched [d.2]).latch
      (.row d.2 fullMask (rowOf d.1 ((List.range d.1.perRow).map (iotaElem d.1)))) 2 0) := by
  change execViota vd row md s = _
  rw [execViota, predicated_on hp]
  simp only [slotwise_ok_bind, hi, hd, putRowT_ok hw, slotDo_ok]

/-- Whether a value is a number of R86's form. -/
def isCount (v : Val) (e : Nat) : Bool :=
  match v with
  | .fin false m x => decide (x ≤ 0) && m == e * 2 ^ (-x).toNat
  | _ => false

theorem isCount_iff {v : Val} {e : Nat} (h : isCount v e = true) :
    ∃ (m : Nat) (x : Int), v = .fin false m x ∧ x ≤ 0 ∧ m = e * 2 ^ (-x).toNat := by
  rcases v with s | n | ⟨_ | _, m, x⟩
  · cases h
  · cases h
  · obtain ⟨hx, hm⟩ := Bool.and_eq_true_iff.1 h
    exact ⟨m, x, rfl, of_decide_eq_true hx, of_decide_eq_true hm⟩
  · cases h

/-- The numbers of a row's elements are exact in every floating view. -/
theorem isCount_iotaElem (f : Fmt) (hf : f.isFp = true) : ∀ e < f.perRow, isCount (f.viewVal (iotaElem f e)) e = true := by
  cases f with
  | f32 | t8 | t6 => decide +kernel
  | bf16 => decide +kernel
  | f16 => decide +kernel
  | i8 | i16 | i32 | i64 | n8 | n16 | n32 | n64 | fx48 => cases hf

theorem toInt_iotaElem (f : Fmt) (hf : f.isFp = false) : ∀ e < f.perRow, f.toInt (iotaElem f e) = f.toInt e := by
  cases f with
  | f32 | t8 | t6 | bf16 | f16 => cases hf
  | i8 | i16 | i32 | i64 | n8 | n16 | n32 | n64 | fx48 => decide +kernel

/-! ### VCVT -/

/-- The units of consecutive indices, one by one. -/
theorem viewUnit_of_unitsFrom {s : State} {vw : Fin 64} {ix n : Nat} {us : List (Fmt × Nat)} (h : unitsFrom s vw ix n = .ok us) :
    us.length = n ∧ ∀ k < n, ∃ u, viewUnit s vw 0 (ix + k) = .ok u := by
  induction n generalizing ix us with
  | zero =>
    cases h
    exact ⟨rfl, fun k hk => absurd hk (Nat.not_lt_zero k)⟩
  | succ n ih =>
    obtain ⟨u, hu, h⟩ := slotwise_bind_ok.1 h
    obtain ⟨vs, hvs, h⟩ := slotwise_bind_ok.1 h
    cases h
    obtain ⟨hlen, hunit⟩ := ih hvs
    refine ⟨by rw [List.length_cons, hlen], fun k hk => ?_⟩
    cases k with
    | zero => exact ⟨u, hu⟩
    | succ k => rw [show ix + (k + 1) = ix + 1 + k by omega]; exact hunit k (Nat.lt_of_succ_lt_succ hk)

/-- Settles O16: VCVT's rows are put one after another into the latches of one cycle. -/
theorem movesIndexRowsAndConversion : Obligations.MovesIndexRowsAndConversion := by
  constructor
  · intro s vd va row md i d hp hi hd hw
    refine ⟨fun a b ha hb => execVmov_ok hp hi hd hw ha hb, _, execViota_ok hp hi hd hw, by simp, fun e he => ?_⟩
    rw [getD_eq_getElem_of_lt _ _ (by simpa using he), List.getElem_map, List.getElem_range]
    cases hf : d.1.isFp with
    | true => exact isCount_iff (isCount_iotaElem d.1 hf e he)
    | false =>
      rw [if_neg (by decide), Fmt.viewVal, hf, if_neg (by decide)]
      rw [toInt_iotaElem d.1 hf e he]
  · intro s vd va row md i d a ds as rows hp hi hd ha hok hds has hrows hw conv out
    obtain ⟨hdn, hdu⟩ := viewUnit_of_unitsFrom hds
    obtain ⟨han, hau⟩ := viewUnit_of_unitsFrom has
    have hnames : sumNames s (.ok i) ((List.range (max a.1.perRow d.1.perRow / d.1.perRow)).map (fun k => (vd, 0, doff md + k)) ++
        (List.range (max a.1.perRow d.1.perRow / a.1.perRow)).map fun k => (va, 0, aoff md + k)) = .ok () := by
      refine sumNames_ok rfl fun u hu => ?_
      rcases List.mem_append.1 hu with hu | hu
      · obtain ⟨k, hk, rfl⟩ := List.mem_map.1 hu
        rw [← Nat.add_assoc]
        exact hdu k (List.mem_range.1 hk)
      · obtain ⟨k, hk, rfl⟩ := List.mem_map.1 hu
        rw [← Nat.add_assoc]
        exact hau k (List.mem_range.1 hk)
    have hput : ∀ r ∈ (ds.map (·.2)).zip out, wrRow (s.touched (as.map (·.2))) r.1 = .ok () := by
      intro r hr
      obtain ⟨u, hu, hr⟩ := List.mem_map.1 (List.of_mem_zip hr).1
      rw [wrRow_touched, ← hr]
      exact hw u hu
    obtain ⟨t, fls, ht, hlat⟩ := putRows_ok 4 hput (Flags.all ((conv.flatten).map (·.2)))
    refine ⟨t, ?_, fls, hlat⟩
    change execVcvt vd va row md s = _
    rw [execVcvt, predicated_on hp, sumNames_pair hi hd ha]
    simp only [slotwise_ok_bind, hi, hd, ha, hok, need_true, hnames, hds, has, hrows]
    rw [ht, slotDo_ok]

end Sys2Proof.Machine
end

section
/-! PROOF. A slot that is predicated off (R67): where no summary operation runs, nothing holds it (R137). -/

namespace Sys2Proof.Machine

/-- A step of a slot that is not held on the summary unit. -/
def Unsummed (m : Slotwise α) : Prop := ∀ ns, m ≠ .error (.hold .summary ns)

theorem predicated_off {s : State} {md : Option Modifier} {m : Slotwise State} (h : predOn s md = false) (hm : Unsummed m) :
    predicated s md m = .ok s := by
  unfold predicated
  rw [if_neg (by simp [h])]
  split
  · exact absurd rfl (hm _)
  · rfl

/-! ### Steps that are not held on the summary unit -/

theorem unsummed_ok (a : α) : Unsummed (.ok a : Slotwise α) := nofun

theorem unsummed_bind {m : Slotwise α} {f : α → Slotwise β} (hm : Unsummed m) (hf : ∀ a, Unsummed (f a)) : Unsummed (m >>= f) := by
  intro ns h
  rcases m with e | a
  · exact hm ns (congrArg Except.error (Except.error.inj h))
  · exact hf a ns h

theorem unsummed_map {m : Slotwise α} (hm : Unsummed m) (f : α → β) : Unsummed (m.map f) := by
  intro ns h
  rcases m with e | a
  · exact hm ns (congrArg Except.error (Except.error.inj h))
  · cases h

theorem unsummed_need (b : Bool) {e : Stop} (he : ∀ ns, e ≠ .hold .summary ns) : Unsummed (need b e) := by
  intro ns h
  cases b with
  | true => cases h
  | false => exact he ns (Except.error.inj h)

theorem unsummed_rdS (s : State) (r : Fin 64) : Unsummed (rdS s r) := by
  intro ns h
  unfold rdS at h
  dsimp only at h
  split at h
  · cases h
  · split at h
    · cases Except.error.inj h
    · cases h

theorem unsummed_row8 (s : State) (row : Row8) : Unsummed (row8 s row) := by
  cases row with
  | imm b => exact unsummed_ok _
  | reg r => exact unsummed_map (unsummed_rdS s r) _

theorem unsummed_row7 (s : State) (row : Row7) : Unsummed (row7 s row) := by
  cases row with
  | imm b => exact unsummed_ok _
  | reg r => exact unsummed_map (unsummed_rdS s r) _

theorem unsummed_wrRow (s : State) (r : Nat) : Unsummed (wrRow s r) :=
  unsummed_bind (unsummed_need _ nofun) fun _ => unsummed_need _ nofun

theorem unsummed_putRowT (s : State) (read : List Nat) (r : Nat) (v : RowBits) (lat : Nat) (fl : Flags) :
    Unsummed (putRowT s read r v lat fl) := unsummed_bind (unsummed_wrRow s r) fun _ => unsummed_ok _

/-! ### With no summary operation running -/

section
variable {s : State} (hs : s.myCore.sumop = none)
include hs

theorem sumHold_free (rs : List Nat) : sumHold s rs = .ok () := by
  unfold sumHold
  rw [hs]

theorem unsummed_viewUnit (vw : Fin 64) (kind ix : Nat) : Unsummed (viewUnit s vw kind ix) := by
  unfold viewUnit
  refine unsummed_bind (unsummed_need _ nofun) fun _ => unsummed_bind (unsummed_need _ nofun) fun _ => ?_
  split
  · exact nofun
  · dsimp only
    rw [sumHold_free hs]
    exact unsummed_ok _

theorem unsummed_sumNames (row : Slotwise Nat) (us : List (Fin 64 × Nat × Nat)) : Unsummed (sumNames s row us) := by
  rcases row with e | i
  · exact unsummed_ok _
  change Unsummed (us.forM _)
  induction us with
  | nil => exact unsummed_ok _
  | cons u us ih =>
    rw [List.forM_eq_forM] at ih ⊢
    rw [List.forM_cons]
    refine unsummed_bind ?_ fun _ => ih
    split
    case h_1 c n h => 
      have hu := unsummed_viewUnit hs u.1 u.2.1 (i + u.2.2)
      rw [h] at hu
      intro ns he
      exact hu ns (congrArg Except.error (Except.error.inj he))
    case h_2 => exact unsummed_ok _

theorem unsummed_rdRow (r : Nat) : Unsummed (rdRow s r) := by
  have hbits : ∀ row : Row, Unsummed (if row.dead then do
      need (!deadmode (rdSys s 0x001)) deadRow
      .ok 0
    else .ok row.bits : Slotwise RowBits) := by
    intro row
    split
    · exact unsummed_bind (unsummed_need _ nofun) fun _ => unsummed_ok _
    · exact unsummed_ok _
  unfold rdRow
  rw [sumHold_free hs]
  refine unsummed_bind (unsummed_ok _) fun _ => ?_
  dsimp only
  split
  · exact unsummed_bind (unsummed_ok _) hbits
  · exact unsummed_bind (unsummed_need _ nofun) fun _ => unsummed_bind (unsummed_need _ nofun) fun _ =>
      unsummed_bind (unsummed_ok _) hbits

theorem unsummed_vecOperand (vw : Fin 64) (ix : Nat) (d : Fmt) : Unsummed (vecOperand s vw ix d) :=
  unsummed_bind (unsummed_viewUnit hs vw 0 ix) fun u => unsummed_bind (unsummed_need _ nofun) fun _ =>
    unsummed_bind (unsummed_rdRow hs u.2) fun _ => unsummed_ok _

theorem unsummed_read (b : OpB) (ix : Nat) (d : Fmt) : Unsummed (b.read s ix d) := by
  cases b with
  | view w => exact unsummed_map (unsummed_vecOperand hs w ix d) _
  | scalar r => exact unsummed_map (unsummed_map (unsummed_rdS s r) _) _
  | none => exact unsummed_ok _

/-! ### The forms -/

theorem vmould_off {md : Option Modifier} (h : predOn s md = false) (ok : Fmt → Fin 4 → Bool) (lat : Fmt → Nat)
    (f : Fmt → Fin 4 → Nat → Nat → Nat → Nat × Flags) (vd va : Fin 64) (b : OpB) (row : Row8) :
    vmould ok false lat f vd va b row md s = .next s := by
  rw [vmould, predicated_off h, slotDo_ok]
  exact unsummed_bind (unsummed_sumNames hs _ _) fun _ => unsummed_bind (unsummed_row8 s row) fun i =>
    unsummed_bind (unsummed_viewUnit hs vd 0 _) fun d => unsummed_bind (unsummed_need _ nofun) fun _ =>
    unsummed_bind (unsummed_vecOperand hs va _ d.1) fun a => unsummed_bind (unsummed_read hs b _ d.1) fun bs =>
    unsummed_putRowT s _ _ _ _ _

theorem vred_off {md : Option Modifier} (h : predOn s md = false) (ok : Fmt → Fin 4 → Bool)
    (op : Fmt → Fin 4 → Nat → Nat → Nat × Flags) (vd va : Fin 64) (row : Row8) : vred ok op vd va row md s = .next s := by
  rw [vred, predicated_off h, slotDo_ok]
  exact unsummed_bind (unsummed_sumNames hs _ _) fun _ => unsummed_bind (unsummed_row8 s row) fun i =>
    unsummed_bind (unsummed_viewUnit hs vd 0 _) fun d => unsummed_bind (unsummed_need _ nofun) fun _ =>
    unsummed_bind (unsummed_vecOperand hs va _ d.1) fun a => unsummed_putRowT s _ _ _ _ _

theorem special_off {md : Option Modifier} (h : predOn s md = false) (f : Nat → Nat × Flags) (lat : Nat) (vd va : Fin 64) (row : Row8) :
    special f lat vd va row md s = .next s := by
  rw [special, predicated_off h, slotDo_ok]
  exact unsummed_bind (unsummed_sumNames hs _ _) fun _ => unsummed_bind (unsummed_row8 s row) fun i =>
    unsummed_bind (unsummed_viewUnit hs vd 0 _) fun d => unsummed_bind (unsummed_need _ nofun) fun _ =>
    unsummed_bind (unsummed_viewUnit hs va 0 _) fun a => unsummed_bind (unsummed_need _ nofun) fun _ =>
    unsummed_bind (unsummed_rdRow hs a.2) fun b => unsummed_putRowT s _ _ _ _ _

theorem execVmov_off {md : Option Modifier} (h : predOn s md = false) (vd va : Fin 64) (row : Row8) :
    execVmov vd va row md s = .next s := by
  rw [execVmov, predicated_off h, slotDo_ok]
  exact unsummed_bind (unsummed_sumNames hs _ _) fun _ => unsummed_bind (unsummed_row8 s row) fun i =>
    unsummed_bind (unsummed_viewUnit hs vd 0 _) fun d => unsummed_bind (unsummed_viewUnit hs va 0 _) fun a =>
    unsummed_bind (unsummed_rdRow hs a.2) fun b => unsummed_putRowT s _ _ _ _ _

theorem execViota_off {md : Option Modifier} (h : predOn s md = false) (vd : Fin 64) (row : Row8) :
    execViota vd row md s = .next s := by
  rw [execViota, predicated_off h, slotDo_ok]
  exact unsummed_bind (unsummed_row8 s row) fun i => unsummed_bind (unsummed_viewUnit hs vd 0 _) fun d => unsummed_putRowT s _ _ _ _ _

theorem xbar_off {md : Option Modifier} (h : predOn s md = false) {f : List Nat → Slotwise (List Nat × List Nat)}
    (hf : ∀ l, Unsummed (f l)) (vd va : Fin 64) (row : Row7) : xbar f vd va row md s = .next s := by
  rw [xbar, predicated_off h, slotDo_ok]
  exact unsummed_bind (unsummed_sumNames hs _ _) fun _ => unsummed_bind (unsummed_row7 s row) fun i =>
    unsummed_bind (unsummed_viewUnit hs vd 0 _) fun d => unsummed_bind (unsummed_viewUnit hs va 0 _) fun a =>
    unsummed_bind (unsummed_rdRow hs a.2) fun b => unsummed_bind (hf _) fun out => unsummed_putRowT s _ _ _ _ _

end

/-- Settles O17: no step of these slots is held on the summary unit while that is free. -/
theorem predicatedOff : Obligations.PredicatedOff := by
  intro s md vd va vb sa row r7 sel h hs
  simp only [List.forall_mem_cons]
  refine ⟨?_, ?_, ?_, ?_, ?_, ?_, ?_, ?_, ?_, fun i hi => absurd hi List.not_mem_nil⟩
  · exact vmould_off hs h rmFloat latAdd elAdd vd va (.view vb) row
  · exact vmould_off hs h rmFloat latAdd elSub vd va (.scalar sa) row
  · exact vmould_off hs h anyFmt latAdd elCmp vd va (.view vb) row
  · exact execVmov_off hs h vd va row
  · exact execViota_off hs h vd row
  · exact vred_off hs h anyFmt (fun f _ a b => elPick true f a b) vd va row
  · exact special_off hs h spRcp 6 vd va row
  · exact xbar_off hs h (f := fun a => .ok ([], List.replicate 128 (a.getD sel.val 0))) (fun _ => unsummed_ok _) vd va r7
  · exact xbar_off hs h (f := fun a => .ok ([], (List.range 128).map fun l => a.getD ((l + 128 - sel.val) % 128) 0))
      (fun _ => unsummed_ok _) vd va r7

end Sys2Proof.Machine
end

section
/-! PROOF. Single elements, dead rows and the lane crossbar (R42, R43, R110 to R113, R332, R387 to R389). -/

namespace Sys2Proof.Machine

/-! ### The bytes of one element -/

/-- An element is of whole bytes. -/
theorem viewWidth_eq (f : Fmt) : f.viewWidth = 8 * (f.viewWidth / 8) := by cases f <;> rfl

theorem viewWidth_pos (f : Fmt) : 0 < f.viewWidth := by cases f <;> decide

theorem getLsbD_elemMask (f : Fmt) (e : Nat) {j : Nat} (hj : j < 512) :
    (elemMask f e).getLsbD j = decide (f.viewWidth / 8 * e ≤ j ∧ j < f.viewWidth / 8 * e + f.viewWidth / 8) := by
  rw [elemMask, BitVec.getLsbD_ofNat, Nat.testBit_mul_two_pow, Nat.testBit_two_pow_sub_one]
  simp only [hj, decide_true, Bool.true_and, ← Bool.decide_and]
  exact decide_eq_decide.2 (by omega)

theorem scalarElem_lt (f : Fmt) (v : Word) : scalarElem f v < 2 ^ f.viewWidth := by
  unfold scalarElem
  split
  case isTrue h =>
    obtain rfl : f = .fx48 := by simpa using h
    have hw : wrap 64 (sextNat 48 v.toNat) < 2 ^ 64 := by
      unfold wrap
      omega
    exact hw
  case isFalse => exact Nat.mod_lt _ (Nat.two_pow_pos _)

/-- Element k of a row after element e has been written. -/
theorem extractLsb'_write_elem {f : Fmt} {row : Row} (hlive : row.dead = false) {e k : Nat} (hk : k < f.perRow) (n : Nat) :
    (row.write (elemMask f e) (BitVec.ofNat 4096 n <<< (f.viewWidth * e))).bits.extractLsb' (f.viewWidth * k) f.viewWidth =
      if k = e then BitVec.ofNat f.viewWidth n else row.bits.extractLsb' (f.viewWidth * k) f.viewWidth := by
  have hw := viewWidth_eq f
  have hin : f.viewWidth * k + f.viewWidth ≤ 4096 := by
    rw [← Nat.mul_succ, ← viewWidth_mul_perRow f]
    exact Nat.mul_le_mul_left _ hk
  have hrow : f.viewWidth * k = 8 * (f.viewWidth / 8 * k) := by rw [← Nat.mul_assoc, ← hw]
  apply BitVec.eq_of_getLsbD_eq
  intro i hi
  have hbyte : (f.viewWidth * k + i) / 8 = f.viewWidth / 8 * k + i / 8 := by omega
  have hib : i / 8 < f.viewWidth / 8 := by omega
  rw [BitVec.getLsbD_extractLsb', decide_eq_true hi, Bool.true_and, getLsbD_write _ _ _ (by omega), hbyte,
    getLsbD_elemMask f e (by omega), hlive]
  by_cases hke : k = e
  · subst hke
    rw [if_pos (decide_eq_true ⟨Nat.le_add_right _ _, Nat.add_lt_add_left hib _⟩), if_pos rfl, BitVec.getLsbD_shiftLeft,
      BitVec.getLsbD_ofNat, BitVec.getLsbD_ofNat]
    simp [hi, show f.viewWidth * k + i < 4096 by omega, show i < 4096 by omega]
  · rw [if_neg ?_, if_neg hke, BitVec.getLsbD_extractLsb', decide_eq_true hi, Bool.true_and]
    · rfl
    · rw [decide_eq_true_eq]
      rintro ⟨hle, hlt⟩
      rcases Nat.lt_or_gt_of_ne hke with h | h
      · have := Nat.mul_le_mul_left (f.viewWidth / 8) (Nat.succ_le_of_lt h)
        rw [Nat.mul_succ] at this
        omega
      · have := Nat.mul_le_mul_left (f.viewWidth / 8) (Nat.succ_le_of_lt h)
        rw [Nat.mul_succ] at this
        omega

theorem elems_write_elem {f : Fmt} {row : Row} (hlive : row.dead = false) (e : Nat) (v : Word) :
    elems f (row.write (elemMask f e) (BitVec.ofNat 4096 (scalarElem f v) <<< (f.viewWidth * e))).bits =
      (elems f row.bits).set e (scalarElem f v) := by
  apply List.ext_getElem (by simp)
  intro k hk hk'
  have hkp : k < f.perRow := by simpa using hk
  rw [List.getElem_set, ← getD_eq_getElem_of_lt _ 0, getD_elems hkp, extractLsb'_write_elem hlive hkp,
    ← getD_eq_getElem_of_lt (elems f row.bits) 0 (by simpa using hkp), getD_elems hkp]
  by_cases hke : k = e
  · rw [if_pos hke, if_pos hke.symm, BitVec.toNat_ofNat, Nat.mod_eq_of_lt (scalarElem_lt f v)]
  · rw [if_neg hke, if_neg (Ne.symm hke)]

/-! ### XSV and XVS -/

theorem ofNat_mul_two_pow (w x n : Nat) : BitVec.ofNat w (x * 2 ^ n) = BitVec.ofNat w x <<< n := by
  apply BitVec.eq_of_toNat_eq
  rw [BitVec.toNat_shiftLeft, Nat.shiftLeft_eq, BitVec.toNat_ofNat, BitVec.toNat_ofNat, Nat.mod_mul_mod]

theorem xsv_ok {s : State} {vw sn : Fin 64} {row : Row8} {i e : Nat} {u : Fmt × Nat} {v : Word} {el : Slotwise Nat}
    (hi : row8 s row = .ok i) (hu : viewUnit s vw 0 i = .ok u) (hv : rdS s sn = .ok v) (hw : wrRow s u.2 = .ok ()) (hel : el = .ok e) :
    xsv vw sn row el s = .next (if e < u.1.perRow then (s.touched [u.2]).latch (.row u.2 (elemMask u.1 e)
        (BitVec.ofNat 4096 (scalarElem u.1 v) <<< (u.1.viewWidth * e))) 4 0 else s.slotTrap (TrapInfo.of 3 1)) := by
  have hbits : BitVec.ofNat 4096 (scalarElem u.1 v * 2 ^ (u.1.viewWidth * e)) =
      BitVec.ofNat 4096 (scalarElem u.1 v) <<< (u.1.viewWidth * e) := ofNat_mul_two_pow _ _ _
  subst hel
  simp only [xsv, hi, hu, slotwise_ok_bind, hv, hw, hbits]
  split
  case isTrue h => simp [h]
  case isFalse h => simp [h, viewFault]

theorem xvs_ok {s : State} {vw sd : Fin 64} {row : Row8} {i e : Nat} {u : Fmt × Nat} {b : RowBits} {el : Slotwise Nat}
    (hi : row8 s row = .ok i) (hu : viewUnit s vw 0 i = .ok u) (hb : rdRow s u.2 = .ok b) (hw : wrS s sd = .ok ()) (hel : el = .ok e) :
    xvs vw sd row el s = .next (if e < u.1.perRow then (s.touched [u.2]).latch (.sreg (s.me.bankOf sd) sd
        (elemToReg u.1 (b.extractLsb' (u.1.viewWidth * e) u.1.viewWidth).toNat)) 4 0 else s.slotTrap (TrapInfo.of 3 1)) := by
  subst hel
  have hw' : wrS (s.touched [u.2]) sd = .ok () := hw
  simp only [xvs, hi, hu, slotwise_ok_bind, hb, putS_ok hw']
  split
  case isTrue h =>
    rw [getD_elems h]
    simp [h]
  case isFalse h => simp [h, viewFault]

theorem execXsvBcast_ok {s : State} {vw sn : Fin 64} {row : Row8} {i : Nat} {u : Fmt × Nat} {v : Word}
    (hi : row8 s row = .ok i) (hu : viewUnit s vw 0 i = .ok u) (hv : rdS s sn = .ok v) (hw : wrRow s u.2 = .ok ()) :
    exec (.xsvBcast vw sn row) s = .next ((s.touched [u.2]).latch
      (.row u.2 fullMask (rowOf u.1 (List.replicate u.1.perRow (scalarElem u.1 v)))) 4 0) := by
  change execXsvBcast vw sn row s = _
  simp only [execXsvBcast, hi, hu, hv, slotwise_ok_bind, putRowT_ok hw, slotDo_ok]

/-- Settles O18: the two forms of an element's index, then the bytes that the write leaves. -/
theorem elementMoves : Obligations.ElementMoves := by
  refine ⟨fun s vw sn row i e u v hi hu hv hw => ?_, fun s vw sd row i e u b hi hu hb hw => ?_,
    fun f row e v hlive _ => elems_write_elem hlive e v⟩
  · refine ⟨fun el hel => xsv_ok hi hu hv hw (by rw [hel]), fun sm w hsm hwe => xsv_ok hi hu hv hw ?_, execXsvBcast_ok hi hu hv hw⟩
    rw [hsm, ← hwe]
    rfl
  · refine ⟨fun el hel => xvs_ok hi hu hb hw (by rw [hel]), fun sm w hsm hwe => xvs_ok hi hu hb hw ?_⟩
    rw [hsm, ← hwe]
    rfl

/-! ### Dead rows -/

theorem viewUnit_past {s : State} {vw : Fin 64} {ix : Nat} (h : (ViewReg.of (rdVw s vw)).rows ≤ ix) :
    viewUnit s vw 0 ix = .error (viewFault 1) := by
  unfold viewUnit
  dsimp only
  rw [decide_eq_false (Nat.not_lt.2 h)]
  rfl

theorem viewUnit_kind {s : State} {vw : Fin 64} {ix : Nat} (h : ix < (ViewReg.of (rdVw s vw)).rows)
    (hk : (ViewReg.of (rdVw s vw)).kind ≠ 0) : viewUnit s vw 0 ix = .error (viewFault 2) := by
  unfold viewUnit
  dsimp only
  rw [decide_eq_true h, beq_false_of_ne hk]
  rfl

theorem viewUnit_inside {s : State} (hs : s.myCore.sumop = none) {vw : Fin 64} {ix : Nat} {f : Fmt}
    (h : ix < (ViewReg.of (rdVw s vw)).rows) (hk : (ViewReg.of (rdVw s vw)).kind = 0)
    (hf : Fmt.ofCode (ViewReg.of (rdVw s vw)).fmt = some f) : ∃ u, viewUnit s vw 0 ix = .ok u := by
  refine ⟨(f, (8 * (rdSys s 0x100).toNat + (ViewReg.of (rdVw s vw)).base + ix * (ViewReg.of (rdVw s vw)).stride) % 512), ?_⟩
  unfold viewUnit
  dsimp only
  rw [decide_eq_true h, hk, hf]
  dsimp only
  rw [sumHold_free hs]
  rfl

theorem deadRows_ok {s : State} {vw : Fin 64} {ix : Nat} {rows : List Nat}
    (h : ∀ j < rows.length, ∃ f, viewUnit s vw 0 (ix + j) = .ok (f, rows.getD j 0)) : deadRows s vw ix rows.length = .ok rows := by
  induction rows generalizing ix with
  | nil => rfl
  | cons r rows ih =>
    obtain ⟨f, hf⟩ := h 0 (Nat.succ_pos _)
    have hrest : deadRows s vw (ix + 1) rows.length = .ok rows := ih fun j hj => by
      have := h (j + 1) (Nat.succ_lt_succ hj)
      rwa [show ix + (j + 1) = ix + 1 + j by omega] at this
    rw [List.length_cons, deadRows, show viewUnit s vw 0 ix = .ok (f, r) from hf, slotwise_ok_bind, hrest]
    rfl

/-- A range of units that starts inside a view and ends past it. -/
theorem deadRows_past {s : State} {vw : Fin 64} {ix n : Nat}
    (hin : ∀ j < (ViewReg.of (rdVw s vw)).rows, ∃ u, viewUnit s vw 0 j = .ok u) (hle : ix ≤ (ViewReg.of (rdVw s vw)).rows)
    (hpast : (ViewReg.of (rdVw s vw)).rows < ix + n) : deadRows s vw ix n = .error (viewFault 1) := by
  induction n generalizing ix with
  | zero => exact absurd hpast (Nat.not_lt.2 hle)
  | succ n ih =>
    rw [deadRows]
    by_cases h : ix < (ViewReg.of (rdVw s vw)).rows
    · obtain ⟨u, hu⟩ := hin ix h
      rw [hu, slotwise_ok_bind, ih h (by omega)]
      rfl
    · rw [viewUnit_past (Nat.not_lt.1 h)]
      rfl

theorem rdRow_dead {s : State} {r : Nat} (hsnap : s.me.snap = none) (hsum : s.myCore.sumop = none) (hp : s.me.pendingRow r = false)
    (hr : s.myCore.retained r = false) (hd : (s.myCore.row r).dead = true) :
    rdRow s r = if deadmode (rdSys s 0x001) then .error deadRow else .ok 0 := by
  unfold rdRow
  rw [sumHold_free hsum, hsnap]
  dsimp only
  rw [hp, hr]
  simp only [Bool.not_false, need_true, slotwise_ok_bind, hd, if_true]
  cases deadmode (rdSys s 0x001) <;> rfl

theorem execDead_error {s : State} {vw : Fin 64} {first cntm1 : Fin 512} {cause : Nat}
    (h : deadRows s vw first.val (cntm1.val + 1) = .error (viewFault cause)) :
    exec (.dead vw first cntm1) s = .next (s.slotTrap (TrapInfo.of 3 cause)) := by
  change execDead vw first cntm1 s = _
  rw [execDead, h]
  rfl

end Sys2Proof.Machine

namespace Sys2Proof

open Machine

/-- Settles O19: the units of the range one after another, then the reads and writes of a marked row. -/
theorem deadRows : Obligations.DeadRows := by
  refine ⟨fun s vw first cntm1 rows hlen hrows => ?_, fun s vw first cntm1 h => execDead_error ?_, ?_, ?_,
    fun s r => rdRow_dead, fun row mask v hd => ⟨dead_write row mask v, fun k hk => ?_⟩⟩
  · change execDead vw first cntm1 s = _
    rw [execDead, ← hlen, deadRows_ok hrows]
    rfl
  · rw [Machine.deadRows, viewUnit_past h]
    rfl
  · intro s vw first cntm1 f v hs hk hf hin hpast
    exact execDead_error (deadRows_past (fun j hr => viewUnit_inside hs hr hk hf) (Nat.le_of_lt hin) hpast)
  · intro s vw first cntm1 v hk hin
    refine execDead_error ?_
    rw [Machine.deadRows, viewUnit_kind hin hk]
    rfl
  · rw [extractLsb'_write row mask v hk, if_pos hd, show (0 : RowBits).extractLsb' (8 * k) 8 = 0 from BitVec.extractLsb'_zero]

end Sys2Proof
end

section
/-! PROOF. The lane crossbar (R110 to R113, R387). -/

namespace Sys2Proof.Machine

theorem xbar_step {f : List Nat → Slotwise (List Nat × List Nat)} {vd va : Fin 64} {s : State} {row : Row7} {md : Option Modifier}
    {i : Nat} {d a : Fmt × Nat} {b : RowBits} (hp : predOn s md = true) (hi : row7 s row = .ok i)
    (hd : viewUnit s vd 0 (i + doff md) = .ok d) (ha : viewUnit s va 0 (i + aoff md) = .ok a) (hb : rdRow s a.2 = .ok b)
    (hw : wrRow s d.2 = .ok ()) :
    xbar f vd va row md s = slotDo s ((f (lanes b)).map fun out =>
      (s.touched (d.2 :: a.2 :: out.1)).latch (.row d.2 fullMask (ofLanes out.2)) 6 0) := by
  rw [xbar, predicated_on hp, sumNames_pair hi hd ha]
  simp only [slotwise_ok_bind, hi, hd, ha, hb]
  rcases f (lanes b) with e | out
  · rfl
  · rw [slotwise_ok_bind, putRowT_ok hw]
    rfl

/-! ### Patterns -/

theorem length_pattern (b : RowBits) (p : Nat) : (pattern b p).length = 128 := by
  have := Nat.mod_lt p (show 0 < 4 by decide)
  simp [pattern]
  omega

/-- Two enabled entries of a pattern with one destination (R113). -/
def Clash (pat : List (Bool × Nat)) : Prop :=
  ∃ j k : Nat, j < k ∧ k < 128 ∧ (pat.getD j (false, 0)).1 = true ∧ (pat.getD k (false, 0)).1 = true ∧
    (pat.getD j (false, 0)).2 = (pat.getD k (false, 0)).2

theorem patternOk_iff_pairwise (pat : List (Bool × Nat)) :
    patternOk pat = true ↔ pat.Pairwise fun x y => x.1 = true → y.1 = true → x.2 ≠ y.2 := by
  induction pat with
  | nil => simp [patternOk]
  | cons x pat ih =>
    obtain ⟨en, d⟩ := x
    rw [List.pairwise_cons, patternOk, Bool.and_eq_true, ih]
    refine and_congr_left fun _ => ?_
    cases en with
    | false => simp
    | true =>
      simp only [Bool.not_true, Bool.false_or, List.all_eq_true, Bool.or_eq_true, Bool.not_eq_true', bne_iff_ne, forall_const]
      refine forall₂_congr fun y _ => ?_
      cases y.1 <;> simp [ne_comm]

theorem patternOk_iff_not_clash {pat : List (Bool × Nat)} (hlen : pat.length = 128) : patternOk pat = true ↔ ¬ Clash pat := by
  rw [patternOk_iff_pairwise, List.pairwise_iff_getElem]
  constructor
  · rintro h ⟨j, k, hjk, hk, hj1, hk1, heq⟩
    rw [getD_eq_getElem_of_lt _ _ (by omega)] at hj1 heq
    rw [getD_eq_getElem_of_lt _ _ (by omega)] at hk1 heq
    exact h j k (by omega) (by omega) hjk hj1 hk1 heq
  · intro h j k hj hk hjk hj1 hk1 heq
    refine h ⟨j, k, hjk, by omega, ?_, ?_, ?_⟩
    · rwa [getD_eq_getElem_of_lt _ _ hj]
    · rwa [getD_eq_getElem_of_lt _ _ hk]
    · rwa [getD_eq_getElem_of_lt _ _ hj, getD_eq_getElem_of_lt _ _ hk]

@[simp] theorem length_permute (pat : List (Bool × Nat)) (a : List Nat) : (permute pat a).length = 128 := by
  simp [permute]

theorem getD_permute {pat : List (Bool × Nat)} {a : List Nat} {l : Nat} (hl : l < 128) :
    (permute pat a).getD l 0 = ((pat.zip a).find? fun e => e.1.1 && e.1.2 == l).elim 0 (·.2) := by
  rw [getD_eq_getElem_of_lt _ _ (by simpa using hl)]
  simp only [permute, List.getElem_map, List.getElem_range]
  cases (pat.zip a).find? fun e => e.1.1 && e.1.2 == l <;> rfl

/-- An enabled entry sends its lane where it says, when no other names the place. -/
theorem permute_enabled {pat : List (Bool × Nat)} {a : List Nat} (hp : pat.length = 128) (ha : a.length = 128) (hok : ¬ Clash pat)
    {j : Nat} (hj : j < 128) (hen : (pat.getD j (false, 0)).1 = true) (hlt : (pat.getD j (false, 0)).2 < 128) :
    (permute pat a).getD (pat.getD j (false, 0)).2 0 = a.getD j 0 := by
  rw [getD_permute hlt]
  cases he : (pat.zip a).find? fun e => e.1.1 && e.1.2 == (pat.getD j (false, 0)).2 with
  | some e =>
    have hsat := List.find?_some he
    obtain ⟨k, hk, hek⟩ := List.getElem_of_mem (List.mem_of_find?_eq_some he)
    have hk' : k < 128 := by simp at hk; omega
    rw [List.getElem_zip] at hek
    subst hek
    simp only [Bool.and_eq_true, beq_iff_eq] at hsat
    have hkj : k = j := by
      rcases Nat.lt_trichotomy k j with h | h | h
      · refine absurd ⟨k, j, h, hj, ?_, hen, ?_⟩ hok
        · rw [getD_eq_getElem_of_lt _ _ (by omega)]; exact hsat.1
        · rw [getD_eq_getElem_of_lt _ _ (show k < pat.length by omega)]; exact hsat.2
      · exact h
      · refine absurd ⟨j, k, h, hk', hen, ?_, ?_⟩ hok
        · rw [getD_eq_getElem_of_lt _ _ (by omega)]; exact hsat.1
        · rw [getD_eq_getElem_of_lt _ _ (show k < pat.length by omega)]; exact hsat.2.symm
    subst hkj
    rw [getD_eq_getElem_of_lt _ _ (by omega)]
    rfl
  | none =>
    refine absurd ?_ (List.find?_eq_none.1 he (pat[j]'(by omega), a[j]'(by omega)) ?_)
    · rw [getD_eq_getElem_of_lt _ _ (by omega)] at hen ⊢
      simp [hen]
    · rw [← List.getElem_zip]
      exact List.getElem_mem (by simp; omega)

theorem permute_unnamed {pat : List (Bool × Nat)} {a : List Nat} (hp : pat.length = 128) {l : Nat} (hl : l < 128)
    (h : ∀ j < 128, (pat.getD j (false, 0)).1 = true → (pat.getD j (false, 0)).2 ≠ l) : (permute pat a).getD l 0 = 0 := by
  rw [getD_permute hl]
  cases he : (pat.zip a).find? fun e => e.1.1 && e.1.2 == l with
  | some e =>
    have hsat := List.find?_some he
    obtain ⟨k, hk, hek⟩ := List.getElem_of_mem (List.mem_of_find?_eq_some he)
    have hk' : k < 128 := by simp at hk; omega
    rw [List.getElem_zip] at hek
    subst hek
    simp only [Bool.and_eq_true, beq_iff_eq] at hsat
    refine absurd ?_ (h k hk' ?_)
    · rw [getD_eq_getElem_of_lt _ _ (by omega)]; exact hsat.2
    · rw [getD_eq_getElem_of_lt _ _ (by omega)]; exact hsat.1
  | none => rfl

theorem pattern_dest_lt (b : RowBits) (p : Nat) {j : Nat} (hj : j < 128) : ((pattern b p).getD j (false, 0)).2 < 128 := by
  rw [getD_eq_getElem_of_lt _ _ (by rwa [length_pattern])]
  simp only [pattern, List.getElem_map]
  exact Nat.mod_lt _ (by decide)

/-- Settles O20: what each form makes of the source's lanes. -/
theorem crossbar : Obligations.Crossbar := by
  intro s vd va row md i d a b hp hi hd ha hb hw lane put
  have hlen : (lanes b).length = 128 := length_splitN _ _ _
  refine ⟨fun sel => ?_, fun sel => ⟨(List.range 128).map fun l => lane ((l + 128 - sel.val) % 128), ?_, ?_, ?_⟩,
    fun sel r pb hr hpb => ?_⟩
  · change execXbcast vd va sel row md s = _
    rw [execXbcast, xbar_step hp hi hd ha hb hw]
    rfl
  · change execXrot vd va sel row md s = _
    rw [execXrot, xbar_step hp hi hd ha hb hw]
    rfl
  · simp
  · intro l hl
    have hm : (l + sel.val) % 128 < 128 := Nat.mod_lt _ (by decide)
    rw [getD_eq_getElem_of_lt _ _ (by simpa using hm), List.getElem_map, List.getElem_range]
    exact congrArg lane (by omega)
  · intro pat clash
    have hplen : pat.length = 128 := length_pattern pb sel.val
    have hexec : exec (.xperm vd va sel row md) s = slotDo s ((do
        need (patternOk pat) illegalSchedule
        .ok ([r], permute pat (lanes b)) : Slotwise (List Nat × List Nat)).map fun out =>
          (s.touched (d.2 :: a.2 :: out.1)).latch (.row d.2 fullMask (ofLanes out.2)) 6 0) := by
      change execXperm vd va sel row md s = _
      rw [execXperm, xbar_step hp hi hd ha hb hw, hr, slotwise_ok_bind, hpb]
      rfl
    refine ⟨fun hc => ?_, fun hc => ⟨permute pat (lanes b), ?_, length_permute _ _, fun j hj hen => ?_, fun l hl h => ?_⟩⟩
    · have hok : patternOk pat = false := by
        rw [← Bool.not_eq_true, patternOk_iff_not_clash hplen, Classical.not_not]
        exact hc
      rw [hexec, hok]
      rfl
    · rw [hexec, (patternOk_iff_not_clash hplen).2 hc]
      rfl
    · exact permute_enabled hplen hlen hc hj hen (pattern_dest_lt pb sel.val hj)
    · exact permute_unnamed hplen hl h

end Sys2Proof.Machine
end

section
/-! PROOF. The element operations of the vector mould (R100, R372, R373). -/

namespace Sys2Proof.Machine

/-! ### Integers on w bits -/

theorem toInt_emod (f : Fmt) (a : Nat) : f.toInt a % (2 ^ f.opWidth : Nat) = ((a % 2 ^ f.opWidth : Nat) : Int) := by
  have hm : a % 2 ^ f.opWidth < 2 ^ f.opWidth := Nat.mod_lt _ (Nat.two_pow_pos _)
  have hu : ((a % 2 ^ f.opWidth : Nat) : Int) % (2 ^ f.opWidth : Nat) = (a % 2 ^ f.opWidth : Nat) := by
    rw [← Int.natCast_emod, Nat.mod_mod]
  unfold Fmt.toInt sextNat
  dsimp only
  split
  · split
    · rw [Int.sub_emod_right, hu]
    · exact hu
  · exact hu

/-- Numbers that agree modulo 2^w are the same w bits. -/
theorem wrap_eq_of_emod {w n : Nat} {i : Int} (h : i % (2 ^ w : Nat) = ((n % 2 ^ w : Nat) : Int)) : wrap w i = n % 2 ^ w := by
  rw [wrap, h, Int.toNat_natCast]

theorem wrap_lt (w : Nat) (i : Int) : wrap w i < 2 ^ w := by
  have hpos : 0 < 2 ^ w := Nat.two_pow_pos w
  have h := Int.emod_lt_of_pos i (show (0 : Int) < (2 ^ w : Nat) by exact_mod_cast hpos)
  rw [wrap]
  omega

theorem wrap_natCast (w n : Nat) : wrap w (n : Int) = n % 2 ^ w := wrap_eq_of_emod (Int.natCast_emod _ _).symm

/-- Numbers of the format's elements, as integers modulo 2^w. -/
theorem toInt_emod_eq (f : Fmt) (a : Nat) : f.toInt a % (2 ^ f.opWidth : Nat) = (a : Int) % (2 ^ f.opWidth : Nat) := by
  rw [toInt_emod, Int.natCast_emod]

theorem wrap_of_emod_eq {w n : Nat} {i : Int} (h : i % (2 ^ w : Nat) = (n : Int) % (2 ^ w : Nat)) : wrap w i = n % 2 ^ w :=
  wrap_eq_of_emod (by rw [Int.natCast_emod]; exact h)

theorem wrap_toInt_add (f : Fmt) (a b : Nat) : wrap f.opWidth (f.toInt a + f.toInt b) = (a + b) % 2 ^ f.opWidth :=
  wrap_of_emod_eq (by rw [Int.natCast_add, Int.add_emod, toInt_emod_eq, toInt_emod_eq, ← Int.add_emod])

theorem wrap_toInt_sub (f : Fmt) {b c : Nat} (a : Nat) (hb : c ≤ 2 ^ f.opWidth) (hc : c % 2 ^ f.opWidth = b % 2 ^ f.opWidth) :
    wrap f.opWidth (f.toInt a - f.toInt b) = (a + (2 ^ f.opWidth - c)) % 2 ^ f.opWidth := by
  have hcb : (c : Int) % (2 ^ f.opWidth : Nat) = (b : Int) % (2 ^ f.opWidth : Nat) := by rw [← Int.natCast_emod, hc, Int.natCast_emod]
  have hsum : (a : Int) + ((2 ^ f.opWidth : Nat) - c) = a - c + (2 ^ f.opWidth : Nat) := by omega
  refine wrap_of_emod_eq ?_
  rw [Int.natCast_add, Int.natCast_sub hb, hsum, Int.add_emod_right, Int.sub_emod, toInt_emod_eq, toInt_emod_eq, ← hcb, ← Int.sub_emod]

theorem wrap_toInt_mul (f : Fmt) (a b : Nat) : wrap f.opWidth (f.toInt a * f.toInt b) = a * b % 2 ^ f.opWidth :=
  wrap_of_emod_eq (by rw [Int.natCast_mul, Int.mul_emod, toInt_emod_eq, toInt_emod_eq, ← Int.mul_emod])

theorem wrap_toInt_fma (f : Fmt) (a b d : Nat) :
    wrap f.opWidth (f.toInt a * f.toInt b + f.toInt d) = (a * b + d) % 2 ^ f.opWidth :=
  wrap_of_emod_eq (by
    rw [Int.natCast_add, Int.natCast_mul, Int.add_emod, Int.mul_emod, toInt_emod_eq, toInt_emod_eq, toInt_emod_eq, ← Int.mul_emod,
      ← Int.add_emod])

theorem wrap_toInt (f : Fmt) (a : Nat) : wrap f.opWidth (f.toInt a) = a % 2 ^ f.opWidth := wrap_of_emod_eq (toInt_emod_eq f a)

/-- The number of a word is that of its low bits. -/
theorem toInt_mod (f : Fmt) (a : Nat) : f.toInt (a % 2 ^ f.opWidth) = f.toInt a := by
  simp [Fmt.toInt, sextNat]

theorem toInt_inj_iff {f : Fmt} {a b : Nat} : f.toInt a = f.toInt b ↔ a % 2 ^ f.opWidth = b % 2 ^ f.opWidth := by
  refine ⟨fun h => ?_, fun h => ?_⟩
  · rw [← wrap_toInt, h, wrap_toInt]
  · rw [← toInt_mod f a, h, toInt_mod]

/-- The larger or the smaller of two elements, as the model picks it. -/
theorem pick_greater (f : Fmt) (a b : Nat) : (if f.toInt a < f.toInt b then f.toInt b else f.toInt a) = f.toInt (greater f a b) := by
  unfold greater
  split <;> split <;> first | rfl | omega

theorem pick_lesser (f : Fmt) (a b : Nat) : (if f.toInt b < f.toInt a then f.toInt b else f.toInt a) = f.toInt (lesser f a b) := by
  unfold lesser
  split <;> split <;> first | rfl | omega

theorem greater_lt {f : Fmt} {a b m : Nat} (ha : a < m) (hb : b < m) : greater f a b < m := by
  unfold greater
  split <;> assumption

theorem lesser_lt {f : Fmt} {a b m : Nat} (ha : a < m) (hb : b < m) : lesser f a b < m := by
  unfold lesser
  split <;> assumption

/-! ### Integer views -/

/-- An integer view's elements are worked on whole. -/
theorem isInt_facts {f : Fmt} (h : f.isInt = true) : f.isFp = false ∧ f.viewWidth = f.opWidth ∧ (f == .fx48) = false ∧ f.opWidth ≤ 64 := by
  revert h; cases f <;> decide

theorem elemOfInt_of_isInt {f : Fmt} (h : f.isInt = true) (i : Int) : elemOfInt f i = wrap f.opWidth i := by
  obtain ⟨-, hw, hx, -⟩ := isInt_facts h
  simp [elemOfInt, hw, hx]

theorem elPick_of_isInt {f : Fmt} (h : f.isInt = true) {a b : Nat} (ha : a < 2 ^ f.opWidth) (hb : b < 2 ^ f.opWidth) (gt : Bool) :
    elPick gt f a b = (if gt then greater f a b else lesser f a b, 0) := by
  obtain ⟨hf, -, -, -⟩ := isInt_facts h
  unfold elPick
  rw [if_neg (by simp [hf])]
  cases gt with
  | true =>
    simp only [if_true, pick_greater, elemOfInt_of_isInt h, wrap_toInt, Nat.mod_eq_of_lt (greater_lt ha hb)]
  | false =>
    simp only [Bool.false_eq_true, if_false, pick_lesser, elemOfInt_of_isInt h, wrap_toInt, Nat.mod_eq_of_lt (lesser_lt ha hb)]

theorem elCmp_fst_of_isInt {f : Fmt} (h : f.isInt = true) (rm : Fin 4) (a b d : Nat) :
    (elCmp f rm a b d).1 = if intCond (vcond rm) (f.toInt a) (f.toInt b) then 2 ^ f.opWidth - 1 else 0 := by
  obtain ⟨hf, hw, -, -⟩ := isInt_facts h
  simp [elCmp, hf, hw]

theorem elShr_of_isInt {f : Fmt} (h : f.isInt = true) (rm : Fin 4) {a : Nat} (ha : a < 2 ^ f.opWidth) (b d : Nat) :
    elShr f rm a b d = (if f.signed then signedRight f.opWidth a (b % 256) else a / 2 ^ (b % 256), 0) := by
  unfold elShr
  rw [elemOfInt_of_isInt h]
  cases hs : f.signed with
  | true =>
    have hx : f.toInt a = sextNat f.opWidth a := by rw [Fmt.toInt, hs, if_pos rfl]
    rw [hx, ediv_two_pow_min (sextNat_bounds f.opWidth a), if_pos rfl, signedRight]
  | false =>
    have hx : f.toInt a = (a : Int) := by rw [Fmt.toInt, hs, if_neg (by decide), Nat.mod_eq_of_lt ha]
    rw [hx, ediv_two_pow_min ⟨by omega, by exact_mod_cast ha⟩, if_neg (by decide), ← Int.natCast_ediv, wrap_natCast,
      Nat.mod_eq_of_lt (Nat.lt_of_le_of_lt (Nat.div_le_self _ _) ha)]

theorem elShl_of_isInt {f : Fmt} (h : f.isInt = true) (rm : Fin 4) (a b d : Nat) :
    elShl f rm a b d = (a * 2 ^ (b % 256) % 2 ^ f.opWidth, 0) := by
  unfold elShl
  dsimp only
  split
  case isTrue hw => rw [Nat.mod_eq_zero_of_dvd (Nat.dvd_mul_left_of_dvd (Nat.pow_dvd_pow 2 hw) a)]
  case isFalse => rw [elemOfInt_of_isInt h, wrap_natCast]

theorem elements_of_isInt (f : Fmt) (rm : Fin 4) (a b d : Nat) (h : f.isInt = true) :
    let w := f.viewWidth
    a < 2 ^ w → b < 2 ^ w → d < 2 ^ w →
    elAdd f rm a b d = ((a + b) % 2 ^ w, 0) ∧ elSub f rm a b d = ((a + (2 ^ w - b)) % 2 ^ w, 0) ∧
    elMul f rm a b d = (a * b % 2 ^ w, 0) ∧ elFma f rm a b d = ((a * b + d) % 2 ^ w, 0) ∧
    elMax f rm a b d = (greater f a b, 0) ∧ elMin f rm a b d = (lesser f a b, 0) ∧
    elClamp f rm a b d = (lesser f (greater f d a) b, 0) ∧
    elAnd f rm a b d = (a &&& b, 0) ∧ elOr f rm a b d = (a ||| b, 0) ∧ elXor f rm a b d = (a ^^^ b, 0) ∧
    elShl f rm a b d = (a * 2 ^ (b % 256) % 2 ^ w, 0) ∧
    elShr f rm a b d = (if f.signed then signedRight w a (b % 256) else a / 2 ^ (b % 256), 0) ∧
    elNeg f rm a b d = ((2 ^ w - a) % 2 ^ w, 0) ∧ elAbs f rm a b d = ((f.toInt a).natAbs % 2 ^ w, 0) ∧
    elSel f rm a b d = (if d = 0 then b else a, 0) ∧
    (elCmp f 0 a b d).1 = (if f.toInt a = f.toInt b then 2 ^ w - 1 else 0) ∧
    (elCmp f 1 a b d).1 = (if f.toInt a = f.toInt b then 0 else 2 ^ w - 1) ∧
    (elCmp f 2 a b d).1 = (if f.toInt a < f.toInt b then 2 ^ w - 1 else 0) ∧
    (elCmp f 3 a b d).1 = (if f.toInt a ≤ f.toInt b then 2 ^ w - 1 else 0) := by
  obtain ⟨hf, hw, hx, h64⟩ := isInt_facts h
  dsimp only
  rw [hw]
  intro ha hb hd
  refine ⟨?_, ?_, ?_, ?_, ?_, ?_, ?_, ?_, ?_, ?_, ?_, ?_, ?_, ?_, ?_, ?_, ?_, ?_, ?_⟩
  · simp only [elAdd, hf, Bool.false_eq_true, if_false, elemOfInt_of_isInt h, wrap_toInt_add]
  · simp only [elSub, hf, Bool.false_eq_true, if_false, elemOfInt_of_isInt h, wrap_toInt_sub f a (Nat.le_of_lt hb) rfl]
  · simp only [elMul, hf, Bool.false_eq_true, if_false, elemOfInt_of_isInt h, wrap_toInt_mul]
  · simp only [elFma, hf, Bool.false_eq_true, if_false, elemOfInt_of_isInt h, wrap_toInt_fma]
  · exact elPick_of_isInt h ha hb true
  · exact elPick_of_isInt h ha hb false
  · simp only [elClamp, elPick_of_isInt h hd ha, if_true, elPick_of_isInt h (greater_lt hd ha) hb]
    rfl
  · rw [elAnd, elemOfInt_of_isInt h, wrap_natCast, Nat.mod_eq_of_lt (Nat.and_lt_two_pow a hb)]
  · rw [elOr, elemOfInt_of_isInt h, wrap_natCast, Nat.mod_eq_of_lt (Nat.or_lt_two_pow ha hb)]
  · rw [elXor, elemOfInt_of_isInt h, wrap_natCast, Nat.mod_eq_of_lt (Nat.xor_lt_two_pow ha hb)]
  · exact elShl_of_isInt h rm a b d
  · exact elShr_of_isInt h rm ha b d
  · have hneg := wrap_toInt_sub f 0 (Nat.le_of_lt ha) rfl
    rw [show f.toInt 0 = 0 by simp [Fmt.toInt, sextNat], Int.zero_sub, Nat.zero_add] at hneg
    simp only [elNeg, hf, Bool.false_eq_true, if_false, elemOfInt_of_isInt h, hneg]
  · simp only [elAbs, hf, Bool.false_eq_true, if_false, elemOfInt_of_isInt h, wrap_natCast]
  · rw [elSel, hx, if_neg (show ¬ (false = true) by decide), hw, Nat.min_eq_left h64, Nat.mod_eq_of_lt hd]
  · rw [elCmp_fst_of_isInt h]
    simp [vcond, intCond]
  · rw [elCmp_fst_of_isInt h]
    simp [vcond, intCond]
  · rw [elCmp_fst_of_isInt h]
    simp [vcond, intCond]
  · rw [elCmp_fst_of_isInt h]
    simp [vcond, intCond]

/-! ### Floating views -/

/-- NV among flags (R85). -/
theorem getLsbD_or_nv {x y : Flags} (h : y.getLsbD 4 = true) : (x ||| y).getLsbD 4 = true := by
  rw [BitVec.getLsbD_or, h, Bool.or_true]

theorem getLsbD_nv_or {x y : Flags} (h : x.getLsbD 4 = true) : (x ||| y).getLsbD 4 = true := by
  rw [BitVec.getLsbD_or, h, Bool.true_or]

/-- A signalling NaN among the operands sets NV. -/
theorem getLsbD_sigFlags {vs : List Val} {v : Val} (hv : v ∈ vs) (h : v.isSig = true) : (sigFlags vs).getLsbD 4 = true := by
  rw [sigFlags, List.any_eq_true.2 ⟨v, hv, h⟩]
  decide

theorem fst_add_of_nan {rm : Rm} {x y : Val} (h : x.isNan ∨ y.isNan) : (Val.add rm x y).1 = .nan false := by
  cases x <;> cases y <;> simp_all [Val.add, Val.isNan]

theorem fst_mul_of_nan {x y : Val} (h : x.isNan ∨ y.isNan) : (Val.mul x y).1 = .nan false := by
  cases x <;> cases y <;> simp_all [Val.mul, Val.isNan]

theorem rnd_of_nan (f : FpFmt) (rm : Rm) {v : Val} (h : v.isNan = true) : f.rnd rm v = (f.nan, 0) := by
  cases v with
  | nan s => rfl
  | inf n => cases h
  | fin n m e => cases h

@[simp] theorem isNan_negate (v : Val) : v.negate.isNan = v.isNan := by cases v <;> rfl
@[simp] theorem isNan_abs (v : Val) : v.abs.isNan = v.isNan := by cases v <;> rfl
@[simp] theorem isSig_negate (v : Val) : v.negate.isSig = v.isSig := by cases v <;> rfl

/-- Below in one direction only. -/
theorem lt_asymm {x y : Val} (h : x.lt y = true) : y.lt x = false := by
  rcases x with s | n | ⟨n, m, e⟩ <;> rcases y with t | k | ⟨k, p, f⟩ <;> simp_all [Val.lt]
  have hq : (if f ≤ e then f else e) = if e ≤ f then e else f := by split <;> split <;> omega
  rw [hq]
  exact Int.le_of_lt h

theorem below_asymm {x y : Val} (h : x.below y = true) : y.below x = false := by
  simp only [Val.below, Val.eq, Bool.or_eq_true, Bool.and_eq_true, Bool.not_eq_true'] at h
  rcases h with h | ⟨⟨⟨-, hyx⟩, hnx⟩, hny⟩
  · simp [Val.below, Val.eq, h, lt_asymm h]
  · simp [Val.below, hyx, hny]

theorem below_iff (x y : Val) : x.below y = true ↔ x.lt y = true ∨ (x.eq y = true ∧ x.neg? = true ∧ y.neg? = false) := by
  simp [Val.below, and_assoc]

section
variable {f : Fmt} (hf : f.isFp = true)
include hf

theorem elPick_of_isFp (gt : Bool) (a b : Nat) : elPick gt f a b =
    ((f.fp.rnd .ne (fpSelect gt (f.fp.dec a) (f.fp.dec b))).1, sigFlags [f.fp.dec a, f.fp.dec b]) := by
  simp [elPick, hf, fpElem]

theorem elAdd_of_isFp (rm : Fin 4) (a b d : Nat) :
    elAdd f rm a b d = fpAdd f.fp (Rm.ofCode rm.val) (f.fp.dec a) (f.fp.dec b) := by simp [elAdd, hf, fpElem]

theorem elSub_of_isFp (rm : Fin 4) (a b d : Nat) :
    elSub f rm a b d = fpAdd f.fp (Rm.ofCode rm.val) (f.fp.dec a) (f.fp.dec b).negate := by simp [elSub, hf, fpElem]

theorem elMul_of_isFp (rm : Fin 4) (a b d : Nat) :
    elMul f rm a b d = fpMul f.fp (Rm.ofCode rm.val) (f.fp.dec a) (f.fp.dec b) := by simp [elMul, hf, fpElem]

theorem elFma_of_isFp (rm : Fin 4) (a b d : Nat) :
    elFma f rm a b d = fpFma f.fp (Rm.ofCode rm.val) (f.fp.dec a) (f.fp.dec b) (f.fp.dec d) := by simp [elFma, hf, fpElem]

theorem elCmp_of_isFp (rm : Fin 4) (a b d : Nat) : elCmp f rm a b d =
    (if (fpCond (vcond rm) (f.fp.dec a) (f.fp.dec b)).1 then 2 ^ f.viewWidth - 1 else 0,
      (fpCond (vcond rm) (f.fp.dec a) (f.fp.dec b)).2) := by simp [elCmp, hf, fpElem]

/-- A signalling operand sets NV in every operation. -/
theorem nv_of_isSig (rm : Fin 4) (a b d : Nat) (h : (f.fp.dec a).isSig ∨ (f.fp.dec b).isSig) :
    ∀ el ∈ [elAdd, elSub, elMul, elFma, elMax, elMin, elCmp, elClamp], ((el f rm a b d).2.getLsbD 4) = true := by
  have hpair : (sigFlags [f.fp.dec a, f.fp.dec b]).getLsbD 4 = true := by
    rcases h with h | h
    · exact getLsbD_sigFlags (by simp) h
    · exact getLsbD_sigFlags (by simp) h
  have hneg : (sigFlags [f.fp.dec a, (f.fp.dec b).negate]).getLsbD 4 = true := by
    rcases h with h | h
    · exact getLsbD_sigFlags (List.mem_cons_self ..) h
    · exact getLsbD_sigFlags (v := (f.fp.dec b).negate) (by simp) (by simpa using h)
  have hthree : (sigFlags [f.fp.dec a, f.fp.dec b, f.fp.dec d]).getLsbD 4 = true := by
    rcases h with h | h
    · exact getLsbD_sigFlags (by simp) h
    · exact getLsbD_sigFlags (by simp) h
  simp only [List.forall_mem_cons]
  refine ⟨?_, ?_, ?_, ?_, ?_, ?_, ?_, ?_, fun _ hm => absurd hm List.not_mem_nil⟩
  · rw [elAdd_of_isFp hf]; exact getLsbD_or_nv hpair
  · rw [elSub_of_isFp hf]; exact getLsbD_or_nv hneg
  · rw [elMul_of_isFp hf]; exact getLsbD_or_nv hpair
  · rw [elFma_of_isFp hf]; exact getLsbD_or_nv hthree
  · rw [elMax, elPick_of_isFp hf]; exact hpair
  · rw [elMin, elPick_of_isFp hf]; exact hpair
  · rw [elCmp_of_isFp hf, fpCond_snd, if_pos (.inr h)]
    decide
  · simp only [elClamp, elPick_of_isFp hf]
    rcases h with h | h
    · exact getLsbD_nv_or (getLsbD_sigFlags (by simp) h)
    · exact getLsbD_or_nv (getLsbD_sigFlags (v := f.fp.dec b) (by simp) h)

theorem arithmetic_of_isFp (rm : Fin 4) (a b d : Nat) :
    let x := f.fp.dec a
    let y := f.fp.dec b
    let z := f.fp.dec d
    (elAdd f rm a b d).1 = (f.fp.rnd (Rm.ofCode rm.val) (Val.add (Rm.ofCode rm.val) x y).1).1 ∧
    (elSub f rm a b d).1 = (f.fp.rnd (Rm.ofCode rm.val) (Val.add (Rm.ofCode rm.val) x y.negate).1).1 ∧
    (elMul f rm a b d).1 = (f.fp.rnd (Rm.ofCode rm.val) (Val.mul x y).1).1 ∧
    (elFma f rm a b d).1 = (f.fp.rnd (Rm.ofCode rm.val) (Val.add (Rm.ofCode rm.val) (Val.mul x y).1 z).1).1 ∧
    (x.isNan ∨ y.isNan →
      (elAdd f rm a b d).1 = f.fp.nan ∧ (elSub f rm a b d).1 = f.fp.nan ∧ (elMul f rm a b d).1 = f.fp.nan ∧
      (elFma f rm a b d).1 = f.fp.nan) ∧
    (x.isSig ∨ y.isSig → ∀ el ∈ [elAdd, elSub, elMul, elFma, elMax, elMin, elCmp, elClamp],
      ((el f rm a b d).2.getLsbD 4) = true) := by
  intro x y z
  rw [elAdd_of_isFp hf, elSub_of_isFp hf, elMul_of_isFp hf, elFma_of_isFp hf]
  refine ⟨rfl, rfl, rfl, rfl, fun h => ⟨?_, ?_, ?_, ?_⟩, nv_of_isSig hf rm a b d⟩
  · rw [fpAdd, fst_add_of_nan h]; rfl
  · rw [fpAdd, fst_add_of_nan (y := y.negate) (by simpa using h)]; rfl
  · rw [fpMul, fst_mul_of_nan h]; rfl
  · rw [fpFma, fst_mul_of_nan h, fst_add_of_nan (.inl rfl)]; rfl

end

/-- The larger or the smaller of two numbers (R373). -/
theorem fpSelect_true {x y : Val} (hx : ¬ x.isNan) (hy : ¬ y.isNan) : fpSelect true x y = if x.below y then y else x := by
  simp [fpSelect, hx, hy]

theorem fpSelect_false {x y : Val} (hx : ¬ x.isNan) (hy : ¬ y.isNan) : fpSelect false x y = if y.below x then y else x := by
  simp [fpSelect, hx, hy]

theorem fpSelect_left_nan (gt : Bool) {x : Val} (hx : x.isNan = true) (y : Val) : fpSelect gt x y = y := by
  simp [fpSelect, hx]

theorem fpSelect_right_nan (gt : Bool) {x y : Val} (hx : ¬ x.isNan) (hy : y.isNan = true) : fpSelect gt x y = x := by
  simp [fpSelect, hx, hy]

section
variable {f : Fmt} (hf : f.isFp = true)
include hf

theorem elMax_fst_of_isFp (rm : Fin 4) (a b d : Nat) :
    (elMax f rm a b d).1 = (f.fp.rnd .ne (fpSelect true (f.fp.dec a) (f.fp.dec b))).1 := by rw [elMax, elPick_of_isFp hf]

theorem elMin_fst_of_isFp (rm : Fin 4) (a b d : Nat) :
    (elMin f rm a b d).1 = (f.fp.rnd .ne (fpSelect false (f.fp.dec a) (f.fp.dec b))).1 := by rw [elMin, elPick_of_isFp hf]

theorem elNeg_of_isFp (rm : Fin 4) (a b d : Nat) :
    elNeg f rm a b d = ((f.fp.rnd .ne (f.fp.dec a).negate).1, sigFlags [f.fp.dec a]) := by simp [elNeg, hf, fpElem]

theorem elAbs_of_isFp (rm : Fin 4) (a b d : Nat) :
    elAbs f rm a b d = ((f.fp.rnd .ne (f.fp.dec a).abs).1, sigFlags [f.fp.dec a]) := by simp [elAbs, hf, fpElem]

theorem elemOfInt_of_isFp (n : Nat) : elemOfInt f n = n % 2 ^ f.viewWidth := by
  have hx : (f == .fx48) = false := by revert hf; cases f <;> decide
  rw [elemOfInt, hx, if_neg (by decide), wrap_natCast]

theorem viewWidth_le_of_isFp : f.viewWidth ≤ 64 := by cases f <;> decide

end

/-- With a NaN on either side (R335, R373). -/
theorem fpCond_of_nan {x y : Val} (h : x.isNan ∨ y.isNan) :
    (fpCond .eq x y).1 = false ∧ (fpCond .ne x y).1 = true ∧ (fpCond .lt x y).1 = false ∧ (fpCond .le x y).1 = false ∧
      (fpCond .lt x y).2 = flNV ∧ (fpCond .le x y).2 = flNV := by
  rw [fpCond_fst, fpCond_fst, fpCond_fst, fpCond_fst, fpCond_snd, fpCond_snd, if_pos h, if_pos h, if_pos h, if_pos h]
  exact ⟨rfl, rfl, rfl, rfl, by simp [h], by simp [h]⟩

/-- The conditions of two numbers. -/
theorem fpCond_of_numbers {x y : Val} (hx : x.isNan = false) (hy : y.isNan = false) :
    (fpCond .eq x y).1 = (!x.lt y && !y.lt x) ∧ (fpCond .ne x y).1 = (x.lt y || y.lt x) ∧ (fpCond .lt x y).1 = x.lt y ∧
      (fpCond .le x y).1 = !y.lt x := by
  simp [fpCond, Val.eq, hx, hy]

theorem maxMin_of_isFp {f : Fmt} (hf : f.isFp = true) (rm : Fin 4) {a b : Nat} (d : Nat) {x y : Val} (hxa : f.fp.dec a = x)
    (hyb : f.fp.dec b = y) :
    let put (v : Val) := (f.fp.rnd .ne v).1
    let lower (u v : Val) : Prop := u.lt v = true ∨ (u.eq v = true ∧ u.neg? = true ∧ v.neg? = false)
    (x.isNan → y.isNan → (elMax f rm a b d).1 = f.fp.nan ∧ (elMin f rm a b d).1 = f.fp.nan) ∧
    (x.isNan → ¬ y.isNan → (elMax f rm a b d).1 = put y ∧ (elMin f rm a b d).1 = put y) ∧
    (¬ x.isNan → y.isNan → (elMax f rm a b d).1 = put x ∧ (elMin f rm a b d).1 = put x) ∧
    (¬ x.isNan → ¬ y.isNan → (lower x y → (elMax f rm a b d).1 = put y ∧ (elMin f rm a b d).1 = put x) ∧
      (¬ lower x y → (elMax f rm a b d).1 = put x) ∧ (¬ lower y x → (elMin f rm a b d).1 = put x) ∧
      (lower y x → (elMin f rm a b d).1 = put y)) := by
  intro put lower
  have hlower : ∀ u v : Val, lower u v ↔ u.below v = true := fun u v => (below_iff u v).symm
  rw [elMax_fst_of_isFp hf, elMin_fst_of_isFp hf, hxa, hyb]
  refine ⟨fun hx hy => ?_, fun hx _ => ?_, fun hx hy => ?_, fun hx hy => ?_⟩
  · rw [fpSelect_left_nan _ hx, fpSelect_left_nan _ hx, rnd_of_nan _ _ hy]
    exact ⟨rfl, rfl⟩
  · rw [fpSelect_left_nan _ hx, fpSelect_left_nan _ hx]
    exact ⟨rfl, rfl⟩
  · rw [fpSelect_right_nan _ hx hy, fpSelect_right_nan _ hx hy]
    exact ⟨rfl, rfl⟩
  · rw [fpSelect_true hx hy, fpSelect_false hx hy, hlower, hlower]
    refine ⟨fun h => ?_, fun h => ?_, fun h => ?_, fun h => ?_⟩
    · rw [if_pos h, if_neg (Bool.not_eq_true _ ▸ below_asymm h)]
      exact ⟨rfl, rfl⟩
    · rw [if_neg h]
    · rw [if_neg h]
    · rw [if_pos h]

theorem elements_of_isFp (f : Fmt) (rm : Fin 4) (a b d : Nat) (hf : f.isFp = true) :
    let x := f.fp.dec a
    let y := f.fp.dec b
    let put (v : Val) := (f.fp.rnd .ne v).1
    let ones (p : Prop) [Decidable p] := if p then 2 ^ f.viewWidth - 1 else 0
    (elClamp f rm a b d).1 = (elMin f rm (elMax f rm d a 0).1 b 0).1 ∧
    ((elNeg f rm a b d).1 = if x.isNan then f.fp.nan else put x.negate) ∧
    ((elAbs f rm a b d).1 = if x.isNan then f.fp.nan else put x.abs) ∧
    (x.isSig → (elNeg f rm a b d).2.getLsbD 4 = true ∧ (elAbs f rm a b d).2.getLsbD 4 = true) ∧
    (x.isNan ∨ y.isNan → (elCmp f 0 a b d).1 = 0 ∧ (elCmp f 1 a b d).1 = ones True ∧ (elCmp f 2 a b d).1 = 0 ∧ (elCmp f 3 a b d).1 = 0 ∧
      (elCmp f 2 a b d).2.getLsbD 4 = true ∧ (elCmp f 3 a b d).2.getLsbD 4 = true) ∧
    (¬ x.isNan → ¬ y.isNan → (elCmp f 0 a b d).1 = ones (x.lt y = false ∧ y.lt x = false) ∧
      (elCmp f 1 a b d).1 = ones (x.lt y = true ∨ y.lt x = true) ∧ (elCmp f 2 a b d).1 = ones (x.lt y = true) ∧
      (elCmp f 3 a b d).1 = ones (y.lt x = false)) ∧
    (a < 2 ^ f.viewWidth → b < 2 ^ f.viewWidth → elAnd f rm a b d = (a &&& b, 0) ∧ elOr f rm a b d = (a ||| b, 0) ∧
      elXor f rm a b d = (a ^^^ b, 0) ∧ elSel f rm a b d = (if d % 2 ^ f.viewWidth = 0 then b else a, 0)) := by
  intro x y put ones
  refine ⟨rfl, ?_, ?_, fun h => ?_, fun h => ?_, fun hx hy => ?_, fun ha hb => ⟨?_, ?_, ?_, ?_⟩⟩
  · rw [elNeg_of_isFp hf]
    split
    case isTrue h => rw [rnd_of_nan _ _ (by simpa using h)]
    case isFalse => rfl
  · rw [elAbs_of_isFp hf]
    split
    case isTrue h => rw [rnd_of_nan _ _ (by simpa using h)]
    case isFalse => rfl
  · rw [elNeg_of_isFp hf, elAbs_of_isFp hf]
    exact ⟨getLsbD_sigFlags (List.mem_singleton_self _) h, getLsbD_sigFlags (List.mem_singleton_self _) h⟩
  · obtain ⟨heq, hne, hlt, hle, hltf, hlef⟩ := fpCond_of_nan (x := f.fp.dec a) (y := f.fp.dec b) h
    simp only [elCmp_of_isFp hf, vcond, heq, hne, hlt, hle, hltf, hlef]
    exact ⟨rfl, rfl, rfl, rfl, by decide, by decide⟩
  · obtain ⟨heq, hne, hlt, hle⟩ := fpCond_of_numbers (x := f.fp.dec a) (y := f.fp.dec b) (by simpa using hx) (by simpa using hy)
    simp only [elCmp_of_isFp hf, vcond, heq, hne, hlt, hle]
    exact ⟨ite_eq_of_iff (by simp [x, y]) rfl rfl, ite_eq_of_iff (by simp [x, y]) rfl rfl, rfl, ite_eq_of_iff (by simp [x, y]) rfl rfl⟩
  · rw [elAnd, elemOfInt_of_isFp hf, Nat.mod_eq_of_lt (Nat.and_lt_two_pow a hb)]
  · rw [elOr, elemOfInt_of_isFp hf, Nat.mod_eq_of_lt (Nat.or_lt_two_pow ha hb)]
  · rw [elXor, elemOfInt_of_isFp hf, Nat.mod_eq_of_lt (Nat.xor_lt_two_pow ha hb)]
  · have hx : (f == .fx48) = false := by revert hf; cases f <;> decide
    rw [elSel, hx, if_neg (show ¬ (false = true) by decide), Nat.min_eq_left (viewWidth_le_of_isFp hf)]

/-! ### fx48 views -/

/-- A word of 48 bits as an element of an fx48 view (R100). -/
def fxElem (n : Nat) : Nat := wrap 64 (sextNat 48 (n % 2 ^ 48))

theorem sextNat_mod (w n : Nat) : sextNat w (n % 2 ^ w) = sextNat w n := by
  simp [sextNat]

theorem elemOfInt_fx48 (i : Int) : elemOfInt .fx48 i = fxElem (wrap 48 i) := by
  rw [fxElem, sextNat_mod]
  rfl

/-- The sign-extended word stands for the same number. -/
theorem toInt_fxElem (n : Nat) : Fmt.toInt .fx48 (fxElem n) = Fmt.toInt .fx48 n := by
  rw [toInt_inj_iff]
  change fxElem n % 2 ^ 48 = n % 2 ^ 48
  have hs : sextNat 48 (n % 2 ^ 48) = Fmt.toInt .fx48 n := sextNat_mod 48 n
  have hm : Fmt.toInt .fx48 n % (2 ^ 48 : Nat) = ((n % 2 ^ 48 : Nat) : Int) := toInt_emod .fx48 n
  rw [fxElem, hs, wrap]
  omega

theorem elPick_fx48 (gt : Bool) (a b : Nat) :
    elPick gt .fx48 a b = (fxElem (if gt then greater .fx48 a b else lesser .fx48 a b), 0) := by
  have hpick : ∀ n, elemOfInt .fx48 (Fmt.toInt .fx48 n) = fxElem n := by
    intro n
    rw [elemOfInt_fx48, show wrap 48 (Fmt.toInt .fx48 n) = n % 2 ^ 48 from wrap_toInt .fx48 n, fxElem, fxElem, Nat.mod_mod]
  cases gt with
  | true => rw [if_pos rfl, ← hpick, ← pick_greater]; rfl
  | false => rw [if_neg (by decide), ← hpick, ← pick_lesser]; rfl

/-- A choice between two numbers does not look at more than their values. -/
theorem fxElem_lesser_fxElem (a b : Nat) : fxElem (lesser .fx48 (fxElem a) b) = fxElem (lesser .fx48 a b) := by
  unfold lesser
  rw [toInt_fxElem]
  split
  · have h := toInt_inj_iff.1 (toInt_fxElem a)
    rw [show (2 : Nat) ^ Fmt.opWidth .fx48 = 2 ^ 48 from rfl] at h
    rw [fxElem, h, fxElem]
  · rfl

theorem elCmp_fx48 (rm : Fin 4) (a b d : Nat) :
    elCmp .fx48 rm a b d = (if intCond (vcond rm) (Fmt.toInt .fx48 a) (Fmt.toInt .fx48 b) then 2 ^ 64 - 1 else 0, 0) := rfl

theorem elements_of_fx48 (rm : Fin 4) (a b d : Nat) :
    let f : Fmt := .fx48
    let fx (n : Nat) : Nat := wrap 64 (sextNat 48 (n % 2 ^ 48))
    let ones (p : Prop) [Decidable p] := if p then 2 ^ 64 - 1 else 0
    elAdd f rm a b d = (fx (a + b), 0) ∧ elSub f rm a b d = (fx (a + (2 ^ 48 - b % 2 ^ 48)), 0) ∧
    elMax f rm a b d = (fx (greater f a b), 0) ∧ elMin f rm a b d = (fx (lesser f a b), 0) ∧
    elClamp f rm a b d = (fx (lesser f (greater f d a) b), 0) ∧
    elAnd f rm a b d = (fx (a &&& b), 0) ∧ elOr f rm a b d = (fx (a ||| b), 0) ∧ elXor f rm a b d = (fx (a ^^^ b), 0) ∧
    elShl f rm a b d = (if 48 ≤ b % 256 then 0 else fx (a * 2 ^ (b % 256)), 0) ∧
    elShr f rm a b d = (fx (signedRight 48 a (b % 256)), 0) ∧
    elNeg f rm a b d = (fx (2 ^ 48 - a % 2 ^ 48), 0) ∧ elAbs f rm a b d = (fx (sextNat 48 a).natAbs, 0) ∧
    elSel f rm a b d = (if d % 2 ^ 48 = 0 then b else a, 0) ∧
    elCmp f 0 a b d = (ones (a % 2 ^ 48 = b % 2 ^ 48), 0) ∧ elCmp f 1 a b d = (ones (a % 2 ^ 48 ≠ b % 2 ^ 48), 0) ∧
    elCmp f 2 a b d = (ones (sextNat 48 a < sextNat 48 b), 0) ∧ elCmp f 3 a b d = (ones (sextNat 48 a ≤ sextNat 48 b), 0) := by
  intro f fx ones
  have hfx : ∀ {i : Int} {n : Nat}, wrap 48 i = n % 2 ^ 48 → elemOfInt f i = fx n := by
    intro i n h
    rw [elemOfInt_fx48, h, fxElem, Nat.mod_mod]
  have hsub : ∀ a b : Nat, wrap 48 (Fmt.toInt .fx48 a - Fmt.toInt .fx48 b) = (a + (2 ^ 48 - b % 2 ^ 48)) % 2 ^ 48 :=
    fun a b => wrap_toInt_sub .fx48 a (Nat.le_of_lt (Nat.mod_lt b (by decide))) (Nat.mod_mod b (2 ^ 48))
  have hinj : Fmt.toInt .fx48 a = Fmt.toInt .fx48 b ↔ a % 2 ^ 48 = b % 2 ^ 48 := toInt_inj_iff
  refine ⟨?_, ?_, elPick_fx48 true a b, elPick_fx48 false a b, ?_, ?_, ?_, ?_, ?_, ?_, ?_, ?_, rfl, ?_, ?_, ?_, ?_⟩
  · exact congrArg (·, 0) (hfx (wrap_toInt_add .fx48 a b))
  · exact congrArg (·, 0) (hfx (hsub a b))
  · simp only [elClamp, f, elPick_fx48, if_true, Bool.false_eq_true, if_false, fxElem_lesser_fxElem]
    rfl
  · exact congrArg (·, 0) (hfx (wrap_natCast 48 _))
  · exact congrArg (·, 0) (hfx (wrap_natCast 48 _))
  · exact congrArg (·, 0) (hfx (wrap_natCast 48 _))
  · exact congrArg (fun n => (if 48 ≤ b % 256 then 0 else n, (0 : Flags))) (hfx (wrap_natCast 48 _))
  · refine congrArg (·, 0) (hfx ?_)
    have hmin := ediv_two_pow_min (sextNat_bounds 48 a) (b % 256)
    rw [show Fmt.toInt f a = sextNat 48 a from rfl, show Fmt.opWidth f = 48 from rfl, hmin, signedRight]
    exact (Nat.mod_eq_of_lt (wrap_lt 48 _)).symm
  · have h := hsub 0 a
    rw [show Fmt.toInt .fx48 0 = 0 from rfl, Int.zero_sub, Nat.zero_add] at h
    exact congrArg (·, 0) (hfx h)
  · exact congrArg (·, 0) (hfx (wrap_natCast 48 _))
  · rw [elCmp_fx48]
    exact congrArg (·, 0) (ite_eq_of_iff (by simp [vcond, intCond, hinj]) rfl rfl)
  · rw [elCmp_fx48]
    exact congrArg (·, 0) (ite_eq_of_iff (by simp [vcond, intCond, hinj]) rfl rfl)
  · rw [elCmp_fx48]
    exact congrArg (·, 0) (ite_eq_of_iff (by simp [vcond, intCond]; rfl) rfl rfl)
  · rw [elCmp_fx48]
    exact congrArg (·, 0) (ite_eq_of_iff (by simp [vcond, intCond]; rfl) rfl rfl)

/-- Settles O13: integer, floating and fx48 views each by their own arithmetic. -/
theorem vectorElements : Obligations.VectorElements := by
  refine ⟨elements_of_isInt, fun f rm a b d hf => arithmetic_of_isFp hf rm a b d, ?_, elements_of_fx48⟩
  intro f rm a b d hf x y put ones lower
  obtain ⟨hnn, hnx, hxn, hxx⟩ := maxMin_of_isFp hf rm d (rfl : f.fp.dec a = x) (rfl : f.fp.dec b = y)
  exact ⟨hnn, hnx, hxn, hxx, elements_of_isFp f rm a b d hf⟩

end Sys2Proof.Machine
end

section
/-! PROOF. Traps (R250 to R261): what one saves, where it goes, what the return gives back. -/

namespace Sys2Proof.Machine

/-! ### What a walk by plain reads depends on -/

theorem walkFrom_zero (s : State) (asid va table : Nat) : walkFrom s asid va 0 table =
    if 2 ^ 39 ≤ table + 8191 then .error 3
    else
      let a := table + 16 * (va / 2 ^ lvlShift 0 % 512)
      if !s.inStack a then .error fabricCause
      else if s.poison.contains (a / 128) then .error (poisonCause a)
      else
        let e := Pte.of (s.word a) (s.word (a + 8))
        if !e.v then .error 2
        else if e.leaf then
          match e.fill 0 asid va with
          | some t => .ok t
          | none => .error 3
        else .error 3 := rfl

theorem walkFrom_succ (s : State) (asid va l table : Nat) : walkFrom s asid va (l + 1) table =
    if 2 ^ 39 ≤ table + 8191 then .error 3
    else
      let a := table + 16 * (va / 2 ^ lvlShift (l + 1) % 512)
      if !s.inStack a then .error fabricCause
      else if s.poison.contains (a / 128) then .error (poisonCause a)
      else
        let e := Pte.of (s.word a) (s.word (a + 8))
        if !e.v then .error 2
        else if e.leaf then
          match e.fill (l + 1) asid va with
          | some t => .ok t
          | none => .error 3
        else if e.plain then walkFrom s asid va l (e.frame * 4096) else .error 3 := rfl

/-- Two states with the same memory, poisoned lines and stack capacities. -/
structure SameMemory (s t : State) : Prop where
  mem : s.mem = t.mem
  poison : s.poison = t.poison
  fuse : s.hub.fuse = t.hub.fuse

section
variable {s t : State} (h : SameMemory s t)
include h

theorem inStack_congr (pa : Nat) : s.inStack pa = t.inStack pa := by rw [State.inStack, State.inStack, h.fuse]

theorem walkFrom_congr (asid va l table : Nat) : walkFrom s asid va l table = walkFrom t asid va l table := by
  have hword : ∀ a, s.word a = t.word a := fun a => by rw [State.word, State.word, h.mem]
  induction l generalizing table with
  | zero =>
    rw [walkFrom_zero, walkFrom_zero]
    simp only [inStack_congr h, h.poison, hword]
  | succ l ih =>
    rw [walkFrom_succ, walkFrom_succ]
    simp only [inStack_congr h, h.poison, hword, ih]

theorem walkRoot_congr (ptroot : Word) (va : Nat) : walkRoot s ptroot va = walkRoot t ptroot va := by
  simp only [walkRoot, walkFrom_congr h]

theorem readPieces_congr (ptroot : Word) (f va n : Nat) : readPieces s ptroot f va n = readPieces t ptroot f va n := by
  induction f generalizing va n with
  | zero => rfl
  | succ f ih => simp only [readPieces, walkRoot_congr h, inStack_congr h, h.poison, h.mem, ih]

theorem supKernel_congr (c : Ctx) : s.supKernel c = t.supKernel c := by
  simp only [State.supKernel, readVirt, readPieces_congr h, h.fuse]

end

theorem sameMemory_dropToken (s : State) (x : Nat) : SameMemory (s.dropToken x) s := by
  unfold State.dropToken
  dsimp only
  split <;> exact ⟨rfl, rfl, rfl⟩

/-! ### Taking a trap -/

@[simp] theorem memWrite_ctx (s : State) (cs : List Host.Cell) (x : Nat) : (s.memWrite cs).ctx x = s.ctx x := rfl

/-- A trace record written counts it in its context and changes nothing else of it. -/
theorem trace_ctx (s : State) (x typ ba body : Nat) :
    ∃ n, (s.trace x typ ba body).ctx x = { s.ctx x with tseq := n } := by
  unfold State.trace
  dsimp only
  split
  · exact ⟨_, rfl⟩
  · split
    · exact ⟨_, rfl⟩
    · refine ⟨(s.ctx x).tseq + 1, ?_⟩
      simp only [State.setDie_ctx, State.setCtx_ctx_same, memWrite_ctx]

/-- A context that has taken a trap (R250, R252, R254). -/
def Ctx.trapped (c : Ctx) (t : TrapInfo) (tsw : Word) (tba tcba : Nat) (k : Code) (iss : Option Iss) (snap : Option Snap) (n : Nat) : Ctx :=
  { c with
    tseq := n, sup := true, tsw := tsw, tba := BitVec.ofNat 64 tba, tcba := BitVec.ofNat 64 tcba, taddr := BitVec.ofNat 64 t.va,
    supcode := k, suploops := Loops.empty, inv := none, parked := ⟨c.lat, c.fetch, iss, snap, false⟩, entering := true, lat := [],
    iss := none, snap := none, fetch := ⟨k.codeva + 2 * k.entry, none, 0⟩, stall := none }

theorem takeTrap_ctx {s : State} {x : Nat} {k : Code} (hsup : (s.ctx x).sup = false) (htvec : (s.ctx x).tvec ≠ 0)
    (hk : s.supKernel (s.ctx x) = some k) (t : TrapInfo) (prec : Bool) (qix eng tba tcba rep resume : Nat) :
    let split := decide (1 ≤ resume ∧ resume ≤ 8)
    ∃ n, (s.takeTrap x t prec qix eng tba tcba rep resume).ctx x = (s.ctx x).trapped t
      (tswOf t qix eng rep (s.ctx x).uiact prec resume) tba tcba k
      (if split then (s.ctx x).iss.map fun i => { i with inv := [] } else none) (if split then some (s.capture x) else none) n := by
  have hk' : (s.dropToken x).supKernel (s.ctx x) = some k := (supKernel_congr (sameMemory_dropToken s x) _).trans hk
  obtain ⟨n, hn⟩ := trace_ctx (s.dropToken x) x 3 tba (tswOf t qix eng rep (s.ctx x).uiact prec resume).toNat
  refine ⟨n, ?_⟩
  unfold State.takeTrap
  simp only [State.dropToken_ctx, hsup, htvec, hk', Bool.false_eq_true, if_false, hn, State.setCtx_ctx_same]
  rfl

/-- A trap that cannot be taken ends its context (R257, R261). -/
theorem takeTrap_fatal {s : State} {x : Nat} (h : (s.ctx x).sup = true ∨ (s.ctx x).tvec = 0 ∨ s.supKernel (s.ctx x) = none)
    (t : TrapInfo) (prec : Bool) (qix eng tba tcba rep resume : Nat) :
    ((s.takeTrap x t prec qix eng tba tcba rep resume).ctx x).run = .fatal := by
  have hfatal : ∀ u : State, ((u.fatalCtx x).ctx x).run = .fatal := fun u => by rw [fatalCtx_ctx]
  have hk := supKernel_congr (sameMemory_dropToken s x) (s.ctx x)
  unfold State.takeTrap
  simp only [State.dropToken_ctx]
  split
  case isTrue => exact hfatal _
  case isFalse hsup =>
    split
    case isTrue => exact hfatal _
    case isFalse htvec =>
      rcases h with h | h | h
      · exact absurd h hsup
      · exact absurd h htvec
      · rw [hk, h]
        exact hfatal _

/-- The fields of TSW (R252). -/
theorem tswOf_fields {t : TrapInfo} {rep resume : Nat} (hcls : t.cls < 256) (hcause : t.cause < 256) (hrep : rep < 32)
    (hres : resume < 16) (ui prec : Bool) :
    let w := (tswOf t 0 0 rep ui prec resume).toNat
    w / 2 ^ 48 = t.code % 2 ^ 16 ∧ w / 2 ^ 36 % 2 ^ 12 = 0 ∧ w / 2 ^ 31 % 2 ^ 5 = rep ∧ w.testBit 30 = t.scale ∧
      w.testBit 29 = ui ∧ w.testBit 28 = prec ∧ w / 2 ^ 24 % 2 ^ 4 = resume ∧ w / 2 ^ 16 % 2 ^ 8 = t.cause ∧ w % 2 ^ 16 = t.cls := by
  have hbit : ∀ b : Bool, ofBit b ≤ 1 ∧ decide (ofBit b = 1) = b := by decide
  obtain ⟨hs, hs'⟩ := hbit t.scale
  obtain ⟨hu, hu'⟩ := hbit ui
  obtain ⟨hp, hp'⟩ := hbit prec
  have hcode : t.code % 2 ^ 16 < 2 ^ 16 := Nat.mod_lt _ (by decide)
  have hw : (tswOf t 0 0 rep ui prec resume).toNat = t.code % 2 ^ 16 * 2 ^ 48 + rep * 2 ^ 31 + ofBit t.scale * 2 ^ 30 +
      ofBit ui * 2 ^ 29 + ofBit prec * 2 ^ 28 + resume * 2 ^ 24 + t.cause * 2 ^ 16 + t.cls := by
    rw [tswOf, BitVec.toNat_ofNat]
    omega
  dsimp only
  rw [hw]
  generalize t.code % 2 ^ 16 = code at *
  simp only [Nat.testBit_eq_decide_div_mod_eq]
  refine ⟨by omega, by omega, by omega, ?_, ?_, ?_, by omega, by omega, by omega⟩
  · exact (decide_eq_decide.2 (by omega)).trans hs'
  · exact (decide_eq_decide.2 (by omega)).trans hu'
  · exact (decide_eq_decide.2 (by omega)).trans hp'

theorem capture_of_snap {s : State} {x : Nat} {sn : Snap} (h : (s.ctx x).snap = some sn) : s.capture x = sn := by
  rw [State.capture, h]

theorem index_lt (sl : Slot) : sl.index < 16 := by cases sl <;> decide

/-- The state of a trapping slot: its denied atomics are over. -/
def State.pruned (s : State) : State := s.setMe { s.me with mops := s.me.mops.filter (!·.denied) }

theorem me_pruned (s : State) : s.pruned.ctx s.cur = { s.me with mops := s.me.mops.filter (!·.denied) } :=
  State.me_setMe s _

theorem slotTrap_eq (s : State) (t : TrapInfo) : s.slotTrap t =
    match s.me.iss with
    | some i => s.pruned.takeTrap s.cur t true 0 0 i.ba i.ba i.rep s.slot.index
    | none => s.pruned.takeTrap s.cur t true 0 0 s.me.fetch.pc s.me.fetch.pc 0 s.slot.index := by
  have h : s.pruned.me = { s.me with mops := s.me.mops.filter (!·.denied) } := me_pruned s
  have hdef : s.slotTrap t =
      match s.pruned.me.iss with
      | some i => s.pruned.takeTrap s.cur t true 0 0 i.ba i.ba i.rep s.slot.index
      | none => s.pruned.takeTrap s.cur t true 0 0 s.pruned.me.fetch.pc s.pruned.me.fetch.pc 0 s.slot.index := rfl
  rw [hdef, h]

/-- A precise trap of a bundle in issue (R250, R252, R254). -/
theorem slotTrap_ctx {s : State} {i : Iss} {sn : Snap} {k : Code} (hiss : s.me.iss = some i) (hsnap : s.me.snap = some sn)
    (hsup : s.me.sup = false) (htvec : s.me.tvec ≠ 0) (hk : s.supKernel s.me = some k) (t : TrapInfo) :
    let split := decide (1 ≤ s.slot.index ∧ s.slot.index ≤ 8)
    ∃ n, (s.slotTrap t).ctx s.cur = Ctx.trapped { s.me with mops := s.me.mops.filter (!·.denied) } t
      (tswOf t 0 0 i.rep s.me.uiact true s.slot.index) i.ba i.ba k
      (if split then some { i with inv := [] } else none) (if split then some sn else none) n := by
  have hp := me_pruned s
  have hk' : s.pruned.supKernel (s.pruned.ctx s.cur) = some k := by
    rw [hp]
    exact (supKernel_congr ⟨rfl, rfl, rfl⟩ _).trans hk
  obtain ⟨n, hn⟩ := takeTrap_ctx (s := s.pruned) (x := s.cur) (by rw [hp]; exact hsup) (by rw [hp]; exact htvec) hk' t true
    0 0 i.ba i.ba i.rep s.slot.index
  rw [capture_of_snap (sn := sn) (by rw [hp]; exact hsnap)] at hn
  rw [hp] at hn
  refine ⟨n, ?_⟩
  rw [slotTrap_eq, hiss]
  simp only [hiss, Option.map_some] at hn
  exact hn

theorem slotTrap_fatal {s : State} (h : s.me.sup = true ∨ s.me.tvec = 0 ∨ s.supKernel s.me = none) (t : TrapInfo) :
    ((s.slotTrap t).ctx s.cur).run = .fatal := by
  have hp := me_pruned s
  have h' : (s.pruned.ctx s.cur).sup = true ∨ (s.pruned.ctx s.cur).tvec = 0 ∨ s.pruned.supKernel (s.pruned.ctx s.cur) = none := by
    rw [hp]
    refine h.imp id (Or.imp id fun h => ?_)
    exact (supKernel_congr ⟨rfl, rfl, rfl⟩ _).trans h
  rw [slotTrap_eq]
  split <;> exact takeTrap_fatal h' ..

/-! ### The acting context stays -/

@[simp] theorem dropToken_cur (s : State) (x : Nat) : (s.dropToken x).cur = s.cur := by
  unfold State.dropToken
  dsimp only
  split <;> rfl

@[simp] theorem failLaunch_cur (s : State) (l : Nat) : (s.failLaunch l).cur = s.cur := rfl

@[simp] theorem fatalCtx_cur (s : State) (x : Nat) : (s.fatalCtx x).cur = s.cur := by
  unfold State.fatalCtx
  dsimp only
  split <;> simp only [failLaunch_cur, State.logged_cur, State.setCtx_cur, State.setCore_cur, dropToken_cur]

@[simp] theorem memWrite_cur (s : State) (cs : List Host.Cell) : (s.memWrite cs).cur = s.cur := rfl

@[simp] theorem trace_cur (s : State) (x typ ba body : Nat) : (s.trace x typ ba body).cur = s.cur := by
  unfold State.trace
  dsimp only
  split
  · rfl
  · split <;> simp only [State.setDie_cur, State.setCtx_cur, memWrite_cur]

theorem takeTrap_cur (s : State) (x : Nat) (t : TrapInfo) (prec : Bool) (qix eng tba tcba rep resume : Nat) :
    (s.takeTrap x t prec qix eng tba tcba rep resume).cur = s.cur := by
  unfold State.takeTrap
  dsimp only
  split
  · simp
  · split
    · simp
    · split
      · rw [fatalCtx_cur]
        cases State.virtPoison _ _ _ <;> simp
      · simp

/-- Settles O56: the trap's context in closed form, and the return on it. -/
theorem trapEntryAndReturn : Obligations.TrapEntryAndReturn := by
  refine ⟨?_, fun s t h => slotTrap_fatal h t⟩
  intro s t i sn k hiss hsnap hsup htvec hk hcls hcause hrep n split u c w
  obtain ⟨m, hm⟩ := slotTrap_ctx hiss hsnap hsup htvec hk t
  have hcur : u.cur = s.cur := by
    change (s.slotTrap t).cur = s.cur
    rw [slotTrap_eq]
    split <;> exact takeTrap_cur ..
  have hc : c = u.ctx s.cur := by rw [← hcur]; rfl
  have hw : w = (tswOf t 0 0 i.rep s.me.uiact true n).toNat := by
    change c.tsw.toNat = _
    rw [hc, hm]
    rfl
  refine ⟨?_, ?_, ?_⟩
  · rw [hc, hm]
    exact ⟨rfl, rfl, rfl, rfl, rfl, rfl, rfl, rfl, rfl, rfl, rfl, rfl, rfl, rfl, rfl, rfl⟩
  · rw [hw]
    exact tswOf_fields hcls hcause hrep (index_lt s.slot) _ _
  · intro d
    have hd : d = { u.ctx s.cur with
        sup := false, lat := (u.ctx s.cur).parked.lat, fetch := (u.ctx s.cur).parked.fetch, iss := (u.ctx s.cur).parked.iss,
        snap := (u.ctx s.cur).parked.snap, parked := { Parked.none with spent := (u.ctx s.cur).parked.spent } } := by
      have hret : (u.returnFromTrap u.cur).ctx u.cur = _ := returnFromTrap_ctx u u.cur
      rw [hcur] at hret
      rw [← hret, ← hcur]
      rfl
    rw [hd, hm]
    exact ⟨rfl, rfl, rfl, rfl, rfl, ite_eq_of_iff (by simp [split]; rfl) rfl rfl, ite_eq_of_iff (by simp [split]; rfl) rfl rfl⟩

end Sys2Proof.Machine
end

section
/-! PROOF. Scalar accesses of a context: what LD, ST and the atomics put in flight and what they do in the scratchpad (R155, R156,
R310, R315, R344, R364). -/

namespace Sys2Proof.Machine

/-! ### Operations put in flight -/

/-- An operation of the acting slot is one more in flight, or the slot is held. -/
theorem slotDo_pushOp (s0 u : State) (k : MemKind) (sc : Option Scope) (a : Attr) (es : List ElemLoc) :
    slotDo s0 (pushOp u (u.newOp k sc a es)) = .next (
      if inFlight u (u.newOp k sc a es).isLoad < (if (u.newOp k sc a es).isLoad then 32 else 64) then withOp u k sc a es
      else s0.heldBy .memory) := by
  rw [pushOp_eq]
  unfold inFlight withOp
  by_cases h : (u.me.mops.filter fun o => o.isLoad == (u.newOp k sc a es).isLoad).length <
      (if (u.newOp k sc a es).isLoad then 32 else 64)
  · rw [if_pos h, if_pos h]
    rfl
  · rw [if_neg h, if_neg h]
    rfl

/-- The banks that a bundle takes are noted in its issue state alone: its operations in flight and what a new one records stand. -/
theorem useBanks_keeps {s u : State} {offs : List Nat} (h : useBanks s offs = .ok u) (k : MemKind) (sc : Option Scope) (a : Attr)
    (es : List ElemLoc) : s.newOp k sc a es = u.newOp k sc a es ∧ u.me.mops = s.me.mops := by
  obtain rfl | ⟨i, hi, rfl⟩ := useBanks_ok h
  · exact ⟨rfl, rfl⟩
  · simp [State.newOp, Ctx.ba, hi]

/-- A load whose bytes all lie in the local aperture reads them at issue. -/
theorem issueLoad_local {s u : State} {es : List ElemLoc} {offs : List Nat} (a : Attr) (sc : Option Scope) (d : LoadTo) (lat : Nat)
    (h : (es.flatMap ElemLoc.all).mapM s.me.spOf = some offs) (hu : useBanks s offs = .ok u) :
    issueLoad s es a sc d lat = .ok (u.latch (d.write (elemValues es (offs.map (Memory.read s.myCore.sp)))).1 lat
      (d.write (elemValues es (offs.map (Memory.read s.myCore.sp)))).2) := by
  simp only [issueLoad, h, hu, slotwise_ok_bind]

/-- A load with a byte outside the local aperture is one more in flight, its bytes of the scratchpad read at issue. -/
theorem issueLoad_pending {s0 s u : State} {es : List ElemLoc} (a : Attr) (sc : Option Scope) (d : LoadTo) (lat : Nat)
    (h : (es.flatMap ElemLoc.all).mapM s.me.spOf = none)
    (h0 : (es.flatMap ElemLoc.all).filterMap s.me.spOf = [] → u = s)
    (h1 : (es.flatMap ElemLoc.all).filterMap s.me.spOf ≠ [] → useBanks s ((es.flatMap ElemLoc.all).filterMap s.me.spOf) = .ok u) :
    slotDo s0 (issueLoad s es a sc d lat) = .next (
      if inFlight s true < 32 then withOp u (.load d) sc a (es.map fun e => ⟨e.bytes.map s.readLoc, e.scale.map s.readLoc⟩)
      else s0.heldBy .memory) := by
  generalize hoffs : (es.flatMap ElemLoc.all).filterMap s.me.spOf = offs at h0 h1
  have hb (f : State → Slotwise State) : (if offs.isEmpty then (.ok s : Slotwise State) >>= f else useBanks s offs >>= f) = f u := by
    by_cases h2 : offs = []
    · rw [h2, h0 h2]
      rfl
    · rw [if_neg (by simpa using h2), h1 h2, slotwise_ok_bind]
  have hu (k : MemKind) (sc : Option Scope) (a : Attr) (es : List ElemLoc) :
      s.newOp k sc a es = u.newOp k sc a es ∧ u.me.mops = s.me.mops := by
    by_cases h2 : offs = []
    · rw [h0 h2]
      exact ⟨rfl, rfl⟩
    · exact useBanks_keeps (h1 h2) k sc a es
  simp only [issueLoad, h, slotwise_ok_bind] at hb ⊢
  rw [hoffs, hb fun t => pushOp t (s.newOp (.load d) sc a (es.map fun e => ⟨e.bytes.map s.readLoc, e.scale.map s.readLoc⟩))]
  obtain ⟨ho, hm⟩ := hu (.load d) sc a (es.map fun e => ⟨e.bytes.map s.readLoc, e.scale.map s.readLoc⟩)
  rw [ho, slotDo_pushOp]
  unfold inFlight
  rw [hm]
  rfl

/-- A store whose bytes all lie in the local aperture writes them there. -/
theorem issueStore_local {s u : State} {es : List ElemLoc} {offs : List Nat} (a : Attr) (sc : Option Scope) (vals : List Byte) (fl : Flags)
    (h : (es.flatMap ElemLoc.all).mapM s.me.spOf = some offs) (hu : useBanks s offs = .ok u) :
    issueStore s es a sc vals fl = .ok (u.storeLocal ((es.flatMap ElemLoc.all).zip vals) fl) := by
  simp only [issueStore, h, hu, slotwise_ok_bind]

/-- A store with a byte outside the local aperture is one more in flight. -/
theorem issueStore_pending {s0 s : State} {es : List ElemLoc} (a : Attr) (sc : Option Scope) (vals : List Byte) (fl : Flags)
    (h : (es.flatMap ElemLoc.all).mapM s.me.spOf = none) :
    slotDo s0 (issueStore s es a sc vals fl) = .next (
      if inFlight s false < 64 then withOp (if fl = 0 then s else s.latch .flags 1 fl) (.store vals) sc a es
      else s0.heldBy .memory) := by
  have hm : (if fl = 0 then s else s.latch .flags 1 fl).me.mops = s.me.mops := by split <;> simp
  simp only [issueStore, h]
  rw [slotDo_pushOp]
  unfold inFlight
  rw [hm]
  rfl

/-- The places of one element without a scale byte are its bytes. -/
theorem locs_of_noScale {e : ElemLoc} (h : e.scale = none) : [e].flatMap ElemLoc.all = e.bytes := by
  simp [ElemLoc.all, h]

/-! ### LD and ST -/

/-- A scoped access of a misaligned address takes the alignment fault whatever its translation is (log entry 36). -/
theorem scalarAccess_misaligned (s : State) (acc : Acc) (ty : Ty) (k : Scope) (va : Word) (h : va.toNat % (ty.base.memWidth / 8) ≠ 0) :
    scalarAccess s acc ty (some k) va = .error (alignFault va.toNat) := by
  have h' : ((some k).isNone || va.toNat % (ty.base.memWidth / 8) == 0) = false := by simpa using h
  simp only [scalarAccess, h', need_false, slotwise_error_bind]

/-- The bytes of one element in the local aperture, read at issue, are one value. -/
theorem elemValues_single {e : ElemLoc} {bs : List Byte} (hs : e.scale = none) (hl : bs.length = e.bytes.length) :
    elemValues [e] bs = [(leNat bs, 0)] := by
  simp [elemValues, hs, ← hl]

/-- What a scalar load writes of the bytes that it has read (R64, R344). -/
theorem loadDest_write (c : Ctx) (ty : Ty) (r : Fin 64) (n : Nat) :
    (c.loadDest ty r).write [(n, 0)] = (match linkIx ty r with
      | none => .sreg (c.bankOf r) r (ty.base.extend n)
      | some k => .lout k (BitVec.ofNat 64 n), 0) := by
  unfold Ctx.loadDest
  cases linkIx ty r <;> rfl

/-- The bytes of a store are its type's. -/
theorem length_storeBytes (f : Fmt) (v : Word) : (storeBytes f v).length = f.memWidth / 8 := length_leBytes _ _

/-- A format takes a byte in memory at least. -/
theorem memWidth_pos (f : Fmt) : 0 < f.memWidth / 8 := by cases f <;> decide

/-- A load completes when its address and its destination are at hand and its access passes its checks. -/
theorem execLd_ok {s : State} {ty : Ty} {sc : Option Scope} {sd : Fin 64} {m : MemArg} {va : Word} {e : ElemLoc × Attr}
    (hva : memAddr s ty m = .ok va) (hw : wrT s ty sd = .ok ()) (he : scalarAccess s .load ty sc va = .ok e) :
    exec (.ld ty sc sd m) s = slotDo s (issueLoad (popT s ty (memRegs m)) [e.1] e.2 sc (s.me.loadDest ty sd) 4) := by
  change execLd ty sc sd m s = _
  simp only [execLd, hva, hw, he, slotwise_ok_bind]

/-- A store completes when its address and its value are at hand and its access passes its checks. -/
theorem execSt_ok {s : State} {ty : Ty} {sc : Option Scope} {sd : Fin 64} {m : MemArg} {va v : Word} {e : ElemLoc × Attr}
    (hva : memAddr s ty m = .ok va) (hv : rdT s ty sd = .ok v) (he : scalarAccess s .store ty sc va = .ok e) :
    exec (.st ty sc sd m) s = slotDo s (issueStore (popT s ty (sd :: memRegs m)) [e.1] e.2 sc (storeBytes ty.base v) 0) := by
  change execSt ty sc sd m s = _
  simp only [execSt, hva, hv, he, slotwise_ok_bind]

/-- Settles O21: the one element of a scalar access is loaded and stored by the rules of every access. -/
theorem scalarAccesses : Obligations.ScalarAccesses := by
  unfold Obligations.ScalarAccesses
  refine ⟨fun s ty sc sd m va hva hw => ⟨fun e he => ?_, fun k hk hmis => ?_⟩,
    fun s ty sc sd m va v hva hv => ⟨fun e he => ?_, fun k hk hmis => ?_, fun f hf h6 h48 => ?_⟩⟩
  · obtain ⟨hlen, hsc⟩ := scalarAccess_bytes he
    refine ⟨fun offs u hoffs hu => ?_, fun hnone u h0 h1 => ?_⟩
    · have hvals : elemValues [e.1] (offs.map (Memory.read (popT s ty (memRegs m)).myCore.sp)) =
          [(leNat (offs.map (Memory.read (popT s ty (memRegs m)).myCore.sp)), 0)] :=
        elemValues_single hsc (by rw [List.length_map]; exact length_of_spOf hoffs)
      rw [execLd_ok hva hw he, issueLoad_local _ _ _ _ (by rw [locs_of_noScale hsc]; exact hoffs) hu, hvals, loadDest_write]
      rfl
    · rw [execLd_ok hva hw he, issueLoad_pending _ _ _ _ hnone h0 h1]
  · subst hk
    change execLd ty (some k) sd m s = _
    simp only [execLd, hva, hw, scalarAccess_misaligned s .load ty k va hmis, slotwise_ok_bind, slotwise_error_bind]
    rfl
  · obtain ⟨hlen, hsc⟩ := scalarAccess_bytes he
    refine ⟨fun offs u hoffs hu => ?_, fun hnone => ?_⟩
    · have hst : exec (.st ty sc sd m) s = .next (u.storeLocal (e.1.bytes.zip (storeBytes ty.base v)) 0) := by
        rw [execSt_ok hva hv he, issueStore_local _ _ _ _ (by rw [locs_of_noScale hsc]; exact hoffs) hu, locs_of_noScale hsc]
        rfl
      have hl : offs.length = e.1.bytes.length := length_of_spOf hoffs
      refine ⟨hst, fun hsp => ?_⟩
      rw [hst, hsp, storeLocal_sp u offs _ (by rw [length_storeBytes, hl, hlen]) (by rw [hl, hlen]; exact memWidth_pos _)]
    · rw [execSt_ok hva hv he, issueStore_pending _ _ _ _ (by rw [locs_of_noScale hsc]; exact hnone)]
      rfl
  · subst hk
    change execSt ty (some k) sd m s = _
    simp only [execSt, hva, hv, scalarAccess_misaligned s .store ty k va hmis, slotwise_ok_bind, slotwise_error_bind]
    rfl
  · subst hf
    have h6' : (f == .t6) = false := by simpa using h6
    have h48' : (f == .fx48) = false := by simpa using h48
    simp only [storeBytes, Ty.base, h6', h48']
    rfl

end Sys2Proof.Machine
end

section
/-! PROOF. The atomics: what the acting slot does with one, and the new values on integers (R208, R209, R310, R311, R315). -/

namespace Sys2Proof.Machine

/-- What an atomic of the acting slot comes to (R208, R310, R311, R315): on an aperture page without RAP the refused-atomic trap;
elsewhere the trap of what the unit refuses, one more operation in flight, or the new bytes and the old value. -/
def atomicDone (s : State) (op : AtomOp) (ty : Ty) (sc : Scope) (sd : Fin 64) (va b : Word) (t : State) (e : ElemLoc × Attr)
    (o : Host.Outcome State Fault Refusal) : Prop :=
  (∀ p ta rest, e.1.bytes = .peer p ta :: rest → e.2.rap = false → o = .next (s.slotTrap ⟨12, 0, 1, va.toNat, false⟩)) ∧
  ((∀ p ta rest, e.1.bytes ≠ .peer p ta :: rest) →
    (∀ r, atomRefused atomcap op ty.base = some r → o = .next (s.slotTrap ⟨12, 0, r, va.toNat, false⟩)) ∧
    (atomRefused atomcap op ty.base = none →
      (e.1.bytes.mapM t.me.spOf = none → o = .next (
        if inFlight t true < 32 then withOp t (.atomic op ty b (t.me.loadDest ty sd)) (some sc) e.2 [e.1] else s.heldBy .memory)) ∧
      (∀ (offs : List Nat) (u : State), e.1.bytes.mapM t.me.spOf = some offs → useBanks t offs = .ok u → wrT u ty sd = .ok () →
        let old := leNat (offs.map (Memory.read t.myCore.sp))
        let r := atomNew op ty.base old b.toNat
        o = .next ((u.latch (.spad (offs.zip (leBytes (ty.base.memWidth / 8) r.1))) 1 0).latch
          (u.me.destT ty sd (ty.base.extend old)) 4 r.2))))

/-- Scratchpad bytes put into the latches are no word on its way into a lout FIFO, and make no register pending. -/
theorem wrT_latch_spad (s : State) (cs : List (Nat × Byte)) (lat : Nat) (fl : Flags) (ty : Ty) (r : Fin 64) :
    wrT (s.latch (.spad cs) lat fl) ty r = wrT s ty r := by
  have hr (n : Fin 16) : (s.latch (.spad cs) lat fl).me.loutRoom n = s.me.loutRoom n := by
    simp [Ctx.loutRoom, Ctx.loutPending] <;> rfl
  unfold wrT
  cases linkIx ty r with
  | none =>
    dsimp only
    rw [wrS, State.me_latch]
    rfl
  | some n =>
    dsimp only
    rw [hr]

/-- A result put into the latches leaves where a typed result goes. -/
theorem destT_latch (s : State) (w : Write) (lat : Nat) (fl : Flags) (ty : Ty) (r : Fin 64) (v : Word) :
    (s.latch w lat fl).me.destT ty r v = s.me.destT ty r v := by
  rw [State.me_latch]
  rfl

/-- The atomic of a slot that waits for no answer. -/
theorem atomicDone_of_access {s : State} {op : AtomOp} {ty : Ty} {sc : Scope} {sd : Fin 64} {va b : Word} {pops : List (Fin 64)}
    {e : ElemLoc × Attr} (ho : s.me.openAtomic s.slot = none) (hw : wrT s ty sd = .ok ())
    (he : scalarAccess s .store ty (some sc) va = .ok e) :
    atomicDone s op ty sc sd va b (popT s ty pops) e (slotDo s (atomic s op ty sc sd va b pops)) := by
  refine ⟨fun p ta rest hp hr => ?_, fun hp => ?_⟩
  · simp only [atomic, ho, hw, he, hp, hr, slotwise_ok_bind, need_false, slotwise_error_bind]
    rfl
  · have hunit : atomic s op ty sc sd va b pops = (match atomRefused atomcap op ty.base with
        | some r => .error (refusedAtomic r va.toNat)
        | none => match e.1.bytes.mapM (popT s ty pops).me.spOf with
          | some offs => do
            let t ← useBanks (popT s ty pops) offs
            let old := leNat (offs.map (Memory.read (popT s ty pops).myCore.sp))
            let r := atomNew op ty.base old b.toNat
            putT (t.latch (.spad (offs.zip (leBytes (ty.base.memWidth / 8) r.1))) 1 0) ty sd (ty.base.extend old) 4 r.2
          | none => pushOp (popT s ty pops) ((popT s ty pops).newOp (.atomic op ty b ((popT s ty pops).me.loadDest ty sd)) (some sc)
            e.2 [e.1])) := by
      rcases hl : e.1.bytes with _ | ⟨l, rest⟩
      · simp only [atomic, ho, hw, he, hl, slotwise_ok_bind] <;> rfl
      · cases l with
        | peer p ta => exact absurd hl (hp _ _ _)
        | _ => simp only [atomic, ho, hw, he, hl, slotwise_ok_bind] <;> rfl
    rw [hunit]
    refine ⟨fun r hr => ?_, fun hr => ⟨fun hoffs => ?_, fun offs u hoffs hu hwu => ?_⟩⟩
    · simp only [hr]
      rfl
    · simp only [hr, hoffs, slotDo_pushOp]
      rfl
    · simp only [hr, hoffs, hu, slotwise_ok_bind, putT_ok ((wrT_latch_spad ..).trans hwu), slotDo_ok, destT_latch]

/-- The instructions of ATOM read no third register. -/
theorem atomForm_of_two {op : AtomOp} {mk : Ty → Scope → Fin 64 → Fin 64 → Fin 64 → Option (BitVec 32) → Instr}
    (h : ∀ ty sc sd sa sb ext s, exec (mk ty sc sd sa sb ext) s = atomOp op ty sc sd sa sb ext s) : AtomForm (fun _ => op) false mk := by
  intro s ty sc sd sa sb ext a b c e ha hb _ ho hw he
  have hx : exec (mk ty sc sd sa sb ext) s = slotDo s (atomic s op ty sc sd (a + extValue ext) b [sa, sb]) := by
    rw [h]
    simp only [atomOp, ha, hb, slotwise_ok_bind]
  have hd := atomicDone_of_access (op := op) (b := b) (pops := [sa, sb]) ho hw he
  rw [← hx] at hd
  exact hd

/-- ACAS reads the compared value from its destination. -/
theorem atomForm_acas : AtomForm .cas true .acas := by
  intro s ty sc sd sa sb ext a b c e ha hb hc ho hw he
  have hx : exec (.acas ty sc sd sa sb ext) s = slotDo s (atomic s (.cas c) ty sc sd (a + extValue ext) b [sa, sd, sb]) := by
    change execAcas ty sc sd sa sb ext s = _
    simp only [execAcas, ha, hb, hc rfl, slotwise_ok_bind]
  have hd := atomicDone_of_access (op := .cas c) (b := b) (pops := [sa, sd, sb]) ho hw he
  rw [← hx] at hd
  exact hd

/-- Settles O22: every member is the one access of an atomic, and on an integer format its operands are their own low bits. -/
theorem atomics : Obligations.Atomics := by
  unfold Obligations.Atomics
  refine ⟨⟨atomForm_acas, atomForm_of_two fun _ _ _ _ _ _ _ => rfl, atomForm_of_two fun _ _ _ _ _ _ _ => rfl,
    atomForm_of_two fun _ _ _ _ _ _ _ => rfl, atomForm_of_two fun _ _ _ _ _ _ _ => rfl, atomForm_of_two fun _ _ _ _ _ _ _ => rfl,
    atomForm_of_two fun _ _ _ _ _ _ _ => rfl, atomForm_of_two fun _ _ _ _ _ _ _ => rfl⟩, fun f old b c hf hold hb => ?_⟩
  obtain ⟨hfp, -, -, -⟩ := isInt_facts hf
  have ho := Nat.mod_eq_of_lt hold
  have hn := Nat.mod_eq_of_lt hb
  refine ⟨?_, ?_, ?_, ?_, ?_, ?_, ?_, ?_⟩ <;> simp only [atomNew, hfp, ho, hn, Bool.false_eq_true, if_false]
  · simp only [greater, ← Int.not_lt, ite_not]
  · simp only [lesser, ← Int.not_lt, ite_not]

end Sys2Proof.Machine
end

section
/-! PROOF. The vector loads and stores: what VLD, VLDX, VST and VSTX put in flight and what they do in the local aperture (R155, R379 to
R382). -/

namespace Sys2Proof.Machine

/-! ### Index units -/

/-- The units read for the indices of an access are those that its view names, one after another. -/
theorem viewUnit_of_indexUnits {s : State} {vi : Fin 64} {ix n : Nat} {us : List (Fmt × Nat)} (h : indexUnits s vi ix n = .ok us) :
    ∀ k < n, ∃ u, viewUnit s vi 0 (ix + k) = .ok u := by
  induction n generalizing ix us with
  | zero => exact fun k hk => absurd hk (Nat.not_lt_zero k)
  | succ n ih =>
    simp only [indexUnits, slotwise_bind_ok] at h
    obtain ⟨u, hu, -, -, vs, hvs, -⟩ := h
    intro k hk
    cases k with
    | zero => exact ⟨u, hu⟩
    | succ k =>
      rw [show ix + (k + 1) = ix + 1 + k by omega]
      exact ih hvs k (Nat.lt_of_succ_lt_succ hk)

/-- The rows of an indexed access whose units are named hold nothing (R137). -/
theorem sumNames_index {s : State} {vd vi : Fin 64} {row : Row8} {md : Option Modifier} {i : Nat} {d : Fmt × Nat}
    {ix : List Nat × List Int} (hi : row8 s row = .ok i) (hd : viewUnit s vd 0 (i + doff md) = .ok d)
    (hx : indexList s vi (i + aoff md) d.1.perRow = .ok ix) :
    sumNames s (row8 s row) (indexNames s vd vi (row8 s row) md) = .ok () := by
  refine sumNames_ok hi fun u hu => ?_
  simp only [indexNames, hi, hd, List.mem_cons, List.mem_map, List.mem_range] at hu
  rcases hu with rfl | ⟨k, hk, rfl⟩
  · exact ⟨d, hd⟩
  · simp only [indexList, slotwise_bind_ok] at hx
    obtain ⟨us, hus, -⟩ := hx
    rw [← Nat.add_assoc]
    exact viewUnit_of_indexUnits hus k hk

/-! ### What the four instructions come to -/

section
variable {s : State} {vd sa vi : Fin 64} {row : Row8} {md : Option Modifier} {i : Nat} {d : Fmt × Nat} {a : Word}
  (hp : predOn s md = true) (hi : row8 s row = .ok i) (hd : viewUnit s vd 0 (i + doff md) = .ok d) (ha : rdS s sa = .ok a)
include hp hi hd ha

theorem execVld_ok (off : BitVec 6) :
    exec (.vld vd row sa off md) s = slotDo s (loadElems s d a (rowAddrs a off d.1.perRow) true md 6) := by
  change execVld vd row sa off md s = _
  simp only [execVld, predicated_on hp, hi, hd, ha, slotwise_ok_bind]

theorem execVst_ok (off : BitVec 6) :
    exec (.vst vd row sa off md) s = slotDo s (storeRow s d a (rowAddrs a off d.1.perRow) true md) := by
  change execVst vd row sa off md s = _
  simp only [execVst, predicated_on hp, hi, hd, ha, slotwise_ok_bind]

theorem execVldx_ok {ix : List Nat × List Int} (hx : indexList s vi (i + aoff md) d.1.perRow = .ok ix) :
    exec (.vldx vd vi sa row md) s = slotDo s (loadElems (s.touched ix.1) d a (indexAddrs a ix.2) false md 8) := by
  change execVldx vd vi sa row md s = _
  simp only [execVldx, predicated_on hp, sumNames_index hi hd hx, slotwise_ok_bind]
  simp only [hi, hd, ha, hx, slotwise_ok_bind]

theorem execVstx_ok {ix : List Nat × List Int} (hx : indexList s vi (i + aoff md) d.1.perRow = .ok ix) :
    exec (.vstx vd vi sa row md) s = slotDo s (storeRow (s.touched ix.1) d a (indexAddrs a ix.2) false md) := by
  change execVstx vd vi sa row md s = _
  simp only [execVstx, predicated_on hp, sumNames_index hi hd hx, slotwise_ok_bind]
  simp only [hi, hd, ha, hx, slotwise_ok_bind]

end

/-! ### Rows loaded -/

/-- A row's load whose checks pass is issued with the elements' places. -/
theorem loadElems_ok {t : State} {d : Fmt × Nat} {a : Word} {addrs : Nat → List Word} {row : Bool} {md : Option Modifier} {x0 : Xl}
    {es : List ElemLoc} (lat : Nat) (hx : xlate t .load a.toNat false = .ok x0) (hc : crossOk x0.attr.fmt d.1 (rmField md) = true)
    (hw : wrRow t d.2 = .ok ()) (he : vecElems t .load x0 x0.attr.es row none (addrs x0.attr.es) = .ok es) :
    loadElems t d a addrs row md lat =
      issueLoad (t.touched [d.2]) es x0.attr none (.row x0.attr.fmt d.1 (rmOf md) d.2) lat := by
  simp only [loadElems, hx, hc, hw, he, need_true, slotwise_ok_bind]

/-- Settles O24: a row's load is one load of its elements. -/
theorem vectorLoads : Obligations.VectorLoads := by
  unfold Obligations.VectorLoads
  intro s vd sa vi row md i d a x0 es hp hi hd ha
  refine ⟨fun off hx hc hw he => ⟨fun hn u h0 h1 => ?_, fun offs u ho hu => ?_⟩,
    fun ix hix hx hc hw he => ⟨fun hn u h0 h1 => ?_, fun offs u ho hu => ?_⟩⟩
  · rw [execVld_ok hp hi hd ha, loadElems_ok 6 hx hc hw he, issueLoad_pending _ _ _ _ hn h0 h1]
  · rw [execVld_ok hp hi hd ha, loadElems_ok 6 hx hc hw he, issueLoad_local _ _ _ _ ho hu]
    rfl
  · rw [execVldx_ok hp hi hd ha hix, loadElems_ok 8 hx hc hw he, issueLoad_pending _ _ _ _ hn h0 h1]
  · rw [execVldx_ok hp hi hd ha hix, loadElems_ok 8 hx hc hw he, issueLoad_local _ _ _ _ ho hu]
    rfl

/-! ### Rows stored -/

/-- A row's store whose checks pass stores its elements with their addresses. -/
theorem storeRow_ok {t : State} {d : Fmt × Nat} {a : Word} {addrs : Nat → List Word} {row : Bool} {md : Option Modifier} {b : RowBits}
    {x0 : Xl} {es : List ElemLoc} (hb : rdRow t d.2 = .ok b) (hx : xlate t .store a.toNat false = .ok x0)
    (hc : crossOk x0.attr.fmt d.1 (rmField md) = true) (he : vecElems t .store x0 x0.attr.es row none (addrs x0.attr.es) = .ok es) :
    storeRow t d a addrs row md =
      storeElems (t.touched [d.2]) x0 es d.1 (rmOf md) ((addrs x0.attr.es).zip (elems d.1 b)) := by
  simp only [storeRow, hb, hx, hc, he, need_true, slotwise_ok_bind]

/-- The second halves of pairs are the second list's, as far as the first one goes. -/
theorem map_snd_zip_take (f : β → γ) (as : List α) (bs : List β) : (as.zip bs).map (fun x => f x.2) = (bs.take as.length).map f := by
  induction as generalizing bs with
  | nil => rfl
  | cons a as ih => cases bs with
    | nil => rfl
    | cons b bs => simp [ih]

/-- Elements stored on an unblocked page of a plain format are one posted store of their converted bytes. -/
theorem storeElems_posted {s0 t : State} {x0 : Xl} {es : List ElemLoc} (v : Fmt) (rm : Rm) (as : List Word) (vs : List Nat)
    (hbl : x0.attr.block = none) (htap : x0.attr.fmt.isTap = false) (hn : (es.flatMap ElemLoc.all).mapM t.me.spOf = none)
    (hl : inFlight t false < 64) :
    slotDo s0 (storeElems t x0 es v rm (as.zip vs)) =
      let ws := (vs.take as.length).map (cvtStore x0.attr.fmt v rm)
      let fl := Flags.all (ws.map (·.2))
      .next (withOp (if fl = 0 then t else t.latch .flags 1 fl) (.store (ws.flatMap fun w => leBytes x0.attr.es w.1)) none x0.attr es) := by
  have hws : (as.zip vs).map (fun x => if x0.attr.fmt.isTap then encTap x0.attr.fmt rm (v.viewVal x.2) else cvtStore x0.attr.fmt v rm x.2) =
      (vs.take as.length).map (cvtStore x0.attr.fmt v rm) := by
    rw [htap, ← map_snd_zip_take (cvtStore x0.attr.fmt v rm) as vs]
    rfl
  simp only [storeElems, hbl, hws]
  rw [issueStore_pending _ _ _ _ hn, if_pos hl]

/-- Settles O25: a row's store is the store of its elements, and on a plain page one posted store. -/
theorem vectorStores : Obligations.VectorStores := by
  unfold Obligations.VectorStores
  intro s vd sa vi row md i d a b x0 es hp hi hd ha
  refine ⟨fun off hb hx hc he => ⟨fun u hu => ?_, fun hbl htap hn hl => ?_⟩,
    fun ix hix hb hx hc he => ⟨fun u hu => ?_, fun hbl htap hn hl => ?_⟩⟩
  · rw [execVst_ok hp hi hd ha, storeRow_ok hb hx hc he, hu, slotDo_ok]
  · rw [execVst_ok hp hi hd ha, storeRow_ok hb hx hc he, storeElems_posted _ _ _ _ hbl htap hn hl]
  · rw [execVstx_ok hp hi hd ha hix, storeRow_ok hb hx hc he, hu, slotDo_ok]
  · rw [execVstx_ok hp hi hd ha hix, storeRow_ok hb hx hc he, storeElems_posted _ _ _ _ hbl htap hn hl]

end Sys2Proof.Machine
end

section
/-! PROOF. Caches: what memory, a cluster's cache and a die's atomic buffer hold after lines have been written back and discarded (R149,
R152, R153, R179). -/

namespace Sys2Proof.Machine

/-! ### Collections -/

theorem Map.find_put (m : Map α) (n k : Nat) (v : α) : Map.find (Map.put m n v) k = if n = k then some v else Map.find m k := by
  induction m with
  | nil => rfl
  | cons p m ih =>
    obtain ⟨j, u⟩ := p
    by_cases h : j = n
    · subst h
      simp only [Map.put, if_true, Map.find]
      split <;> rfl
    · simp only [Map.put, if_neg h, Map.find, ih]
      by_cases hk : j = k
      · subst hk
        rw [if_pos rfl, if_neg (Ne.symm h), if_pos rfl]
      · rw [if_neg hk, if_neg hk]

theorem Map.find_drop (m : Map α) (n k : Nat) : Map.find (Map.drop m n) k = if n = k then none else Map.find m k := by
  induction m with
  | nil => simp [Map.drop, Map.find]
  | cons p m ih =>
    obtain ⟨j, u⟩ := p
    rw [Map.drop, List.filter_cons]
    by_cases h : j = n
    · subst h
      rw [if_neg (by simp)]
      by_cases hk : j = k
      · rw [if_pos hk]
        exact ih.trans (if_pos hk)
      · rw [if_neg hk, Map.find, if_neg hk]
        exact ih.trans (if_neg hk)
    · rw [if_pos (by simpa using h), Map.find, Map.find]
      by_cases hk : j = k
      · subst hk
        rw [if_pos rfl, if_pos rfl, if_neg (Ne.symm h)]
      · rw [if_neg hk, if_neg hk]
        exact ih

/-- A value put at a key that is listed adds no key. -/
theorem Map.keys_put (m : Map α) (n : Nat) (v : α) {k : Nat} (h : k ∈ (Map.put m n v).map (·.1)) : k = n ∨ k ∈ m.map (·.1) := by
  induction m with
  | nil => exact .inl (by simpa [Map.put] using h)
  | cons p m ih =>
    obtain ⟨j, u⟩ := p
    simp only [Map.put] at h
    split at h
    · simp only [List.map_cons, List.mem_cons] at h ⊢
      exact h.imp id .inr
    · simp only [List.map_cons, List.mem_cons] at h ⊢
      rcases h with h | h
      · exact .inr (.inl h)
      · exact (ih h).imp_right .inr

theorem Map.mem_keys_of_find {m : Map α} {n : Nat} {v : α} (h : Map.find m n = some v) : n ∈ m.map (·.1) := by
  induction m with
  | nil => exact absurd h (by simp [Map.find])
  | cons p m ih =>
    obtain ⟨j, u⟩ := p
    rw [Map.find] at h
    split at h
    case isTrue hj => exact List.mem_cons.2 (.inl hj.symm)
    case isFalse => exact List.mem_cons_of_mem _ (ih h)

/-- Of keys that are listed once each, every one has its value. -/
theorem Map.find_of_mem {m : Map α} (hn : (m.map (·.1)).Nodup) {p : Nat × α} (h : p ∈ m) : Map.find m p.1 = some p.2 := by
  induction m with
  | nil => exact absurd h List.not_mem_nil
  | cons q m ih =>
    obtain ⟨j, u⟩ := q
    rw [List.map_cons, List.nodup_cons] at hn
    rcases List.mem_cons.1 h with rfl | h
    · exact if_pos rfl
    · have hj : j ≠ p.1 := fun hj => hn.1 (List.mem_map.2 ⟨p, h, hj.symm⟩)
      rw [Map.find, if_neg hj]
      exact ih hn.2 h

/-! ### Bytes written one after another -/

/-- A byte that every write of its address agrees with is kept. -/
theorem Memory.read_writeAll_keep {m : List Host.Cell} (hm : Memory.wf m = true) {cs : List Host.Cell} {a : Nat} {b : Byte}
    (h : ∀ c ∈ cs, c.1 = a → c.2 = b) (hb : Memory.read m a = b) : Memory.read (Memory.writeAll m cs) a = b := by
  unfold Memory.writeAll
  induction cs generalizing m with
  | nil => exact hb
  | cons c cs ih =>
    refine ih (Memory.wf_write c.1 c.2 hm) (fun d hd => h d (List.mem_cons_of_mem _ hd)) ?_
    rw [Memory.read_write_wf _ _ _ hm]
    split
    case isTrue ha => exact h c (List.mem_cons_self ..) ha.symm
    case isFalse => exact hb

/-- An address that is written, always with one byte, holds it. -/
theorem Memory.read_writeAll_set {m : List Host.Cell} (hm : Memory.wf m = true) {cs : List Host.Cell} {a : Nat} {b : Byte}
    (h : ∀ c ∈ cs, c.1 = a → c.2 = b) (hc : ∃ c ∈ cs, c.1 = a) : Memory.read (Memory.writeAll m cs) a = b := by
  unfold Memory.writeAll
  induction cs generalizing m with
  | nil =>
    obtain ⟨c, hc, -⟩ := hc
    exact absurd hc List.not_mem_nil
  | cons c cs ih =>
    have hcs : ∀ d ∈ cs, d.1 = a → d.2 = b := fun d hd => h d (List.mem_cons_of_mem _ hd)
    by_cases ha : c.1 = a
    · refine Memory.read_writeAll_keep (Memory.wf_write c.1 c.2 hm) hcs ?_
      rw [Memory.read_write_wf _ _ _ hm, if_pos ha.symm]
      exact h c (List.mem_cons_self ..) ha
    · refine ih (Memory.wf_write c.1 c.2 hm) hcs ?_
      obtain ⟨d, hd, hda⟩ := hc
      rcases List.mem_cons.1 hd with rfl | hd
      · exact absurd hda ha
      · exact ⟨d, hd, hda⟩

/-- The cells of a line's dirty bytes. -/
theorem mem_dirtyCells {l : Line} {n : Nat} {c : Host.Cell} :
    c ∈ l.dirtyCells n ↔ ∃ k < 128, l.dirty.getLsbD k = true ∧ c = (128 * n + k, l.byte k) := by
  simp only [Line.dirtyCells, List.mem_filterMap, List.mem_range]
  constructor
  · rintro ⟨k, hk, h⟩
    split at h
    case isTrue hd => exact ⟨k, hk, hd, (Option.some.inj h).symm⟩
    case isFalse => exact absurd h (by simp)
  · rintro ⟨k, hk, hd, rfl⟩
    exact ⟨k, hk, if_pos hd⟩

/-- A line written back: memory holds its dirty bytes, and its other bytes are as before. -/
theorem read_writeBack (s : State) (hm : Memory.wf s.mem = true) (l : Line) (n j k : Nat) (hk : k < 128) :
    Memory.read (s.writeBack l n).mem (128 * j + k) =
      if j = n ∧ l.dirty.getLsbD k = true then l.byte k else Memory.read s.mem (128 * j + k) := by
  have hmem : (s.writeBack l n).mem = Memory.writeAll s.mem (l.dirtyCells n) := by
    unfold State.writeBack
    dsimp only
    split <;> rfl
  rw [hmem]
  split
  case isTrue h =>
    obtain ⟨rfl, hd⟩ := h
    refine Memory.read_writeAll_set hm (fun c hc ha => ?_) ⟨_, mem_dirtyCells.2 ⟨k, hk, hd, rfl⟩, rfl⟩
    obtain ⟨i, hi, -, rfl⟩ := mem_dirtyCells.1 hc
    have : i = k := by dsimp only at ha; omega
    rw [this]
  case isFalse h =>
    refine Memory.read_writeAll_keep hm (fun c hc ha => ?_) rfl
    obtain ⟨i, hi, hd, rfl⟩ := mem_dirtyCells.1 hc
    refine absurd ?_ h
    dsimp only at ha
    have hi' : i = k := by omega
    exact ⟨by omega, hi' ▸ hd⟩

/-! ### Lines merged in the atomic buffer -/

/-- A byte of a word of listed bytes. -/
theorem byte_of_leNat {w : Nat} (l : List Byte) (h : 8 * l.length = w) {k : Nat} (hk : k < l.length) :
    (BitVec.ofNat w (leNat l)).extractLsb' (8 * k) 8 = l.getD k 0 := by
  have hlt : leNat l < 2 ^ w := by
    have := joinN_lt 8 (l.map (·.toNat))
    rwa [List.length_map, h, ← leNat_eq_joinN] at this
  have hb : leNat l / 2 ^ (8 * k) % 2 ^ 8 = (l.getD k 0).toNat := by
    have hs := getD_splitN 8 (n := (l.map (·.toNat)).length) (joinN 8 (l.map (·.toNat))) (by rwa [List.length_map])
    rw [splitN_joinN, ← leNat_eq_joinN] at hs
    rw [← hs, getD_eq_getElem_of_lt _ _ (by simpa using hk), getD_eq_getElem_of_lt _ _ hk]
    simp only [List.getElem_map]
    exact Nat.mod_eq_of_lt l[k].isLt
  apply BitVec.eq_of_toNat_eq
  rw [BitVec.extractLsb'_toNat, BitVec.toNat_ofNat, Nat.mod_eq_of_lt hlt, Nat.shiftRight_eq_div_pow, hb]

/-- A line merged with another's dirty bytes holds them, and elsewhere what it held. -/
theorem byte_merge (l m : Line) {k : Nat} (hk : k < 128) :
    (l.merge m).byte k = if m.dirty.getLsbD k then m.byte k else l.byte k := by
  have h := byte_of_leNat (w := 1024) ((List.range 128).map fun k => if m.dirty.getLsbD k then m.byte k else l.byte k) (by simp)
    (k := k) (by simpa using hk)
  rw [getD_eq_getElem_of_lt _ _ (by simpa using hk), List.getElem_map, List.getElem_range] at h
  exact h

/-! ### A byte that has reached the memory-side cache -/

/-- A byte has reached the memory-side cache: memory holds it, and a line of the die's atomic buffer that holds it dirty agrees. -/
structure Settled (s : State) (d n k : Nat) (b : Byte) : Prop where
  wf : Memory.wf s.mem = true
  mem : Memory.read s.mem (128 * n + k) = b
  abuf : ∀ l, Map.find (s.die d).abuf n = some l → l.dirty.getLsbD k = true → l.byte k = b

/-- What concerns neither memory nor the die leaves the byte there. -/
theorem Settled.congr {s t : State} {d n k : Nat} {b : Byte} (h : Settled s d n k b) (hm : t.mem = s.mem)
    (hd : t.die d = s.die d) : Settled t d n k b :=
  ⟨hm ▸ h.wf, hm ▸ h.mem, hd ▸ h.abuf⟩

@[simp] theorem writeBack_die (s : State) (l : Line) (n d : Nat) : (s.writeBack l n).die d = s.die d := by
  unfold State.writeBack
  dsimp only
  split <;> rfl

@[simp] theorem writeBack_cluster (s : State) (l : Line) (n c : Nat) : (s.writeBack l n).cluster c = s.cluster c := by
  unfold State.writeBack
  dsimp only
  split <;> rfl

@[simp] theorem passAbuf_cluster (s : State) (d n : Nat) (l : Line) (c : Nat) : (s.passAbuf d n l).cluster c = s.cluster c := by
  unfold State.passAbuf
  dsimp only
  split <;> rfl

/-- An eviction from the atomic buffer writes back what agrees with the byte. -/
theorem Settled.evictAbuf {s : State} {d n k : Nat} {b : Byte} (h : Settled s d n k b) (hk : k < 128) (j : Nat) :
    Settled (s.evictAbuf d j) d n k b := by
  unfold State.evictAbuf
  dsimp only
  split
  case h_1 => exact h
  case h_2 l hl =>
    refine ⟨writeBack_wf _ _ (by exact h.wf), ?_, fun m hm hd => ?_⟩
    · refine (read_writeBack _ (by exact h.wf) _ _ _ _ hk).trans ?_
      split
      case isTrue hj => exact h.abuf l (hj.1 ▸ hl) hj.2
      case isFalse => exact h.mem
    · rw [writeBack_die, State.setDie_die_same] at hm
      dsimp only at hm
      rw [Map.find_drop] at hm
      split at hm
      · exact absurd hm (by simp)
      · exact h.abuf m hm hd

theorem Settled.drainAbuf {s : State} {d n k : Nat} {b : Byte} (h : Settled s d n k b) (hk : k < 128) :
    Settled (s.drainAbuf d) d n k b := by
  unfold State.drainAbuf
  generalize (s.die d).abuf = ps
  induction ps generalizing s with
  | nil => exact h
  | cons p ps ih => exact ih (h.evictAbuf hk p.1)

/-- A line whose dirty bytes pass the atomic buffer: a copy there takes them. -/
theorem Settled.passAbuf {s : State} {d n k : Nat} {b : Byte} (hm : Memory.wf s.mem = true)
    (hb : Memory.read s.mem (128 * n + k) = b) (hk : k < 128) {l : Line} (hl : l.dirty.getLsbD k = true) (hlb : l.byte k = b) :
    Settled (s.passAbuf d n l) d n k b := by
  refine ⟨by rwa [passAbuf_mem], by rwa [passAbuf_mem], ?_⟩
  unfold State.passAbuf
  dsimp only
  split
  case h_1 hf =>
    intro m hm
    exact absurd (hf.symm.trans hm) (by simp)
  case h_2 m hf =>
    intro m' hm' hd
    rw [State.setDie_die_same, Map.find_put, if_pos rfl] at hm'
    rw [← Option.some.inj hm', byte_merge _ _ hk, if_pos hl, hlb]

/-- What passes the atomic buffer of another line leaves the byte there. -/
theorem Settled.passAbuf_ne {s : State} {d n k : Nat} {b : Byte} (h : Settled s d n k b) {j : Nat} (hj : j ≠ n) (l : Line) :
    Settled (s.passAbuf d j l) d n k b := by
  refine ⟨by rw [passAbuf_mem]; exact h.wf, by rw [passAbuf_mem]; exact h.mem, ?_⟩
  unfold State.passAbuf
  dsimp only
  split
  case h_1 => exact h.abuf
  case h_2 =>
    intro m hm
    rw [State.setDie_die_same, Map.find_put, if_neg hj] at hm
    exact h.abuf m hm

/-- A line cleaned of a cluster's cache: its dirty bytes reach the memory-side cache. -/
theorem settled_cleanLine {s : State} (hm : Memory.wf s.mem = true) {cl n k : Nat} {l : Line}
    (hl : Map.find (s.cluster cl).lines n = some l) (hd : l.dirty.getLsbD k = true) (hk : k < 128) :
    Settled (s.cleanLine cl n) (cl / 10) n k (l.byte k) := by
  simp only [State.cleanLine, hl]
  exact .passAbuf (writeBack_wf _ _ (by exact hm)) ((read_writeBack _ (by exact hm) _ _ _ _ hk).trans (if_pos ⟨rfl, hd⟩)) hk hd rfl

/-- A line cleaned of a cluster's cache leaves the bytes of other lines there. -/
theorem Settled.cleanLine {s : State} {cl n k : Nat} {b : Byte} (h : Settled s (cl / 10) n k b) (hk : k < 128) {j : Nat} (hj : j ≠ n) :
    Settled (s.cleanLine cl j) (cl / 10) n k b := by
  unfold State.cleanLine
  dsimp only
  split
  case h_1 => exact h
  case h_2 l hl =>
    refine .passAbuf_ne ⟨writeBack_wf _ _ (by exact h.wf), ?_, fun m hm => h.abuf m ?_⟩ hj l
    · exact (read_writeBack _ (by exact h.wf) _ _ _ _ hk).trans ((if_neg fun h => hj h.1.symm).trans h.mem)
    · rwa [writeBack_die, State.setCluster_die] at hm

/-! ### A cluster's lines discarded -/

/-- A line that leaves the L1s leaves everything but cores alone. -/
theorem dropL1_frame (s : State) (cl n : Nat) :
    (∀ d, (s.dropL1 cl n).die d = s.die d) ∧ ∀ c, (s.dropL1 cl n).cluster c = s.cluster c := by
  unfold State.dropL1
  generalize span (4 * cl) 4 = cs
  induction cs generalizing s with
  | nil => exact ⟨fun _ => rfl, fun _ => rfl⟩
  | cons c cs ih =>
    rw [List.foldl_cons]
    obtain ⟨hd, hc⟩ := ih (match Map.find s.cores c with
      | none => s
      | some k => s.setCore c { k with l1 := k.l1.filter (· != n) })
    refine ⟨fun d => (hd d).trans ?_, fun c => (hc c).trans ?_⟩ <;> split <;> rfl

/-- The lines of a cluster's cache after one has been made clean. -/
theorem cleanLine_find (s : State) (cl n j : Nat) (h : n ≠ j) :
    Map.find ((s.cleanLine cl n).cluster cl).lines j = Map.find (s.cluster cl).lines j := by
  unfold State.cleanLine
  dsimp only
  split
  case h_1 => rfl
  case h_2 => simp [Map.find_put, h]

/-- A line made clean adds none. -/
theorem cleanLine_keys (s : State) (cl n : Nat) {j : Nat} (h : j ∈ ((s.cleanLine cl n).cluster cl).lines.map (·.1)) :
    j ∈ (s.cluster cl).lines.map (·.1) := by
  unfold State.cleanLine at h
  dsimp only at h
  split at h
  case h_1 => exact h
  case h_2 l hl =>
    simp only [passAbuf_cluster, writeBack_cluster, State.setCluster_cluster_same] at h
    rcases Map.keys_put _ _ _ h with rfl | h
    · exact Map.mem_keys_of_find hl
    · exact h

theorem discardLine_find (s : State) (cl n j : Nat) :
    Map.find ((s.discardLine cl n).cluster cl).lines j = if n = j then none else Map.find (s.cluster cl).lines j := by
  obtain ⟨-, hc⟩ := dropL1_frame (s.cleanLine cl n) cl n
  unfold State.discardLine
  dsimp only
  rw [State.setCluster_cluster_same, Map.find_drop]
  split
  case isTrue => rfl
  case isFalse h => rw [hc, cleanLine_find _ _ _ _ h]

theorem discardLine_keys (s : State) (cl n : Nat) {j : Nat} (h : j ∈ ((s.discardLine cl n).cluster cl).lines.map (·.1)) :
    j ≠ n ∧ j ∈ (s.cluster cl).lines.map (·.1) := by
  obtain ⟨-, hc⟩ := dropL1_frame (s.cleanLine cl n) cl n
  unfold State.discardLine at h
  dsimp only at h
  rw [State.setCluster_cluster_same, hc] at h
  simp only [Map.drop, List.mem_map, List.mem_filter] at h
  obtain ⟨p, ⟨hp, hn⟩, rfl⟩ := h
  exact ⟨by simpa using hn, cleanLine_keys _ _ _ (List.mem_map_of_mem hp)⟩

theorem settled_discardLine {s : State} (hm : Memory.wf s.mem = true) {cl n k : Nat} {l : Line}
    (hl : Map.find (s.cluster cl).lines n = some l) (hd : l.dirty.getLsbD k = true) (hk : k < 128) :
    Settled (s.discardLine cl n) (cl / 10) n k (l.byte k) :=
  (settled_cleanLine hm hl hd hk).congr (dropL1_mem ..) ((dropL1_frame ..).1 _)

theorem Settled.discardLine {s : State} {cl n k : Nat} {b : Byte} (h : Settled s (cl / 10) n k b) (hk : k < 128) {j : Nat} (hj : j ≠ n) :
    Settled (s.discardLine cl j) (cl / 10) n k b :=
  (h.cleanLine hk hj).congr (dropL1_mem ..) ((dropL1_frame ..).1 _)

/-- Lines discarded one after another, none of them the byte's. -/
theorem Settled.discardLines {s : State} {cl n k : Nat} {b : Byte} (h : Settled s (cl / 10) n k b) (hk : k < 128)
    (ps : List (Nat × Line)) (hn : n ∉ ps.map (·.1)) : Settled (ps.foldl (fun s p => s.discardLine cl p.1) s) (cl / 10) n k b := by
  induction ps generalizing s with
  | nil => exact h
  | cons p ps ih =>
    rw [List.map_cons, List.mem_cons, not_or] at hn
    exact ih (h.discardLine hk (Ne.symm hn.1)) hn.2

/-- Lines discarded one after another: the dirty bytes of each reach the memory-side cache. -/
theorem settled_discardLines {s : State} (hm : Memory.wf s.mem = true) {cl : Nat} {ps : List (Nat × Line)}
    (hn : (ps.map (·.1)).Nodup) (hf : ∀ p ∈ ps, Map.find (s.cluster cl).lines p.1 = some p.2) {q : Nat × Line} (hq : q ∈ ps) {k : Nat}
    (hk : k < 128) (hd : q.2.dirty.getLsbD k = true) :
    Settled (ps.foldl (fun s p => s.discardLine cl p.1) s) (cl / 10) q.1 k (q.2.byte k) := by
  induction ps generalizing s with
  | nil => exact absurd hq List.not_mem_nil
  | cons p ps ih =>
    rw [List.map_cons, List.nodup_cons] at hn
    rcases List.mem_cons.1 hq with rfl | hq
    · exact (settled_discardLine hm (hf q (List.mem_cons_self ..)) hd hk).discardLines hk ps hn.1
    · refine ih (discardLine_wf _ _ hm) hn.2 (fun r hr => ?_) hq
      have hpr : p.1 ≠ r.1 := fun h => hn.1 (h ▸ List.mem_map_of_mem hr)
      rw [discardLine_find, if_neg hpr]
      exact hf r (List.mem_cons_of_mem _ hr)

/-- Lines discarded one after another leave no line of theirs. -/
theorem keys_discardLines (s : State) (cl : Nat) (ps : List (Nat × Line)) {j : Nat}
    (h : j ∈ ((ps.foldl (fun s p => s.discardLine cl p.1) s).cluster cl).lines.map (·.1)) :
    j ∉ ps.map (·.1) ∧ j ∈ (s.cluster cl).lines.map (·.1) := by
  induction ps generalizing s with
  | nil => exact ⟨List.not_mem_nil, h⟩
  | cons p ps ih =>
    obtain ⟨h1, h2⟩ := ih _ h
    obtain ⟨h3, h4⟩ := discardLine_keys s cl p.1 h2
    exact ⟨by rw [List.map_cons, List.mem_cons, not_or]; exact ⟨h3, h1⟩, h4⟩

/-- The L1s of a cluster's cores emptied: nothing but cores changes. -/
theorem emptyL1_frame (s : State) (cs : List Nat) :
    let t := cs.foldl (fun s c => match Map.find s.cores c with
      | none => s
      | some k => s.setCore c { k with l1 := [] }) s
    t.mem = s.mem ∧ (∀ d, t.die d = s.die d) ∧ ∀ c, t.cluster c = s.cluster c := by
  induction cs generalizing s with
  | nil => exact ⟨rfl, fun _ => rfl, fun _ => rfl⟩
  | cons c cs ih =>
    rw [List.foldl_cons]
    obtain ⟨hm, hd, hc⟩ := ih (match Map.find s.cores c with
      | none => s
      | some k => s.setCore c { k with l1 := [] })
    refine ⟨hm.trans ?_, fun d => (hd d).trans ?_, fun c => (hc c).trans ?_⟩ <;> split <;> rfl

/-- Every line of a cluster discarded: none is left. -/
theorem discardAll_lines (s : State) (cl : Nat) : ((s.discardAll cl).cluster cl).lines = [] := by
  obtain ⟨-, -, hc⟩ := emptyL1_frame ((s.cluster cl).lines.foldl (fun s p => s.discardLine cl p.1) s) (span (4 * cl) 4)
  have hnone : ∀ j, j ∉ (((s.cluster cl).lines.foldl (fun s p => s.discardLine cl p.1) s).cluster cl).lines.map (·.1) :=
    fun j hj => (keys_discardLines s cl _ hj).1 (keys_discardLines s cl _ hj).2
  have hnil : (((s.cluster cl).lines.foldl (fun s p => s.discardLine cl p.1) s).cluster cl).lines = [] :=
    List.map_eq_nil_iff.1 (List.eq_nil_iff_forall_not_mem.2 hnone)
  exact (congrArg ClusterSt.lines (hc cl)).trans hnil

/-- Every line of a cluster discarded: its dirty bytes have reached the memory-side cache. -/
theorem settled_discardAll {s : State} (hm : Memory.wf s.mem = true) {cl : Nat} (hn : ((s.cluster cl).lines.map (·.1)).Nodup)
    {q : Nat × Line} (hq : q ∈ (s.cluster cl).lines) {k : Nat} (hk : k < 128) (hd : q.2.dirty.getLsbD k = true) :
    Settled (s.discardAll cl) (cl / 10) q.1 k (q.2.byte k) := by
  obtain ⟨hmem, hdie, -⟩ := emptyL1_frame ((s.cluster cl).lines.foldl (fun s p => s.discardLine cl p.1) s) (span (4 * cl) 4)
  exact (settled_discardLines hm hn (fun p hp => Map.find_of_mem hn hp) hq hk hd).congr hmem (hdie _)

/-- An atomic buffer's lines written back leave every cluster alone. -/
theorem drainAbuf_cluster (s : State) (d c : Nat) : (s.drainAbuf d).cluster c = s.cluster c := by
  unfold State.drainAbuf
  generalize (s.die d).abuf = ps
  induction ps generalizing s with
  | nil => rfl
  | cons p ps ih =>
    rw [List.foldl_cons, ih]
    unfold State.evictAbuf
    dsimp only
    split
    · rfl
    · rw [writeBack_cluster, State.setDie_cluster]

/-- The die of a context is its cluster's. -/
theorem clusterOf_div (x : Nat) : clusterOf x / 10 = dieOf x := Nat.div_div_eq_div_mul x 8 10

end Sys2Proof.Machine
end

section
/-! PROOF. Synchronisation: ACQ, REL and FENCE, the counting flags, the barriers, the mailbox of a cluster (R30, R170, R179 to R185,
R242, R316 to R318, R337 to R339). -/

namespace Sys2Proof.Machine

/-! ### What the caches leave alone -/

theorem Map.get_of_find (d : α) {m : Map α} {n : Nat} {v : α} (h : Map.find m n = some v) : Map.get d m n = v := by
  induction m with
  | nil => exact absurd h (by simp [Map.find])
  | cons p m ih =>
    obtain ⟨j, u⟩ := p
    rw [Map.find] at h
    rw [Map.get]
    split
    case isTrue hj => exact Option.some.inj ((if_pos hj).symm.trans h)
    case isFalse hj => exact ih ((if_neg hj).symm.trans h)

/-- A state that differs in caches and device memory alone. -/
structure CachesOnly (s t : State) : Prop where
  ctxs : t.ctxs = s.ctxs
  pairs : t.pairs = s.pairs
  hub : t.hub = s.hub
  cur : t.cur = s.cur
  slot : t.slot = s.slot
  clock : t.clock = s.clock
  core : ∀ c, ∃ l, t.core c = { s.core c with l1 := l }

theorem CachesOnly.refl (s : State) : CachesOnly s s := ⟨rfl, rfl, rfl, rfl, rfl, rfl, fun _ => ⟨_, rfl⟩⟩

theorem CachesOnly.trans {s t u : State} (h : CachesOnly s t) (k : CachesOnly t u) : CachesOnly s u where
  ctxs := k.ctxs.trans h.ctxs
  pairs := k.pairs.trans h.pairs
  hub := k.hub.trans h.hub
  cur := k.cur.trans h.cur
  slot := k.slot.trans h.slot
  clock := k.clock.trans h.clock
  core c := by
    obtain ⟨l, hl⟩ := h.core c
    obtain ⟨m, hm⟩ := k.core c
    exact ⟨m, by rw [hm, hl]⟩

/-- Steps of that kind one after another. -/
theorem CachesOnly.foldl {f : State → α → State} (hf : ∀ s a, CachesOnly s (f s a)) (l : List α) (s : State) :
    CachesOnly s (l.foldl f s) := by
  induction l generalizing s with
  | nil => exact .refl s
  | cons a l ih => exact (hf s a).trans (ih _)

theorem CachesOnly.ctx {s t : State} (h : CachesOnly s t) (x : Nat) : t.ctx x = s.ctx x := by
  simp only [State.ctx, h.ctxs]

theorem CachesOnly.me {s t : State} (h : CachesOnly s t) : t.me = s.me := by
  rw [State.me, State.me, h.cur, h.ctx]

theorem cachesOnly_writeBack (s : State) (l : Line) (n : Nat) : CachesOnly s (s.writeBack l n) := by
  unfold State.writeBack
  dsimp only
  split <;> exact ⟨rfl, rfl, rfl, rfl, rfl, rfl, fun _ => ⟨_, rfl⟩⟩

theorem cachesOnly_setDie (s : State) (d : Nat) (v : DieSt) : CachesOnly s (s.setDie d v) :=
  ⟨rfl, rfl, rfl, rfl, rfl, rfl, fun _ => ⟨_, rfl⟩⟩

theorem cachesOnly_setCluster (s : State) (c : Nat) (v : ClusterSt) : CachesOnly s (s.setCluster c v) :=
  ⟨rfl, rfl, rfl, rfl, rfl, rfl, fun _ => ⟨_, rfl⟩⟩

theorem cachesOnly_evictAbuf (s : State) (d n : Nat) : CachesOnly s (s.evictAbuf d n) := by
  unfold State.evictAbuf
  dsimp only
  split
  · exact .refl s
  · exact (cachesOnly_setDie _ _ _).trans (cachesOnly_writeBack _ _ _)

theorem cachesOnly_drainAbuf (s : State) (d : Nat) : CachesOnly s (s.drainAbuf d) := by
  unfold State.drainAbuf
  exact .foldl (f := fun s (p : Nat × Line) => State.evictAbuf s d p.1) (fun s (p : Nat × Line) => cachesOnly_evictAbuf s d p.1) _ s

theorem cachesOnly_passAbuf (s : State) (d n : Nat) (l : Line) : CachesOnly s (s.passAbuf d n l) := by
  unfold State.passAbuf
  dsimp only
  split
  · exact .refl s
  · exact cachesOnly_setDie _ _ _

theorem cachesOnly_cleanLine (s : State) (cl n : Nat) : CachesOnly s (s.cleanLine cl n) := by
  unfold State.cleanLine
  dsimp only
  split
  · exact .refl s
  · exact ((cachesOnly_setCluster _ _ _).trans (cachesOnly_writeBack _ _ _)).trans (cachesOnly_passAbuf _ _ _ _)

/-- A core's L1 replaced. -/
theorem cachesOnly_setL1 (s : State) (c : Nat) (f : List Nat → List Nat) :
    CachesOnly s (match Map.find s.cores c with
      | none => s
      | some k => s.setCore c { k with l1 := f k.l1 }) := by
  split
  case h_1 => exact .refl s
  case h_2 k hk =>
    have hc : s.core c = k := Map.get_of_find _ hk
    refine ⟨rfl, rfl, rfl, rfl, rfl, rfl, fun j => ?_⟩
    rw [State.setCore_core]
    split
    case isTrue h => exact ⟨f k.l1, by rw [← h, hc]⟩
    case isFalse => exact ⟨_, rfl⟩

theorem cachesOnly_dropL1 (s : State) (cl n : Nat) : CachesOnly s (s.dropL1 cl n) := by
  unfold State.dropL1
  exact .foldl (fun s c => cachesOnly_setL1 s c fun l => l.filter (· != n)) _ s

theorem cachesOnly_discardLine (s : State) (cl n : Nat) : CachesOnly s (s.discardLine cl n) :=
  ((cachesOnly_cleanLine s cl n).trans (cachesOnly_dropL1 _ cl n)).trans (cachesOnly_setCluster _ _ _)

theorem cachesOnly_cleanAll (s : State) (cl : Nat) : CachesOnly s (s.cleanAll cl) := by
  unfold State.cleanAll
  exact .foldl (f := fun s (p : Nat × Line) => State.cleanLine s cl p.1) (fun s (p : Nat × Line) => cachesOnly_cleanLine s cl p.1) _ s

theorem cachesOnly_discardAll (s : State) (cl : Nat) : CachesOnly s (s.discardAll cl) := by
  unfold State.discardAll
  dsimp only
  exact (CachesOnly.foldl (f := fun s (p : Nat × Line) => State.discardLine s cl p.1) (fun s (p : Nat × Line) => cachesOnly_discardLine s cl p.1) _ s).trans
    (.foldl (fun s c => cachesOnly_setL1 s c fun _ => []) _ _)

theorem cachesOnly_releaseCaches (s : State) (x : Nat) (sc : Scope) : CachesOnly s (s.releaseCaches x sc) := by
  unfold State.releaseCaches
  split
  · exact .refl s
  · dsimp only
    split
    · exact cachesOnly_cleanAll _ _
    · exact (cachesOnly_cleanAll _ _).trans (cachesOnly_drainAbuf _ _)

theorem cachesOnly_acquireCaches (s : State) (x : Nat) (sc : Scope) : CachesOnly s (s.acquireCaches x sc) := by
  unfold State.acquireCaches
  split
  · exact .refl s
  · dsimp only
    split
    · exact cachesOnly_discardAll _ _
    · exact (cachesOnly_discardAll _ _).trans (cachesOnly_drainAbuf _ _)

/-! ### Release and acquire -/

theorem scope_code_lt_two {sc : Scope} : sc.code < 2 ↔ sc = .core ∨ sc = .cluster := by cases sc <;> decide

/-- A release of core or cluster scope changes nothing. -/
theorem releaseCaches_narrow (s : State) (x : Nat) {sc : Scope} (h : sc.code < 2) : s.releaseCaches x sc = s := if_pos h

theorem acquireCaches_narrow (s : State) (x : Nat) {sc : Scope} (h : sc.code < 2) : s.acquireCaches x sc = s := if_pos h

/-- What a release that waits for nothing leaves. -/
theorem release_ok {s : State} {sc : Scope} (hw : s.tooWide s.cur sc = false) (hr : s.released s.cur = true) :
    release s sc = .ok (s.releaseCaches s.cur sc) := by
  simp only [release, hw, hr, Bool.not_false, need_true, slotwise_ok_bind]

theorem release_tooWide {s : State} {sc : Scope} (hw : s.tooWide s.cur sc = true) : release s sc = .error (windowFault 0) := by
  simp only [release, hw, Bool.not_true, need_false, slotwise_error_bind]

theorem release_held {s : State} {sc : Scope} (hw : s.tooWide s.cur sc = false) (hr : s.released s.cur = false) :
    release s sc = .error (.hold .order []) := by
  simp only [release, hw, hr, Bool.not_false, need_true, need_false, slotwise_ok_bind, slotwise_error_bind]

/-- What an acquire that waits for nothing leaves. -/
theorem acquire_ok {s : State} {sc : Scope} (hw : s.tooWide s.cur sc = false) (hm : s.me.mayAcquire = true) :
    acquire s sc = .ok (s.acquireCaches s.cur sc) := by
  simp only [acquire, hw, hm, Bool.not_false, need_true, slotwise_ok_bind]

theorem acquire_held {s : State} {sc : Scope} (hw : s.tooWide s.cur sc = false) (hm : s.me.mayAcquire = false) :
    acquire s sc = .error (.hold .order []) := by
  simp only [acquire, hw, hm, Bool.not_false, need_true, need_false, slotwise_ok_bind, slotwise_error_bind]

/-- A kind of operations in flight, all performed. -/
theorem all_performed_iff (ms : List MemOp) (p : MemOp → Bool) :
    (ms.all fun m => !p m || m.performed) = true ↔ ∀ m ∈ ms, p m = true → m.performed = true := by
  simp [List.all_eq_true, Bool.or_eq_true, Decidable.imp_iff_not_or]

theorem loadsDone_iff (c : Ctx) : c.loadsDone = true ↔ ∀ m ∈ c.mops, m.isLoad = true → m.performed = true :=
  all_performed_iff _ _

theorem released_iff (s : State) : s.released s.cur = true ↔
    (∀ m ∈ s.me.mops, true = true → m.performed = true) ∧ s.mcastDone s.cur = true ∧ s.transient? s.cur = false := by
  simp [State.released, State.me, and_assoc]

/-- The acquire of die scope or wider: the cluster's cache is empty and its dirty bytes have reached the memory-side cache. -/
theorem acquireCaches_wide {s : State} {sc : Scope} (hsc : ¬ sc.code < 2) :
    ((s.acquireCaches s.cur sc).cluster (clusterOf s.cur)).lines = [] ∧
    (Memory.wf s.mem = true → ((s.cluster (clusterOf s.cur)).lines.map (·.1)).Nodup →
      ∀ q ∈ (s.cluster (clusterOf s.cur)).lines, ∀ k < 128, q.2.dirty.getLsbD k = true →
        Memory.read (s.acquireCaches s.cur sc).mem (128 * q.1 + k) = q.2.byte k) := by
  have hset := fun (hm : Memory.wf s.mem = true) (hn : ((s.cluster (clusterOf s.cur)).lines.map (·.1)).Nodup)
    (q : Nat × Line) (hq : q ∈ (s.cluster (clusterOf s.cur)).lines) (k : Nat) (hk : k < 128) (hd : q.2.dirty.getLsbD k = true) =>
    clusterOf_div s.cur ▸ settled_discardAll hm hn hq hk hd
  unfold State.acquireCaches
  rw [if_neg hsc]
  dsimp only
  split
  · exact ⟨discardAll_lines _ _, fun hm hn q hq k hk hd => (hset hm hn q hq k hk hd).mem⟩
  · exact ⟨by rw [drainAbuf_cluster, discardAll_lines], fun hm hn q hq k hk hd => ((hset hm hn q hq k hk hd).drainAbuf hk).mem⟩

/-- Settles O26: the conditions of R179 are what the releases, the acquires and the fence wait for; an acquire's lines reach memory. -/
theorem releasesAndAcquires : Obligations.ReleasesAndAcquires := by
  unfold Obligations.ReleasesAndAcquires
  intro s sc
  have hnarrow : (if sc = .core ∨ sc = .cluster then s else s.releaseCaches s.cur sc) = s.releaseCaches s.cur sc := by
    split
    case isTrue h => exact (releaseCaches_narrow s _ (scope_code_lt_two.2 h)).symm
    case isFalse => rfl
  refine ⟨fun hw => ⟨?_, ?_⟩, fun hw => ⟨fun hr => ?_, fun hr => ?_, fun hl => ?_, fun hl => ?_⟩, fun loads stores copies hl hs hc => ?_,
    fun stores copies hl => ?_⟩
  · change execRel sc s = _
    rw [execRel, release_tooWide hw]
    rfl
  · change execAcq sc s = _
    simp only [execAcq, hw, Bool.not_true, need_false, slotwise_error_bind]
    rfl
  · change execRel sc s = .next (if sc = .core ∨ sc = .cluster then s else s.releaseCaches s.cur sc)
    rw [execRel, release_ok hw ((released_iff s).2 hr), hnarrow]
    rfl
  · change execRel sc s = _
    rw [execRel, release_held hw (by rw [← Bool.not_eq_true, released_iff]; exact hr)]
    rfl
  · have hl' := (loadsDone_iff s.me).2 hl
    have hm : s.me.mayAcquire = true := by rw [Ctx.mayAcquire, hl', Bool.true_or]
    refine ⟨s.acquireCaches s.cur sc, ?_, ?_⟩
    · change execAcq sc s = _
      simp only [execAcq, hw, hl', Bool.not_false, need_true, slotwise_ok_bind, acquire_ok hw hm]
      rfl
    · split
      case isTrue h => exact acquireCaches_narrow s _ (scope_code_lt_two.2 h)
      case isFalse h =>
        obtain ⟨hnil, hmem⟩ := acquireCaches_wide (s := s) (mt scope_code_lt_two.1 h)
        exact ⟨hnil, fun hwf hn _ => hmem hwf hn⟩
  · have hl' : s.me.loadsDone = false := by rw [← Bool.not_eq_true, loadsDone_iff]; exact hl
    change execAcq sc s = _
    simp only [execAcq, hw, hl', Bool.not_false, need_true, need_false, slotwise_ok_bind, slotwise_error_bind]
    rfl
  · have h1 : (!loads || s.me.loadsDone) = true := by
      cases loads with
      | false => rfl
      | true => exact (loadsDone_iff _).2 (hl rfl)
    have h2 : (!stores || s.storesDone s.cur) = true := by
      cases stores with
      | false => rfl
      | true =>
        obtain ⟨hp, hmc⟩ := hs rfl
        exact Bool.and_eq_true_iff.2 ⟨(all_performed_iff _ _).2 hp, hmc⟩
    have h3 : (!copies || s.copiesDone s.cur) = true := by
      cases copies with
      | false => rfl
      | true => exact hc rfl
    change execFence sc loads stores copies s =
      .next (if stores = true then (if sc = .core ∨ sc = .cluster then s else s.releaseCaches s.cur sc) else s)
    rw [hnarrow]
    simp only [execFence, h1, h2, h3, need_true, slotwise_ok_bind]
    rfl
  · have hl' : s.me.loadsDone = false := by rw [← Bool.not_eq_true, loadsDone_iff]; exact hl
    change execFence sc true stores copies s = _
    simp only [execFence, hl', Bool.not_true, Bool.or_self, need_false, slotwise_error_bind]
    rfl

/-! ### Counting flags -/

/-- A counting flag with an increment is the sum, up to its greatest value (R30); its tag is raised (R182); no other flag changes. -/
theorem addFlag_facts (c : Ctx) (k : Fin 32) (n : Nat) (sc : Scope) :
    ((c.addFlag k n sc).k.get k).toNat = Nat.min ((c.k.get k).toNat + n) 65535 ∧
    (c.addFlag k n sc).ktag.get k = (c.ktag.get k).max sc ∧
    (c.addFlag k n sc).ctxctl.getLsbD 1 = (c.ctxctl.getLsbD 1 || 65535 < (c.k.get k).toNat + n) ∧
    ∀ j : Fin 32, j ≠ k → (c.addFlag k n sc).k.get j = c.k.get j ∧ (c.addFlag k n sc).ktag.get j = c.ktag.get j := by
  refine ⟨?_, Vector.getElem_set_self k.isLt, ?_, fun j hj => ?_⟩
  · rw [Ctx.addFlag_k, BitVec.toNat_ofNat, Nat.mod_eq_of_lt (by omega)]
  · rw [Ctx.addFlag_ctxctl]
    split
    case isTrue h => simp [h]
    case isFalse h => simp [h]
  · have hne : k.val ≠ j.val := fun h => hj (Fin.ext h.symm)
    exact ⟨Vector.getElem_set_ne k.isLt j.isLt hne, Vector.getElem_set_ne k.isLt j.isLt hne⟩

/-- Settles O27: FPOST is a release and an increment, FWAIT a wait, a subtraction and an acquire. -/
theorem countingFlags : Obligations.CountingFlags := by
  unfold Obligations.CountingFlags
  refine ⟨fun s k n hw hr => ?_, fun s k n g => ⟨fun hg => ?_, fun hg hw hr => ?_⟩, fun s k n => ⟨fun hk => ?_, fun hk hw hm => ?_, fun hk hw hm => ?_⟩,
    addFlag_facts⟩
  · change execFpost k n none s = _
    simp only [execFpost, release_ok hw hr, slotwise_ok_bind, releaseCaches_narrow s s.cur (sc := .core) (by decide), slotDo_ok]
  · change execFpost k n (some g) s = _
    simp only [execFpost, hg, need_false, slotwise_error_bind]
    rfl
  · change execFpost k n (some g) s = _
    simp only [execFpost, hg, need_true, slotwise_ok_bind, release_ok hw hr, slotDo_ok]
  · have hk' : decide (n.toNat ≤ (s.me.k.get k).toNat) = false := decide_eq_false (Nat.not_le.2 hk)
    change execFwait k n s = _
    simp only [execFwait, hk', need_false, slotwise_error_bind]
    rfl
  · change execFwait k n s = _
    simp only [execFwait, decide_eq_true hk, need_true, slotwise_ok_bind, acquire_held hw hm, slotwise_error_bind]
    rfl
  · have hc := cachesOnly_acquireCaches s s.cur (s.me.ktag.get k)
    have hx : exec (.fwait k n) s = .next (
        let t := s.acquireCaches s.cur (s.me.ktag.get k)
        let t := if n = 0 then t else t.latch (.flagSub k n.toNat) 1 0
        t.setMe { t.me with ktag := t.me.ktag.set k.val .core k.isLt }) := by
      change execFwait k n s = _
      simp only [execFwait, decide_eq_true hk, need_true, slotwise_ok_bind, acquire_ok hw hm, slotDo_ok]
    refine ⟨_, hx, ?_⟩
    generalize s.acquireCaches s.cur (s.me.ktag.get k) = t at hc
    have hme := hc.me
    dsimp only
    by_cases hn : n = 0
    · simp only [if_pos hn, State.me_setMe, hme, List.append_nil]
      exact ⟨Vector.getElem_set_self k.isLt, trivial, trivial, trivial⟩
    · simp only [if_neg hn, State.me_setMe, State.me_latch, hme, hc.slot]
      exact ⟨Vector.getElem_set_self k.isLt, trivial, trivial, trivial⟩

end Sys2Proof.Machine
end

section
/-! PROOF. Barriers and the mailbox of a cluster (R183, R242, R316 to R318). -/

namespace Sys2Proof.Machine

/-! ### Barriers -/

/-- A group of the acting worker with its entry (R316). -/
theorem myGroup_ok {s : State} {g : Fin 256} {l : Launch} {ix : Nat} {b : Bar} (hl : s.workerOf s.cur = some (l, ix))
    (hb : s.me.bars.find? (·.g == g) = some b) (hv : gExpect (s.group l g.val) ≠ 0) :
    myGroup s g = .ok (l, b, s.group l g.val) := by
  simp only [myGroup, hl, hb, if_neg hv]

/-- A group of which the worker is no member, or with EXPECT 0, is illegal. -/
theorem myGroup_illegal {s : State} {g : Fin 256} {l : Launch} {ix : Nat} (hl : s.workerOf s.cur = some (l, ix))
    (h : ∀ b, s.me.bars.find? (·.g == g) = some b → gExpect (s.group l g.val) = 0) : myGroup s g = .error illegal := by
  cases hb : s.me.bars.find? (·.g == g) with
  | none => simp only [myGroup, hl, hb]
  | some b => simp only [myGroup, hl, hb, if_pos (h b hb)]

theorem barrier_illegal {s : State} {g : Fin 256} (h : myGroup s g = .error illegal) :
    ∀ i ∈ [Instr.bara g, .barw g], exec i s = .next (s.slotTrap (TrapInfo.of 1 2)) := by
  have ha : exec (.bara g) s = .next (s.slotTrap (TrapInfo.of 1 2)) := by
    change execBara g s = _
    simp only [execBara, h, slotwise_error_bind]
    rfl
  have hw : exec (.barw g) s = .next (s.slotTrap (TrapInfo.of 1 2)) := by
    change execBarw g s = _
    simp only [execBarw, h, slotwise_error_bind]
    rfl
  intro i hi
  rcases List.mem_cons.1 hi with rfl | hi
  · exact ha
  · rw [List.mem_singleton.1 hi]
    exact hw

/-- Settles O28: an arrival is a release, a raise of AP and a message; a wait holds until the phase told has reached AP. -/
theorem barriers : Obligations.Barriers := by
  unfold Obligations.Barriers
  intro s g l ix b hl
  refine ⟨fun hb hv => barrier_illegal (myGroup_illegal hl fun _ _ => hv),
    fun hb => barrier_illegal (myGroup_illegal hl fun b h => absurd (hb.symm.trans h) (by simp)), fun hb hv => ⟨fun hw hr => ?_, fun hp => ?_, fun hp hw hm => ?_⟩⟩
  · have hg : b.g = g := by simpa using List.find?_some hb
    have hc := cachesOnly_releaseCaches s s.cur (gScope (s.group l g.val))
    refine ⟨((s.releaseCaches s.cur (gScope (s.group l g.val))).setMe
      ((s.releaseCaches s.cur (gScope (s.group l g.val))).me.setBar { b with ap := b.ap + 1 })).send (.arrival l.id g), ?_, ?_, ?_⟩
    · change execBara g s = _
      simp only [execBara, myGroup_ok hl hb hv, slotwise_ok_bind, release_ok hw hr, slotDo_ok]
    · simp only [State.send, State.setMe_hub, hc.hub]
    · change ((s.releaseCaches s.cur (gScope (s.group l g.val))).setMe _).me.bars = _
      rw [State.me_setMe, hc.me, ← hg]
      rfl
  · have hd : decide ((b.phase - b.ap).toNat < 2 ^ 15) = false := decide_eq_false (Nat.not_lt.2 hp)
    change execBarw g s = _
    simp only [execBarw, myGroup_ok hl hb hv, slotwise_ok_bind, hd, need_false, slotwise_error_bind]
    rfl
  · change execBarw g s = _
    simp only [execBarw, myGroup_ok hl hb hv, slotwise_ok_bind, decide_eq_true hp, need_true, acquire_ok hw hm]
    rfl

/-! ### The mailbox -/

/-- What the forms come to that may not wait, when they are ready. -/
theorem noWait_ready {s t : State} {m : Slotwise State} (c : Stall) (hm : m = .ok t) (pd : Option (Fin 16)) :
    noWait s pd true c m = .ok (match pd with
      | none => t
      | some p => t.latch (.pred p true) 1 0) := by
  subst hm
  cases pd <;> rfl

/-- And when they are not. -/
theorem noWait_unready (s : State) (m : Slotwise State) (c : Stall) (pd : Option (Fin 16)) :
    noWait s pd false c m = (match pd with
      | none => .error (.hold c [])
      | some p => .ok (s.latch (.pred p false) 1 0)) := by
  cases pd <;> rfl

/-- Settles O29: the mailbox takes an entry while it has room and gives its oldest. -/
theorem mailboxes : Obligations.Mailboxes := by
  unfold Obligations.Mailboxes
  intro s
  refine ⟨fun sa v hv hw => ⟨fun hn hr => ?_, fun hn => ?_⟩, fun sd pd hc => ?_, fun sd hc hs => ⟨fun hw pd => ?_, fun e rest hb hw hm => ?_, fun hb hw => ?_⟩⟩
  · have hfull : decide (8 ≤ s.mailCount (clusterOf s.cur)) = false := decide_eq_false (Nat.not_le.2 hn)
    have hx (pd : Option (Fin 16)) : exec (.mbreq sa pd) s = slotDo s (noWait s pd true .order
        (.ok (s.latch (.mail (BitVec.ofNat 64 (s.cur % 8 * 2 ^ 61 + v.toNat % 2 ^ 61))) 1 0))) := by
      change execMbreq sa pd s = _
      simp only [execMbreq, hv, hw, hfull, hr, slotwise_ok_bind, need_true, Bool.not_false, Bool.and_self, release_ok hw hr,
        releaseCaches_narrow s s.cur (sc := .cluster) (by decide)]
      rfl
    refine ⟨?_, fun p => ?_⟩ <;> rw [hx, noWait_ready _ rfl, slotDo_ok]
  · have hx (pd : Option (Fin 16)) : execMbreq sa pd s = slotDo s (match pd with
        | none => .error (.hold .mailbox [])
        | some p => .ok (s.latch (.pred p false) 1 0)) := by
      simp only [execMbreq, hv, hw, decide_eq_true hn, if_pos hn, slotwise_ok_bind, need_true, Bool.not_false, Bool.not_true, Bool.false_and,
        noWait_unready]
    exact ⟨hx none, fun p => hx (some p)⟩
  · change execMbtake sd pd s = _
    simp only [execMbtake, hc, need_false, slotwise_error_bind]
    rfl
  · change execMbtake sd pd s = _
    simp only [execMbtake, hc, hs, hw, need_true, slotwise_ok_bind, Bool.not_true, need_false, slotwise_error_bind]
    rfl
  · have hx (pd : Option (Fin 16)) : execMbtake sd pd s = slotDo s (noWait s pd true .order
        (.ok ((s.setCluster (clusterOf s.cur) { s.cluster (clusterOf s.cur) with mail := rest }).latch
          (.sreg (s.me.bankOf sd) sd e) 2 0))) := by
      have ha : acquire (s.setCluster (clusterOf s.cur) { s.cluster (clusterOf s.cur) with mail := rest }) .cluster =
          .ok (s.setCluster (clusterOf s.cur) { s.cluster (clusterOf s.cur) with mail := rest }) :=
        acquire_ok (sc := .cluster) hw hm
      have hput := putS_ok (s := s.setCluster (clusterOf s.cur) { s.cluster (clusterOf s.cur) with mail := rest }) (r := sd) hs e 2 0
      simp only [execMbtake, hc, hs, hw, hm, hb, need_true, slotwise_ok_bind, Bool.not_false, List.isEmpty_cons, Bool.and_self,
        List.tail_cons, List.headD_cons, ha, hput]
      rfl
    refine ⟨(hx none).trans ?_, fun p => (hx (some p)).trans ?_⟩ <;> rw [noWait_ready _ rfl, slotDo_ok]
  · have hx (pd : Option (Fin 16)) : execMbtake sd pd s = slotDo s (match pd with
        | none => .error (.hold .mailbox [])
        | some p => .ok (s.latch (.pred p false) 1 0)) := by
      simp only [execMbtake, hc, hs, hw, hb, need_true, slotwise_ok_bind, Bool.not_false, Bool.not_true, List.isEmpty_nil,
        Bool.false_and, if_true, noWait_unready]
    exact ⟨hx none, fun p => hx (some p)⟩

end Sys2Proof.Machine
end

section
/-! PROOF. Window declarations, the line operations and the invalidation of TLBs (R152, R164, R166, R199, R386, R390). -/

namespace Sys2Proof.Machine

/-! ### Declarations of windows -/

/-- Settles O30: a WDECL puts the window of its operands, a WDROP marks one. -/
theorem windowDeclarations : Obligations.WindowDeclarations := by
  unfold Obligations.WindowDeclarations
  refine ⟨fun s wn sa sb se a b e ha hb he => ⟨fun hw => ?_, fun hw => ?_⟩, fun s wn => ⟨fun hn => ?_, fun w hf hd => ?_⟩⟩
  · change execWdecl wn sa sb se s = _
    simp only [execWdecl, ha, hb, he, hw, slotwise_ok_bind, need_false, slotwise_error_bind]
    rfl
  · refine ⟨(s.setMe { s.me with wins := Map.put s.me.wins wn.val (winOf s.me a b e) }).latch (.window wn) 1 0,
      winOf s.me a b e, ?_, ?_, rfl, rfl, rfl, ?_, ?_, ?_, ?_, fun n hn => ?_⟩
    · change execWdecl wn sa sb se s = _
      simp only [execWdecl, ha, hb, he, hw, slotwise_ok_bind, need_true, slotDo_ok]
    · simp only [State.me_latch, State.me_setMe]
      rw [Map.find_put, if_pos rfl]
    · simp [winOf, field]
    · simp [winOf, field]
    · simp [winOf, field]
    · rw [State.me_latch, State.me_setMe]
      rfl
    · simp only [State.me_latch, State.me_setMe]
      rw [Map.find_put, if_neg (Ne.symm hn)]
  · change execWdrop wn s = _
    simp only [execWdrop, hn]
    rfl
  · change execWdrop wn s = _
    simp only [execWdrop, hf, hd, Bool.not_false, need_true, slotwise_ok_bind, slotDo_ok]

/-! ### Entries of TLBs dropped -/

/-- A part of a value that a map of a collection's values changes by a rule, and that the rule keeps of the value for what is not
listed. -/
theorem Map.get_map_of {f : Nat → α → α} {g : α → β} {h : β → β} (d : α) (m : Map α) (k : Nat) (hf : ∀ v, g (f k v) = h (g v))
    (hd : h (g d) = g d) : g (Map.get d (m.map fun p => (p.1, f p.1 p.2)) k) = h (g (Map.get d m k)) := by
  induction m with
  | nil => exact hd.symm
  | cons p m ih =>
    obtain ⟨j, v⟩ := p
    rw [List.map_cons, Map.get, Map.get]
    by_cases hj : j = k
    · subst hj
      rw [if_pos rfl, if_pos rfl, hf]
    · rw [if_neg hj, if_neg hj, ih]

/-- The dies of a command's scope are those that it names. -/
theorem mem_invDies {x scope d : Nat} (hs : scope = 1 ∨ scope = 2) (hd : d < 4) :
    (invDies x scope).contains d = true ↔ scope = 2 ∨ d = dieOf x := by
  rcases hs with rfl | rfl
  · simp [invDies]
  · simp only [invDies, true_or, iff_true]
    obtain rfl | rfl | rfl | rfl := eq_of_lt_four hd <;> rfl

/-- What a command leaves of a TLB (R199). -/
def keptTlb (s : State) (scope kind asid d : Nat) (l : List TlbEntry) : List TlbEntry :=
  if scope = 2 ∨ d = dieOf s.cur then l.filter fun e => !e.matches kind asid s.me.tlbiva.toNat else l

section
variable {s : State} {scope kind asid : Nat} (hs : scope = 1 ∨ scope = 2)
include hs

theorem invalidate_core_tlb {k : Nat} (hk : k < 160) :
    ((s.invalidate scope kind asid s.me.tlbiva.toNat).core k).tlb = keptTlb s scope kind asid (k / 40) (s.core k).tlb := by
  refine Map.get_map_of (g := CoreSt.tlb) (h := keptTlb s scope kind asid (k / 40))
    (f := fun j v => if (invDies s.cur scope).contains (j / 40) then { v with tlb := keepTlb kind asid s.me.tlbiva.toNat v.tlb } else v)
    CoreSt.reset s.cores k (fun v => ?_) ?_
  · by_cases h : scope = 2 ∨ k / 40 = dieOf s.cur
    · rw [if_pos ((mem_invDies hs (by omega)).2 h), keptTlb, if_pos h]
      rfl
    · rw [if_neg (mt (mem_invDies hs (by omega)).1 h), keptTlb, if_neg h]
  · unfold keptTlb
    split <;> rfl

theorem invalidate_cluster_tlb {k : Nat} (hk : k < 40) :
    ((s.invalidate scope kind asid s.me.tlbiva.toNat).cluster k).tlb = keptTlb s scope kind asid (k / 10) (s.cluster k).tlb := by
  refine Map.get_map_of (g := ClusterSt.tlb) (h := keptTlb s scope kind asid (k / 10))
    (f := fun j v => if (invDies s.cur scope).contains (j / 10) then { v with tlb := keepTlb kind asid s.me.tlbiva.toNat v.tlb } else v)
    ClusterSt.reset s.clusters k (fun v => ?_) ?_
  · by_cases h : scope = 2 ∨ k / 10 = dieOf s.cur
    · rw [if_pos ((mem_invDies hs (by omega)).2 h), keptTlb, if_pos h]
      rfl
    · rw [if_neg (mt (mem_invDies hs (by omega)).1 h), keptTlb, if_neg h]
  · unfold keptTlb
    split <;> rfl

theorem invalidate_die_tlb {k : Nat} (hk : k < 4) :
    ((s.invalidate scope kind asid s.me.tlbiva.toNat).die k).tlb = keptTlb s scope kind asid k (s.die k).tlb := by
  refine Map.get_map_of (g := DieSt.tlb) (h := keptTlb s scope kind asid k)
    (f := fun j v => if (invDies s.cur scope).contains j then { v with tlb := keepTlb kind asid s.me.tlbiva.toNat v.tlb } else v)
    DieSt.reset s.dies k (fun v => ?_) ?_
  · by_cases h : scope = 2 ∨ k = dieOf s.cur
    · rw [if_pos ((mem_invDies hs (by omega)).2 h), keptTlb, if_pos h]
      rfl
    · rw [if_neg (mt (mem_invDies hs (by omega)).1 h), keptTlb, if_neg h]
  · unfold keptTlb
    split <;> rfl

end

/-- No walk begins or ends with an invalidation. -/
theorem invalidate_walks (s : State) (scope kind asid va k : Nat) :
    ((s.invalidate scope kind asid va).die k).walks = (s.die k).walks := by
  refine Map.get_map_of (g := DieSt.walks) (h := id)
    (f := fun j v => if (invDies s.cur scope).contains j then { v with tlb := keepTlb kind asid va v.tlb } else v)
    DieSt.reset s.dies k (fun v => ?_) rfl
  split <;> rfl

/-- The instructions of TLBINV are one command of a kind. -/
theorem exec_tlbinv (s : State) (sa : Fin 64) (kind : Nat) (hk : kind < 3) :
    exec (if kind = 0 then .tlbinvEntry sa else if kind = 1 then .tlbinvAsid sa else .tlbinvAll sa) s =
      slotDo s (do
        need s.me.sup privilege
        let v ← rdS s sa
        tlbinv s v kind) := by
  obtain rfl | rfl | rfl : kind = 0 ∨ kind = 1 ∨ kind = 2 := by omega
  all_goals rfl

theorem exec_tlbinv_user {s : State} (sa : Fin 64) (kind : Nat) (h : s.me.sup = false) :
    exec (if kind = 0 then .tlbinvEntry sa else if kind = 1 then .tlbinvAsid sa else .tlbinvAll sa) s =
      .next (s.slotTrap (TrapInfo.of 2 0)) := by
  split
  · change execTlbinvEntry sa s = _
    simp only [execTlbinvEntry, h, need_false, slotwise_error_bind]
    rfl
  · split
    · change execTlbinvAsid sa s = _
      simp only [execTlbinvAsid, h, need_false, slotwise_error_bind]
      rfl
    · change execTlbinvAll sa s = _
      simp only [execTlbinvAll, h, need_false, slotwise_error_bind]
      rfl

/-- A command presented, its time noted (R199). -/
def State.withInv (s : State) : State := s.setMe { s.me.keepDropped (s.tlbs s.cur) with inv := some s.clock }

/-- Settles O10: a command drops its entries when it is first presented, and then waits. -/
theorem tlbInvalidation : Obligations.TlbInvalidation := by
  unfold Obligations.TlbInvalidation
  intro s sa v kind scope hv
  refine ⟨fun hu => exec_tlbinv_user sa kind hu, fun hsup hsc hr hf hk hc => ?_⟩
  have hlegal : (v.toNat / 2 ^ 16 == 0 && (scope == 1 || scope == 2) && decide (kind < 3)) = true := by
    simp only [hr, hk, decide_true, beq_self_eq_true, Bool.true_and, Bool.and_true]
    simpa using hsc
  have hcan : (kind != 0 || canonical s.me.tlbiva.toNat) = true := by
    by_cases h0 : kind = 0
    · rw [hc h0, Bool.or_true]
    · simp [h0]
  have hx := exec_tlbinv s sa kind hk
  simp only [hsup, need_true, slotwise_ok_bind, hv, tlbinv, hf, hlegal, hcan] at hx
  refine ⟨fun n hn => ?_, fun hn => ?_⟩
  · rw [hx]
    simp only [hn, Option.isSome_some, if_true, Option.getD_some]
    cases s.accessesDone (invDies s.cur scope) n <;> rfl
  · have hu : s.setMe { s.me.keepDropped (s.tlbs s.cur) with inv := some s.clock } = s.withInv := rfl
    rw [hu] at hx
    have hume : s.withInv.me.tlbiva = s.me.tlbiva := by rw [State.withInv, State.me_setMe]; rfl
    have huinv : (s.withInv.invalidate scope kind (field v.toNat 15 4) s.me.tlbiva.toNat).me.inv = some s.clock := by
      change s.withInv.me.inv = some s.clock
      rw [State.withInv, State.me_setMe]
    refine ⟨s.withInv.invalidate scope kind (field v.toNat 15 4) s.me.tlbiva.toNat, ?_,
      ⟨fun k hk => ?_, fun c hc => ?_, fun d hd => ?_⟩, fun d _ => invalidate_walks s.withInv _ _ _ _ d, ?_, rfl, rfl⟩
    · rw [hx]
      simp only [hn, Option.isSome_none, Bool.false_eq_true, if_false, huinv, Option.getD_some]
      cases (s.withInv.invalidate scope kind (field v.toNat 15 4) s.me.tlbiva.toNat).accessesDone (invDies s.cur scope) s.clock <;> rfl
    · rw [← hume]
      exact invalidate_core_tlb hsc hk
    · rw [← hume]
      exact invalidate_cluster_tlb hsc hc
    · rw [← hume]
      exact invalidate_die_tlb hsc hd
    · change (if scope = 2 then { s.hub with xtlb := [] } else s.hub).xtlb = _
      split <;> rfl

end Sys2Proof.Machine
end

section
/-! PROOF. A ZLINE of a line beyond its stack's capacity (R152, R301): besides the line operation's effect it leaves the imprecise fault
of a fabric error, so that the state is not the one that the effect on the lines alone gives. -/

namespace Sys2Proof.Machine

/-- An entry of a TLB whose frame stands at 60 GiB of stack 0. -/
def farPage : TlbEntry := ⟨0, 0x100000, 0x100000, 60 * 2 ^ 30, ⟨.f32, 0, 0, false, 0, false⟩, true, true, true, true, false⟩

/-- A part with 48 GiB per stack, a context of which is to set one line of that page to zero. -/
def farLineState : State := { State.reset with
  hub := { Hub.reset with fuse := { Fuse.full with gib := List.replicate 8 48 } }
  ctxs := [(0, { Ctx.reset with s := (Ctx.reset.s.set 1 0x100000).set 3 128 })]
  dies := [(0, { DieSt.reset with tlb := [farPage] })] }

/-- The imprecise faults that a step leaves to its context. -/
def faultsLeft : Host.Outcome State Fault Refusal → Nat
  | .next t => t.me.impq.length
  | _ => 0

/-- The range is one line, at 60 GiB of stack 0. -/
def farLine : Xl := ⟨.mem (60 * 2 ^ 30), farPage.attr, none⟩

theorem lineRange_farLine : lineRange farLineState .store 0x100000 1 = .ok [(0x100000, farLine)] := rfl

end Sys2Proof.Machine

namespace Sys2Proof

open Machine

/-- Refutes O23: a ZLINE of a line beyond its stack's capacity leaves an imprecise fault. -/
theorem not_lineOperations : ¬ Obligations.LineOperations := by
  intro h
  obtain ⟨-, hz, -⟩ := h farLineState 1 3 none 0x100000 128 rfl rfl
  obtain ⟨-, hz⟩ := hz (by decide) (by decide) (by decide) (by decide) (by decide +kernel) (by decide +kernel)
  obtain ⟨hz, -⟩ := hz none [(0x100000, farLine)] (by decide +kernel) lineRange_farLine
    (fun l hl => by rw [List.mem_singleton.1 hl]; rfl)
  have hfaults := congrArg faultsLeft (hz (by decide +kernel))
  exact absurd hfaults (by decide +kernel)

end Sys2Proof
end

section
/-! PROOF. The slots of the matrix array: MCLAIM, MREL and MLD on operand slots, MMA, MZERO, MST and MSEQ (R116 to R128). -/

namespace Sys2Proof.Machine

/-! ### The mode and the names -/

theorem arrayOk_of_mode {s : State} (h : inArrayMode s) : arrayOk s = .ok () := by
  obtain ⟨hs, hm, ho⟩ := h
  have hmode : (s.me.amode == 1 || s.me.amode == 2) = true := by simpa using hm
  simp only [arrayOk, hs, hmode, ho, Bool.not_false, Bool.and_self, need_true, slotwise_ok_bind]

theorem arrayOk_sup {s : State} (h : s.me.sup = true) : arrayOk s = .error illegal := by
  simp only [arrayOk, h, Bool.not_true, need_false, slotwise_error_bind]

theorem arrayOk_off {s : State} (h : s.me.sup = false) (h1 : s.me.amode ≠ 1) (h2 : s.me.amode ≠ 2) : arrayOk s = .error schedFault := by
  have hmode : (s.me.amode == 1 || s.me.amode == 2) = false := by simp [h1, h2]
  simp only [arrayOk, h, hmode, Bool.not_false, Bool.false_and, need_true, need_false, slotwise_ok_bind]

theorem physSlot_ok {s : State} {om : Fin 16} {n : Nat} {o : OSlot} (h : slotNamed s om n o) : physSlot s om = .ok (n, o) := by
  obtain ⟨hom, rfl, rfl⟩ := h
  simp only [physSlot, decide_eq_true hom, need_true, slotwise_ok_bind]

theorem fillable_ok {s : State} {om : Fin 16} {n : Nat} {o : OSlot} (h : slotNamed s om n o) (hc : o.claimed = true)
    (hf : o.fill = none) (hr : s.reads s.cur n = false) : fillable s om = .ok (n, o) := by
  simp only [fillable, physSlot_ok h, slotwise_ok_bind, hc, hf, hr, Option.isNone_none, Bool.not_false, Bool.and_self, need_true]

/-- Rows are held by no summary operation in supervisor mode, nor where none runs (R137). -/
theorem sumHold_unheld {s : State} (h : s.me.sup = true ∨ s.myCore.sumop = none) (rs : List Nat) : sumHold s rs = .ok () := by
  unfold sumHold
  rcases h with h | h
  · rw [h]
    split <;> simp
  · rw [h]

/-- A unit of a view is then found or is at fault; it is not waited for. -/
theorem viewUnit_ne_hold {s : State} (h : s.me.sup = true ∨ s.myCore.sumop = none) (vw : Fin 64) (kind ix : Nat) (c : Stall)
    (ns : List Need) : viewUnit s vw kind ix ≠ .error (.hold c ns) := by
  have hn (b : Bool) (k : Nat) : need b (viewFault k) ≠ .error (.hold c ns) := by cases b <;> exact nofun
  have hb {α β : Type} {m : Slotwise α} {f : α → Slotwise β} (hm : m ≠ .error (.hold c ns)) (hf : ∀ a, f a ≠ .error (.hold c ns)) :
      (m >>= f) ≠ .error (.hold c ns) := by
    cases m with
    | error e => exact fun h => hm (by simpa using h)
    | ok a => exact hf a
  unfold viewUnit
  refine hb (hn _ _) fun _ => hb (hn _ _) fun _ => ?_
  split
  · exact nofun
  · dsimp only
    rw [sumHold_unheld h]
    exact nofun

theorem sumNames_unheld {s : State} (h : s.me.sup = true ∨ s.myCore.sumop = none) (row : Slotwise Nat) (us : List (Fin 64 × Nat × Nat)) :
    sumNames s row us = .ok () := by
  cases row with
  | error e => rfl
  | ok i =>
    change us.forM _ = _
    induction us with
    | nil => rfl
    | cons u us ih =>
      rw [List.forM_eq_forM] at ih ⊢
      rw [List.forM_cons]
      cases hv : viewUnit s u.1 u.2.1 (i + u.2.2) with
      | ok r => simpa only [hv, slotwise_ok_bind] using ih
      | error e =>
        cases e with
        | hold c ns => exact absurd hv (viewUnit_ne_hold h _ _ _ _ _)
        | trap t => simpa only [hv, slotwise_ok_bind] using ih
        | wait t => simpa only [hv, slotwise_ok_bind] using ih

/-! ### What the slots refuse -/

/-- The instructions of operand slots begin with the checks of every M slot. -/
theorem slotDo_arrayOk {s : State} {e : Stop} (h : arrayOk s = .error e) (f : Unit → Slotwise State) :
    slotDo s (arrayOk s >>= f) = slotDo s (.error e) := by
  rw [h, slotwise_error_bind]

theorem operandSlots_refuse {s : State} {e : Stop} (h : arrayOk s = .error e) (om : Fin 16) (sa vw : Fin 64) (banks : BitVec 32)
    (row : Row8) (pd : Option (Fin 16)) {i : Instr} (hi : i ∈ [Instr.mclaim om pd, .mrel om, .mldSp om sa banks, .mldView om vw row])
    (hv : i = .mldView om vw row → s.me.sup = true ∨ s.myCore.sumop = none) : exec i s = slotDo s (.error e) := by
  simp only [List.mem_cons, List.not_mem_nil, or_false] at hi
  rcases hi with rfl | rfl | rfl | rfl
  · exact slotDo_arrayOk h _
  · exact slotDo_arrayOk h _
  · exact slotDo_arrayOk h _
  · change execMldView om vw row s = _
    rw [execMldView, sumNames_unheld (hv rfl), slotwise_ok_bind]
    exact slotDo_arrayOk h _

/-! ### MCLAIM, MREL and MLD -/

theorem ready_iff (s : State) (n : Nat) (o : OSlot) :
    (o.claimed || (o.fill.isNone && !s.reads s.cur n)) = true ↔ o.claimed = true ∨ (o.fill = none ∧ s.reads s.cur n = false) := by
  simp

/-- The places that an access names leave who acts. -/
@[simp] theorem placesUsed_cur (s : State) (x : Nat) (ls : List Loc) : (s.placesUsed x ls).cur = s.cur := by
  simp only [State.placesUsed, State.useTlb, State.useDieTlb]
  split
  · rfl
  · split
    · rfl
    · split <;> rfl

theorem withOp_cur (s : State) (k : MemKind) (sc : Option Scope) (a : Attr) (es : List ElemLoc) : (withOp s k sc a es).cur = s.cur := by
  simp only [withOp, placesUsed_cur, State.setMe_cur]

/-- Bytes that no store in flight owes are not waited for. -/
theorem waitSp_ok {s : State} {offs : List Nat} (h : s.me.owesSp (fun _ => true) offs = false) : waitSp s offs = .ok () := by
  have hb : s.me.owesSp (fun m => m.born < s.clock) offs = false := by
    rw [← Bool.not_eq_true] at h ⊢
    refine mt (fun hb => ?_) h
    simp only [Ctx.owesSp, List.any_eq_true] at hb ⊢
    obtain ⟨m, hm, hb⟩ := hb
    refine ⟨m, hm, ?_⟩
    simp only [Bool.and_eq_true] at hb ⊢
    obtain ⟨⟨⟨-, h1⟩, h2⟩, h3⟩ := hb
    exact ⟨⟨⟨trivial, h1⟩, h2⟩, h3⟩
  simp only [waitSp, hb, h, Bool.not_false, need_true, slotwise_ok_bind]

/-- The scale bytes of a fill: those outside the scratchpad come by one load. -/
theorem scaleLoad_ok {s : State} (n : Nat) (a : Attr) {ls : List Loc} (hw : s.me.owesSp (fun _ => true) (ls.filterMap s.me.spOf) = false)
    (hl : (numbered ls).filter (fun p => (s.me.spOf p.2).isNone) ≠ [] → inFlight s true < 32) :
    let far := (numbered ls).filter fun p => (s.me.spOf p.2).isNone
    scaleLoad s n a ls = .ok (if far = [] then s else withOp s (.load (.scales n (far.map (·.1)))) none a (far.map fun p => ⟨[p.2], none⟩),
      ls.map fun l => (s.me.spOf l).elim 0 (Memory.read s.myCore.sp)) := by
  intro far
  simp only [scaleLoad, waitSp_ok hw, slotwise_ok_bind]
  by_cases hfar : far = []
  · rw [if_pos hfar, if_pos (List.isEmpty_iff.2 hfar)]
  · have hpush : pushOp s (s.newOp (.load (.scales n (far.map (·.1)))) none a (far.map fun p => ⟨[p.2], none⟩)) =
        .ok (withOp s (.load (.scales n (far.map (·.1)))) none a (far.map fun p => ⟨[p.2], none⟩)) :=
      (pushOp_eq _ _).trans (if_pos (hl hfar))
    rw [if_neg hfar, if_neg fun h => hfar (List.isEmpty_iff.1 h), hpush, slotwise_ok_bind]

/-- Settles O31: the slots of R116 by their names, claimed, given back and filled. -/
theorem operandSlots : Obligations.OperandSlots := by
  unfold Obligations.OperandSlots
  refine ⟨fun s om sa vw banks row pd i hi => ⟨fun hs => ?_, fun hs h1 h2 hv => ?_⟩, fun s om n o hm hn => ?_⟩
  · exact (operandSlots_refuse (arrayOk_sup hs) om sa vw banks row pd hi fun _ => .inl hs).trans rfl
  · exact (operandSlots_refuse (arrayOk_off hs h1 h2) om sa vw banks row pd hi fun h => .inr (hv h)).trans rfl
  have ha := arrayOk_of_mode hm
  have hp := physSlot_ok hn
  refine ⟨fun hr => ?_, fun hr => ?_, fun hc => ?_, fun hc => ?_, fun hc hf hrd => ⟨fun vw row i u bs hi hu hbs => ?_,
    fun sa banks va g offs ls hva h256 hpitch hg hoffs hcov hbanks hls hsp hsc hfar => ?_⟩⟩
  · have hr' := (ready_iff s n o).2 hr
    refine ⟨?_, fun p => ?_⟩
    · change execMclaim om none s = _
      simp only [execMclaim, ha, hp, slotwise_ok_bind, hr', need_true, slotDo_ok]
    · change execMclaim om (some p) s = _
      simp only [execMclaim, ha, hp, slotwise_ok_bind, hr', if_true, slotDo_ok]
      rfl
  · have hr' : (o.claimed || (o.fill.isNone && !s.reads s.cur n)) = false := by rw [← Bool.not_eq_true, ready_iff]; exact hr
    refine ⟨?_, fun p => ?_⟩
    · change execMclaim om none s = _
      simp only [execMclaim, ha, hp, slotwise_ok_bind, hr', need_false, slotwise_error_bind]
      rfl
    · change execMclaim om (some p) s = _
      simp only [execMclaim, ha, hp, slotwise_ok_bind, hr', Bool.false_eq_true, if_false, slotDo_ok]
      rfl
  · change execMrel om s = _
    simp only [execMrel, ha, hp, slotwise_ok_bind, hc, need_true, slotDo_ok]
  · change execMrel om s = _
    simp only [execMrel, ha, hp, slotwise_ok_bind, hc, need_false, slotwise_error_bind]
    rfl
  · have hnames : sumNames s (row8 s row) [(vw, 1, 0)] = .ok () :=
      sumNames_ok hi fun v hv => by rw [List.mem_singleton.1 hv]; exact ⟨u, hu⟩
    change execMldView om vw row s = _
    simp only [execMldView, hnames, ha, fillable_ok hn hc hf hrd, slotwise_ok_bind]
    simp only [hi, hu, hbs, slotwise_ok_bind, slotDo_ok]
    rfl
  · change execMldSp om sa banks s = _
    have h256' : (va.toNat % 256 == 0 && pitchOf s != 0) = true := by simp [h256, hpitch]
    simp only [execMldSp, ha, fillable_ok hn hc hf hrd, hva, slotwise_ok_bind, h256', need_true, hg, hoffs, hcov, hbanks,
      waitSp_ok hsp, hls, scaleLoad_ok n g.2.attr hsc hfar, slotDo_ok]
    simp only [State.fill]
    split
    · rfl
    · rw [withOp_cur]

/-! ### MMA, MZERO, MST and MSEQ -/

theorem accOk_ok {s : State} {acc : Fin 4} (hb : s.me.busy = 0) (ho : ownsAcc s.me.amode (coreOf s.cur) acc = true) :
    accOk s acc = .ok () := by
  simp only [accOk, ho, hb, beq_self_eq_true, Bool.and_self, need_true]

theorem accOk_fault {s : State} {acc : Fin 4} (h : s.me.busy ≠ 0 ∨ ownsAcc s.me.amode (coreOf s.cur) acc = false) :
    accOk s acc = .error schedFault := by
  have hn : (ownsAcc s.me.amode (coreOf s.cur) acc && s.me.busy == 0) = false := by
    rcases h with h | h
    · simp [h]
    · rw [h, Bool.false_and]
  simp only [accOk, hn, need_false]

theorem noTail_ok {s : State} {acc : Fin 4} (h : ∀ p ∈ s.me.passes, p.acc ≠ acc) : noTail s acc = .ok () := by
  have hn : (s.me.passes.any (·.acc == acc)) = false := by
    rw [List.any_eq_false]
    intro p hp
    simpa using h p hp
  simp only [noTail, hn, Bool.not_false, need_true]

/-- Checks over a list that all pass. -/
theorem forM_ok {f : α → Slotwise Unit} {l : List α} (h : ∀ a ∈ l, f a = .ok ()) : l.forM f = .ok () := by
  induction l with
  | nil => rfl
  | cons a l ih =>
    rw [List.forM_eq_forM] at ih ⊢
    rw [List.forM_cons, h a (List.mem_cons_self ..)]
    exact ih fun b hb => h b (List.mem_cons_of_mem _ hb)

/-- Settles O32: each operation's conditions in their order, then its pass or its drain. -/
theorem arrayOperations : Obligations.ArrayOperations := by
  unfold Obligations.ArrayOperations
  intro s hm
  have ha := arrayOk_of_mode hm
  refine ⟨fun lenm1 seq => ?_, fun oma omb acc cop rm beatsm1 na nb oa ob hna hnb hca hcb => ⟨fun hbad => ⟨?_, ?_⟩,
    fun hb ho hfa hfb hfmt htok => ?_⟩, fun acc hb ho ht => ⟨?_, fun vw row i u hi hu hw => ?_,
    fun sa banks va offs hva h256 hpitch hoffs hcov hbanks => ?_⟩⟩
  · change execMseq lenm1 seq s = _
    simp only [execMseq, ha, slotwise_ok_bind, slotDo_ok]
  · change execMma oma omb acc cop rm beatsm1 s = _
    simp only [execMma, ha, physSlot_ok hna, physSlot_ok hnb, hca, hcb, Bool.and_self, need_true, slotwise_ok_bind, accOk_fault hbad,
      slotwise_error_bind]
    rfl
  · change execMzero acc s = _
    simp only [execMzero, ha, slotwise_ok_bind, accOk_fault hbad, slotwise_error_bind]
    rfl
  · change execMma oma omb acc cop rm beatsm1 s = _
    simp only [execMma, ha, physSlot_ok hna, physSlot_ok hnb, hca, hcb, Bool.and_self, need_true, slotwise_ok_bind, accOk_ok hb ho,
      hfa, hfb, Option.isNone_none, hfmt, beq_self_eq_true, htok, slotDo_ok]
    rfl
  · change execMzero acc s = _
    simp only [execMzero, ha, slotwise_ok_bind, accOk_ok hb ho, noTail_ok ht, slotDo_ok]
    rfl
  · have hnames : sumNames s (row8 s row) [(vw, 2, 0)] = .ok () :=
      sumNames_ok hi fun v hv => by rw [List.mem_singleton.1 hv]; exact ⟨_, hu⟩
    have hrows : ((List.range 128).map fun k => (u + k) % 512).forM (wrRow s) = .ok () :=
      forM_ok fun r hr => by
        obtain ⟨k, hk, rfl⟩ := List.mem_map.1 hr
        exact hw k (List.mem_range.1 hk)
    change execMstView acc vw row s = _
    simp only [execMstView, hnames, ha, accOk_ok hb ho, noTail_ok ht, slotwise_ok_bind]
    simp only [hi, hu, slotwise_ok_bind, beq_self_eq_true, need_true, hrows, slotDo_ok]
    rfl
  · change execMstSp acc sa banks s = _
    have h256' : (va.toNat % 256 == 0 && decide (2 ≤ pitchOf s)) = true := by simp [h256, hpitch]
    simp only [execMstSp, ha, accOk_ok hb ho, noTail_ok ht, hva, slotwise_ok_bind, h256', need_true, hoffs, hcov, hbanks, slotDo_ok]
    rfl

end Sys2Proof.Machine
end

section
/-! PROOF. The summary unit: each SK instruction starts one operation with its beats and its rows (R131 to R143). -/

namespace Sys2Proof.Machine

/-! ### Rows that land with the last beat -/

theorem sumop_touch (c : CoreSt) (t : Nat) (rs : List Nat) : (rs.foldl (fun c r => c.touch t r) c).sumop = c.sumop := by
  induction rs generalizing c with
  | nil => rfl
  | cons r rs ih => exact ih _

theorem sumop_touched (s : State) (rs : List Nat) : (s.touched rs).myCore.sumop = s.myCore.sumop := by
  have hcore : (s.touched rs).myCore = rs.foldl (fun c r => c.touch s.clock r) s.myCore := State.setCore_core_same _ _ _
  rw [hcore, sumop_touch]

/-- Rows put one after another: the flags stand with the first, and the unit and memory are left alone. -/
theorem putRows_frame (lat : Nat) {rs : List (Nat × RowBits)} {s : State} (h : ∀ r ∈ rs, wrRow s r.1 = .ok ()) (fl : Flags) :
    ∃ t : State, putRows s lat fl rs = .ok t ∧ t.myCore.sumop = s.myCore.sumop ∧ t.mem = s.mem ∧
      t.me.lat = s.me.lat ++ (rs.zip (fl :: List.replicate rs.length 0)).map
        fun r => ⟨.row r.1.1 fullMask r.1.2, lat, r.2, s.slot, s.me.ba, s.me.cc⟩ := by
  induction rs generalizing s fl with
  | nil => exact ⟨s, rfl, rfl, rfl, (List.append_nil _).symm⟩
  | cons r rs ih =>
    obtain ⟨r, v⟩ := r
    let u : State := (s.touched [r]).latch (.row r fullMask v) lat fl
    obtain ⟨t, ht, hsum, hmem, hlat⟩ := ih (s := u) (fun q hq => by simpa [u] using h q (List.mem_cons_of_mem _ hq)) 0
    refine ⟨t, ?_, ?_, hmem, ?_⟩
    · rw [putRows, putRowT_ok (h (r, v) (List.mem_cons_self ..)), slotwise_ok_bind]
      exact ht
    · rw [hsum, myCore_latch]
      exact sumop_touched _ _
    · rw [hlat]
      simp only [u, State.me_latch, me_touched, slot_latch, slot_touched, List.zip_cons_cons, List.map_cons, List.append_assoc,
        List.singleton_append, List.length_cons, List.replicate_succ]
      rfl

/-- An operation started occupies the unit; its rows land together. -/
theorem startSum_summed {s : State} (n : Nat) (reads : List Nat) {o : SumOut} (h : ∀ r ∈ o.rows, wrRow s r.1 = .ok ()) :
    ∃ t, startSum (s.useFree n) reads o = .ok t ∧ summed s o t := by
  have hrows : o.rows.forM (fun r => wrRow (s.useFree n) r.1) = .ok () := forM_ok h
  let v : State := (s.useFree n).setCore (coreOf s.cur) { s.myCore with sumop := some ⟨s.cur, o.beats, o.rows.map (·.1), s.me.ba⟩ }
  have hv : v.myCore = { s.myCore with sumop := some ⟨s.cur, o.beats, o.rows.map (·.1), s.me.ba⟩ } := State.setCore_core_same _ _ _
  have hu : (v.touched reads).myCore.sumop = some ⟨s.cur, o.beats, o.rows.map (·.1), s.me.ba⟩ := by rw [sumop_touched, hv]
  have hw : ∀ r ∈ o.rows, wrRow (v.touched reads) r.1 = .ok () := fun r hr => by
    rw [wrRow_touched, wrRow, hv]
    exact h r hr
  obtain ⟨t, ht, hsum, hmem, hlat⟩ := putRows_frame o.beats hw o.fl
  refine ⟨t, ?_, hlat, hsum.trans hu, hmem⟩
  rw [startSum, hrows, slotwise_ok_bind]
  exact ht

/-! ### The mould -/

/-- An SK instruction completes when its unit is free, its operands are read and its checks pass. -/
theorem summary_ok {s : State} {md : Option Modifier} {reads : List (Slotwise (List Nat))} {f : List RowBits → Slotwise (SumOut × Nat)}
    {rs : List Nat} {bs : List RowBits} {o : SumOut} {n : Nat} (hs : s.me.sup = false) (hsum : s.myCore.sumop = none)
    (hp : predOn s md = true) (hrs : namedRows reads = .ok rs) (hbs : rdRowsEng s rs = .ok (some bs)) (hf : f bs = .ok (o, n))
    (hw : ∀ r ∈ o.rows, wrRow s r.1 = .ok ()) : ∃ t, summary md s reads f = .next t ∧ summed s o t := by
  obtain ⟨t, ht, hsm⟩ := startSum_summed n rs hw
  refine ⟨t, ?_, hsm⟩
  simp only [summary, hs, Bool.false_and, Bool.not_false, need_true, slotwise_ok_bind, hsum, Option.all_none, predicated_on hp, hrs,
    hbs, hf, ht, slotDo_ok]

theorem summary_sup {s : State} {md : Option Modifier} (reads : List (Slotwise (List Nat))) (f : List RowBits → Slotwise (SumOut × Nat))
    (hs : s.me.sup = true) (hp : predOn s md = true) : summary md s reads f = .next (s.slotTrap (TrapInfo.of 1 2)) := by
  simp only [summary, hs, hp, Bool.and_self, Bool.not_true, need_false, slotwise_error_bind]
  rfl

theorem summary_held {s : State} {md : Option Modifier} (reads : List (Slotwise (List Nat))) (f : List RowBits → Slotwise (SumOut × Nat))
    (hs : s.me.sup = false) (h : s.myCore.sumop ≠ none) : summary md s reads f = .next (s.heldBy .summary) := by
  obtain ⟨o, ho⟩ := Option.ne_none_iff_exists'.1 h
  simp only [summary, hs, ho, Bool.false_and, Bool.not_false, need_true, slotwise_ok_bind, Option.all_some, need_false,
    slotwise_error_bind]
  rfl

/-- Every SK instruction is the mould's. -/
theorem summary_of_mem {vd va vb sb : Fin 64} {row : Row8} {md : Option Modifier} {kind : SumKind} {ins : Instr}
    (h : ins ∈ [Instr.skinit vd kind sb row md, .skq vd va row md, .skh vd va row md, .skd vd va row md, .skmerge vd va vb row md,
      .skqry vd va sb row md, .skest vd va row md, .sktop vd va row md]) (s : State) :
    ∃ reads f, exec ins s = summary md s reads f := by
  simp only [List.mem_cons, List.not_mem_nil, or_false] at h
  rcases h with rfl | rfl | rfl | rfl | rfl | rfl | rfl | rfl <;> exact ⟨_, _, rfl⟩

/-- The rows of named operands. -/
theorem namedRows_ok {reads : List (Slotwise (List Nat))} {rs : List (List Nat)} (h : reads = rs.map .ok) :
    namedRows reads = .ok rs.flatten := by
  subst h
  induction rs with
  | nil => rfl
  | cons r rs ih =>
    rw [List.map_cons, namedRows, ih]
    · rfl
    · exact nofun

/-! ### The instructions -/

section
variable {s : State} {row : Row8} {md : Option Modifier} {i : Nat} (hs : s.me.sup = false) (hu : s.myCore.sumop = none)
  (hp : predOn s md = true) (hi : row8 s row = .ok i)
include hs hu hp hi

/-- The three ingesting instructions: the object at VD and a row of keys. -/
theorem ingest_ok {k : SumKind} {ok : Fmt → Bool} {f : SumObj → Fmt → RowBits → SumObj × Nat} {vd va : Fin 64} {d a : Nat} {g : Fmt}
    {bs : List RowBits} {b : RowBits} (hd : sumUnit s vd (i + doff md) = .ok d) (ha : sumRow s va (i + aoff md) ok = .ok (g, a))
    (hl : bs.length = 8) (hbs : rdRowsEng s (objSpan d ++ [a]) = .ok (some (bs ++ [b]))) (hk : kindOf (objOf bs) = some k)
    (hq : (k != .quantile || (Quant.of (objOf bs)).wellFormed) = true)
    (hw : ∀ r ∈ writeObj d (f (objOf bs) g b).1, wrRow s r.1 = .ok ()) :
    ∃ t, ingest k ok f vd va row md s = .next t ∧ summed s ⟨(f (objOf bs) g b).2, writeObj d (f (objOf bs) g b).1, 0⟩ t := by
  refine summary_ok (rs := objSpan d ++ [a]) (bs := bs ++ [b]) (n := 0) hs hu hp ?_ hbs ?_ hw
  · simp only [hi, hd, ha, slotwise_ok_bind]
    exact namedRows_ok (rs := [objSpan d, [a]]) rfl
  · have htake : (bs ++ [b]).take 8 = bs := by rw [← hl, List.take_left]
    have hget : (bs ++ [b]).getD 8 0 = b := by rw [← hl]; simp
    simp only [hi, hd, ha, slotwise_ok_bind, htake, hget, hk, hq, beq_self_eq_true, need_true]

/-- The instructions that read an object and write rows. -/
theorem examine_ok {k : SumKind} {ok : Fmt → Bool} {n : Nat} {f : SumObj → Slotwise ((List RowBits × Nat × Flags) × Nat)} {vd va : Fin 64}
    {a : Nat} {bs : List RowBits} {ds : List (Fmt × Nat)} {v : List RowBits} {beats m : Nat} {fl : Flags}
    (hd : (List.range n).mapM (fun j => sumRow s vd (i + doff md + j) ok) = .ok ds) (ha : sumUnit s va (i + aoff md) = .ok a)
    (hbs : rdRowsEng s (objSpan a) = .ok (some bs)) (hk : kindOf (objOf bs) = some k)
    (hq : (k != .quantile || (Quant.of (objOf bs)).wellFormed) = true) (hf : f (objOf bs) = .ok ((v, beats, fl), m))
    (hw : ∀ r ∈ (ds.map (·.2)).zip v, wrRow s r.1 = .ok ()) :
    ∃ t, examine k ok n f vd va row md s = .next t ∧ summed s ⟨beats, (ds.map (·.2)).zip v, fl⟩ t := by
  refine summary_ok (rs := objSpan a) (bs := bs) (n := m) hs hu hp ?_ hbs ?_ hw
  · simp only [hi, ha, slotwise_ok_bind]
    exact (namedRows_ok (rs := [objSpan a]) rfl).trans (by rw [List.flatten_singleton])
  · simp only [hi, hd, ha, slotwise_ok_bind, hk, hq, hf, beq_self_eq_true, need_true]

end

/-- One destination row. -/
theorem mapM_range_one {f : Nat → Slotwise α} {a : α} (h : f 0 = .ok a) : (List.range 1).mapM f = .ok [a] := by
  rw [show List.range 1 = [0] from rfl, List.mapM_cons, h]
  rfl

/-- Settles O33: the mould of the family, with each instruction's object or rows. -/
theorem summaries : Obligations.Summaries := by
  unfold Obligations.Summaries
  intro s vd va vb sb row md kind
  refine ⟨fun hs hp ins hins => ?_, fun hs hu ins hins => ?_, fun hs hu hp i hi => ⟨fun d seed hd hseed hw => ?_,
    fun d f a ok bs b hd ha hl hbs => ⟨fun hok hk hq hw => ?_, fun hok hk hw => ?_, fun hok hk hw => ?_⟩,
    fun d a b as bs r hd ha hb hl hbs hr hw => ?_, fun a bs ha hbs => ⟨fun d q k hd hk hq hsb hrank hw => ?_, fun d hd hk hw => ?_,
      fun ds hd hk hw => ?_⟩⟩⟩
  · obtain ⟨reads, f, hx⟩ := summary_of_mem hins s
    exact hx.trans (summary_sup reads f hs hp)
  · obtain ⟨reads, f, hx⟩ := summary_of_mem hins s
    exact hx.trans (summary_held reads f hs hu)
  · refine summary_ok (md := md) (rs := []) (bs := []) (n := 0) hs hu hp rfl rfl ?_ hw
    simp only [hi, hd, hseed, slotwise_ok_bind] <;> rfl
  · subst hok
    exact ingest_ok (k := .quantile) (f := fun o _ b => (((Quant.of o).row (elems .f32 b)).obj, 1 + 9 * ((Quant.of o).row (elems .f32 b)).halvings))
      hs hu hp hi hd ha hl hbs hk (by simpa using hq) hw
  · subst hok
    exact ingest_ok (k := .heavy)
      (f := fun o _ b => (((Heavy.of o).row (elems .f32 b)).1.obj, 1 + ((Heavy.of o).row (elems .f32 b)).2)) hs hu hp hi hd ha hl hbs hk rfl hw
  · subst hok
    exact ingest_ok (k := .distinct) (f := fun o f b => (dcObj (dcRow (dcOf o) ((elems f b).map (dcKey f))), 1)) hs hu hp hi hd ha hl hbs hk rfl hw
  · refine summary_ok (md := md) (rs := objSpan a ++ objSpan b) (bs := as ++ bs) (n := 0) hs hu hp ?_ hbs ?_ hw
    · simp only [hi, ha, hb, slotwise_ok_bind]
      exact (namedRows_ok (rs := [objSpan a, objSpan b]) rfl).trans (by simp)
    · have htake : (as ++ bs).take 8 = as := by rw [← hl, List.take_left]
      have hdrop : (as ++ bs).drop 8 = bs := by rw [← hl, List.drop_left]
      simp only [hi, hd, ha, hb, slotwise_ok_bind, htake, hdrop, hr]
  · have hf : (do
        let q ← rdS s sb
        let r := (Quant.of (objOf bs)).query (q.toNat % 2 ^ 32)
        match r.1 with
        | some k => .ok (([allLanes k], 16, r.2), 0)
        | none => .ok (([allLanes (s.freeNat 1 % 2 ^ 32)], 16, r.2), 1) : Slotwise ((List RowBits × Nat × Flags) × Nat)) =
        .ok (([allLanes k], 16, ((Quant.of (objOf bs)).query (q.toNat % 2 ^ 32)).2), 0) := by
      simp only [hsb, slotwise_ok_bind, hrank]
    exact examine_ok (k := .quantile) (n := 1) (ds := [d]) (f := fun o => do
        let q ← rdS s sb
        let r := (Quant.of o).query (q.toNat % 2 ^ 32)
        match r.1 with
        | some k => .ok (([allLanes k], 16, r.2), 0)
        | none => .ok (([allLanes (s.freeNat 1 % 2 ^ 32)], 16, r.2), 1))
      hs hu hp hi (mapM_range_one hd) ha hbs hk (by simpa using hq) hf hw
  · exact examine_ok (k := .distinct) (n := 1) (ds := [d])
      (f := fun o => .ok (([allLanes (dcEstimate (dcOf o)).1], 12, (dcEstimate (dcOf o)).2), 0)) hs hu hp hi (mapM_range_one hd) ha hbs hk rfl rfl hw
  · exact examine_ok (k := .heavy) (n := 8) (f := fun o => .ok (((Heavy.of o).top, 16, 0), 0)) hs hu hp hi hd ha hbs hk rfl rfl hw

end Sys2Proof.Machine
end

section
/-! PROOF. Doorbells, held completions, coalesced messages and the completion of a launch (R212, R225, R226). -/

namespace Sys2Proof.Machine

/-- The first element of a list that meets a test, as a search over its places: what stands before it fails the test. -/
theorem find_range_append {α : Type} (dflt c : α) (p : α → Bool) (before after : List α) (hc : p c = true)
    (hb : ∀ b ∈ before, p b = false) :
    (List.range (before ++ c :: after).length).find? (fun i => p ((before ++ c :: after).getD i dflt)) = some before.length := by
  rw [List.find?_range_eq_some]
  refine ⟨by simp [hc], by simp, fun j hj => ?_⟩
  have hg : (before ++ c :: after).getD j dflt = before[j] := by
    rw [List.getD_eq_getElem?_getD, List.getElem?_append_left hj, List.getElem?_eq_getElem hj, Option.getD_some]
  rw [hg, hb _ (List.getElem_mem hj)]
  rfl

/-- The oldest held entry of a queue is written when the queue has room (R225). -/
theorem writeHeld_oldest (s : State) (c : Completion) (before after : List Completion) (hh : s.hub.heldc = before ++ c :: after)
    (hb : ∀ b ∈ before, b.q ≠ c.q) :
    s.writeHeld c.q = if cqRoom (s.qdesc c.q) then
      ({ s with hub := { s.hub with heldc := before ++ after } } : State).writeEntry c else s := by
  have hf := find_range_append (⟨c.q + 1, 0, 0, 0, 0, 0⟩ : Completion) c (fun e => e.q == c.q) before after (by simp)
    fun b h => beq_false_of_ne (hb b h)
  unfold State.writeHeld
  rw [hh, hf]
  simp [List.eraseIdx_append_of_length_le]

/-- Settles O35: a doorbell, a held entry, a coalescing window and a launch that is over, each by its definition. -/
theorem doorbellsAndCompletions : Obligations.DoorbellsAndCompletions := by
  unfold Obligations.DoorbellsAndCompletions
  refine ⟨fun s fn q v hboot => ⟨fun hq hfn => ?_, fun h => ?_⟩, fun s q c before after hh hq hb => ?_, fun s q c hf => ?_,
    fun s i l hl => ⟨fun hover => ?_, fun hover hr => ?_⟩⟩
  · have hin : ¬ (1024 ≤ q ∨ field (s.qdesc q) 69 66 ≠ fn) := by
      rintro (h | h)
      · omega
      · exact h hfn
    have hring : ∀ x : Nat, 2 ^ qLog (s.qdesc q) - 1 < x ↔ ¬ x < 2 ^ qLog (s.qdesc q) := fun x => by
      have := Nat.two_pow_pos (qLog (s.qdesc q))
      omega
    change execDoorbell fn q v s = _
    simp only [execDoorbell, hboot, ne_eq, not_true_eq_false, if_false, if_neg hin, hring, ite_not]
  · change execDoorbell fn q v s = _
    simp only [execDoorbell, hboot, ne_eq, not_true_eq_false, if_false, if_pos h, State.logged]
  · subst hq
    change execHeldCompletionWrite _ s = _
    rw [execHeldCompletionWrite, writeHeld_oldest s c before after hh hb]
    simp [cqRoom]
  · change execMsixCoalesceExpiry q s = _
    simp only [execMsixCoalesceExpiry, State.coalesced, hf]
  · change execLaunchComplete i s = _
    simp [execLaunchComplete, State.launchComplete, hl, hover]
  · change execLaunchComplete i s = _
    simp [execLaunchComplete, State.launchComplete, hl, hover, hr]

end Sys2Proof.Machine
end

section
/-! PROOF. Admission of packets, placement and retirement of workers, nodes of task graphs (R13, R16, R213 to R216, R224). -/

namespace Sys2Proof.Machine

/-- A property of the state kept by every round of a fold holds after the fold. -/
theorem foldl_keeps {α : Type} {f : State → α → State} {P : State → Prop} (h : ∀ s a, P s → P (f s a)) (xs : List α) :
    ∀ s, P s → P (xs.foldl f s) := by
  induction xs with
  | nil => exact fun _ hs => hs
  | cons x xs ih => exact fun s hs => ih _ (h s x hs)

/-! ### The launches and group tables -/

/-- A group's entry written changes memory alone: contexts, hub and clock stand. -/
theorem setGroup_frame (s : State) (l : Launch) (g v : Nat) :
    (s.setGroup l g v).ctxs = s.ctxs ∧ (s.setGroup l g v).hub = s.hub ∧ (s.setGroup l g v).clock = s.clock ∧
      (s.setGroup l g v).cur = s.cur := by
  unfold State.setGroup State.memWrite
  split
  · exact ⟨by rfl, by rfl, by rfl, by rfl⟩
  · exact ⟨rfl, rfl, rfl, rfl⟩

theorem markMembers_ctxs (s : State) (l : Launch) (i x : Nat) :
    (s.markMembers l i x).ctxs = s.ctxs ∧ (s.markMembers l i x).clock = s.clock := by
  unfold State.markMembers
  refine foldl_keeps (P := fun t => t.ctxs = s.ctxs ∧ t.clock = s.clock) (fun t p ⟨hc, hk⟩ => ?_) _ s ⟨rfl, rfl⟩
  split
  · obtain ⟨h1, -, h3, -⟩ := setGroup_frame t l p.1.val (p.2 ||| 2 ^ (192 + 80 * dieOf x + x % 80))
    exact ⟨h1.trans hc, h3.trans hk⟩
  · exact ⟨hc, hk⟩

/-- The launch found under an identifier has it. -/
theorem launch_id {s : State} {i : Nat} {l : Launch} (h : s.launch i = some l) : l.id = i := by
  unfold State.launch at h
  simpa using List.find?_some h

/-- A launch that is there and is written anew is found as written. -/
theorem launch_setLaunch {s : State} {m n : Launch} (h : s.launch n.id = some m) : (s.setLaunch n).launch n.id = some n := by
  have hm := launch_id h
  unfold State.launch at h ⊢
  unfold State.setLaunch
  dsimp only
  have hp : (fun k : Launch => k.id == n.id) ∘ (fun k : Launch => if k.id = n.id then n else k) = fun k => k.id == n.id := by
    funext k
    by_cases hk : k.id = n.id <;> simp [hk]
  rw [List.find?_map, hp, h]
  simp [hm]

/-- The units noted at a placement change no other field of the launch. -/
theorem noteUnits_eq (s : State) (l : Launch) (i x : Nat) : ∃ us, s.noteUnits l i x = { l with units := us } := by
  unfold State.noteUnits
  generalize s.groups l = gs
  suffices h : ∀ (gs : List (Fin 256 × Nat)) (m : Launch), (∃ us, m = { l with units := us }) →
      ∃ us, gs.foldl (fun (l : Launch) p =>
        if (gRank p.2 i).isSome && (gScope p.2).code ≤ 1 && !l.units.any (·.1 == p.1.val) then
          { l with units := l.units ++ [(p.1.val, if gScope p.2 = .core then coreOf x else clusterOf x)] }
        else l) m = { l with units := us } from h gs l ⟨l.units, rfl⟩
  intro gs
  induction gs with
  | nil => exact fun m hm => hm
  | cons p ps ih =>
    rintro m ⟨us, rfl⟩
    refine ih _ ?_
    dsimp only
    split
    · exact ⟨_, rfl⟩
    · exact ⟨_, rfl⟩

/-! ### The start of a worker (R16) -/

/-- The context that a placement reserves (R14, R116). -/
def Ctx.reserved (c : Ctx) (l : Launch) (i : Nat) (f : Fit) : Ctx :=
  { c with
    occ := .worker l.id i
    rsbase := BitVec.ofNat 32 f.rs, rslim := BitVec.ofNat 32 l.rsg
    spbase := BitVec.ofNat 64 f.sp, splim := BitVec.ofNat 64 l.spg
    arrcfg := arrcfgOf l f }

/-- A reserved context is found under the launch with its units noted. -/
theorem reserve_facts {s : State} {l : Launch} (x i : Nat) (f : Fit) (hl : s.launch l.id = some l) :
    ∃ us, (s.reserve x l i f).launch l.id = some { l with units := us } ∧
      (s.reserve x l i f).ctx x = (s.ctx x).reserved l i f ∧ (s.reserve x l i f).clock = s.clock := by
  obtain ⟨us, hus⟩ := noteUnits_eq (s.setCtx x ((s.ctx x).reserved l i f)) l i x
  have hres : s.reserve x l i f = (s.setCtx x ((s.ctx x).reserved l i f)).setLaunch { l with units := us } := by
    change State.setLaunch _ (State.noteUnits (s.setCtx x ((s.ctx x).reserved l i f)) ((s.launch l.id).getD l) i x) = _
    rw [hl, Option.getD_some, hus]
    rfl
  refine ⟨us, ?_, ?_, ?_⟩ <;> rw [hres]
  · exact launch_setLaunch (n := { l with units := us }) (m := l) hl
  · exact State.setCtx_ctx_same s x _
  · rfl

/-- A worker started in a context has the worker's context of its launch, whatever units were noted (R16). -/
theorem startWorker_ctx {s : State} {l : Launch} (x i : Nat) (f : Fit) (hl : s.launch l.id = some l) :
    ∃ us bars, (s.startWorker x l i f).ctx x = workerCtx ((s.ctx x).reserved l i f) { l with units := us } i s.clock bars := by
  obtain ⟨us, hfind, hctx, hclock⟩ := reserve_facts x i f hl
  obtain ⟨hc, hk⟩ := markMembers_ctxs (s.reserve x l i f) { l with units := us } i x
  have hmark : ((s.reserve x l i f).markMembers { l with units := us } i x).ctx x = (s.ctx x).reserved l i f := by
    rw [State.ctx, hc]
    exact hctx
  unfold State.startWorker
  dsimp only
  rw [hfind, Option.getD_some, State.setCtx_ctx_same]
  exact ⟨us, _, by rw [State.setPair_ctx, State.setCore_ctx, hmark, State.setPair_clock, State.setCore_clock, hk, hclock]⟩

/-- What a context holds at the start of a worker (R16). -/
theorem workerCtx_facts (c : Ctx) (l : Launch) (us : List (Nat × Nat)) (i now : Nat) (f : Fit) (bars : List Bar) :
    let d := workerCtx (c.reserved l i f) { l with units := us } i now bars
    d.occ = .worker l.id i ∧ d.run = .running ∧ d.sup = false ∧ d.fetch = ⟨l.code.codeva + 2 * l.code.entry, none, 0⟩ ∧
    d.ptroot = l.ptroot &&& ~~~0x1FFF ∧ d.tvec = l.tvec ∧ d.vw = l.views ∧ d.rsbase = BitVec.ofNat 32 f.rs ∧
    d.spbase = BitVec.ofNat 64 f.sp ∧ d.s.get 0 = BitVec.ofNat 64 i ∧ d.s.get 1 = BitVec.ofNat 64 (i % l.x) ∧
    d.s.get 2 = BitVec.ofNat 64 (i / l.x % l.y) ∧ d.s.get 3 = BitVec.ofNat 64 (i / (l.x * l.y)) ∧ d.s.get 4 = l.args ∧
    ∀ r : Fin 64, 6 ≤ r.val → d.s.get r = 0 := by
  refine ⟨rfl, rfl, rfl, rfl, rfl, rfl, rfl, rfl, rfl, ?_, ?_, ?_, ?_, ?_, fun r hr => ?_⟩ <;>
    simp only [workerCtx, vector_get_ofFn]
  case refine_6 => exact getD_eq_default_of_le _ _ hr
  all_goals rfl

/-- A launch that is no cohort places its next index in the context that it fits (R13, R16). -/
theorem placeFresh_single {s : State} {l : Launch} {x : Nat} {f : Fit} (hc : l.cohort = false) (hf : s.fitOf l x = some f) :
    s.placeFresh x l = (s.setLaunch (l.step (dieOf x))).startWorker x (l.step (dieOf x)) (l.next (dieOf x)) f := by
  simp [State.placeFresh, hc, hf]

/-! ### Retirement (R341, R342) -/

/-- A context whose worker has left it is free (R342). -/
theorem freeWorker_ctx (s : State) (x : Nat) : ((s.freeWorker x).ctx x).occ = .free ∧ ((s.freeWorker x).ctx x).run = .idle ∧
    ((s.freeWorker x).ctx x).arrcfg = 0 := by
  unfold State.freeWorker
  dsimp only
  rw [State.setCtx_ctx_same]
  exact ⟨rfl, rfl, rfl⟩

/-- The launch of a context's worker is one that is found under its identifier. -/
theorem workerOf_launch {s : State} {x i : Nat} {l : Launch} (h : s.workerOf x = some (l, i)) : s.launch l.id = some l := by
  unfold State.workerOf at h
  cases ho : (s.ctx x).occ <;> rw [ho] at h <;> try contradiction
  next k j =>
    obtain ⟨m, hm, he⟩ := Option.map_eq_some_iff.1 h
    obtain ⟨rfl, -⟩ := Prod.mk.inj he
    rw [launch_id hm]
    exact hm

/-! ### Regions of task graphs (R189) -/

/-- The shape that cleaning and discarding a region share: an operation on the lines that a die's clusters hold of it, then its atomic
buffer. -/
def State.onRegion (s : State) (f : State → Nat → Nat → State) (d sc : Nat) (rs : List (Nat × Nat)) : State :=
  let s := if sc < 2 then s
    else (span (10 * d) 10).foldl (fun s cl =>
      (s.cluster cl).lines.foldl (fun s p => if lineIn rs p.1 then f s cl p.1 else s) s) s
  if sc < 2 then s else (s.die d).abuf.foldl (fun s p => if lineIn rs p.1 then s.evictAbuf d p.1 else s) s

theorem cleanRegion_eq : State.cleanRegion = fun s => s.onRegion State.cleanLine := rfl

theorem discardRegion_eq : State.discardRegion = fun s => s.onRegion State.discardLine := rfl

theorem CachesOnly.ite {s t : State} (p : Prop) [Decidable p] (h : CachesOnly s t) : CachesOnly s (if p then t else s) := by
  split
  · exact h
  · exact .refl s

theorem cachesOnly_onRegion {f : State → Nat → Nat → State} (hf : ∀ s cl n, CachesOnly s (f s cl n)) (s : State) (d sc : Nat)
    (rs : List (Nat × Nat)) : CachesOnly s (s.onRegion f d sc rs) := by
  unfold State.onRegion
  by_cases h : sc < 2
  · simpa [h] using CachesOnly.refl s
  · simp only [h, if_false]
    refine (CachesOnly.foldl (fun s cl => ?_) _ s).trans
      (.foldl (fun s (p : Nat × Line) => (cachesOnly_evictAbuf s d p.1).ite _) _ _)
    exact .foldl (fun s (p : Nat × Line) => (hf s cl p.1).ite _) _ s

theorem cachesOnly_overRegions {f : State → Nat → Nat → List (Nat × Nat) → State} (hf : ∀ s d sc rs, CachesOnly s (f s d sc rs))
    (s : State) (r : Replay) (t : Task) (rs : List Region) : CachesOnly s (s.overRegions f r t rs) := by
  unfold State.overRegions
  refine .foldl (fun s d => ?_) _ s
  split
  · exact .refl s
  · exact .foldl (fun s (g : Region) => hf s d g.2.2 _) _ s

/-- A replay of the front end changed. -/
def State.onReplay (s : State) (i : Nat) (f : Replay → Replay) : State :=
  { s with hub := { s.hub with replays := s.hub.replays.map fun p => if p.id = i then f p else p } }

/-- An edge of a node that has ended is recorded once its regions are cleaned (R189, R224). -/
theorem edgeComplete_ok {s : State} {r : Replay} {n k : Nat} {tk : Task × Nat × Nat} {es : List (Nat × List Region)}
    {g : Nat × List Region} (hk : k < 4096) (hr : s.hub.replays.find? (·.id == r.id) = some r) (hn : n ∈ r.ended)
    (he : (n, k) ∉ r.edges) (hnode : s.node r.ptroot r.nodes n = some tk) (hes : s.edgesOf r.ptroot r.nodes n = some es)
    (hg : es[k]? = some g) :
    ∃ u, CachesOnly s u ∧ s.edgeComplete r.id (4096 * n + k) =
      u.onReplay r.id fun p => { p with edges := p.edges ++ [(n, k)] } := by
  have hq : (4096 * n + k) / 4096 = n := by omega
  have hm : (4096 * n + k) % 4096 = k := by omega
  refine ⟨s.overRegions State.cleanRegion r tk.1 g.2,
    cachesOnly_overRegions (fun s d sc rs => cachesOnly_onRegion cachesOnly_cleanLine s d sc rs) _ _ _ _, ?_⟩
  simp only [State.onReplay, State.edgeComplete, hq, hm, hr, hnode, hes, Option.getD_some, hg, hn, he, Bool.not_true,
    List.contains_eq_mem, decide_true, decide_false, Bool.or_false, Bool.false_eq_true, if_false]

/-- A node that can start enters as a launch once the regions of its in-edges are discarded (R224). -/
theorem nodeStart_ok {s : State} {r : Replay} {n : Nat} {tk : Task × Nat × Nat} {l : Launch}
    (hr : s.hub.replays.find? (·.id == r.id) = some r) (hh : s.hub.holding < 64) (hs : s.startable r n = true)
    (hlow : ∀ m < n, s.startable r m = false) (hnode : s.node r.ptroot r.nodes n = some tk)
    (hl : checkTask s { tk.1 with typ := 0 } (field tk.1.low 281 256 + field tk.1.low 223 0) true r.prio r.ptroot
      (fun k vw => tk.1.launch s.hub.admitted r.q r.pktidx (some (r.id, n)) k vw r.ptroot r.tvec (r.pb + BitVec.ofNat 64 tk.1.args)) =
        .ok l) :
    ∃ u, CachesOnly s u ∧ s.nodeStart r.id n =
      (u.enterLaunch l).onReplay r.id fun p => { p with started := p.started ++ [n] } := by
  have hany : (List.range n).any (s.startable r) = false := by
    rw [List.any_eq_false]
    intro m hm
    simp [hlow m (List.mem_range.1 hm)]
  refine ⟨(s.inEdges r n).foldl (fun s e => s.overRegions State.discardRegion r tk.1 e.2.2) s,
    .foldl (fun s e => cachesOnly_overRegions (fun s d sc rs => cachesOnly_onRegion cachesOnly_discardLine s d sc rs) _ _ _ _) _ _, ?_⟩
  simp only [State.onReplay, State.nodeStart, hr, hs, hany, hnode, hl, Nat.not_le.2 hh, Bool.not_true, decide_false, Bool.or_false,
    Bool.false_eq_true, if_false]

theorem enterLaunch_hub (s : State) (l : Launch) :
    (s.enterLaunch l).hub = { s.hub with launches := s.hub.launches ++ [l], admitted := s.hub.admitted + 1 } := rfl

/-- Settles O36: admission by `takePkt`, placement by `startWorker_ctx`, retirement by `retire`, and the edges and nodes of a graph,
whose regions touch caches alone. -/
theorem admissionAndPlacement : Obligations.AdmissionAndPlacement := by
  unfold Obligations.AdmissionAndPlacement
  refine ⟨fun s q p hbad => ⟨fun h => ?_, fun h hq ht => ?_⟩, fun s x l f hd hl hc hf => ?_, fun s h hd => ?_,
    fun s l i hrun hfr hw hh => ⟨fun hi => ?_, fun hi hdr => ?_, fun hi hdr hwin hnx => ?_⟩,
    fun s r n k tk es g hk hr hn he hnode hes hg => ?_, fun s r n tk l hr hh hs hlow hnode hl => ?_⟩
  · change execAdmitLaunch s = _
    simp [execAdmitLaunch, State.admitNext, hbad, h]
  · have hex : exec .admitLaunch s = .next (s.takePkt q p) := by
      change execAdmitLaunch s = _
      simp [execAdmitLaunch, State.admitNext, hbad, hq, Nat.not_le.2 h]
    refine ⟨fun st hst => ?_, fun l hl => ?_⟩
    · rw [hex]
      simp only [State.takePkt, ht, hst]
    · refine ⟨_, hex, ?_⟩
      simp only [State.takePkt, ht, hl, enterLaunch_hub]
      exact ⟨rfl, rfl⟩
  · have hstep : (s.setLaunch (l.step (dieOf x.val))).launch (l.step (dieOf x.val)).id = some (l.step (dieOf x.val)) :=
      launch_setLaunch (m := l) hl
    obtain ⟨us, bars, hctx⟩ := startWorker_ctx x.val (l.next (dieOf x.val)) f hstep
    refine ⟨s.placeFresh x.val l, ?_, ?_⟩
    · change execWorkerPlace x s = _
      simp [execWorkerPlace, hd, hl]
    · rw [placeFresh_single hc hf]
      dsimp only
      rw [hctx]
      exact workerCtx_facts _ _ us _ _ f bars
  · change execWorkerRetire s = _
    rw [State.me] at h hd
    unfold execWorkerRetire State.retire
    dsimp only
    rw [if_pos]
    simp [h, hd]
  · change execWorkerRetire s = _
    rw [State.me] at hrun hh hi
    simp [execWorkerRetire, State.retire, hrun, hh, hi, hfr]
  · change execWorkerRetire s = _
    rw [State.me] at hrun hh hi
    simp [execWorkerRetire, State.retire, hrun, hh, hi, hfr, hdr]
  · rw [State.me] at hrun hh hi hwin
    have hfind : (s.freeWorker s.cur).launch l.id = some l := workerOf_launch (s := s) hw
    obtain ⟨hocc, hidle, harr⟩ := freeWorker_ctx s s.cur
    refine ⟨(s.freeWorker s.cur).freed s.cur, ?_, hocc, hidle, harr, rfl⟩
    change execWorkerRetire s = _
    simp [execWorkerRetire, State.retire, hrun, hh, hi, hfr, hdr, hwin, hw, hfind, hnx]
  · obtain ⟨u, hu, h⟩ := edgeComplete_ok hk hr hn he hnode hes hg
    refine ⟨_, congrArg Host.Outcome.next h, ?_⟩
    rw [State.onReplay, hu.hub]
  · obtain ⟨u, hu, h⟩ := nodeStart_ok hr hh hs hlow hnode hl
    refine ⟨_, congrArg Host.Outcome.next h, ?_⟩
    rw [State.onReplay, enterLaunch_hub, hu.hub]
    exact ⟨rfl, rfl⟩

end Sys2Proof.Machine
end

section
/-! PROOF. Pre-emption: triggers, grace windows, lean saves and restores, images (R217 to R219, R264 to R274). -/

namespace Sys2Proof.Machine

/-! ### What records and dropped tokens leave -/

/-- Two states have the same hub, pairs, cores, clock and acting context. -/
structure HubSame (s t : State) : Prop where
  hub : t.hub = s.hub
  pairs : t.pairs = s.pairs
  cores : t.cores = s.cores
  clock : t.clock = s.clock
  cur : t.cur = s.cur

theorem HubSame.refl (s : State) : HubSame s s := ⟨rfl, rfl, rfl, rfl, rfl⟩

theorem HubSame.trans {s t u : State} (h : HubSame s t) (k : HubSame t u) : HubSame s u :=
  ⟨k.hub.trans h.hub, k.pairs.trans h.pairs, k.cores.trans h.cores, k.clock.trans h.clock, k.cur.trans h.cur⟩

theorem HubSame.foldl {α : Type} {f : State → α → State} (hf : ∀ s a, HubSame s (f s a)) (xs : List α) (s : State) :
    HubSame s (xs.foldl f s) :=
  foldl_keeps (P := HubSame s) (fun t a h => h.trans (hf t a)) xs s (.refl s)

theorem HubSame.pair {s t : State} (h : HubSame s t) (p : Nat) : t.pair p = s.pair p := by
  simp only [State.pair, h.pairs]

theorem hubSame_setCtx (s : State) (x : Nat) (c : Ctx) : HubSame s (s.setCtx x c) := ⟨rfl, rfl, rfl, rfl, rfl⟩

theorem hubSame_setDie (s : State) (d : Nat) (v : DieSt) : HubSame s (s.setDie d v) := ⟨rfl, rfl, rfl, rfl, rfl⟩

theorem hubSame_memWrite (s : State) (cs : List Host.Cell) : HubSame s (s.memWrite cs) := ⟨rfl, rfl, rfl, rfl, rfl⟩

theorem hubSame_useFree (s : State) (n : Nat) : HubSame s (s.useFree n) := ⟨rfl, rfl, rfl, rfl, rfl⟩

theorem hubSame_trace (s : State) (x typ ba body : Nat) : HubSame s (s.trace x typ ba body) := by
  unfold State.trace
  dsimp only
  split
  · exact .refl s
  · split
    · exact hubSame_setDie s _ _
    · exact ((hubSame_memWrite s _).trans (hubSame_setCtx _ _ _)).trans (hubSame_setDie _ _ _)

theorem hubSame_traceOpen (s : State) (x typ ba : Nat) : HubSame s (s.traceOpen x typ ba) :=
  (hubSame_trace s x typ ba _).trans (hubSame_useFree _ 5)

theorem hubSame_dropToken (s : State) (x : Nat) : HubSame s (s.dropToken x) := by
  unfold State.dropToken
  dsimp only
  split <;> exact ⟨rfl, rfl, rfl, rfl, rfl⟩

theorem hubSame_requestSave (s : State) (xs : List Nat) : HubSame s (s.requestSave xs) :=
  .foldl (fun s x => hubSame_setCtx s x _) xs s

/-! ### Triggers and grace windows (R218, R219) -/

/-- A save request sets the grace window of its victims and of no other context. -/
theorem requestSave_ctx (xs : List Nat) (s : State) (x : Nat) :
    (s.requestSave xs).ctx x = if x ∈ xs then { s.ctx x with grace := some s.hub.grace } else s.ctx x := by
  induction xs generalizing s with
  | nil => rfl
  | cons y ys ih =>
    have hstep : s.requestSave (y :: ys) = (s.setCtx y { s.ctx y with grace := some s.hub.grace }).requestSave ys := rfl
    rw [hstep, ih, State.setCtx_hub, State.setCtx_ctx]
    by_cases hy : y = x
    · subst hy
      simp
    · simp [hy, Ne.symm hy]

theorem requestSave_mem (xs : List Nat) (s : State) : (s.requestSave xs).mem = s.mem :=
  foldl_keeps (f := fun s x => s.setCtx x { s.ctx x with grace := some s.hub.grace }) (P := fun t => t.mem = s.mem)
    (fun _ _ h => h) xs s rfl

/-- With PREWAIT 0 no launch's wait is over (R217). -/
theorem waitedOut_off {s : State} (h : field s.hub.schedctl.toNat 15 0 = 0) (l : Launch) (d : Nat) : s.waitedOut l d = false := by
  simp [State.waitedOut, Hub.prewait, h]

/-- The trigger of a die fires with a grace window that is not empty for the victims that make room (R218). -/
theorem trigger_ok {s : State} {l : Launch} {d : Nat} {xs : List Nat} (hg : 0 < s.hub.grace)
    (hx : s.pickVictims l d (fun _ => false) = some xs) :
    s.trigger l d (fun _ => false) =
      some ((s.setLaunch { l with waited := l.waited.mapIdx fun k n => if k = d then fired else n }).requestSave xs) := by
  have h0 : (s.hub.grace == 0) = false := beq_false_of_ne (Nat.ne_of_gt hg)
  unfold State.trigger
  simp only [h0, Bool.false_and, Bool.or_false, hx, Option.map_some]

/-- A launch's trigger fires on the first die where its wait is over (R218). -/
theorem preempt_first {s t : State} {l : Launch} {d : Nat} (hl : s.launch l.id = some l) (hd : d < 4) (hw : s.waitedOut l d = true)
    (hlow : ∀ e < d, s.waitedOut l e = false) (ht : s.trigger l d (fun _ => false) = some t) : s.preempt l.id = t := by
  have hrange : List.range 4 = List.range d ++ d :: span (d + 1) (3 - d) := by
    obtain rfl | rfl | rfl | rfl := eq_of_lt_four hd <;> rfl
  have hnone : (List.range d).findSome? (fun d => if s.waitedOut l d then s.trigger l d (fun _ => false) else none) = none := by
    rw [List.findSome?_eq_none_iff]
    intro e he
    simp [hlow e (List.mem_range.1 he)]
  unfold State.preempt
  rw [hl, hrange]
  simp [List.findSome?_append, hnone, hw, ht]

/-- A pair that was not frozen is frozen, with nothing held (R268). -/
theorem freezePair_pair {s : State} {p : Nat} (h : (s.pair p).frozen = none) :
    ((s.freezePair p).pair p).frozen = some ⟨s.clock, [], [], [], false⟩ := by
  unfold State.freezePair
  simp only [h, Option.isSome_none, Bool.false_eq_true, if_false]
  rw [(HubSame.foldl (fun s x => ?_) (pairCtxs p) _).pair p, State.setPair_pair_same]
  split
  · exact .refl s
  · exact ((hubSame_dropToken s x).trans (hubSame_traceOpen _ x 6 _)).trans (hubSame_setCtx _ x _)

/-! ### Lean saves and restores (R265 to R267) -/

/-- A worker at its save point, with nothing in flight, is saved and its context is free (R265, R266). -/
theorem leanSave_ok {s : State} {x : Nat} {l : Launch} {i : Nat} {e : Fin 256} {le : LiveEntry} (hrun : (s.ctx x).run = .saving)
    (hf : (s.pair (pairOf x)).frozen = none) (hh : ((s.ctx x).halted && !(s.ctx x).dstep) = false) (hd : s.drained x = true)
    (hc : s.cohortStill x = true) (hw : (s.ctx x).wins = []) (hl : s.workerOf x = some (l, i)) (he : (s.ctx x).savept = some e)
    (hle : s.liveEntry (s.ctx x).ptroot l.code e.val = some le) :
    ∃ (t : State) (w : SavedW), s.leanSave x = (t.freeWorker x).freed x ∧ t.hub.saved = s.hub.saved ++ [w] ∧ t.cur = s.cur ∧
      w.launch = l.id ∧ w.index = i ∧ w.lean = some (s.leanRec x le) ∧ w.image = none := by
  have hs := hubSame_traceOpen s x 5 (s.ctx x).fetch.pc
  generalize hu : s.traceOpen x 5 (s.ctx x).fetch.pc = u at hs
  refine ⟨{ (u.takeMail x).1 with hub := { (u.takeMail x).1.hub with
      saved := (u.takeMail x).1.hub.saved ++ [⟨l.id, i, some (s.leanRec x le), none, none, (u.takeMail x).2⟩] } },
    ⟨l.id, i, some (s.leanRec x le), none, none, (u.takeMail x).2⟩, ?_, ?_, ?_, rfl, rfl, rfl, rfl⟩
  · simp [State.leanSave, hrun, hf, hh, hd, hc, hw, hl, he, hle, hu]
  · simp only [State.takeMail, hs.hub]
  · simp only [State.takeMail, hs.cur]

/-- A context with its declared windows replaced. -/
def Ctx.setWins (c : Ctx) (ws : Map Win) : Ctx := { c with wins := ws }

/-- A lean restore leaves the context of a worker with the registers of its record (R267). -/
theorem leanRestore_workerCtx (s : State) (l : Launch) (x : Nat) (w : SavedW) (r : LeanRec) (f : Fit) :
    ∃ c l' now bars ws, (s.leanRestore x l w r f).ctx x = ((workerCtx c l' w.index now bars).leanRegs r).setWins ws ∧
      c = ((s.reserve x l w.index f).markMembers (((s.reserve x l w.index f).launch l.id).getD l) w.index x).ctx x := by
  unfold State.leanRestore
  extract_lets s1 l1 s2 k k' s3 p p' s4 c
  exact ⟨s4.ctx x, l1, s4.clock, _, _, State.setCtx_ctx_same s4 x _, rfl⟩

theorem leanRegs_occ (c : Ctx) (l : Launch) (i now : Nat) (bars : List Bar) (r : LeanRec) (ws : Map Win) :
    (((workerCtx c l i now bars).leanRegs r).setWins ws).occ = c.occ := by
  simp only [Ctx.setWins, Ctx.leanRegs, workerCtx, Ctx.fresh]

/-- A lean restore gives the context the registers of its record (R266, R267). -/
theorem leanRestore_ctx {s : State} {l : Launch} (x : Nat) (w : SavedW) (r : LeanRec) (f : Fit) (hl : s.launch l.id = some l) :
    let c := (s.leanRestore x l w r f).ctx x
    c.s = r.s ∧ c.sui = r.sui ∧ c.p = r.p ∧ c.k = r.k ∧ c.vw = r.vw ∧ c.fetch = r.fetch ∧ c.occ = .worker l.id w.index ∧
      c.run = .running ∧ c.sup = false := by
  obtain ⟨us, -, hctx, -⟩ := reserve_facts x w.index f hl
  obtain ⟨c, l', now, bars, ws, h, hc⟩ := leanRestore_workerCtx s l x w r f
  have hocc : c.occ = .worker l.id w.index := by
    rw [hc, State.ctx, (markMembers_ctxs _ _ _ _).1]
    exact congrArg Ctx.occ hctx
  dsimp only
  rw [h]
  exact ⟨rfl, rfl, rfl, rfl, rfl, rfl, (leanRegs_occ c l' _ _ bars r ws).trans hocc, rfl, rfl⟩

/-! ### Images (R269 to R274) -/

/-- A fold that sets contexts free leaves each context of its list free. -/
theorem foldl_setCtx_free {f : State → Nat → State} (hf : ∀ s y, ∃ c : Ctx, c.occ = .free ∧ f s y = s.setCtx y c) (xs : List Nat)
    (x : Nat) : ∀ s, x ∈ xs ∨ (s.ctx x).occ = .free → ((xs.foldl f s).ctx x).occ = .free := by
  induction xs with
  | nil => simp
  | cons y ys ih =>
    intro s h
    obtain ⟨c, hc, he⟩ := hf s y
    refine ih _ ?_
    rw [he, State.setCtx_ctx]
    by_cases hy : y = x
    · exact .inr (by rw [if_pos hy]; exact hc)
    · rw [if_neg hy]
      rcases h with h | h
      · exact .inl ((List.mem_cons.1 h).resolve_left (Ne.symm hy))
      · exact .inr h

/-- A sealed pair is free, with its other bank active (R269). -/
theorem sealPair_facts (s : State) (p : Nat) (f : Frozen) :
    (∀ j < 4, ((s.sealPair p f).ctx (4 * p + j)).occ = .free) ∧ ((s.sealPair p f).pair p).frozen = none ∧
      ((s.sealPair p f).pair p).bankBusy = true ∧ ((s.sealPair p f).pair p).bank = !(s.pair p).bank := by
  unfold State.sealPair
  extract_lets q ws tags id img m s1 hub s2 s3 s4 s5 d s6 pr s7
  have hfreed : ∀ (ws : List (Nat × Nat × Nat)) (t : State),
      (ws.foldl (fun s w => s.freed (4 * p + w.1)) t).ctxs = t.ctxs ∧ (ws.foldl (fun s w => s.freed (4 * p + w.1)) t).pairs = t.pairs :=
    fun ws t => foldl_keeps (f := fun s (w : Nat × Nat × Nat) => s.freed (4 * p + w.1)) (P := fun u => u.ctxs = t.ctxs ∧ u.pairs = t.pairs)
      (fun _ _ h => h) ws t ⟨rfl, rfl⟩
  obtain ⟨hc, hp⟩ := hfreed ws s7
  have hpair : (ws.foldl (fun s w => s.freed (4 * p + w.1)) s7).pair p = { PairSt.reset with bank := !q.bank, bankBusy := true } := by
    rw [State.pair, hp]
    exact State.setPair_pair_same s6 p _
  refine ⟨fun j hj => ?_, ?_, ?_, ?_⟩
  · rw [State.ctx, hc]
    refine foldl_setCtx_free (f := fun (s : State) x => s.setCtx x { (s.ctx x).fresh with
      occ := .free, spkeep := if (s.ctx x).occ = .free then (s.ctx x).spkeep
        else (s.core (coreOf x)).spPart (s.ctx x).spbase.toNat (s.ctx x).splim.toNat }) (fun s y => ⟨_, rfl, rfl⟩) (pairCtxs p) _ _ (.inl ?_)
    simp only [pairCtxs, span, List.mem_map, List.mem_range]
    exact ⟨j, hj, rfl⟩
  · rw [hpair]
    rfl
  · rw [hpair]
  · rw [hpair]

/-- The first place of a list that meets a test, as a search over its places. -/
theorem find_range_getElem {α : Type} (xs : List α) (p : α → Bool) (i : Nat) (a : α) (ha : xs[i]? = some a) (hp : p a = true)
    (hlow : ∀ b ∈ xs.take i, p b = false) (test : Nat → Bool) (ht : ∀ j b, xs[j]? = some b → test j = p b) :
    (List.range xs.length).find? test = some i := by
  obtain ⟨hi, -⟩ := List.getElem?_eq_some_iff.1 ha
  rw [List.find?_range_eq_some]
  refine ⟨by rw [ht i a ha, hp], by simpa using hi, fun j hj => ?_⟩
  have hj' : j < xs.length := by omega
  rw [ht j _ (List.getElem?_eq_getElem hj'), hlow _ (List.mem_take_iff_getElem.2 ⟨j, by omega, rfl⟩)]
  rfl

/-- Without cohorts an image is restored by itself. -/
theorem unitOfImage_single {s : State} (h : ∀ l ∈ s.hub.launches, l.cohort = false) (n : Nat) : s.unitOfImage n = ([], [n]) := by
  have hstep : ∀ k, s.restoreUnit k ([], [n]) = ([], [n]) := by
    intro k
    induction k with
    | zero => rfl
    | succ k ih =>
      have hls : (s.hub.launches.filter fun (l : Launch) =>
          ([] : List Launch).any (·.id == l.id) || (l.cohort && (s.imagesOf l.id).any [n].contains)) = [] := by
        rw [List.filter_eq_nil_iff]
        intro l hl
        simp [h l hl]
      unfold State.restoreUnit
      rw [hls]
      exact ih
  exact hstep _

/-- An image restored by itself is checked, and discarded or streamed in (R273, R274). -/
theorem restoreTogether_single {s : State} {n : Nat} {m : Image} (hm : Map.find s.hub.images n = some m) :
    s.restoreTogether ([], [n]) = match s.imageFault m with | some c => s.discardImages [n] c | none => s.streamImage n := by
  cases hf : s.imageFault m <;> simp [State.restoreTogether, State.seatUnit, hm, hf]

/-- Whether a packet is a response that an image still waits for (R272). -/
def State.awaitedBy (s : State) (m : Image) (r : Packet) : Bool :=
  (Hdr.of r.hdr).dpkg == s.hub.pkgid && (Hdr.of r.hdr).cls == 1 && m.awaited.contains (Hdr.of r.hdr).tag

/-- An image with a held response appended; the last one that it waits for makes it final (R272). -/
def Image.append (m : Image) (q : Packet) : Image :=
  let m := { m with packets := m.packets ++ [q], awaited := m.awaited.filter (· != (Hdr.of q.hdr).tag) }
  if m.awaited.isEmpty then m.seal else m

theorem append_facts {m : Image} (hm : m.final = false) (q : Packet) :
    (m.append q).packets = m.packets ++ [q] ∧ (m.append q).awaited = m.awaited.filter (· != (Hdr.of q.hdr).tag) ∧
      (m.append q).final = (m.append q).awaited.isEmpty := by
  unfold Image.append
  dsimp only
  split
  next h => exact ⟨rfl, rfl, h.symm⟩
  next h => exact ⟨rfl, rfl, hm.trans (Bool.eq_false_iff.2 h).symm⟩

/-- The first response that a pair's image waits for is appended to it (R272). -/
theorem appendHeld_ok {s : State} {p id i : Nat} {m : Image} {q : Packet}
    (him : s.hub.images.find? (fun m => m.2.pair == p && !m.2.final) = some (id, m)) (hq : s.hub.inq[i]? = some q)
    (hw : s.awaitedBy m q = true) (hlow : ∀ r ∈ s.hub.inq.take i, s.awaitedBy m r = false) :
    s.appendHeld p = { s.takePacket i with hub := { (s.takePacket i).hub with images := Map.put s.hub.images id (m.append q) } } := by
  unfold State.appendHeld
  rw [him]
  dsimp only
  rw [find_range_getElem s.hub.inq (s.awaitedBy m) i q hq hw hlow _ (fun j b hb => by simp only [hb, State.awaitedBy])]
  simp only [hq]
  rfl

/-- Settles O37: triggers, windows, saves, seals and restores, each by the lemma about its operation. -/
theorem preemption : Obligations.Preemption := by
  unfold Obligations.Preemption
  refine ⟨fun s l h => ?_, fun s l d xs hl hd hw hlow hg hx => ?_, fun s hrun hf hk => ⟨fun hg => ?_, fun hg => ?_⟩,
    fun s hh hd => ?_, fun s l i e le hrun hf hh hd hc hw hl he hle => ?_, fun s x n w l r f hd hn hl hr hc hf => ?_,
    fun s p f hf hs h1 h2 => ?_, fun s p id i m q => ?_, fun s p n m hf hd hm hc => ?_⟩
  · change execPreemptTrigger l s = _
    unfold execPreemptTrigger State.preempt
    cases s.launch l <;> simp [waitedOut_off h, List.findSome?_eq_none_iff.2]
  · refine ⟨_, congrArg Host.Outcome.next (preempt_first hl hd hw hlow (trigger_ok hg hx)), fun x hx => ?_, fun x hx => ?_, ?_⟩
    · rw [requestSave_ctx, if_pos hx]
      rfl
    · rw [requestSave_ctx, if_neg hx]
      rfl
    · rw [requestSave_mem]
      rfl
  · change execGraceWindowExpiry s = _
    rw [State.me] at hg
    simp [execGraceWindowExpiry, State.graceExpiry, hg]
  · rw [State.me] at hrun hg
    refine ⟨(s.freezePair (pairOf s.cur)).requestSave ((s.freezePair (pairOf s.cur)).mates (pairOf s.cur)), ?_, ?_⟩
    · change execGraceWindowExpiry s = _
      simp [execGraceWindowExpiry, State.graceExpiry, hg, hrun, hf, hk]
    · rw [(hubSame_requestSave _ _).pair, freezePair_pair hf]
  · change execLeanSave s = _
    rw [State.me] at hh hd
    simp [execLeanSave, State.leanSave, hh, hd]
  · obtain ⟨t, w, ht, hs, hcur, hw1, hw2, hw3, hw4⟩ := leanSave_ok hrun hf hh hd hc hw hl he hle
    refine ⟨_, w, congrArg Host.Outcome.next ht, hs, hw1, hw2, hw3, hw4, ?_⟩
    have hfree := (freeWorker_ctx t s.cur).1
    rw [← hcur] at hfree ⊢
    exact hfree
  · have hid := launch_id hl
    refine ⟨(s.dropSaved n).leanRestore x.val l w r f, ?_, leanRestore_ctx (s := s.dropSaved n) x.val w r f (hid ▸ hl)⟩
    change execLeanRestore x n s = _
    simp [execLeanRestore, hd, hn, hl, hr, hc, hf]
  · obtain ⟨hfree, hfr, hbusy, hbank⟩ := sealPair_facts s p.val f
    refine ⟨s.sealPair p.val f, ?_, hfree, hfr, hbusy, hbank⟩
    change execImageSeal p s = _
    simp [execImageSeal, State.imageSeal, hf, hs, h1, h2]
  · intro waitsFor him hq hwq hlow
    have hfin : m.final = false := by
      have h := List.find?_some him
      simp only [Bool.and_eq_true, Bool.not_eq_true'] at h
      exact h.2
    obtain ⟨hp, ha, hf⟩ := append_facts hfin q
    refine ⟨_, m.append q, congrArg Host.Outcome.next (appendHeld_ok him hq hwq hlow), ?_, hp, ha, hf⟩
    exact (Map.find_put _ id id _).trans (if_pos rfl)
  · change execRestoreImage p n s = _
    cases hif : s.imageFault m <;>
      simp [execRestoreImage, hf, hd, hm, unitOfImage_single hc, restoreTogether_single hm, hif]

end Sys2Proof.Machine
end

section
/-! PROOF. The small units: collision priority, granule retention, the token bucket, multicast stores, walks (R18, R43, R197, R227). -/

namespace Sys2Proof.Machine

/-! ### Token requests (R228) -/

/-- The requests before the first that waits stand as they are; that one is served when the bucket holds its tokens. -/
theorem serveFirst_append (before after : List TokReq) (r : TokReq) (t : Nat) (hb : ∀ q ∈ before, q.served = true)
    (hr : r.served = false) :
    serveFirst false (before ++ r :: after) t =
      if r.n ≤ t then (before ++ { r with served := true } :: after, t - r.n) else (before ++ r :: after, t) := by
  induction before with
  | nil =>
    simp only [List.nil_append, serveFirst, hr, Bool.false_eq_true, if_false]
  | cons q qs ih =>
    have hq := hb q (List.mem_cons_self ..)
    have hrest := ih fun p hp => hb p (List.mem_cons_of_mem _ hp)
    simp only [List.cons_append, serveFirst, hq, if_true, hrest]
    split <;> rfl

/-! ### Multicast stores (R163) -/

/-- A pair that runs takes what comes to it. -/
theorem shut_running {s : State} {q : Nat} (h : (s.pair q).frozen = none) (n : Nat) : s.shut q n = false := by
  simp [State.shut, h]

/-- The bytes that come to the scratchpad of a running pair are written there. -/
theorem spadIn_running {s : State} {core : Nat} (h : (s.pair (core / 2)).frozen = none) (cs : List Host.Cell) (src : Option (Nat × Bool)) :
    s.spadIn core cs src = s.setCore core { s.core core with sp := Memory.writeAll (s.core core).sp cs } := by
  simp [State.spadIn, State.holdRequest, h]

/-- A multicast store without blocks lands in the one member of its window (R163). -/
theorem mcastLand_member {s : State} {d n x : Nat} {m : McStore} {w : Win} (hn : (s.die d).mcast[n]? = some m) (hl : m.left = 0)
    (ho : m.only = none) (ht : m.taps = []) (hlast : ∀ o ∈ (s.die d).mcast, o.left = 0 → coreOf o.ctx ≤ coreOf m.ctx)
    (hm : s.mcMembers d m.launch m.wn = [(x, w)]) (hf : (s.pair (coreOf x / 2)).frozen = none) :
    s.mcastLand d n = (s.setDie d { s.die d with mcast := (s.die d).mcast.eraseIdx n }).setCore (coreOf x)
      { s.core (coreOf x) with sp := Memory.writeAll (s.core (coreOf x)).sp (m.cells.map fun c => (w.mcByte c.1, c.2)) } := by
  have hfirst : ((s.die d).mcast.any fun o => o.left == 0 && coreOf m.ctx < coreOf o.ctx && (o.only == none || o.only == none)) = false := by
    rw [List.any_eq_false]
    intro o ho'
    have := hlast o ho'
    simp only [Bool.and_eq_true, beq_iff_eq, decide_eq_true_eq]
    omega
  have hm' : (s.setDie d { s.die d with mcast := (s.die d).mcast.eraseIdx n }).mcMembers d m.launch m.wn = [(x, w)] := hm
  have hpair : ((s.setDie d { s.die d with mcast := (s.die d).mcast.eraseIdx n }).pair (coreOf x / 2)).frozen = none := hf
  have hshut : ∀ k, (s.setDie d { s.die d with mcast := (s.die d).mcast.eraseIdx n }).shut (pairOf x) k = false := by
    have : pairOf x = coreOf x / 2 := by
      simp only [pairOf, coreOf]
      omega
    rw [this]
    exact fun k => shut_running hpair k
  unfold State.mcastLand
  simp only [hn, hl, ho, hm', ht, hfirst, State.mcWrites, List.foldl_cons, List.foldl_nil, hshut, spadIn_running hpair, ne_eq, not_true_eq_false,
    decide_false, Bool.or_false, Bool.false_eq_true, if_false, List.flatMap_nil, List.append_nil, State.setDie_core]

/-! ### Walks (R197) -/

theorem mem_fillList (n : Nat) (l : List TlbEntry) (t : TlbEntry) : t ∈ fillList n l t := by
  unfold fillList
  split
  next h => exact List.contains_iff_mem.1 h
  next => exact List.mem_append_right _ (List.mem_singleton_self t)

/-- A translation filled in stands in the die's TLB; the die's other fields and memory are as before. -/
theorem fillTlb_die (s : State) (d : Nat) (cores : List Nat) (t : TlbEntry) :
    (s.fillTlb d cores t).die d = { s.die d with tlb := fillList 3072 (s.die d).tlb t } ∧ (s.fillTlb d cores t).mem = s.mem := by
  unfold State.fillTlb
  exact foldl_keeps
    (f := fun (s : State) c =>
      let s := s.setCore c { s.core c with tlb := fillList 64 (s.core c).tlb t }
      s.setCluster (c / 4) { s.cluster (c / 4) with tlb := fillList 1024 (s.cluster (c / 4)).tlb t })
    (P := fun u => u.die d = { s.die d with tlb := fillList 3072 (s.die d).tlb t } ∧ u.mem = s.mem)
    (fun _ _ h => h) cores _ ⟨State.setDie_die_same s d _, rfl⟩

/-- A walk that one of the 64 walkers runs ends with its translation (R197). -/
theorem walkDone_ok {s : State} {d n : Nat} {w : Walk} {t : TlbEntry} (hw : (s.die d).walks[n]? = some w) (hn : n < 64)
    (ht : walkFrom s w.asid w.va 4 w.root = .ok t) :
    t ∈ ((s.walkDone d n).die d).tlb ∧ ((s.walkDone d n).die d).wfaults = (s.die d).wfaults ∧ (s.walkDone d n).mem = s.mem := by
  unfold State.walkDone
  simp only [hw, if_neg (Nat.not_le.2 hn), ht]
  rw [(fillTlb_die _ _ _ _).1, (fillTlb_die _ _ _ _).2, State.setDie_die_same]
  exact ⟨mem_fillList _ _ _, rfl, rfl⟩

/-- A walk that ends at a fault notes it and fills nothing (R197). -/
theorem walkDone_fault {s : State} {d n : Nat} {w : Walk} {c : Nat} (hw : (s.die d).walks[n]? = some w) (hn : n < 64)
    (ht : walkFrom s w.asid w.va 4 w.root = .error c) :
    ((s.walkDone d n).die d).tlb = (s.die d).tlb ∧ ((s.walkDone d n).die d).wfaults = (s.die d).wfaults ++ [⟨w.asid, w.va, c⟩] ∧
      (s.walkDone d n).mem = s.mem := by
  unfold State.walkDone
  simp only [hw, if_neg (Nat.not_le.2 hn), ht, State.setDie_die_same, State.setDie_mem]
  exact ⟨trivial, trivial, trivial⟩

/-- Settles O38: each unit by its definition, with the lemmas about token requests, multicast stores and walks. -/
theorem smallUnits : Obligations.SmallUnits := by
  unfold Obligations.SmallUnits
  refine ⟨fun s c x y h => ?_, fun s c g hg hw hf hr => ?_, fun s c g hw ht hf => ?_, fun s d => rfl, fun s d before after r hb ho hr hl => ?_,
    fun s d n x m w hn => ⟨fun hl => ?_, fun hl ho ht hlast hm hf => ?_⟩,
    fun s d n w t hw => ⟨fun hn => ?_, fun hn ht => ?_, fun c hn ht => ?_⟩⟩
  · change execCollisionPrioritySwap c s = _
    simp only [execCollisionPrioritySwap, State.prioritySwap, h]
  · change execGranuleRetentionEntry c g s = _
    simp [execGranuleRetentionEntry, State.retain, State.mayRetain, State.stopped, hg, hw, hf, hr]
  · refine ⟨s.wakeDone c.val g.val, rfl, ?_⟩
    simp [State.wakeDone, State.stopped, hw, ht, hf]
  · change execTokenRequestServed d s = _
    have hm : (s.die d.val).unmetered = false := beq_false_of_ne hl
    simp only [execTokenRequestServed, State.serveTokens, hm, hb, serveFirst_append before after r _ ho hr]
    split
    · rfl
    · rw [← hb]
  · change execMulticastStoreLand d n s = _
    simp [execMulticastStoreLand, State.mcastLand, hn, hl]
  · refine ⟨_, congrArg Host.Outcome.next (mcastLand_member hn hl ho ht hlast hm hf), ?_, ?_⟩
    · simp
    · simp
  · change execTlbWalkComplete d n s = _
    simp [execTlbWalkComplete, State.walkDone, hw, hn]
  · exact ⟨s.walkDone d.val n, rfl, walkDone_ok hw hn ht⟩
  · exact ⟨s.walkDone d.val n, rfl, walkDone_fault hw hn ht⟩

end Sys2Proof.Machine
end

section
/-! PROOF. Fills, beats, passes, drains and the end of summary operations (R87, R118 to R127, R136). -/

namespace Sys2Proof.Machine

/-! ### Fills (R120 to R122) -/

/-- The nonzero values of a numbered list read back as the list, zero beyond it. -/
theorem get_zip_range' {n : Nat} (l : List (BitVec n)) (k j : Nat) :
    Map.get 0 (((List.range' k l.length).zip l).filter fun q => q.2 != 0) j = if k ≤ j then l.getD (j - k) 0 else 0 := by
  induction l generalizing k with
  | nil => simp [Map.get]
  | cons v l ih =>
    simp only [List.length_cons, List.range'_succ, List.zip_cons_cons, List.filter_cons]
    rcases Nat.lt_trichotomy k j with h | rfl | h
    · obtain ⟨m, hm⟩ : ∃ m, j - k = m + 1 := ⟨j - k - 1, by omega⟩
      have hm' : j - (k + 1) = m := by omega
      have hrest := ih (k + 1)
      rw [if_pos (by omega), hm'] at hrest
      rw [if_pos (show k ≤ j by omega), hm, List.getD_cons_succ]
      split
      · rw [Map.get, if_neg (by omega), hrest]
      · exact hrest
    · have hrest := ih (k + 1)
      rw [if_neg (by omega)] at hrest
      rw [if_pos (Nat.le_refl k), Nat.sub_self, List.getD_cons_zero]
      split
      · rw [Map.get, if_pos rfl]
      next hv => rw [hrest, show v = 0 by simpa using hv]
    · have hrest := ih (k + 1)
      rw [if_neg (by omega)] at hrest
      rw [if_neg (show ¬ k ≤ j by omega)]
      split
      · rw [Map.get, if_neg (by omega), hrest]
      · exact hrest

theorem get_numbered {n : Nat} (l : List (BitVec n)) (j : Nat) :
    Map.get 0 ((numbered l).filter fun q => q.2 != 0) j = l.getD j 0 := by
  have h := get_zip_range' l 0 j
  rw [if_pos (Nat.zero_le j), Nat.sub_zero] at h
  rw [numbered, List.range_eq_range']
  exact h

/-- A fill whose source rows have not changed brings the rows that it read at issue. -/
theorem fillRows_same {s : State} {f : Fill} (h : f.src = [] ∨ f.src.map (tileRow (s.core f.core).sp) = f.rows) :
    fillRows s f = (f.rows, 0) := by
  unfold fillRows
  rcases h with h | h
  · simp [h]
  · simp [h]

theorem setSlot_slot (s : State) (p n m : Nat) (o : OSlot) :
    ((s.setSlot p n o).pair p).slot m = if n = m then o else (s.pair p).slot m := by
  rw [State.setSlot, State.setPair_pair_same]
  exact Map.get_put _ _ _ _ _

/-- A fill that ends: it stays in flight while scale bytes are owed, else its rows stand in the slot (R120, R121). -/
theorem fillComplete_ended {s : State} {p n : Nat} {f : Fill} (hf : ((s.pair p).slot n).fill = some f) (hl : f.left ≤ 1)
    (hr : (s.pair p).frozen = none) :
    s.fillComplete p n = (s.useFree (fillRows s f).2).setSlot p n (if s.scalesOwed p n then
      { (s.pair p).slot n with fill := some { f with banks := 0, rows := (fillRows s f).1, src := [] } }
      else { (s.pair p).slot n with
        rows := (numbered (fillRows s f).1).filter fun q => q.2 != 0, scale := scaleStore f.scale, bl := f.bl, fmt := f.fmt
        fill := none }) := by
  unfold State.fillComplete
  simp only [hf, hr, Option.isSome_none, Bool.false_or, decide_eq_true_eq, if_neg (Nat.not_lt.2 hl)]
  split <;> rfl

/-! ### Beats (R118, R123) -/

/-- A beat touches its pass and the pass's accumulator alone; one of MZERO leaves it zero. -/
theorem beat_facts (s : State) (x n : Nat) (p : Pass) :
    (∃ fl, ((s.beat x n p).ctx x).passes = (s.ctx x).passes.set n { p with executed := p.executed + 1, fl := fl }) ∧
    (∀ a : Nat, a ≠ p.acc.val → Map.get [] ((s.beat x n p).pair (pairOf x)).acc a = Map.get [] (s.pair (pairOf x)).acc a) ∧
    (p.zero = true → Map.get [] ((s.beat x n p).pair (pairOf x)).acc p.acc.val = []) ∧ (s.beat x n p).mem = s.mem ∧
    (s.beat x n p).cur = s.cur := by
  unfold State.beat
  dsimp only
  rw [State.setCtx_ctx_same, State.setCtx_pair, State.setPair_pair_same]
  refine ⟨⟨_, rfl⟩, fun a ha => Map.get_put_ne _ _ _ (Ne.symm ha), fun hz => ?_, rfl, rfl⟩
  rw [Map.get_put_same, if_pos hz]

/-! ### The end of a summary operation (R136) -/

theorem asleep_nil {k : CoreSt} (h : k.gret = []) (due : List Latch) : k.asleep due = [] := by
  unfold CoreSt.asleep
  rw [List.filterMap_eq_nil_iff.2]
  · rfl
  · intro l _
    cases l.w <;> simp [CoreSt.retained, h]

/-- Settles O39: fills, beats, passes, drains and summary operations, each by its definition. -/
theorem arrayEvents : Obligations.ArrayEvents := by
  unfold Obligations.ArrayEvents
  refine ⟨fun s p om f hf => ⟨fun hl => ?_, fun hl ho hr => ?_, fun hl ho hr hsrc => ?_⟩, fun s n p => ⟨fun ha => ?_, fun ha hn => ?_⟩,
    fun s => rfl, fun s d hd => ?_, fun s c o ho => ⟨fun h => ?_, fun hs ha hl hf hw hg hd => ?_⟩⟩
  · change execMldFillComplete p om s = _
    simp [execMldFillComplete, State.fillComplete, hf, hl]
  · refine ⟨_, { f with banks := 0, rows := (fillRows s f).1, src := [] },
      congrArg Host.Outcome.next (fillComplete_ended hf hl hr), ?_, rfl, rfl, rfl, fun h => ?_⟩
    · rw [setSlot_slot, if_pos rfl, if_pos ho]
    · rw [fillRows_same h]
  · refine ⟨_, congrArg Host.Outcome.next (fillComplete_ended hf hl hr), ?_⟩
    rw [fillRows_same hsrc, ho]
    dsimp only
    rw [setSlot_slot, if_pos rfl]
    refine ⟨rfl, rfl, rfl, fun r _ => get_numbered f.rows r, fun n hn => ?_⟩
    rw [setSlot_slot, if_neg (Ne.symm hn)]
    rfl
  · change execArrayBeat s = _
    simp [execArrayBeat, State.arrayBeat, ha]
  · obtain ⟨hp, hacc, hz, hm, hc⟩ := beat_facts s s.cur n p
    refine ⟨s.beat s.cur n p, ?_, ?_, hacc, hz, hm⟩
    · change execArrayBeat s = _
      rw [State.me] at hn
      simp [execArrayBeat, State.arrayBeat, ha, hn]
    · rw [State.me, hc]
      exact hp
  · change execMstRowLand s = _
    rw [State.me] at hd
    simp only [execMstRowLand, State.landRows, hd]
    rfl
  · change execSummaryOpComplete c s = _
    have hstop : ((s.ctx o.ctx).sup || !(s.ctx o.ctx).adv || 1 < o.left) = true := by
      rcases h with h | h | h <;> simp [h]
    simp only [execSummaryOpComplete, State.sumComplete, ho, hstop, Bool.true_or, if_true]
  · refine ⟨s.sumComplete c.val, rfl, ?_⟩
    unfold State.sumComplete
    simp only [ho, hs, ha, hf, hw, hd, asleep_nil hg, Bool.false_or, Bool.not_true, Option.isSome_none, Bool.or_false, decide_eq_true_eq,
      if_neg (Nat.not_lt.2 hl), List.isEmpty_nil, List.any_nil, Bool.false_eq_true, if_false, State.setCore_core_same]

end Sys2Proof.Machine
end

section
/-! PROOF. Accesses at their point of coherence, their landing, evicted lines, copy commands (R150, R156, R158, R161, R172). -/

namespace Sys2Proof.Machine

/-! ### Operations that touch no peer and no window -/

theorem eraseDups_eq_nil {α : Type} [BEq α] {l : List α} (h : l.eraseDups = []) : l = [] := by
  cases l with
  | nil => rfl
  | cons a l =>
    rw [List.eraseDups_cons] at h
    exact absurd h (List.cons_ne_nil _ _)

/-- Places without window objects name none. -/
theorem objectsOf_single {ls : List Loc} (h : objectsOf ls = []) {l : Loc} (hl : l ∈ ls) : objectsOf [l] = [] := by
  have h0 := eraseDups_eq_nil h
  rw [List.filterMap_eq_nil_iff] at h0
  have h1 := h0 l hl
  cases l
  case win => contradiction
  all_goals rfl

theorem objectsOf_sub {ls ks : List Loc} (h : objectsOf ls = []) (hk : ∀ l ∈ ks, l ∈ ls) : objectsOf ks = [] := by
  have h0 := eraseDups_eq_nil h
  rw [List.filterMap_eq_nil_iff] at h0
  unfold objectsOf
  rw [List.filterMap_eq_nil_iff.2 fun l hl => h0 l (hk l hl)]
  rfl

/-- Bytes of no peer and no window can all be accessed together. -/
theorem runOf_plain (c : Ctx) {ls : List Loc} (hp : ∀ l ∈ ls, l.isPeer = false) (ho : ∀ l ∈ ls, objectsOf [l] = []) (seen) :
    c.runOf ls seen = ls := by
  induction ls with
  | nil => rfl
  | cons l ls ih =>
    have hf : c.frameAt l = none := by
      have h := ho l (List.mem_cons_self ..)
      cases l
      case win => exact absurd (eraseDups_eq_nil h) (List.cons_ne_nil _ _)
      all_goals rfl
    have hrest := ih (fun k hk => hp k (List.mem_cons_of_mem _ hk)) fun k hk => ho k (List.mem_cons_of_mem _ hk)
    simp only [Ctx.runOf, hp l (List.mem_cons_self ..), Bool.false_eq_true, if_false, hf, hrest]

/-- The next bytes of an operation on no peer and no window are all made here (R172). -/
theorem advance_here {s : State} {x n k : Nat} {m : MemOp} (hr : m.remote = false) (ho : m.objects = []) (got : List Byte) (own : Bool)
    (perform : List Loc → State) : s.advance x n m got (m.locs.drop k) own perform = perform (m.locs.drop k) := by
  have hpeer : ∀ l ∈ m.locs.drop k, l.isPeer = false := fun l hl => by
    unfold MemOp.remote at hr
    rw [List.any_eq_false] at hr
    exact Bool.eq_false_iff.2 (hr l (List.mem_of_mem_drop hl))
  have hobj : ∀ l ∈ m.locs.drop k, objectsOf [l] = [] := fun l hl => objectsOf_single ho (List.mem_of_mem_drop hl)
  have hhead : ((m.locs.drop k).head?.elim false Loc.isPeer) = false := by
    cases h : m.locs.drop k with
    | nil => rfl
    | cons l ls => exact hpeer l (by rw [h]; exact List.mem_cons_self ..)
  have hready : s.readyRun x own ((s.ctx x).runOf (m.locs.drop k) []) = m.locs.drop k := by
    rw [runOf_plain _ hpeer hobj]
    unfold State.readyRun
    refine takeWhile_eq_self fun l hl => ?_
    rw [hobj l hl]
    rfl
  have htake : objectsOf ((m.locs.drop k).take 1) = [] :=
    objectsOf_sub ho fun l hl => List.mem_of_mem_drop (List.mem_of_mem_take hl)
  unfold State.advance
  simp only [hhead, Bool.false_eq_true, if_false, hready, htake]
  cases m.locs.drop k <;> rfl

/-- An operation whose next byte is a peer's asks for it (R206). -/
theorem advance_peer {s : State} {x n : Nat} {m : MemOp} {l : Loc} {r : List Loc} (hl : l.isPeer = true) (got : List Byte) (own : Bool)
    (perform : List Loc → State) : s.advance x n m got (l :: r) own perform = s.sendNext x n m got (l :: r) := by
  simp [State.advance, hl]

/-! ### The cases of an operation that is carried on -/

section
variable {s : State} {x n : Nat} {m : MemOp} {got : List Byte} (hm : (s.ctx x).mops[n]? = some m) (hw : m.phase = .waiting got)
include hm hw

theorem access_held (h : s.opReady (s.ctx x).mops n m = false ∨ s.sourcesOwed x m = true) : s.access x n = s := by
  rcases h with h | h <;> simp [State.access, hm, hw, h]

theorem access_copyBefore {k : WCopy} (hr : s.opReady (s.ctx x).mops n m = true) (ho : s.sourcesOwed x m = false)
    (hk : s.copyBefore x m.locs = some k) : s.access x n = s.evictCopy k := by
  simp [State.access, hm, hw, hr, ho, hk]

/-- An operation that nothing keeps back (R172, R175, R176): it consumes poison, fails outside its stack, or goes on. -/
theorem access_ready (hr : s.opReady (s.ctx x).mops n m = true) (ho : s.sourcesOwed x m = false) (hk : s.copyBefore x m.locs = none) :
    (∀ a, s.poisonedBy m = some a → s.access x n = ((s.dropOp x n).logged (.poison a)).fatalCtx x) ∧
    (s.poisonedBy m = none → m.locs.all s.locInStack = false → s.access x n = s.setOp x n { m with phase := .failed }) ∧
    (s.poisonedBy m = none → m.locs.all s.locInStack = true →
      ((∀ p v rm bs, m.kind ≠ .tapStore p v rm bs) →
        s.access x n = s.advance x n m got (m.locs.drop got.length) m.isStore (s.performHere x n m got)) ∧
      (∀ p v rm bs, m.kind = .tapStore p v rm bs → s.access x n = s.tapNext x n m p v rm got bs)) := by
  refine ⟨fun a ha => ?_, fun hp hl => ?_, fun hp hl => ⟨fun hne => ?_, fun p v rm bs hkind => ?_⟩⟩
  · simp [State.access, hm, hw, hr, ho, hk, ha]
  · simp [State.access, hm, hw, hr, ho, hk, hp, hl]
  · unfold State.access
    simp only [hm, hw, hr, ho, hk, hp, hl, Bool.not_true, Bool.or_false, Bool.false_eq_true, if_false]
  · unfold State.access
    simp only [hm, hw, hr, ho, hk, hp, hl, hkind, Bool.not_true, Bool.or_false, Bool.false_eq_true, if_false]

end

/-! ### Lines that leave a cache (R150) -/

theorem discardLine_mem {s : State} {cl n : Nat} {l : Line} (hl : Map.find (s.cluster cl).lines n = some l) :
    (s.discardLine cl n).mem = ((s.setCluster cl { s.cluster cl with lines := Map.put (s.cluster cl).lines n { l with dirty := 0 } }).writeBack l n).mem := by
  have hpass : ∀ (t : State) (d : Nat), (t.passAbuf d n l).mem = t.mem := fun t d => by
    unfold State.passAbuf
    dsimp only
    split <;> rfl
  unfold State.discardLine
  rw [State.setCluster_mem, dropL1_mem, State.cleanLine, hl]
  exact hpass _ _

/-- A line that leaves a cluster's cache writes its dirty bytes and no other (R150). -/
theorem read_discardLine {s : State} (hwf : Memory.wf s.mem = true) {cl n : Nat} {l : Line} (hl : Map.find (s.cluster cl).lines n = some l)
    (j k : Nat) (hk : k < 128) : Memory.read (s.discardLine cl n).mem (128 * j + k) =
      if j = n ∧ l.dirty.getLsbD k = true then l.byte k else Memory.read s.mem (128 * j + k) := by
  rw [discardLine_mem hl]
  exact read_writeBack _ (by exact hwf) l n j k hk

/-! ### Copy commands (R158, R161) -/

/-- A queued copy of the kinds that move bytes starts: at once landed where it moves none, else running with its sizes (R158). -/
theorem startCmd_copy {s : State} {core : Nat} {e : Bool} {c : Cmd}
    (hk : c.kind = .cpy ∨ c.kind = .cpy2d ∨ c.kind = .cfill ∨ c.kind = .cgather ∨ c.kind = .cmcast) :
    (c.total = 0 → s.startCmd core e c = s.setHead core e { c with phase := .landed, banks := 0 }) ∧
    (∀ j, 0 < c.total → c.sized s = .ok j → s.startCmd core e c = s.setHead core e { j with phase := .running }) := by
  refine ⟨fun ht => ?_, fun j ht hj => ?_⟩
  · rcases hk with h | h | h | h | h <;> simp only [State.startCmd, h, ht, if_true]
  · have hne := Nat.ne_of_gt ht
    rcases hk with h | h | h | h | h <;> simp only [State.startCmd, h, hne, if_false, hj]

/-- A running command with its source bytes at hand lands its next piece, or has landed whole (R161). -/
theorem copyLand_running {s : State} {core : Nat} {e : Bool} {c : Cmd} (hc : s.headCmd core e = some c)
    (hf : (s.pair (core / 2)).frozen = none) (hp : c.phase = .running) (hk : c.kind ≠ .cred) (ht : c.tag = none) (ha : c.afar = false) :
    (c.total ≤ c.done → s.copyLand core e = s.setHead core e { c with phase := .landed, banks := 0 }) ∧
    (c.done < c.total → c.out = none → s.copyLand core e = s.nextPiece core e c) := by
  refine ⟨fun hd => ?_, fun hd ho => ?_⟩
  · simp only [State.copyLand, State.stopped, hc, hf, hp, ht, ha, if_pos hd, Option.isSome_none, Bool.or_false, Bool.false_eq_true, if_false]
    split
    next h _ _ => exact absurd h hk
    next => rfl
  · simp only [State.copyLand, State.stopped, hc, hf, hp, ht, ha, ho, if_neg (Nat.not_le.2 hd), Option.isSome_none, Bool.or_false,
      Bool.false_eq_true, if_false]
    split
    next h _ _ => exact absurd h hk
    next => rfl

/-- Settles O40: accesses by the cases of `access`, landings and commands by their definitions, evicted lines by `read_discardLine`. -/
theorem accessesAndCopies : Obligations.AccessesAndCopies := by
  unfold Obligations.AccessesAndCopies
  refine ⟨fun s n m got hm hw => ⟨fun h => ?_, fun k hr ho hk => ?_, fun hr ho hk => ?_⟩, fun s n m bs r hm hf hrow => ⟨fun hp hres hs => ?_,
    fun hp hres hs => ?_, fun hp hl hz => ?_, fun hp hl hz => ?_⟩, fun s c n l hwf hl => ?_, fun s c e k hk hf => ⟨fun hp hkind => ?_,
    fun hp ht ha => ?_, fun hp hkind ht ha => ?_, fun hp hpo => ?_, fun hp => ?_⟩⟩
  · exact congrArg Host.Outcome.next (access_held hm hw h)
  · exact congrArg Host.Outcome.next (access_copyBefore hm hw hr ho hk)
  · obtain ⟨hpoison, hout, hgo⟩ := access_ready hm hw hr ho hk
    refine ⟨fun a ha => congrArg Host.Outcome.next (hpoison a ha), fun hp hl => congrArg Host.Outcome.next (hout hp hl),
      fun hp hl => ⟨fun hkind hrem hobj => ?_, fun hkind l r hd hpeer => ?_, fun p v rm bs hkind => ?_⟩⟩
    · exact congrArg Host.Outcome.next (((hgo hp hl).1 hkind).trans (advance_here hrem hobj ..))
    · refine congrArg Host.Outcome.next (((hgo hp hl).1 hkind).trans ?_)
      rw [hd]
      exact advance_peer hpeer ..
    · exact congrArg Host.Outcome.next ((hgo hp hl).2 p v rm bs hkind)
  · have hrow' : m.pendRow.elim false (s.core (coreOf s.cur)).retained = false := hrow
    rw [State.me] at hm
    change execLoadLand n s = _
    simp [execLoadLand, State.landLoad, hm, hf, hs, hp, hres, hrow']
  · have hrow' : m.pendRow.elim false (s.core (coreOf s.cur)).retained = false := hrow
    rw [State.me] at hm
    change execLoadLand n s = _
    simp only [execLoadLand, State.landLoad, hm, hf, hs, hp, hres, hrow', Option.isSome_none, Bool.or_false, Bool.and_false,
      Bool.false_eq_true, if_false]
  · rw [State.me] at hm
    change execStorePerformed n s = _
    simp [execStorePerformed, State.endStore, hm, hf, hl, hz, hp]
  · rw [State.me] at hm
    change execStorePerformed n s = _
    simp [execStorePerformed, State.endStore, hm, hf, hl, hz, hp]
  · refine ⟨s.discardLine c.val n, rfl, ?_, fun k hk => ?_, fun a ha => ?_⟩
    · rw [discardLine_find, if_pos rfl]
    · rw [read_discardLine hwf hl n k hk]
      simp only [true_and]
    · have h := read_discardLine hwf hl (a / 128) (a % 128) (Nat.mod_lt _ (by decide))
      rw [Nat.div_add_mod a 128, if_neg fun h => ha h.1] at h
      exact h
  · have hex : exec (.copyEngineStart c e) s = .next (s.startCmd c.val e k) := by
      change execCopyEngineStart c e s = _
      simp [execCopyEngineStart, State.copyStart, State.stopped, hk, hf, hp]
    obtain ⟨h0, h1⟩ := startCmd_copy (s := s) (core := c.val) (e := e) hkind
    exact ⟨fun ht => hex.trans (congrArg Host.Outcome.next (h0 ht)), fun j ht hj => hex.trans (congrArg Host.Outcome.next (h1 j ht hj))⟩
  · change execCopyDataLand c e s = _
    simp [execCopyDataLand, State.copyLand, State.stopped, hk, hf, hp, ht, ha]
  · obtain ⟨h0, h1⟩ := copyLand_running hk hf hp hkind ht ha
    exact ⟨fun hd => congrArg Host.Outcome.next (h0 hd), fun hd ho => congrArg Host.Outcome.next (h1 hd ho)⟩
  · change execCopyComplete c e s = _
    have hnone : (if k.kind = .chsend then s.poisonOf [k.entry] else none) = none := by
      split
      next h => exact hpo h
      next => rfl
    simp [execCopyComplete, State.copyComplete, State.stopped, hk, hf, hp, hnone]
  · change execCopyComplete c e s = _
    simp [execCopyComplete, State.copyComplete, State.stopped, hk, hf, hp]

end Sys2Proof.Machine
end

section
/-! PROOF. Barrier, flag and channel messages and the words of link FIFOs arrive (R25, R239, R241, R245, R317, R338). -/

namespace Sys2Proof.Machine

/-- A message that is next on its edge is one of the list. -/
theorem message_lt {s : State} {n : Nat} {m : Msg} (h : s.message n = some m) : n < s.hub.msgs.length := by
  unfold State.message at h
  refine Nat.lt_of_not_le fun hn => ?_
  rw [List.getElem?_eq_none hn] at h
  contradiction

/-- A running pair's context is told a phase (R25). -/
theorem tellPhase_running {s : State} {x : Nat} (h : (s.pair (pairOf x)).frozen = none) (g : Fin 256) (ph : BitVec 16) :
    s.tellPhase x g ph = s.setCtx x { s.ctx x with bars := (s.ctx x).bars.map fun b => if b.g = g then { b with phase := ph } else b } := by
  simp [State.tellPhase, State.holdRequest, h]

/-- An increment for a context of a running pair raises its flag (R338). -/
theorem bumpFlag_running {s : State} {y : Nat} (h : (s.pair (pairOf y)).frozen = none) (he : s.exists? y = true)
    (ho : (s.ctx y).occ ≠ .free) (k : Fin 32) (n : Nat) (sc : Scope) :
    s.bumpFlag y k n sc = s.setCtx y ((s.ctx y).addFlag k n sc) := by
  simp [State.bumpFlag, State.holdRequest, h, he, ho]

theorem injectResponse_frame (s : State) (p : Packet) :
    (s.injectResponse p).ctxs = s.ctxs ∧ (s.injectResponse p).hub.nclu = s.hub.nclu := by
  unfold State.injectResponse
  by_cases h : (Hdr.of p.hdr).dpkg = s.hub.pkgid
  · rw [if_pos h]
    exact ⟨rfl, rfl⟩
  · rw [if_neg h]
    exact ⟨rfl, rfl⟩

/-- A response changes only the packets at the hub. -/
theorem respond_frame (s : State) (h : Hdr) (t : PType) (ext : Nat) (pay : List (BitVec 512)) :
    (s.respond h t ext pay).ctxs = s.ctxs ∧ (s.respond h t ext pay).hub.nclu = s.hub.nclu := by
  unfold State.respond
  exact injectResponse_frame s _

/-- The communication context at a place depends on the part's clusters alone. -/
theorem commAt_congr {s t : State} (h : t.hub.nclu = s.hub.nclu) (loc : Nat) : t.commAt loc = s.commAt loc := by
  have hclu : t.clustersOf = s.clustersOf := by
    funext d
    rw [State.clustersOf, State.clustersOf, h]
  have hcores : t.coresOf = s.coresOf := by
    funext d
    rw [State.coresOf, State.coresOf, hclu]
  have hmaster : t.masterOf = s.masterOf := by
    funext x
    rw [State.masterOf, State.masterOf, hclu]
  have hex : t.exists? = s.exists? := by
    funext x
    rw [State.exists?, State.exists?, hcores]
  have hcomm : t.isComm = s.isComm := by
    funext x
    rw [State.isComm, State.isComm, hmaster]
  have hof : t.commOf = s.commOf := by
    funext x
    rw [State.commOf, State.commOf, hmaster]
  rw [State.commAt, State.commAt, hex, hcomm, hof]

/-- The acknowledgement of a packet of link FIFO words leaves the contexts and the part as they were. -/
theorem afterAck (s : State) (n : Nat) (h : Hdr) (x : Nat) (hc : s.commAt h.dloc = some x) :
    ((s.takePacket n).respond h .ack (respExt stOk 0) []).ctx x = s.ctx x ∧
      ((s.takePacket n).respond h .ack (respExt stOk 0) []).commAt h.dloc = some x := by
  obtain ⟨hctx, hnclu⟩ := respond_frame (s.takePacket n) h .ack (respExt stOk 0) []
  refine ⟨?_, (commAt_congr hnclu _).trans hc⟩
  rw [State.ctx, hctx]
  rfl

theorem fifo_counts (h : Hdr) : h.fifo.2.1 = field h.ext 15 8 ∧ h.fifo.2.2 = field h.ext 31 16 := by
  unfold Hdr.fifo
  exact ⟨rfl, rfl⟩

section
variable {s : State} {n x : Nat} {h : Hdr} {p : Packet} {l : Fin 16} (ha : s.arrived n .words = some (h, p)) (hv : p.via = some l)
  (hc : s.commAt h.dloc = some x)
include ha hv hc

/-- Words of a link FIFO packet enter lin of the context that they are for (R239). -/
theorem linkFifoWords_ok (hw : 0 < field h.ext 15 8) : ∃ t, exec (.linkFifoWords n) s = .next t ∧
    t.hub = ((s.takePacket n).respond h .ack (respExt stOk 0) []).hub ∧
      (t.ctx x).lin.get l = (s.ctx x).lin.get l ++ fifoWords p (field h.ext 15 8) := by
  obtain ⟨hctx, hcomm⟩ := afterAck s n h x hc
  refine ⟨((s.takePacket n).respond h .ack (respExt stOk 0) []).setCtx x { s.ctx x with
    lin := (s.ctx x).lin.set l.val ((s.ctx x).lin.get l ++ fifoWords p (field h.ext 15 8)) l.isLt }, ?_, ?_, ?_⟩
  · change execLinkFifoWords n s = _
    simp only [execLinkFifoWords, ha, hv, (fifo_counts h).1, Nat.ne_of_gt hw, if_false, hcomm, hctx]
  · exact State.setCtx_hub ..
  · rw [State.setCtx_ctx_same]
    exact Vector.getElem_set_self l.isLt

/-- The credits of a link FIFO packet open room again, at most 32 words (R239). -/
theorem linkFifoCredit_ok (hw : field h.ext 15 8 = 0) : ∃ t, exec (.linkFifoCredit n) s = .next t ∧
    t.hub = ((s.takePacket n).respond h .ack (respExt stOk 0) []).hub ∧
      (t.ctx x).lcred.get l = Nat.min 32 ((s.ctx x).lcred.get l + field h.ext 31 16) := by
  obtain ⟨hctx, hcomm⟩ := afterAck s n h x hc
  refine ⟨((s.takePacket n).respond h .ack (respExt stOk 0) []).setCtx x { s.ctx x with
    lcred := (s.ctx x).lcred.set l.val (min 32 ((s.ctx x).lcred.get l + field h.ext 31 16)) l.isLt }, ?_, ?_, ?_⟩
  · change execLinkFifoCredit n s = _
    simp only [execLinkFifoCredit, ha, hv, (fifo_counts h).1, (fifo_counts h).2, hw, ne_eq, not_true_eq_false, if_false, hcomm, hctx]
  · exact State.setCtx_hub ..
  · rw [State.setCtx_ctx_same]
    exact Vector.getElem_set_self l.isLt

end

/-- Settles O41: messages by the operation that each carries out, link FIFO words by the response that leaves contexts alone. -/
theorem messagesArrive : Obligations.MessagesArrive := by
  unfold Obligations.MessagesArrive
  refine ⟨fun s n => ⟨fun l g w hm hl => ?_, fun x g ph hm hf => ?_, fun y k c sc hm hf he ho => ?_, fun x ch hm => ?_, fun x ch hm => ?_⟩,
    fun s pkg l g w hl => ⟨fun hu => ?_, fun hu ph => ?_⟩, fun s n x h p l ha hv hc => ⟨fun hw => ?_, fun hw => ?_⟩⟩
  · change execBarrierArrival (.listed n) s = _
    have hl' : (s.takeMessage n).launch l = some w := hl
    simp only [execBarrierArrival, hm, hl']
    rfl
  · have hf' : ((s.takeMessage n).pair (pairOf x)).frozen = none := hf
    refine ⟨(s.takeMessage n).tellPhase x g ph, ?_, ?_, ?_⟩
    · change execBarrierSignal (.listed n) s = _
      simp [execBarrierSignal, hm, shut_running hf]
    · rw [tellPhase_running hf']
      rfl
    · rw [tellPhase_running hf', State.setCtx_ctx_same]
      rfl
  · have hf' : ((s.takeMessage n).pair (pairOf y)).frozen = none := hf
    refine ⟨(s.takeMessage n).bumpFlag y k c sc, ?_, ?_, ?_⟩
    · change execFlagIncrement n s = _
      simp [execFlagIncrement, State.flagArrives, hm, message_lt hm, shut_running hf]
    · rw [bumpFlag_running hf' (by exact he) (by exact ho)]
      rfl
    · rw [bumpFlag_running hf' (by exact he) (by exact ho), State.setCtx_ctx_same]
      rfl
  · change channelEvent n true s = _
    simp only [channelEvent, hm, message_lt hm, if_true]
    rfl
  · change channelEvent n false s = _
    simp only [channelEvent, hm, message_lt hm, if_true]
    rfl
  · change execBarrierArrival (.outside pkg l g .arrive) s = _
    simp [execBarrierArrival, hl, State.groupFrom, hu]
  · change execBarrierSignal (.outside pkg l g (.phase ph)) s = _
    simp [execBarrierSignal, hl, State.phaseFrom, hu]
  · exact linkFifoWords_ok ha hv hc hw
  · exact linkFifoCredit_ok ha hv hc hw

end Sys2Proof.Machine
end

section
/-! PROOF. The messages of shared windows (R166 to R169, R391). -/

namespace Sys2Proof.Machine

/-- The step of a message that may arrive. -/
theorem wstep_ok {ks : List WKind} {s : State} {n : Nat} {m : WMsg} (h : s.wmsg n ks = some m) (f : State → WMsg → State) :
    wstep ks f n s = .next (f (s.wtake n) m) := by
  simp only [wstep, h]

/-- A request that comes to a directory waits for room, is queued behind one in progress, or is served (R167, R169). -/
theorem requestStep_ok {k : WKind} {s : State} {n : Nat} {m : WMsg} (h : s.wmsg n [k] = some m) (own : Bool) :
    let u := s.wtake n
    let l := if m.lvl = .pkg then none else some (dieOf m.x)
    let e := u.dirEntry l m.obj
    requestStep k own n s = .next (if s.hasRoom l m.obj = false then s
      else if e.busy then u.setEntry l { e with queue := e.queue ++ [(m.x, own)] } else u.serve l m.obj m.x own) := by
  dsimp only
  rw [requestStep, wstep_ok h]
  change Host.Outcome.next (if s.hasRoom (if m.lvl = .pkg then none else some (dieOf m.x)) m.obj = true then _ else s) = _
  cases s.hasRoom (if m.lvl = .pkg then none else some (dieOf m.x)) m.obj <;> rfl

/-- An acknowledgement of the home ends a copy that is being given up, and no other (R166). -/
theorem takeHomeAck_copy {s : State} {m : WMsg} {c : WCopy} (h : s.copyObj m.x m.obj = some c) :
    s.takeHomeAck m = if c.st = .MI ∨ c.st = .OI ∨ c.st = .EI ∨ c.st = .SI then s.setCopy { c with st := .I } else s := by
  unfold State.takeHomeAck
  rw [h]
  cases hs : c.st <;> simp only [hs] <;> rfl

/-- An invalidation that waits at the edge of a frozen pair (R269). -/
theorem takeInv_waits {s : State} {m : WMsg} (hl : m.lvl ≠ .pkg) (he : s.atEdge m = true) : s.takeInv m = none := by
  simp [State.takeInv, hl, he]

/-- An invalidation at a holder is carried out and acknowledged (R168). -/
theorem takeInv_copy {s : State} {m : WMsg} (hl : m.lvl ≠ .pkg) (he : s.atEdge m = false) {c : WCopy}
    (hc : s.copyObj m.x m.obj = some c) :
    let left (t : State) := t.wsend (if m.lvl = .die then ⟨.ack, m.obj, m.x, m.req, none, 1, false, false, .die⟩
      else ⟨.ack, m.obj, m.req, m.req, none, 1, false, false, .core⟩)
    (c.st = .S ∨ c.st = .E → s.takeInv m = some (left (s.setCopy { c with st := if s.readHeld c then .ISI else .I }))) ∧
    (c.st = .O ∨ c.st = .M → s.takeInv m = some (left (s.setCopy { c with st := .I }))) ∧
    (c.st = .IS → s.takeInv m = some (left (s.setCopy { c with st := .ISI }))) ∧
    (c.st = .SM ∨ c.st = .OM → s.takeInv m = some (left (s.setCopy { c with st := .IM, data := false }))) := by
  have hinv : s.takeInv m = some (s.invalidateCopy m) := by simp [State.takeInv, hl, he]
  refine ⟨fun h => ?_, fun h => ?_, fun h => ?_, fun h => ?_⟩
  · rcases h with h | h <;> simp only [hinv, State.invalidateCopy, hc, h, State.yieldCopy]
  · rcases h with h | h <;> simp only [hinv, State.invalidateCopy, hc, h]
  · simp only [hinv, State.invalidateCopy, hc, h]
  · rcases h with h | h <;> simp only [hinv, State.invalidateCopy, hc, h]

/-- A forwarded request that a holder cannot serve is held (R168). -/
theorem takeForward_held {s : State} {m : WMsg} (hl : m.lvl ≠ .pkg) {c : WCopy} (hc : s.copyObj m.x m.obj = some c)
    (h : c.holdsData = false ∨ s.writeHeld? c = true ∨ s.atEdge m = true) : s.takeForward m = none := by
  rcases h with h | h | h <;> simp [State.takeForward, hl, hc, h]

/-- A forwarded request at a holder that serves it: the data goes to the requester (R168, R169). -/
theorem takeForward_served {s : State} {m : WMsg} (hl : m.lvl ≠ .pkg) {c : WCopy} (hc : s.copyObj m.x m.obj = some c)
    (hd : c.holdsData = true) (hw : s.writeHeld? c = false) (he : s.atEdge m = false) :
    let sent (t : State) (own : Bool) : State :=
      t.wsend ⟨.data, m.obj, m.req, m.req, some (s.copyBytes c), if own then 1 else 0, false, own, .core⟩
    (m.kind = .fwdRead → c.st = .M → s.takeForward m = some (sent (s.setCopy { c with st := .O }) false)) ∧
    (m.kind = .fwdRead → c.st = .O → s.takeForward m = some (sent s false)) ∧
    (m.kind = .fwdRead → c.st = .E → s.takeForward m = some (sent ((s.setCopy { c with st := .S }).noOwner m) false)) ∧
    (m.kind = .fwdOwn → c.st = .M ∨ c.st = .O → s.takeForward m = some (sent (s.setCopy { c with st := .I }) true)) := by
  refine ⟨fun hk h => ?_, fun hk h => ?_, fun hk h => ?_, fun hk h => ?_⟩
  · simp [State.takeForward, hl, hc, hd, hw, he, hk, h]
  · simp [State.takeForward, hl, hc, hd, hw, he, hk, h]
  · simp [State.takeForward, hl, hc, hd, hw, he, hk, h]
  · rcases h with h | h <;> simp [State.takeForward, hl, hc, hd, hw, he, hk, h]

/-- The steps of the four kinds of messages whose arrival may be put off, or depends on the level. -/
theorem windowAcknowledgement_eq {s : State} {n : Nat} {m : WMsg} (h : s.wmsg n [.ack] = some m) :
    exec (.windowAcknowledgement n) s =
      .next (if m.lvl = .die then (s.wtake n).collect m.obj (dieOf m.x) else (s.wtake n).takeAck m) :=
  wstep_ok h fun t m => if m.lvl = .die then t.collect m.obj (dieOf m.x) else t.takeAck m

theorem windowNotBusy_eq {s : State} {n : Nat} {m : WMsg} (h : s.wmsg n [.notBusy] = some m) :
    exec (.windowNotBusy n) s = .next ((s.wtake n).notBusy m.lvl m.obj m.x) :=
  wstep_ok h fun s m => s.notBusy m.lvl m.obj m.x

theorem windowInvalidation_eq {s : State} {n : Nat} {m : WMsg} (h : s.wmsg n [.inv] = some m) :
    exec (.windowInvalidation n) s = .next (((s.wtake n).takeInv m).getD s) :=
  wstep_ok h fun t m => (t.takeInv m).getD s

theorem windowForwardedRequest_eq {s : State} {n : Nat} {m : WMsg} (h : s.wmsg n [.fwdRead, .fwdOwn] = some m) :
    exec (.windowForwardedRequest n) s = .next (((s.wtake n).takeForward m).getD s) :=
  wstep_ok h fun t m => (t.takeForward m).getD s

/-- Settles O42: each message's step, by the lemma about what it does to a copy or a directory. -/
theorem windowMessages : Obligations.WindowMessages := by
  unfold Obligations.WindowMessages
  refine ⟨fun s n k m hm => ⟨fun hk => ?_, fun hk => ?_, fun hk => ?_, fun hk hl => ?_, fun hk hl c hc => ?_, fun hk => ?_, fun hk => ?_,
    fun hk => ?_, fun hk c hc => ?_, fun hk hl => ?_, fun hk hl he => ?_, fun hk hl he c hc => ?_⟩, fun s n m hm => ⟨fun hl => ?_,
    fun hl c hc => ⟨fun h => ?_, fun hd hw he => ?_⟩⟩, fun s d => ⟨fun h => ?_, fun h => ⟨fun e he => ?_, fun he => ?_⟩⟩⟩
  · subst hk
    exact requestStep_ok hm false
  · subst hk
    exact requestStep_ok hm true
  · subst hk
    exact requestStep_ok hm true
  · subst hk
    rw [windowAcknowledgement_eq hm, if_pos hl]
  · subst hk
    rw [windowAcknowledgement_eq hm, if_neg hl, State.takeAck, hc]
  · subst hk
    exact wstep_ok hm State.takeData
  · subst hk
    exact windowNotBusy_eq hm
  · subst hk
    exact wstep_ok hm State.takeWriteBack
  · subst hk
    exact (wstep_ok hm State.takeHomeAck).trans (congrArg Host.Outcome.next (takeHomeAck_copy hc))
  · subst hk
    rw [windowInvalidation_eq hm]
    simp only [State.takeInv, if_pos hl, Option.getD_some]
  · subst hk
    rw [windowInvalidation_eq hm, takeInv_waits hl he, Option.getD_none]
  · subst hk
    obtain ⟨h1, h2, h3, h4⟩ := takeInv_copy hl he hc
    rw [windowInvalidation_eq hm]
    exact ⟨fun h => by rw [h1 h, Option.getD_some], fun h => by rw [h2 h, Option.getD_some], fun h => by rw [h3 h, Option.getD_some],
      fun h => by rw [h4 h, Option.getD_some]⟩
  · rw [windowForwardedRequest_eq hm]
    simp only [State.takeForward, if_pos hl, Option.getD_some]
  · rw [windowForwardedRequest_eq hm, takeForward_held hl hc h, Option.getD_none]
  · obtain ⟨h1, h2, h3, h4⟩ := takeForward_served hl hc hd hw he
    rw [windowForwardedRequest_eq hm]
    exact ⟨fun hk h => by rw [h1 hk h, Option.getD_some], fun hk h => by rw [h2 hk h, Option.getD_some],
      fun hk h => by rw [h3 hk h, Option.getD_some], fun hk h => by rw [h4 hk h, Option.getD_some]⟩
  · change execDirectoryRecall d s = _
    simp [execDirectoryRecall, h]
  · change execDirectoryRecall d s = _
    simp [execDirectoryRecall, Nat.not_lt.2 h, he]
  · change execDirectoryRecall d s = _
    simp [execDirectoryRecall, Nat.not_lt.2 h, he]

end Sys2Proof.Machine
end

section
/-! PROOF. Packets are served, answered and forwarded; the route table (R206 to R209, R233 to R236). -/

namespace Sys2Proof.Machine

theorem respExt_none (st : Nat) : respExt st 0 = st := by
  simp [respExt]

theorem respExt_ok (n : Nat) : respExt stOk n = n * 2 ^ 32 := by
  simp [respExt, stOk]

/-- A request that has come is served with its outside translations at hand. -/
theorem serve_ok {n : Nat} {t : PType} {s : State} {h : Hdr} {p : Packet} (ha : s.arrived n t = some (h, p))
    (f : State → Hdr → Packet → State) :
    serve n t f s = .next (f (((s.takePacket n).fillExport h.ta).fillExport (h.ta + field h.ext 31 0 - 1)) h p) := by
  simp only [serve, ha, Hdr.count]

section
variable {s : State} {n : Nat} {h : Hdr} {p : Packet}

/-- A read is answered with its bytes, or with why it was not made (R206, R207). -/
theorem remoteRead_ok (ha : s.arrived n .read = some (h, p)) :
    let u := ((s.takePacket n).fillExport h.ta).fillExport (h.ta + field h.ext 31 0 - 1)
    (∀ st, u.target h false (min (field h.ext 31 0) 2048) = .error st →
      exec (.remoteRead n) s = .next ((u.noteMiss h st).respond h .data st [])) ∧
    (∀ as : List Nat, u.target h false (min (field h.ext 31 0) 2048) = .ok as → exec (.remoteRead n) s =
      .next (let v := u.atSource h as
        v.respond h .data (as.length * 2 ^ 32) (flitsOf (as.map (Memory.read v.mem))))) := by
  refine ⟨fun st hst => ?_, fun as has => ?_⟩ <;> change execRemoteRead n s = _ <;> rw [execRemoteRead, serve_ok ha]
  · simp only [Hdr.count, hst, respExt_none]
  · simp only [Hdr.count, has, respExt_ok]

/-- A write that rewrites no block is made and acknowledged, or answered with why it was not made (R152, R206, R207). -/
theorem remoteWrite_ok (ha : s.arrived n .write = some (h, p)) (hk : h.writeKind ≠ 2) :
    let u := ((s.takePacket n).fillExport h.ta).fillExport (h.ta + field h.ext 31 0 - 1)
    (∀ st, u.target h true (min (field h.ext 31 0) 2048) = .error st →
      exec (.remoteWrite n) s = .next ((u.noteMiss h st).respond h .ack st [])) ∧
    (∀ as : List Nat, u.target h true (min (field h.ext 31 0) 2048) = .ok as →
      let w := (u.atSource h as).memWrite (as.zip (if h.writeKind = 1 then List.replicate as.length 0 else bytesOf p.pay as.length))
      exec (.remoteWrite n) s = .next
        ((if h.writeKind = 1 then { w with zflag := (as.map (· / 128)).eraseDups ++ w.zflag } else w).respond h .ack
          (as.length * 2 ^ 32) [])) := by
  refine ⟨fun st hst => ?_, fun as has => ?_⟩ <;> change execRemoteWrite n s = _ <;> rw [execRemoteWrite, serve_ok ha]
  · simp only [Hdr.count, hst, respExt_none, if_neg hk]
  · simp only [Hdr.count, has, respExt_ok, if_neg hk]

/-- An atomic is refused by ATOMCAP, or performed and answered with the old value (R206, R208, R209). -/
theorem remoteAtomic_ok (ha : s.arrived n .atomic = some (h, p)) :
    let u := ((s.takePacket n).fillExport h.ta).fillExport (h.ta + field h.ext 31 0 - 1)
    let op := AtomOp.ofCode (field h.ext 3 0) (BitVec.ofNat 64 (field h.ext 191 128))
    let f := (Fmt.ofCode (field h.ext 7 4)).getD .n64
    (∀ r, atomRefused atomcap op f = some r → exec (.remoteAtomic n) s = .next (u.respond h .answer (r + 2) [])) ∧
    (∀ as : List Nat, atomRefused atomcap op f = none → u.target h true (f.memWidth / 8) = .ok as →
      (∀ a ∈ as, a / 128 ∉ u.poison) →
      let v := u.atSource h as
      let old := leNat (as.map (Memory.read v.mem))
      exec (.remoteAtomic n) s = .next ((v.memWrite (as.zip (leBytes as.length (atomNew op f old (field h.ext 127 64)).1))).respond
        h .answer (as.length * 2 ^ 32 + old * 2 ^ 64) [])) := by
  refine ⟨fun r hr => ?_, fun as hr has hp => ?_⟩ <;> change execRemoteAtomic n s = _ <;> rw [execRemoteAtomic, serve_ok ha]
  · simp only [hr, respExt_none]
  · have hclean : (as.any fun a => (((s.takePacket n).fillExport h.ta).fillExport (h.ta + field h.ext 31 0 - 1)).poison.contains (a / 128)) = false := by
      rw [List.any_eq_false]
      intro a h
      simpa using hp a h
    simp only [hr, has, hclean, respExt_ok, Bool.false_eq_true, if_false]

end

/-- A response is taken unless a sealed image still waits for it (R234, R272). -/
theorem takeResponse_ok {n : Nat} {t : PType} {s : State} {h : Hdr} {p : Packet} (ha : s.arrived n t = some (h, p)) :
    takeResponse n t s = .next (if s.awaited h.tag then s else (s.takePacket n).answered h p) := by
  simp only [takeResponse, ha]

/-- Settles O43: requests and responses by the lemmas above, packets on their way and the route table by their definitions. -/
theorem fabricPackets : Obligations.FabricPackets := by
  unfold Obligations.FabricPackets
  refine ⟨fun s n t h p ha => ⟨fun ht => ?_, fun ht hk => ?_, fun ht hk => ?_, fun ht => ?_, fun ht => ?_, fun ht => ?_, fun ht => ?_⟩,
    fun s n p hp hsame => ⟨fun hv hd => ?_, fun l hv => ?_⟩, fun s i v hb => ⟨fun hi hv => ?_, fun h => ?_⟩, fun s n i v hq hnew hset => ?_⟩
  · subst ht
    exact remoteRead_ok ha
  · subst ht
    change execRemoteWrite n s = _
    rw [execRemoteWrite, serve_ok ha]
    simp only [hk, if_true]
  · subst ht
    exact remoteWrite_ok ha hk
  · subst ht
    exact remoteAtomic_ok ha
  · subst ht
    exact takeResponse_ok ha
  · subst ht
    exact takeResponse_ok ha
  · subst ht
    exact takeResponse_ok ha
  · rw [hv] at hsame
    change execFabricForward n s = _
    simp only [execFabricForward, State.forward, hp, hsame, hv, if_neg hd, Bool.false_eq_true, if_false]
    cases s.leaveBy (Hdr.of p.hdr).dpkg <;> rfl
  · rw [hv] at hsame
    change execFabricForward n s = _
    simp only [execFabricForward, State.forward, hp, hsame, hv, Bool.false_eq_true, if_false, ite_not]
    rfl
  · change execRouteTableWrite i v s = _
    simp only [execRouteTableWrite, State.bar, State.routeWrite, hb, if_true, if_neg (Nat.not_le.2 hi), hv, ne_eq, not_true_eq_false, if_false]
  · change execRouteTableWrite i v s = _
    rcases h with h | h
    · simp only [execRouteTableWrite, State.bar, State.routeWrite, hb, if_true, if_pos h, State.logged]
    · simp only [execRouteTableWrite, State.bar, State.routeWrite, hb, if_true, if_pos h, State.logged, ite_self]
  · have hfirst : ((s.hub.routeq.take n).any (·.1 == i)) = false := by
      rw [List.any_eq_false]
      rintro ⟨j, w⟩ hw h
      exact hnew w (by simpa using (beq_iff_eq.1 h) ▸ hw)
    change execRouteEntryApply n s = _
    simp only [execRouteEntryApply, State.routeApply, hq, hfirst, hset, Bool.not_true, Bool.or_false, Bool.false_eq_true, if_false]

end Sys2Proof.Machine
end

section
/-! PROOF. The states of a link (R231, R232, R237, R238). -/

namespace Sys2Proof.Machine

/-- The first flit of a sequence number is found at the end of those before it. -/
theorem place_append {k : Link} {before after : List RetryFlit} {f : RetryFlit} (hk : k.retry = before ++ f :: after)
    (hb : ∀ r ∈ before, r.seq ≠ f.seq) : k.place f.seq = some before.length := by
  unfold Link.place
  rw [hk, List.map_append, List.map_cons, List.idxOf?_eq_some_iff]
  refine ⟨by simp, by simp, fun j hj => ?_⟩
  rw [List.getElem_append_left (by simpa using hj), List.getElem_map]
  exact hb _ (List.getElem_mem _)

theorem acked_of_place {k : Link} {a : BitVec 12} {i : Nat} (h : k.place a = some i) :
    k.acked a = Link.pump { k with retry := k.retry.drop (i + 1) } := by
  simp only [Link.acked, h]

section
variable {s : State} {l : Fin 16}

theorem linkMove_ok {st : LinkState} (h : (s.link l).st = st) (f : Link → Link) : s.linkMove l st f = s.setLink l (f (s.link l)) := by
  simp [State.linkMove, h]

/-- A good flit of an ACTIVE link: what it acknowledges is dropped, and its own flit is taken when it is the next (R231). -/
theorem linkFlitReceive_good (h : (s.link l).st = .active) {f : LinkFlit} (hg : f.good = true) {k : Link}
    (hk : (match f.ack with
      | some a => Link.acked { s.link l with flits := (s.link l).flits + 1 } a
      | none => { s.link l with flits := (s.link l).flits + 1 }) = k) :
    execLinkFlitReceive l f s = .next (match f.flit with
      | none => s.setLink l k
      | some b => if f.seq = k.rxseq then (s.setLink l { k with rxseq := k.rxseq + 1 }).takeFlit l b else s.setLink l k) := by
  subst hk
  unfold execLinkFlitReceive
  dsimp only
  rw [if_neg (Classical.not_not.2 h), if_neg (by simp [hg])] <;> rfl

/-- What an ACTIVE link does (R231, R237). -/
theorem active_steps (h : (s.link l).st = .active) :
    let k := s.link l
    let now (j : Link) : Host.Outcome State Fault Refusal := .next (s.setLink l j)
    (s.hub.boot = .done → exec (.lnkctlRetrain l) s = now k.retrain) ∧
    (64 < k.crc → exec (.linkCrcThreshold l) s = now k.retrain) ∧ (8 ≤ k.replays → exec (.linkReplayLimit l) s = now k.retrain) ∧
    (∀ lanes : BitVec 8, exec (.linkLaneLoss l lanes) s = now { k.retrain with view := { k.view with lanes := k.view.lanes &&& lanes } }) ∧
    (∀ f : LinkFlit, f.good = false → exec (.linkFlitReceive l f) s = now (Link.crcFailed { k with flits := k.flits + 1 })) ∧
    (∀ (f : LinkFlit) (a : BitVec 12) (i : Nat), f.good = true → f.ack = some a → f.flit = none → k.place a = some i →
      exec (.linkFlitReceive l f) s = now (Link.pump { k with flits := k.flits + 1, retry := k.retry.drop (i + 1) })) ∧
    (∀ (f : LinkFlit) (b : BitVec 512), f.good = true → f.ack = none → f.flit = some b →
      exec (.linkFlitReceive l f) s = .next (
        if f.seq = k.rxseq then (s.setLink l { k with flits := k.flits + 1, rxseq := k.rxseq + 1 }).takeFlit l b
        else s.setLink l { k with flits := k.flits + 1 })) ∧
    (∀ (before after : List RetryFlit) (f : RetryFlit), k.retry = before ++ f :: after → (∀ r ∈ before, r.seq ≠ f.seq) →
      exec (.linkReplay l f.seq) s = now (Link.pump { k with retry := (f :: after).map fun r => { r with reps := r.reps + 1 } })) := by
  refine ⟨fun hb => ?_, fun hc => ?_, fun hr => ?_, fun lanes => ?_, fun f hg => ?_, fun f a i hg ha hf hi => ?_, fun f b hg ha hf => ?_,
    fun before after f hk hb => ?_⟩
  · change execLnkctlRetrain l s = _
    simp only [execLnkctlRetrain, State.bar, hb, if_true, linkMove_ok h]
  · change execLinkCrcThreshold l s = _
    rw [execLinkCrcThreshold, if_pos hc, linkStep, linkMove_ok h]
  · change execLinkReplayLimit l s = _
    rw [execLinkReplayLimit, if_pos hr, linkStep, linkMove_ok h]
  · change execLinkLaneLoss l lanes s = _
    rw [execLinkLaneLoss, linkStep, linkMove_ok h]
  · change execLinkFlitReceive l f s = _
    simp [execLinkFlitReceive, h, hg]
  · change execLinkFlitReceive l f s = _
    have hack := acked_of_place (k := { s.link l with flits := (s.link l).flits + 1 }) hi
    rw [linkFlitReceive_good h hg (k := Link.pump { s.link l with flits := (s.link l).flits + 1, retry := (s.link l).retry.drop (i + 1) })
      (by rw [ha]; exact hack), hf]
  · change execLinkFlitReceive l f s = _
    rw [linkFlitReceive_good h hg (k := { s.link l with flits := (s.link l).flits + 1 }) (by rw [ha]), hf]
  · change execLinkReplay l f.seq s = _
    have hdrop : (s.link l).retry.drop before.length = f :: after := by
      rw [hk, List.drop_left]
    unfold execLinkReplay
    dsimp only
    rw [place_append hk hb]
    dsimp only
    rw [if_neg (Classical.not_not.2 h), hdrop]

end

/-- Settles O44: an ACTIVE link by `active_steps`, the other states by the step that each leaves them by. -/
theorem linkStates : Obligations.LinkStates := by
  unfold Obligations.LinkStates
  intro s l
  refine ⟨active_steps, fun h => ?_, fun h => ?_, fun h => ⟨fun v => ?_, ?_⟩, fun h v => ⟨?_, fun hv => ?_, ?_⟩, fun h hb => ?_,
    fun h hb => ?_⟩
  · change execLinkCrcThreshold l s = _
    rw [execLinkCrcThreshold, if_neg (Nat.not_lt.2 h)]
  · change execLinkReplayLimit l s = _
    rw [execLinkReplayLimit, if_neg (Nat.not_le.2 h)]
  · change execLinkTrainComplete l v s = _
    unfold execLinkTrainComplete
    dsimp only
    rw [if_neg (Classical.not_not.2 h)]
    cases (s.link l).min <;> exact apply_ite Host.Outcome.next _ _ _
  · change execLinkTrainTimeout l s = _
    rw [execLinkTrainTimeout, if_pos h]
  · change execLinkHandshakeComplete l (some (s.link l).view) s = _
    rw [execLinkHandshakeComplete, linkStep, linkMove_ok h]
    dsimp only
    rw [if_pos rfl]
    rfl
  · change execLinkHandshakeComplete l (some v) s = _
    rw [execLinkHandshakeComplete, linkStep, linkMove_ok h]
    dsimp only
    rw [if_neg hv]
    rfl
  · change execLinkHandshakeComplete l none s = _
    rw [execLinkHandshakeComplete, linkStep, linkMove_ok h]
  · change execLnkctlBringUp l s = _
    simp only [execLnkctlBringUp, State.bar, hb, if_true, linkMove_ok h]
  · change execLnkctlForceDown l s = _
    simp only [execLnkctlForceDown, State.bar, hb, if_true, if_neg h]

end Sys2Proof.Machine
end

section
/-! PROOF. Contributions, results and table writes of reductions (R246 to R248). -/

namespace Sys2Proof.Machine

/-- Every packet belongs to its own contribution. -/
theorem joins_self (p : Packet) : p.joins p = true := by
  simp [Packet.joins]

/-- A contribution of one packet is whole when that packet is its last. -/
theorem last_of_fits {c : Contrib} (h : c.len ≤ c.off + 2048) : c.last = true := by
  unfold Contrib.last
  exact decide_eq_true (Nat.le_trans (Nat.min_le_left ..) h)

/-- The rank of a contributor does not depend on the hub's tables or packets. -/
theorem redRank_congr {s t : State} (h : SameMemory s t) (hc : s.ctxs = t.ctxs) (hl : s.hub.launches = t.hub.launches) (e : RedEntry)
    (x : Nat) (sup : Bool) : s.redRank e x sup = t.redRank e x sup := by
  have hw : s.workerOf x = t.workerOf x := by
    simp only [State.workerOf, State.ctx, State.launch, hc, hl]
  have hg : ∀ l g, s.group l g = t.group l g := fun l g => by
    simp only [State.group, State.groupPa, walkRoot_congr h, h.mem]
  simp only [State.redRank, hw, hg]

/-! ### Contributions (R247, R248) -/

section
variable {s : State} {n : Nat} {h : Hdr} {p : Packet}

/-- A contribution of one packet of a context of this package is checked and applied whole. -/
theorem reduceContribution_single (ha : s.arrived n .contrib = some (h, p)) (hv : p.via = none)
    (hp : (s.red (Contrib.of h.ext).rid).parts = []) (hl : (Contrib.of h.ext).len ≤ (Contrib.of h.ext).off + 2048) :
    exec (.reduceContribution n) s = .next ((s.takePacket n).localContrib (Contrib.of h.ext).rid (s.red (Contrib.of h.ext).rid)
      (ctxOfLoc h.sloc) (Contrib.of h.ext) [p]) := by
  have hred : (s.takePacket n).red (Contrib.of h.ext).rid = s.red (Contrib.of h.ext).rid := rfl
  have hsame : { s.red (Contrib.of h.ext).rid with parts := [] } = s.red (Contrib.of h.ext).rid := by
    rw [← hp]
  change execReduceContribution n s = _
  simp only [execReduceContribution, ha, hv, last_of_fits hl, if_true, hred, hp, List.nil_append, List.filter_cons, joins_self,
    Bool.not_true, Bool.false_eq_true, if_false, List.filter_nil, hsame]

end

theorem endContrib_single (s : State) (h : BitVec 512) (st : Nat) :
    s.endContrib [h] st = s.respond (Hdr.of h) .result (resultExt (Hdr.of h).ext st) [] := by
  rw [State.endContrib]

/-- The sequence check by the difference of the numbers (R248). -/
theorem seqFate_cases (seq last d : Nat) (hd : (seq + 2 ^ 32 - last % 2 ^ 32) % 2 ^ 32 = d) :
    (d = 1 → seqFate seq last = .apply) ∧ (d = 0 → seqFate seq last = .latest) ∧ (2 ^ 32 - 1023 ≤ d → seqFate seq last = .older) ∧
      (1 < d → d < 2 ^ 32 - 1023 → seqFate seq last = .gap) := by
  unfold seqFate
  rw [hd]
  refine ⟨fun h => if_pos h, fun h => ?_, fun h => ?_, fun h h' => ?_⟩
  · rw [if_neg (by omega), if_pos h]
  · rw [if_neg (by omega), if_neg (by omega), if_pos h]
  · rw [if_neg (by omega), if_neg (by omega), if_neg (by omega)]

section
variable {u : State} {i r x : Nat} {e : RedEntry} {c : Contrib} (p : Packet) (hok : e.ok = true) (hag : e.agrees c = true)
  (hr : (u.setRed i e).redRank e x c.sup = some r)
include hok hag hr

/-! The sequence check stands for itself in these four: unfolded, its 32-bit differences are too large to compute with. -/

/-- A member's contribution that agrees with its entry goes by its sequence number: the next is applied (R247). -/
theorem localContrib_apply (h : seqFate c.seq (Map.get 0 e.lastRank r) = .apply) :
    u.localContrib i e x c [p] = (u.setRed i e).settleRound i e.full { e.apply (contribBytes [p]) with
      ranks := e.ranks ++ [r], lastRank := Map.put e.lastRank r c.seq, waiters := e.waiters ++ [p.hdr] } := by
  obtain ⟨check, hcheck⟩ : ∃ f, seqFate = f := ⟨_, rfl⟩
  unfold State.localContrib
  rw [hcheck] at h ⊢
  simp only [hok, hag, hr, h, Bool.not_true, Bool.false_eq_true, if_false, List.map_cons, List.map_nil]

/-- One of the last number waits while the round runs (R248). -/
theorem localContrib_latest (h : seqFate c.seq (Map.get 0 e.lastRank r) = .latest) (hin : r ∈ e.ranks) :
    u.localContrib i e x c [p] = (u.setRed i e).setRed i { e with waiters := e.waiters ++ [p.hdr] } := by
  obtain ⟨check, hcheck⟩ : ∃ f, seqFate = f := ⟨_, rfl⟩
  unfold State.localContrib
  rw [hcheck] at h ⊢
  simp only [hok, hag, hr, h, Bool.not_true, Bool.false_eq_true, if_false, List.map_cons, List.map_nil, List.contains_eq_mem, hin,
    decide_true, if_true]

/-- An older one ends without effect (R248). -/
theorem localContrib_older (h : seqFate c.seq (Map.get 0 e.lastRank r) = .older) :
    u.localContrib i e x c [p] = (u.setRed i e).endContrib [p.hdr] stOlder := by
  obtain ⟨check, hcheck⟩ : ∃ f, seqFate = f := ⟨_, rfl⟩
  unfold State.localContrib
  rw [hcheck] at h ⊢
  simp only [hok, hag, hr, h, Bool.not_true, Bool.false_eq_true, if_false, List.map_cons, List.map_nil]

/-- A gap is a fault (R248). -/
theorem localContrib_gap (h : seqFate c.seq (Map.get 0 e.lastRank r) = .gap) :
    u.localContrib i e x c [p] = (u.setRed i e).endContrib [p.hdr] 4 := by
  obtain ⟨check, hcheck⟩ : ∃ f, seqFate = f := ⟨_, rfl⟩
  unfold State.localContrib
  rw [hcheck] at h ⊢
  simp only [hok, hag, hr, h, Bool.not_true, Bool.false_eq_true, if_false, List.map_cons, List.map_nil]

/-- A member's contribution of one packet by the difference of its number and the last (R247, R248). -/
theorem localContrib_single (d : Nat) (hd : (c.seq + 2 ^ 32 - Map.get 0 e.lastRank r % 2 ^ 32) % 2 ^ 32 = d) :
    (d = 1 → u.localContrib i e x c [p] = (u.setRed i e).settleRound i e.full { e.apply (contribBytes [p]) with
      ranks := e.ranks ++ [r], lastRank := Map.put e.lastRank r c.seq, waiters := e.waiters ++ [p.hdr] }) ∧
    (d = 0 → r ∈ e.ranks → u.localContrib i e x c [p] = (u.setRed i e).setRed i { e with waiters := e.waiters ++ [p.hdr] }) ∧
    (2 ^ 32 - 1023 ≤ d → u.localContrib i e x c [p] = (u.setRed i e).endContrib [p.hdr] stOlder) ∧
    (1 < d → d < 2 ^ 32 - 1023 → u.localContrib i e x c [p] = (u.setRed i e).endContrib [p.hdr] 4) := by
  obtain ⟨happ, hlat, hold, hgap⟩ := seqFate_cases c.seq (Map.get 0 e.lastRank r) d hd
  exact ⟨fun hd => localContrib_apply p hok hag hr (happ hd), fun hd => localContrib_latest p hok hag hr (hlat hd),
    fun hd => localContrib_older p hok hag hr (hold hd), fun hd hd' => localContrib_gap p hok hag hr (hgap hd hd')⟩

end

/-! ### Results (R247) -/

/-- A result of one packet from the parent ends the round that waits for it (R247). -/
theorem resultDown_ok {u : State} {l : Fin 16} {h : Hdr} {p : Packet} (hst : field h.ext 143 128 ≠ stLost)
    (hp : (u.red (Contrib.of h.ext).rid).parts = []) (hl : (Contrib.of h.ext).len ≤ (Contrib.of h.ext).off + 2048)
    (hok : (u.red (Contrib.of h.ext).rid).ok = true) (hag : (u.red (Contrib.of h.ext).rid).agrees (Contrib.of h.ext) = true)
    (hpar : (u.red (Contrib.of h.ext).rid).parent = some l) (hfull : (u.red (Contrib.of h.ext).rid).full = true)
    (hseq : (Contrib.of h.ext).seq = ((u.red (Contrib.of h.ext).rid).round + 1) % 2 ^ 32) :
    u.resultDown l h p =
      (u.closeReq h.tag).roundDone (Contrib.of h.ext).rid (u.red (Contrib.of h.ext).rid) (contribBytes [p]) := by
  have hred : (u.closeReq h.tag).red (Contrib.of h.ext).rid = u.red (Contrib.of h.ext).rid := rfl
  have hsame : { u.red (Contrib.of h.ext).rid with parts := [] } = u.red (Contrib.of h.ext).rid := by
    rw [← hp]
  unfold State.resultDown
  simp only [hred, hp, List.nil_append, if_neg hst, last_of_fits hl, if_true, List.filter_cons, joins_self, Bool.not_true,
    Bool.false_eq_true, if_false, List.filter_nil, hsame, hok, hag, hpar, hfull, hseq, beq_self_eq_true, Bool.and_self]

/-! ### Table writes (R246) -/

/-- An entry's word with its upper 32 bits cleared. -/
theorem setField_high_zero (v : BitVec 128) : setField v.toNat 127 96 0 = v.toNat % 2 ^ 96 := by
  have h := v.isLt
  unfold setField field
  omega

theorem injectResponse_red (s : State) (q : Packet) : (s.injectResponse q).hub.red = s.hub.red := by
  unfold State.injectResponse
  by_cases hq : (Hdr.of q.hdr).dpkg = s.hub.pkgid
  · rw [if_pos hq]
    rfl
  · rw [if_neg hq]
    rfl

/-- A response leaves the reduction table alone. -/
theorem respond_red (s : State) (h : Hdr) (t : PType) (ext : Nat) (pay : List (BitVec 512)) :
    (s.respond h t ext pay).hub.red = s.hub.red := by
  unfold State.respond
  exact injectResponse_red s _

theorem setRed_red (s : State) (i j : Nat) (e : RedEntry) : (s.setRed i e).red j = if i = j then e else s.red j :=
  Map.get_put _ _ _ _ _

theorem toNat_roundCleared (v : BitVec 128) : (BitVec.ofNat 128 (setField v.toNat 127 96 0)).toNat = v.toNat % 2 ^ 96 := by
  rw [setField_high_zero, BitVec.toNat_ofNat]
  omega

theorem roundCleared_fld (v : BitVec 128) : field (BitVec.ofNat 128 (setField v.toNat 127 96 0)).toNat 127 96 = 0 := by
  rw [toNat_roundCleared]
  unfold field
  omega

theorem roundCleared_low (v : BitVec 128) :
    (BitVec.ofNat 128 (setField v.toNat 127 96 0)).extractLsb' 0 96 = v.extractLsb' 0 96 := by
  apply BitVec.eq_of_toNat_eq
  rw [BitVec.extractLsb'_toNat, BitVec.extractLsb'_toNat, toNat_roundCleared, Nat.shiftRight_zero, Nat.shiftRight_zero]
  omega

/-- One entry answered does not change another; the table's entry i begins anew with a write of V = 1 (R246). -/
theorem reductionTableWrite_new {s : State} {i : Fin 1024} {v : BitVec 128} (hb : s.hub.boot = .done)
    (hw : (s.red i.val).waiters = []) (hv : v.getLsbD 0 = true) :
    ∃ u : State, u.hub.red = s.hub.red ∧ exec (.reductionTableWrite i v) s = .next (u.setRed i.val { s.red i.val with
      waiters := [], kidWait := [], ranks := [], kids := 0, acc := 0, bits := BitVec.ofNat 128 (setField v.toNat 127 96 0),
      lastRank := [], lastKid := [] }) := by
  change ∃ u : State, _ ∧ execReductionTableWrite i v s = _
  obtain ⟨resp, hresp⟩ : ∃ f, State.respond = f := ⟨_, rfl⟩
  have hkeep : ∀ s h t ext pay, (resp s h t ext pay).hub.red = s.hub.red := by
    rw [← hresp]
    exact respond_red
  unfold execReductionTableWrite State.bar State.redEntryWrite
  rw [hresp]
  simp only [hb, hw, hv, List.isEmpty_nil, if_true]
  refine ⟨_, ?_, rfl⟩
  exact foldl_keeps (P := fun u : State => u.hub.red = s.hub.red) (fun u k hu => (hkeep u _ _ _ _).trans hu) _ s rfl

/-- Settles O45: by the checks that a contribution, a result and a table write meet, one lemma each. -/
theorem reductionTree : Obligations.ReductionTree := by
  unfold Obligations.ReductionTree
  refine ⟨fun s n r h p ha hv => ?_, fun s n h p ha => ⟨fun hv => ?_, fun l hv => ?_⟩, fun s i v hb hw hv => ?_⟩
  · have hsingle := @reduceContribution_single s n h p ha hv
    generalize Contrib.of h.ext = c at hsingle ⊢
    intro c' e u d hp hl hok hop hlw hlen hr
    have hag : e.agrees c = true := by simp [RedEntry.agrees, c', hop, hlw, hlen]
    have hrank : (u.setRed c.rid e).redRank e (ctxOfLoc h.sloc) c.sup = some r :=
      (redRank_congr (s := u.setRed c.rid e) (t := s) ⟨rfl, rfl, rfl⟩ rfl rfl e (ctxOfLoc h.sloc) c.sup).trans hr
    have hfate := localContrib_single p hok hag hrank
    have hexec : exec (.reduceContribution n) s = .next (u.localContrib c.rid e (ctxOfLoc h.sloc) c [p]) := hsingle hp hl
    rw [hexec]
    clear_value e u
    obtain ⟨happ, hlat, hold, hgap⟩ := hfate d rfl
    refine ⟨fun hd => ⟨_, congrArg _ (happ hd), rfl, Map.get_put_same 0 e.lastRank r c.seq, rfl, rfl⟩,
      fun hd hin => congrArg _ (hlat hd hin), fun hd => ?_, fun hd hd' => ?_⟩
    · rw [← endContrib_single]
      exact congrArg _ (hold hd)
    · rw [← endContrib_single]
      exact congrArg _ (hgap hd hd')
  · change execReduceResult n s = _
    simp only [execReduceResult, ha, hv]
  · intro c e hst hp hl hok hag hpar hfull hseq
    change execReduceResult n s = _
    simp only [execReduceResult, ha, hv]
    exact congrArg _ (resultDown_ok hst hp hl hok hag hpar hfull hseq)
  · obtain ⟨u, hu, ht⟩ := reductionTableWrite_new hb hw hv
    refine ⟨_, ht, ?_⟩
    dsimp only
    rw [setRed_red, if_pos rfl]
    refine ⟨?_, rfl, rfl, rfl, rfl, rfl, ?_, fun j hj => ?_⟩
    · exact roundCleared_fld v
    · exact roundCleared_low v
    · rw [setRed_red, if_neg hj.symm]
      simp only [State.red, hu]

end Sys2Proof.Machine
end

section
/-! PROOF. The platform: boot, registers, peer windows, telemetry, power, errors (R286, R290 to R300). -/

namespace Sys2Proof.Machine

/-! ### Boot (R293) -/

theorem didtNext_setDidt (d : DieSt) (v : Word) : (d.setDidt v).didtNext = none := by
  unfold DieSt.setDidt
  dsimp only
  split
  · rfl
  · rfl

/-- The board's DIDT loaded into a die: hub and other dies stay; a legal one leaves no write under way (R297). -/
theorem bootDidt_facts (s : State) (d : Nat) : (s.bootDidt d).hub = s.hub ∧
    (s.hub.fuse.board.toNat / 2 ^ 24 = 0 → ((s.bootDidt d).die d).didtNext = none) ∧
    ∀ k, k ≠ d → (s.bootDidt d).die k = s.die k := by
  unfold State.bootDidt
  dsimp only
  split
  next hv => exact ⟨rfl, fun h => absurd h hv, fun k hk => by
    change (s.setDie d _).die k = _
    rw [State.setDie_die, if_neg (Ne.symm hk)]⟩
  next hv =>
    have hv := Classical.not_not.1 hv
    refine ⟨rfl, fun _ => ?_, fun k hk => by rw [State.setDie_die, if_neg (Ne.symm hk)]⟩
    rw [State.setDie_die_same, DieSt.bootDidt, if_neg (by omega), didtNext_setDidt]

/-- Loading DIDT into several dies. -/
theorem foldl_bootDidt (ds : List Nat) (s : State) : (ds.foldl State.bootDidt s).hub = s.hub ∧
    (s.hub.fuse.board.toNat / 2 ^ 24 = 0 → ∀ d, d ∈ ds ∨ (s.die d).didtNext = none →
      ((ds.foldl State.bootDidt s).die d).didtNext = none) := by
  induction ds generalizing s with
  | nil => exact ⟨rfl, fun _ d hd => hd.resolve_left List.not_mem_nil⟩
  | cons k ds ih =>
    obtain ⟨hhub, hset, hkeep⟩ := bootDidt_facts s k
    obtain ⟨ihhub, ihset⟩ := ih (s.bootDidt k)
    refine ⟨ihhub.trans hhub, fun hb d hd => ihset (by rw [hhub]; exact hb) d ?_⟩
    by_cases hne : d = k
    · subst hne
      exact .inr (hset hb)
    · rw [hkeep d hne]
      exact hd.imp_left fun h => (List.mem_cons.1 h).resolve_left hne

theorem appoint_hub (s : State) : s.appoint.hub = s.hub := by
  unfold State.appoint
  refine foldl_keeps (P := fun t : State => t.hub = s.hub) (fun _ _ ht => ?_) _ s rfl
  rw [← ht]
  rfl

/-- The boot of a part in its ROM (R8, R293). -/
theorem boot_ok {s : State} (hb : s.hub.boot = .rom) : ∃ t, exec .boot s = .next t ∧
    if Config.firmwareVerifies s.hub.fuse.firmware then t.hub.boot = .done ∧
      (s.hub.fuse.board.toNat / 2 ^ 24 = 0 → ∀ d < 4, (t.die d).didtNext = none) ∧
      t.hub.nclu = s.hub.fuse.pairs.map logicalClusters else t = { s with hub := { s.hub with boot := .recovery } } := by
  refine ⟨s.bootChain, rfl, ?_⟩
  unfold State.bootChain
  rw [if_neg (Classical.not_not.2 hb)]
  dsimp only
  by_cases hf : Config.firmwareVerifies s.hub.fuse.firmware = true
  · rw [if_pos hf, if_neg (by simp [hf])]
    generalize hu : State.appoint _ = u
    have huhub := congrArg State.hub hu
    rw [appoint_hub] at huhub
    obtain ⟨hhub, hset⟩ := foldl_bootDidt (List.range 4) u
    rw [hhub, ← huhub]
    refine ⟨rfl, fun hboard d hd => hset (by rw [← huhub]; exact hboard) d (.inl (List.mem_range.2 hd)), rfl⟩
  · rw [if_neg hf, if_pos (by simp [hf])]

/-- Before the part has booted a BAR access completes with Unsupported Request (R293). -/
theorem bar_unbooted {s : State} (h : s.hub.boot ≠ .done) (f : State → State) :
    s.bar f = { s with toHost := s.toHost ++ [.unsupported] } := if_neg h

theorem bar_booted {s : State} (h : s.hub.boot = .done) (f : State → State) : s.bar f = f s := if_pos h

theorem doorbell_unbooted {s : State} (h : s.hub.boot ≠ .done) (fn q : Nat) (v : BitVec 32) :
    execDoorbell fn q v s = .next { s with toHost := s.toHost ++ [.unsupported] } := by
  unfold execDoorbell
  rw [if_pos h]

theorem registerWrite_unbooted {s : State} (h : s.hub.boot ≠ .done) (a : Nat) (v : BitVec 64) :
    execRegisterWrite a v s = .next { s with toHost := s.toHost ++ [.unsupported] } := by
  unfold execRegisterWrite
  split
  · exact doorbell_unbooted h _ _ _
  · exact congrArg _ (bar_unbooted h _)

/-! ### Registers (R286, R291, R296, R297) -/

/-- WR set to RD: both halves of a pointer register hold the lower one. -/
theorem setField_upper {p : Nat} (hp : p < 2 ^ 64) :
    setField p 63 32 (field p 31 0) % 2 ^ 64 = p % 2 ^ 32 + p % 2 ^ 32 * 2 ^ 32 := by
  have hr : p % 2 ^ 32 < 2 ^ 32 := Nat.mod_lt _ (by decide)
  have hset : setField p 63 32 (field p 31 0) = p % 2 ^ 32 + p % 2 ^ 32 * 2 ^ 32 := by
    unfold setField field
    simp only [Nat.pow_zero, Nat.div_one]
    omega
  rw [hset]
  exact Nat.mod_eq_of_lt (by omega)

section
variable {s : State} (h : s.hub.boot = .done)
include h

theorem didtWrite_ok (d : Fin 4) (v : BitVec 64) : exec (.didtWrite d v) s = .next (
    if v.toNat / 2 ^ 24 ≠ 0 then { s with log := s.log ++ [.ignored (0x10100 + 8 * d.val) v] }
    else s.setDie d.val { s.die d.val with didtNext := some (if v.toNat / 2 ^ 16 % 2 ^ 8 = 0 then v + 0x10000 else v) }) :=
  congrArg _ (bar_booted h _)

theorem pkgidWrite_ok (v : BitVec 64) (hq : s.queues.any (fun q => field (s.qdesc q) 65 65 == 1) = false)
    (hc : s.ctxs.any (fun p => p.2.commRuns) = false) :
    exec (.pkgidWrite v) s = .next (if v.toNat < 3072 then { s with hub := { s.hub with pkgid := v.toNat } }
      else { s with log := s.log ++ [.ignored 0x10050 v] }) := by
  change Host.Outcome.next (s.bar _) = _
  rw [bar_booted h, State.pkgidWrite, hq, hc]
  by_cases hv : v.toNat < 3072
  · rw [if_neg (by simp [hv]), if_pos hv]
  · rw [if_pos (by simpa using hv), if_neg hv]
    rfl

theorem commctlStart_ok {k : Code} {arch : Nat} {vw : Vector Word 64}
    (hk : s.header s.hub.commpt s.hub.commkh.toNat = some (k, arch, vw)) :
    exec (.commctlStart 1) s = .next (if s.hub.fuse.arch < arch then { s with log := s.log ++ [.commHeader] }
      else ((List.range 320).filter fun x => s.exists? x && s.isComm x && !(s.ctx x).commRuns).foldl
        (fun s x => s.startComm x k vw) s) := by
  change Host.Outcome.next (s.bar _) = _
  rw [bar_booted h, State.commStart, if_neg (by decide), if_neg (by decide), hk]
  rfl

/-- TRCCTL with EN rising (R286). -/
theorem trcctlWrite_rise (d : Fin 4) (v : BitVec 64) (hhi : v.toNat / 2 ^ 56 = 0) (hlo : v.toNat / 2 % 2 ^ 7 = 0)
    (hold : (s.die d.val).trcctl.toNat % 2 = 0) (hen : v.toNat % 2 = 1) :
    ∃ t, exec (.trcctlWrite d v) s = .next t ∧
      (t.die d.val).trcptr.toNat / 2 ^ 32 = (t.die d.val).trcptr.toNat % 2 ^ 32 ∧
      (t.die d.val).trcptr.toNat % 2 ^ 32 = (s.die d.val).trcptr.toNat % 2 ^ 32 ∧ (t.die d.val).trcctl.toNat / 2 ^ 32 % 2 ^ 24 = 0 := by
  refine ⟨s.trcctlWrite d.val v, congrArg Host.Outcome.next (bar_booted h _), ?_⟩
  have hv := v.isLt
  have hp := (s.die d.val).trcptr.isLt
  unfold State.trcctlWrite
  dsimp only
  rw [if_neg (by unfold field; omega), State.setDie_die_same]
  simp only [hold, hen, and_self, if_true, BitVec.toNat_ofNat]
  rw [setField_upper hp]
  unfold setField field
  omega

theorem registerWrite_ok (a : Nat) (ha : 0x2000 ≤ a) (v : BitVec 64) : exec (.registerWrite a v) s = .next (s.registerWrite a v) := by
  change execRegisterWrite a v s = _
  rw [execRegisterWrite, if_neg (by omega), bar_booted h]

/-- A peer write that stays within its window and local memory (R292). -/
theorem peerWrite_ok (fn off : Nat) (bytes : List Byte) :
    let a := Map.get 0 s.hub.wbase fn + off
    let ok := fn < 16 ∧ off + bytes.length ≤ 2 ^ 36 ∧ ∀ i < bytes.length, s.inStack (a + i) = true
    (ok → exec (.peerWrite fn off bytes) s = .next (s.memWrite (cellsAt a bytes))) ∧
    (¬ ok → exec (.peerWrite fn off bytes) s = .next { s with log := s.log ++ [.peer fn off] }) := by
  intro a ok
  have hok : (16 ≤ fn || 2 ^ 36 < off + bytes.length || !(List.range bytes.length).all fun i => s.inStack (a + i)) = true ↔ ¬ ok := by
    simp [ok, or_assoc, Decidable.imp_iff_not_or]
  change (ok → Host.Outcome.next (s.bar _) = _) ∧ (¬ ok → Host.Outcome.next (s.bar _) = _)
  rw [bar_booted h, State.peerWrite]
  exact ⟨fun hk => congrArg _ (if_neg (mt hok.1 (Classical.not_not.2 hk))), fun hk => congrArg _ (if_pos (hok.2 hk))⟩

end

/-! ### Telemetry, power, soft errors (R298 to R300) -/

theorem telemetry_facts (s : State) (d : Nat) (v : Sensors) : ((s.telemetry d v).die d).corr = 0 ∧
    ((s.telemetry d v).die d).bktw = 0 ∧ ((s.telemetry d v).die d).teln = (s.die d).teln + 1 ∧
    (s.hub.tellen = 0 → (s.telemetry d v).mem = s.mem) := by
  unfold State.telemetry
  dsimp only
  rw [State.setDie_die_same]
  refine ⟨rfl, rfl, rfl, fun hl => ?_⟩
  rw [if_pos hl]
  rfl

/-- A soft error at each site (R300). -/
theorem uncorrectableError_ok (s : State) (x : CtxId) (a : Nat) (d : Fin 4) :
    exec (.uncorrectableError (.context x)) s = .next (if (s.ctx x.val).occ = .free then s else s.fatalCtx x.val) ∧
    exec (.uncorrectableError (.line a)) s =
      .next (if a / 128 ∈ s.poison then s else { s with poison := s.poison ++ [a / 128] }) ∧
    exec (.uncorrectableError (.corrected d)) s = .next (s.setDie d.val { s.die d.val with corr := (s.die d.val).corr + 1 }) := by
  refine ⟨rfl, ?_, rfl⟩
  change Host.Outcome.next (s.softError _) = _
  simp only [State.softError, List.contains_eq_mem, decide_eq_true_eq]

/-- Settles O46: by the guard of the BARs and one lemma for each register and each event. -/
theorem platform : Obligations.Platform := by
  unfold Obligations.Platform
  refine ⟨fun s => boot_ok, fun s d a fn off v bytes nonce e l n w x b r z h => ?_, fun s h => ⟨fun d v => didtWrite_ok h d v,
    fun v => pkgidWrite_ok h v, fun k arch vw => commctlStart_ok h, fun d v => trcctlWrite_rise h d v, fun v => ?_,
    fun fn off bytes => peerWrite_ok h fn off bytes, fun nonce => ⟨_, _, congrArg Host.Outcome.next (bar_booted h _)⟩⟩,
    fun s fn off => rfl, fun s d v => ⟨_, rfl, telemetry_facts s d.val v⟩, fun s w => rfl, uncorrectableError_ok⟩
  · simp only [List.forall_mem_cons]
    refine ⟨?_, ?_, ?_, ?_, ?_, ?_, ?_, ?_, ?_, ?_, ?_, ?_, ?_, ?_, ?_, ?_, ?_, fun _ hi => absurd hi List.not_mem_nil⟩
    case refine_5 => exact registerWrite_unbooted h a v
    case refine_17 => exact doorbell_unbooted h fn off e
    all_goals exact congrArg Host.Outcome.next (bar_unbooted h _)
  · exact ⟨registerWrite_ok h _ (by decide) v, registerWrite_ok h _ (by decide) v, registerWrite_ok h _ (by decide) v,
      registerWrite_ok h _ (by decide) v⟩

end Sys2Proof.Machine
end

section
/-! PROOF. The debugger and the trace samples (R279 to R285, R289). -/

namespace Sys2Proof.Machine

/-! ### Records of one context leave the others -/

theorem trace_ctx_ne (s : State) {x y : Nat} (h : y ≠ x) (typ ba body : Nat) : (s.trace x typ ba body).ctx y = s.ctx y := by
  unfold State.trace
  dsimp only
  split
  · rfl
  · split
    · rfl
    · simp only [State.setDie_ctx, State.setCtx_ctx, if_neg h.symm, memWrite_ctx]

/-- With EN clear no trace record is written (R285). -/
theorem trace_off {s : State} {x : Nat} (h : (s.die (dieOf x)).trcctl.toNat % 2 = 0) (typ ba body : Nat) :
    s.trace x typ ba body = s := by
  rw [State.trace, if_pos h]

theorem dropToken_trcctl (s : State) (x d : Nat) : ((s.dropToken x).die d).trcctl = (s.die d).trcctl := by
  unfold State.dropToken
  dsimp only
  split
  · rw [State.setDie_die]
    split
    next h => rw [← h]
    next => rfl
  · rfl

theorem dropToken_mem (s : State) (x : Nat) : (s.dropToken x).mem = s.mem := by
  unfold State.dropToken
  dsimp only
  split
  · rfl
  · rfl

/-! ### Halting (R280) -/

/-- The field [4:2] of a register from its bits. -/
theorem field_of_bits {v : BitVec 32} (h2 : v.getLsbD 2 = true) (h3 : v.getLsbD 3 = false) (h4 : v.getLsbD 4 = false) :
    v.toNat / 4 % 8 = 1 := by
  have hbit : ∀ j, (v.toNat / 2 ^ 2).testBit j = v.getLsbD (j + 2) := fun j => by
    rw [Nat.testBit_div_two_pow, BitVec.testBit_toNat]
  refine Nat.eq_of_testBit_eq (x := v.toNat / 2 ^ 2 % 2 ^ 3) (y := 1) fun j => ?_
  rw [Nat.testBit_mod_two_pow, hbit]
  match j with
  | 0 => rw [h2]; rfl
  | 1 => rw [h3]; rfl
  | 2 => rw [h4]; rfl
  | j + 3 =>
    simp [Nat.testBit_succ, show ¬ j + 3 < 3 by omega]

theorem stopped_dbgctl (c : Ctx) : (c.stopped 1).dbgctl.getLsbD 0 = true ∧ (c.stopped 1).dbgctl.toNat / 4 % 8 = 1 := by
  refine ⟨?_, field_of_bits ?_ ?_ ?_⟩
  all_goals simp [Ctx.stopped]

/-- What stopping a context leaves (R280, R285). -/
theorem stopCtx_facts (s : State) (x why : Nat) : HubSame s (s.stopCtx x why) ∧
    (∃ n, (s.stopCtx x why).ctx x = { (s.ctx x).stopped why with tseq := n }) ∧
    (∀ y : Nat, y ≠ x → (s.stopCtx x why).ctx y = s.ctx y) ∧
    ((s.die (dieOf x)).trcctl.toNat % 2 = 0 → (s.stopCtx x why).mem = s.mem) := by
  unfold State.stopCtx State.traceOpen
  dsimp only
  generalize hu : (s.dropToken x).setCtx x ((State.ctx (s.dropToken x) x).stopped why) = u
  have hux : u.ctx x = (s.ctx x).stopped why := by
    rw [← hu, State.setCtx_ctx_same, State.dropToken_ctx]
  refine ⟨?_, ?_, fun y hy => ?_, fun hoff => ?_⟩
  · rw [← hu]
    exact ((hubSame_dropToken s x).trans (hubSame_setCtx _ x _)).trans (hubSame_traceOpen _ x 4 _)
  · rw [← hux]
    exact trace_ctx u x 4 _ _
  · refine (trace_ctx_ne u hy 4 _ _).trans ?_
    rw [← hu, State.setCtx_ctx, if_neg hy.symm, State.dropToken_ctx]
  · have hd : (u.die (dieOf x)).trcctl.toNat % 2 = 0 := by
      rw [← hu, State.setCtx_die, dropToken_trcctl]
      exact hoff
    rw [trace_off hd, ← hu]
    exact dropToken_mem s x

/-! ### Cancelled loads and edited latches (R281, R282) -/

theorem pendS_redirect (m : MemOp) : (m.redirect .flags).pendS = none := by
  unfold MemOp.redirect
  cases hk : m.kind
  all_goals simp [MemOp.pendS, hk]

/-- No pending load of a register: none is cancelled. -/
theorem cancelLoads_none {c : Ctx} {f : MemOp → Bool} (h : ∀ m ∈ c.mops, f m = false) : c.cancelLoads f = c := by
  unfold Ctx.cancelLoads
  rw [if_neg]
  simpa using h

/-- The pending loads of a register are cancelled, and PEND says so (R282). -/
theorem cancelLoads_pendS {c : Ctx} {p : Bank × Fin 64} {m : MemOp} (hm : m ∈ c.mops) (hp : m.pendS = some p) :
    let d := c.cancelLoads fun m => m.pendS == some p
    d.mops.length = c.mops.length ∧ (∀ o ∈ d.mops, o.pendS ≠ some p) ∧ d.dbgctl = c.dbgctl ||| 0x20 ∧ d.lat = c.lat ∧ d.p = c.p ∧
      d.s = c.s := by
  dsimp only
  unfold Ctx.cancelLoads
  rw [if_pos (List.any_eq_true.2 ⟨m, hm, by simp [hp]⟩)]
  refine ⟨List.length_map _, fun o ho => ?_, rfl, rfl, rfl, rfl⟩
  obtain ⟨k, -, rfl⟩ := List.mem_map.1 ho
  by_cases hk : k.pendS = some p
  · rw [if_pos (by simp [hk]), pendS_redirect]
    simp
  · rw [if_neg (by simp [hk])]
    exact hk

theorem editLatch_get {ls : List Latch} {n : Nat} {e : Latch} (h : ls[n]? = some e) (v : BitVec 4096) :
    editLatch ls n v = ls.set n { e with w := e.w.edit v } := by
  induction ls generalizing n with
  | nil => cases h
  | cons l ls ih =>
    cases n with
    | zero =>
      obtain rfl := Option.some.inj h
      rfl
    | succ n => exact congrArg (l :: ·) (ih h)

theorem length_editLoad (v : BitVec 4096) (ms : List MemOp) (n : Nat) : (editLoad v ms n).length = ms.length := by
  induction ms generalizing n with
  | nil => rfl
  | cons m ms ih =>
    unfold editLoad
    split
    · split
      · rfl
      · simp [ih]
    · simp [ih]

/-! ### The commands of the port (R280 to R282) -/

section
variable {s : State} (h : s.hub.boot = .done) (x : CtxId)
include h

/-- HALT of a context that exists (R280). -/
theorem dbgHalt_ok (hx : s.exists? x.val = true) :
    let c : Ctx := { s.ctx x.val with attached := true }
    exec (.dbgHalt x false) s = .next (s.setCtx x.val { c with dbgctl := c.dbgctl &&& ~~~1, dstep := false }) ∧
    (c.dbgctl.getLsbD 0 = true → exec (.dbgHalt x true) s = .next (s.setCtx x.val c)) ∧
    (c.dbgctl.getLsbD 0 = false → exec (.dbgHalt x true) s = .next ((s.setCtx x.val c).stopCtx x.val 1)) := by
  intro c
  have hexec : ∀ b, exec (.dbgHalt x b) s = .next (s.dbgHalt x.val b) := fun b => congrArg Host.Outcome.next (bar_booted h _)
  rw [hexec, hexec]
  unfold State.dbgHalt
  simp only [hx, Bool.not_true, Bool.not_false, Bool.false_eq_true, if_false, if_true]
  exact ⟨rfl, fun hh => congrArg Host.Outcome.next (if_pos hh), fun hh => congrArg Host.Outcome.next (if_neg (ne_true_of_eq_false hh))⟩

theorem dbgStep_ok : exec (.dbgStep x) s = .next (if (s.ctx x.val).dbgctl.getLsbD 0 = true then
    s.setCtx x.val { s.ctx x.val with dstep := true, attached := true } else s) :=
  congrArg Host.Outcome.next (bar_booted h _)

theorem dbgRegisterWrite_ok (r : DbgDest) (v : BitVec 4096) : exec (.dbgRegisterWrite x r v) s = .next (s.dbgWrite x.val r v) :=
  congrArg Host.Outcome.next (bar_booted h _)

theorem dbgLatchEdit_ok (n : Nat) (v : BitVec 4096) : exec (.dbgLatchEdit x n v) s = .next (s.dbgEdit x.val n v) :=
  congrArg Host.Outcome.next (bar_booted h _)

end

section
variable {s : State} {x : Nat}

/-- A context that runs takes no write and no edit (R282). -/
theorem dbg_running (h : (s.ctx x).dbgctl.getLsbD 0 = false) (r : DbgDest) (n : Nat) (v : BitVec 4096) :
    s.dbgWrite x r v = s ∧ s.dbgEdit x n v = s := by
  have hh : (!(s.ctx x).halted) = true := congrArg not h
  exact ⟨if_pos hh, if_pos hh⟩

variable (h : (s.ctx x).dbgctl.getLsbD 0 = true) (v : BitVec 4096)
include h

theorem not_running : ¬ (!(s.ctx x).halted) = true := ne_true_of_eq_false (congrArg not h)

/-- A write to a scalar register of a halted context (R282). -/
theorem dbgWrite_sreg (r : Fin 64) : s.dbgWrite x (.sreg r) v =
    let c : Ctx := { s.ctx x with attached := true }
    s.setCtx x ((c.cancelLoads fun m => m.pendS == some (c.bankOf r, r)).setS (c.bankOf r) r (v.setWidth 64)) :=
  if_neg (not_running h)

/-- A write to a predicate of a halted context (R282). -/
theorem dbgWrite_pred (p : Fin 16) : s.dbgWrite x (.pred p) v =
    s.setCtx x { s.ctx x with attached := true, p := (s.ctx x).p.set p.val (v.getLsbD 0) p.isLt } :=
  if_neg (not_running h)

/-- A write to a view register of a halted context (R282). -/
theorem dbgWrite_view (w : Fin 64) : s.dbgWrite x (.view w) v =
    s.setCtx x { s.ctx x with attached := true, vw := (s.ctx x).vw.set w.val (v.setWidth 64) w.isLt } :=
  if_neg (not_running h)

/-- A write to a system register of a halted context on which no load is pending (R282, R367). -/
theorem dbgWrite_sys (n : Fin 4096) (hn : ∀ r : Fin 64, ubankReg n.val = some r →
      ∀ m ∈ (s.ctx x).mops, m.pendS ≠ some ((s.ctx x).userBank r, r)) :
    let c : Ctx := { s.ctx x with attached := true }
    s.dbgWrite x (.sys n) v = s.setCtx x (c.setSys n.val (v.setWidth 64)) := by
  intro c
  refine (if_neg (not_running h)).trans ?_
  cases hr : ubankReg n.val with
  | none => rfl
  | some r =>
    have hnone : c.cancelLoads (fun m => m.pendS == some (c.userBank r, r)) = c :=
      cancelLoads_none fun m hm => beq_false_of_ne (hn r hr m hm)
    exact congrArg (fun d : Ctx => s.setCtx x (d.setSys n.val (v.setWidth 64))) hnone

/-- A write to a register of the user's bank, whose loads it cancels (R282, R367). -/
theorem dbgWrite_ubank (n : Fin 4096) {r : Fin 64} (hr : ubankReg n.val = some r) :
    let c : Ctx := { s.ctx x with attached := true }
    s.dbgWrite x (.sys n) v =
      s.setCtx x ((c.cancelLoads fun m => m.pendS == some (c.userBank r, r)).setSys n.val (v.setWidth 64)) := by
  intro c
  refine (if_neg (not_running h)).trans ?_
  rw [hr]

/-- A row outside the partition of a halted context (R282). -/
theorem dbgWrite_row_past {r : Fin 512} (hr : 8 * (s.ctx x).rslim.toNat ≤ r.val) : s.dbgWrite x (.row r) v = s :=
  (if_neg (not_running h)).trans (if_pos hr)

/-- A row of the partition of a halted context (R44, R282). -/
theorem dbgWrite_row {r : Fin 512} (hr : r.val < 8 * (s.ctx x).rslim.toNat)
    (hm : ∀ m ∈ (s.ctx x).mops, m.pendRow ≠ some (8 * (s.ctx x).rsbase.toNat + r.val)) :
    let c : Ctx := { s.ctx x with attached := true }
    let a := 8 * c.rsbase.toNat + r.val
    let k := s.core (coreOf x)
    s.dbgWrite x (.row r) v =
      if k.retained a then ((s.setCtx x c).setCore (coreOf x)
        { k with rows := Map.put k.rows a ((k.row a).write (BitVec.allOnes 512) v) }).wakeNext x (a / 8)
      else (s.setCtx x c).setCore (coreOf x) (k.putRow s.clock a (BitVec.allOnes 512) v) := by
  intro c a k
  have hnone : c.cancelLoads (fun m => m.pendRow == some a) = c :=
    cancelLoads_none fun m hm' => beq_false_of_ne (hm m hm')
  refine (if_neg (not_running h)).trans ((if_neg (Nat.not_le.2 hr)).trans ?_)
  dsimp only
  rw [hnone]
  rfl

/-! ### Edits (R281) -/

/-- The VALUE of an exposed result edited. -/
theorem dbgEdit_lat {n : Nat} {e : Latch} (he : (s.ctx x).lat[n]? = some e) : s.dbgEdit x n v =
    s.setCtx x { s.ctx x with lat := (s.ctx x).lat.set n { e with w := e.w.edit v } } := by
  obtain ⟨hn, -⟩ := List.getElem?_eq_some_iff.1 he
  refine (if_neg (not_running h)).trans (congrArg _ ((if_pos hn).trans ?_))
  rw [editLatch_get he]

/-- The VALUE of a parked result edited. -/
theorem dbgEdit_parked {n : Nat} {e : Latch} (he : (s.ctx x).parked.lat[n]? = some e) : s.dbgEdit x ((s.ctx x).lat.length + n) v =
    s.setCtx x { s.ctx x with
      parked := { (s.ctx x).parked with lat := (s.ctx x).parked.lat.set n { e with w := e.w.edit v } } } := by
  obtain ⟨hn, -⟩ := List.getElem?_eq_some_iff.1 he
  refine (if_neg (not_running h)).trans (congrArg _ ((if_neg (by omega)).trans ((if_pos (by omega)).trans ?_)))
  rw [Nat.add_sub_cancel_left, editLatch_get he]

/-- What an edit leaves. -/
theorem dbgEdit_frame (n : Nat) : ∃ d : Ctx, s.dbgEdit x n v = s.setCtx x d ∧ d.s = (s.ctx x).s ∧
    d.p = (s.ctx x).p ∧ d.vw = (s.ctx x).vw ∧ d.fetch = (s.ctx x).fetch ∧ d.dbgctl = (s.ctx x).dbgctl ∧
    d.mops.length = (s.ctx x).mops.length := by
  refine ⟨_, if_neg (not_running h), ?_⟩
  split
  · exact ⟨rfl, rfl, rfl, rfl, rfl, rfl⟩
  · split
    · exact ⟨rfl, rfl, rfl, rfl, rfl, rfl⟩
    · split
      · exact ⟨rfl, rfl, rfl, rfl, rfl, length_editLoad _ _ _⟩
      · exact ⟨rfl, rfl, rfl, rfl, rfl, rfl⟩

end

/-! ### Samples (R285, R287) -/

/-- A sample is taken when its period has passed, for each context of the die that is not free. -/
theorem traceSample_due {s : State} {d : Nat} (hen : (s.die d).trcctl.toNat % 2 = 1) (hper : 0 < (s.die d).trcctl.toNat / 2 ^ 8 % 2 ^ 24)
    (htick : (s.die d).trcctl.toNat / 2 ^ 8 % 2 ^ 24 ≤ (s.die d).trctick) :
    s.traceSample d = ((s.ctxs.filter fun p => dieOf p.1 == d && p.2.occ != .free).map (·.1)).foldl
      (fun u x => u.trace x 1 ((u.ctx x).pba.getD (u.ctx x).ba) ((u.ctx x).pres.toNat + u.stallCode x * 2 ^ 9))
      (s.setDie d { s.die d with trctick := 0 }) := by
  unfold State.traceSample field
  dsimp only
  rw [if_neg (by omega), List.foldl_map, List.foldl_filter]
  rfl

/-- Settles O47: by one lemma for each command of the port, and for a sample. -/
theorem debugger : Obligations.Debugger := by
  unfold Obligations.Debugger
  refine ⟨fun s x h hx => ?_, fun s x h hh => ?_, fun s x h hh => ⟨?_, fun r v => ?_, fun n v => ?_⟩, fun s d => ⟨fun hoff => ?_, fun hen hper htick => ?_⟩⟩
  · obtain ⟨hresume, hkeep, hstop⟩ := dbgHalt_ok h x hx
    refine ⟨hresume, hkeep, fun hrun => ⟨_, hstop hrun, ?_⟩⟩
    obtain ⟨hsame, ⟨n, hctx⟩, hother, hmem⟩ := stopCtx_facts (s.setCtx x.val { s.ctx x.val with attached := true }) x.val 1
    rw [State.setCtx_ctx_same] at hctx
    obtain ⟨hhalt, hwhy⟩ := stopped_dbgctl { s.ctx x.val with attached := true }
    dsimp only
    rw [hctx]
    refine ⟨hhalt, hwhy, rfl, rfl, rfl, rfl, rfl, rfl, rfl, rfl, rfl, rfl, rfl, rfl, hsame.cores, hsame.pairs, fun y hy => ?_, hmem⟩
    rw [hother y hy, State.setCtx_ctx, if_neg hy.symm]
  · have hw := dbgRegisterWrite_ok h x
    have he := dbgLatchEdit_ok h x
    refine ⟨(dbgStep_ok h x).trans (congrArg _ (if_pos hh)), fun p v => (hw _ v).trans (congrArg _ (dbgWrite_pred hh v p)),
      fun w v => (hw _ v).trans (congrArg _ (dbgWrite_view hh v w)),
      fun n v hn => (hw _ v).trans (congrArg _ (dbgWrite_sys hh v n hn)), fun n v r m hr hm hp => ?_, fun r v hr => ?_,
      fun r v m hm hp => ?_, fun r v hr => (hw _ v).trans (congrArg _ (dbgWrite_row_past hh v hr)), fun r v hr hm => ?_,
      fun n v e hn => (he n v).trans (congrArg _ (dbgEdit_lat hh v hn)),
      fun n v e hn => (he _ v).trans (congrArg _ (dbgEdit_parked hh v hn)), fun n v => ?_⟩
    · exact ⟨_, (hw _ v).trans (congrArg _ (dbgWrite_ubank hh v n hr)), cancelLoads_pendS hm hp⟩
    · refine (hw _ v).trans (congrArg _ ((dbgWrite_sreg hh v r).trans ?_))
      dsimp only
      rw [cancelLoads_none fun m hm => beq_false_of_ne (hr m hm)]
    · exact ⟨_, (hw _ v).trans (congrArg _ (dbgWrite_sreg hh v r)), cancelLoads_pendS hm hp⟩
    · exact (hw _ v).trans (congrArg _ (dbgWrite_row hh v hr hm))
    · obtain ⟨d, hd, hframe⟩ := dbgEdit_frame hh v n
      exact ⟨d, (he n v).trans (congrArg _ hd), hframe⟩
  · exact (dbgStep_ok h x).trans (congrArg _ (if_neg (ne_true_of_eq_false hh)))
  · exact (dbgRegisterWrite_ok h x r v).trans (congrArg _ (dbg_running hh r 0 v).1)
  · exact (dbgLatchEdit_ok h x n v).trans (congrArg _ (dbg_running hh (.pred 0) n v).2)
  · exact congrArg Host.Outcome.next (if_pos (hoff.imp_right id))
  · exact congrArg Host.Outcome.next (traceSample_due hen hper htick)

end Sys2Proof.Machine
end

section
/-! PROOF. Fetch and issue events, writeback, imprecise faults, user interrupts, the link watchdog (R49 to R54, R23, R258, R34, R240). -/

namespace Sys2Proof.Machine

/-! ### The bundle at the fetch address (R49 to R54) -/

section
variable {s : State} {x : Nat} {w : Nat} {ws : List (BitVec 32)} {h : Header} {b : Bundle}

theorem decoded_ok {ok : Instr → Bool} (hd : decodeBundle ok ws = .ok (h, b)) : decoded ok ws = .ok (h, b) := by
  rw [decoded, hd]

/-- An index word's dictionary entry (R47, R49). -/
theorem entryBundle_ok {a : Nat} (hw : w < (s.ctx x).stream.dictn) (he : s.entryWords x a w = .ok ws)
    (hd : decodeBundle (s.placeOk x) ws = .ok (h, b)) (hz : ∀ v ∈ ws.drop h.length, v = 0) : s.entryBundle x a w = .ok b := by
  have hpad : (ws.drop h.length).any (· != 0) = false := by
    rw [List.any_eq_false]
    intro v hv
    simp [hz v hv]
  simp only [State.entryBundle, he, decoded_ok hd, hpad, Nat.not_le.2 hw, if_false, Bool.false_eq_true, bind, Except.bind]

/-- A bundle that is at hand, by the kind of its word. -/
theorem fetchBundle_ok {i : Iss} (hbody : s.bodyStop x = none) (hw : s.fetchWord x = .ok w)
    (hpast : (s.ctx x).stack.runsPast (s.ctx x).fetch.pc 2 = false)
    (hi : (if w = 0xFFFF then s.fetchLiteral x else if isRepeat w then s.fetchRepeat x w else s.fetchEntry x w) = .ok i)
    (hbar : s.loopBars x i = false) : s.fetchBundle x = .ok i := by
  simp only [State.fetchBundle, hbody, hw, hpast, bind, Except.bind, Bool.false_eq_true, if_false]
  by_cases hl : w = 0xFFFF
  · rw [if_pos hl] at hi ⊢
    simp only [hi, hbar, Bool.false_eq_true, if_false]
  · rw [if_neg hl] at hi ⊢
    by_cases hr : isRepeat w = true
    · rw [if_pos hr] at hi ⊢
      simp only [hi, hbar, Bool.false_eq_true, if_false]
    · rw [if_neg hr] at hi ⊢
      simp only [hi, hbar, Bool.false_eq_true, if_false]

theorem isRepeat_of_index (hw : w < 0xFFF0) : w ≠ 0xFFFF ∧ ¬ isRepeat w = true := by
  refine ⟨by omega, ?_⟩
  simp [isRepeat, Nat.not_le.2 hw]

/-- An index word presents its dictionary entry (R49). -/
theorem fetchBundle_index (hbody : s.bodyStop x = none) (hw : s.fetchWord x = .ok w) (hix : w < 0xFFF0)
    (hpast : (s.ctx x).stack.runsPast (s.ctx x).fetch.pc 2 = false) (he : s.entryBundle x (s.ctx x).fetch.pc w = .ok b)
    (hbar : s.loopBars x (issOf s x (s.ctx x).fetch.pc ((s.ctx x).fetch.pc + 2) 0 0 b) = false) :
    s.fetchBundle x = .ok (issOf s x (s.ctx x).fetch.pc ((s.ctx x).fetch.pc + 2) 0 0 b) := by
  obtain ⟨hl, hr⟩ := isRepeat_of_index hix
  refine fetchBundle_ok hbody hw hpast ?_ hbar
  rw [if_neg hl, if_neg hr]
  simp only [State.fetchEntry, he, bind, Except.bind]

/-- The code words of a literal: the escape word, its length, its 32-bit words in halves (R50). -/
theorem codeWords_literal {a n : Nat} {hs : List Nat} (hc : s.codeWords x a (2 + 2 * n) = .ok (0xFFFF :: n :: hs)) :
    s.codeWord x a = .ok 0xFFFF ∧ s.codeWord x (a + 2) = .ok n ∧ s.codeWords x (a + 4) (2 * n) = .ok hs := by
  rw [show 2 + 2 * n = 2 * n + 1 + 1 by omega] at hc
  simp only [State.codeWords, bind, Except.bind] at hc
  cases h0 : s.codeWord x a with
  | error e => simp [h0] at hc
  | ok w0 =>
    cases h1 : s.codeWord x (a + 2) with
    | error e => simp [h0, h1] at hc
    | ok w1 =>
      cases h2 : s.codeWords x (a + 2 + 2) (2 * n) with
      | error e => simp [h0, h1, h2] at hc
      | ok w2 =>
        simp only [h0, h1, h2, Except.ok.injEq, List.cons.injEq] at hc
        obtain ⟨rfl, rfl, rfl⟩ := hc
        exact ⟨rfl, rfl, rfl⟩

/-- The escape word presents its literal (R50, R53). -/
theorem fetchBundle_literal {n : Nat} {hs : List Nat} (hbody : s.bodyStop x = none) (hn : 0 < n) (hn' : n ≤ 12)
    (hc : s.codeWords x (s.ctx x).fetch.pc (2 + 2 * n) = .ok (0xFFFF :: n :: hs))
    (hd : decodeBundle (s.placeOk x) (pairWords hs) = .ok (h, b)) (hlen : h.length = n)
    (hpast : (s.ctx x).stack.runsPast (s.ctx x).fetch.pc 2 = false)
    (hpast' : (s.ctx x).stack.runsPast (s.ctx x).fetch.pc (4 + 4 * n) = false)
    (hbar : s.loopBars x (issOf s x (s.ctx x).fetch.pc ((s.ctx x).fetch.pc + 4 + 4 * n) 0 0 b) = false) :
    s.fetchBundle x = .ok (issOf s x (s.ctx x).fetch.pc ((s.ctx x).fetch.pc + 4 + 4 * n) 0 0 b) := by
  obtain ⟨hw, hwn, hrest⟩ := codeWords_literal hc
  have hll : s.literalLength x (s.ctx x).fetch.pc = .ok n := by
    simp only [State.literalLength, hwn, bind, Except.bind]
    rw [if_neg (by omega)]
  have hb : s.literalBundle x (s.ctx x).fetch.pc n = .ok b := by
    simp only [State.literalBundle, hrest, decoded_ok hd, bind, Except.bind, hlen, ne_eq, not_true_eq_false, if_false]
  refine fetchBundle_ok hbody hw hpast ?_ hbar
  rw [if_pos rfl]
  simp only [State.fetchLiteral, hll, hpast', hb, bind, Except.bind, Bool.false_eq_true, if_false]

/-- A repeat word presents the bundle before it (R51, R52). -/
theorem fetchBundle_repeat {p : Prev} (hbody : s.bodyStop x = none) (hw : s.fetchWord x = .ok w) (hlo : 0xFFF0 ≤ w) (hhi : w ≤ 0xFFFE)
    (hlast : (s.ctx x).fetch.last = some p) (hskip : p.skip = none)
    (hpast : (s.ctx x).stack.runsPast (s.ctx x).fetch.pc 2 = false)
    (hbar : s.loopBars x (issOf s x p.origin ((s.ctx x).fetch.pc + 2) ((s.ctx x).fetch.rep + 1) (w - 0xFFF0 + 2) p.slots) = false) :
    s.fetchBundle x = .ok (issOf s x p.origin ((s.ctx x).fetch.pc + 2) ((s.ctx x).fetch.rep + 1) (w - 0xFFF0 + 2) p.slots) := by
  refine fetchBundle_ok hbody hw hpast ?_ hbar
  rw [if_neg (by omega), if_pos (by simp [isRepeat, hlo, hhi])]
  simp only [State.fetchRepeat, hlast, State.before, hskip, bind, Except.bind]

end

/-! ### Presenting it (R49, R54, R300) -/

theorem useTlb_cur (s : State) (x : Nat) (used : TlbEntry → Bool) : (s.useTlb x used).cur = s.cur := by
  unfold State.useTlb
  dsimp only
  split
  · rfl
  · split
    · rfl
    · unfold State.useDieTlb
      dsimp only
      split
      · rfl
      · rfl

section
variable {s : State} {kind : Nat → Bool}

theorem present_off (h : s.mayPresent s.cur = false) : present kind s = .next s := by
  simp only [present, h, Bool.not_false, if_true]

variable {w : Nat} (h : s.mayPresent s.cur = true) (hw : s.fetchWord s.cur = .ok w) (hk : kind w = true)
include h hw hk

theorem present_ok {i : Iss} (hf : s.fetchBundle s.cur = .ok i) : present kind s = .next (presents s i) := by
  have hcur : ∀ used, (s.useTlb s.cur used).cur = s.cur := fun used => useTlb_cur s s.cur used
  simp only [present, h, hw, hk, hf, Bool.not_true, Bool.false_eq_true, if_false, if_true, presents, State.setMe, State.me, hcur]

theorem present_fault {t : TrapInfo} (hf : s.fetchBundle s.cur = .error (.fault t)) :
    present kind s = .next (s.bundleTrap s.cur t s.me.fetch.pc (s.nextRep s.cur)) := by
  simp only [present, h, hw, hk, hf, Bool.not_true, Bool.false_eq_true, if_false, if_true]
  rfl

theorem present_poison {pa : Nat} (hf : s.fetchBundle s.cur = .error (.poison pa)) :
    present kind s = .next ((s.logged (.poison pa)).fatalCtx s.cur) := by
  simp only [present, h, hw, hk, hf, Bool.not_true, Bool.false_eq_true, if_false, if_true]

theorem present_waits {n : Nat} (hf : s.fetchBundle s.cur = .error (.line n) ∨ s.fetchBundle s.cur = .error (.entry n)) :
    present kind s = .next (s.heldBy .fetch) := by
  rcases hf with hf | hf
  · simp only [present, h, hw, hk, hf, Bool.not_true, Bool.false_eq_true, if_false, if_true]
  · simp only [present, h, hw, hk, hf, Bool.not_true, Bool.false_eq_true, if_false, if_true]

end

/-- The event that presents a word's bundle, by the word (R49 to R51). -/
theorem issueKind_of {w : Nat} {e : Instr} (he : e = (if w = 0xFFFF then .literalIssue else if 0xFFF0 ≤ w then .repeatIssue else .dictIssue))
    (hw : w ≤ 0xFFFF) : ∃ kind : Nat → Bool, exec e = present kind ∧ kind w = true := by
  subst he
  by_cases hl : w = 0xFFFF
  · exact ⟨(· == 0xFFFF), by rw [if_pos hl]; rfl, beq_iff_eq.2 hl⟩
  · by_cases hr : 0xFFF0 ≤ w
    · refine ⟨isRepeat, by rw [if_neg hl, if_pos hr]; rfl, ?_⟩
      have hhi : w ≤ 0xFFFE := by omega
      simp [isRepeat, hr, hhi]
    · refine ⟨fun w => w < 0xFFF0, by rw [if_neg hl, if_neg hr]; rfl, ?_⟩
      simpa using hr

/-! ### Fills (R54) -/

section
variable {s : State} {n : Nat}

/-- A line or entry that the fetch misses comes from memory; beyond its stack's capacity the read ends in a fabric error (R54, R259). -/
theorem fetchFillComplete_line (hf : s.fetchBundle s.cur = .error (.line n)) :
    let t := s.setCore (coreOf s.cur) { s.myCore with cline := s.myCore.cline ++ [n] }
    exec .fetchFillComplete s =
      .next (if s.inStack (128 * n) && s.inStack (128 * n + 128 - 1) then t else t.memError s.cur s.me.fetch.pc) := by
  change Host.Outcome.next (s.fetchFill s.cur) = _
  simp only [State.fetchFill, hf, State.codeRead]
  rfl

theorem fetchFillComplete_entry (hf : s.fetchBundle s.cur = .error (.entry n)) (hroom : s.myCore.dict.length < 2048) :
    let t := s.setCore (coreOf s.cur) { s.myCore with dict := s.myCore.dict ++ [n] }
    exec .fetchFillComplete s =
      .next (if s.inStack n && s.inStack (n + 48 - 1) then t else t.memError s.cur s.me.fetch.pc) := by
  have hput : ∀ held, putEntry held s.myCore.dict n = s.myCore.dict ++ [n] := fun held => by
    rw [putEntry, if_pos hroom]
  change Host.Outcome.next (s.fetchFill s.cur) = _
  simp only [State.fetchFill, hf, State.codeRead]
  change Host.Outcome.next (if _ then State.setCore _ _ { s.myCore with dict := putEntry _ s.myCore.dict n } else
    State.memError (State.setCore _ _ { s.myCore with dict := putEntry _ s.myCore.dict n }) _ _) = _
  rw [hput]
  rfl

theorem fetchFillComplete_ok {i : Iss} (hf : s.fetchBundle s.cur = .ok i) : exec .fetchFillComplete s = .next s := by
  change Host.Outcome.next (s.fetchFill s.cur) = _
  simp only [State.fetchFill, hf]

end

/-! ### The end of a core cycle (R23, R41) -/

theorem getS_setS (c : Ctx) (b : Bank) (r : Fin 64) (v : Word) : (c.setS b r v).getS b r = v := by
  have hr := r.isLt
  cases b with
  | main => exact Vector.getElem_set_self _
  | shadow =>
    have h8 : r.val - 56 < 8 := by omega
    simp [Ctx.getS, Ctx.setS, List.getD_eq_getElem?_getD, h8]
  | sup =>
    have h16 : r.val - 48 < 16 := by omega
    simp [Ctx.getS, Ctx.setS, List.getD_eq_getElem?_getD, h16]

theorem getS_setS_main_ne (c : Ctx) {r q : Fin 64} (h : q ≠ r) (v : Word) : (c.setS .main r v).getS .main q = c.getS .main q :=
  Vector.getElem_set_ne r.isLt q.isLt (fun hv => h (Fin.ext hv.symm))

/-- A register written leaves counters, latches and predicates. -/
theorem setS_counts (c : Ctx) (b : Bank) (r : Fin 64) (v : Word) : (c.setS b r v).lat = c.lat ∧ (c.setS b r v).cc = c.cc ∧
    (c.setS b r v).p = c.p := by
  cases b with
  | main => exact ⟨rfl, rfl, rfl⟩
  | shadow => exact ⟨rfl, rfl, rfl⟩
  | sup => exact ⟨rfl, rfl, rfl⟩

/-- What a register written leaves of a context. -/
theorem setS_frame (c : Ctx) (b : Bank) (r : Fin 64) (v : Word) : (c.setS b r v).passes = c.passes ∧ (c.setS b r v).iss = c.iss ∧
    (c.setS b r v).parked = c.parked := by
  cases b with
  | main => exact ⟨rfl, rfl, rfl⟩
  | shadow => exact ⟨rfl, rfl, rfl⟩
  | sup => exact ⟨rfl, rfl, rfl⟩

/-- Two states have the same memory and acting context. -/
def MemCur (s t : State) : Prop := t.mem = s.mem ∧ t.cur = s.cur

/-- The counters one cycle on of a context without matrix work. -/
theorem ticks_ctx (s : State) (x : Nat) (hd : (s.ctx x).drains = []) (hp : (s.ctx x).passes = []) :
    (∃ n, ((s.arrayTick x).sumTick x).ctx x = { s.ctx x with busy := n }) ∧ MemCur s ((s.arrayTick x).sumTick x) := by
  have ha : (∃ n, (s.arrayTick x).ctx x = { s.ctx x with busy := n }) ∧ MemCur s (s.arrayTick x) := by
    unfold State.arrayTick
    dsimp only
    split
    · exact ⟨⟨_, rfl⟩, rfl, rfl⟩
    · refine ⟨⟨(s.ctx x).busy - 1, ?_⟩, rfl, rfl⟩
      rw [State.setCtx_ctx_same]
      simp only [hd, hp, List.map_nil]
  obtain ⟨⟨n, hn⟩, hm, hc⟩ := ha
  generalize s.arrayTick x = u at hn hm hc
  have hk : (u.sumTick x).ctx x = u.ctx x ∧ MemCur u (u.sumTick x) := by
    unfold State.sumTick
    dsimp only
    split
    · split
      · exact ⟨rfl, rfl, rfl⟩
      · exact ⟨rfl, rfl, rfl⟩
    · exact ⟨rfl, rfl, rfl⟩
  exact ⟨⟨n, hk.1.trans hn⟩, hk.2.1.trans hm, hk.2.2.trans hc⟩

/-- What is due of a context without matrix work, and the context one cycle on (R23). -/
theorem dueNow_facts (s : State) (x : Nat) (hd : (s.ctx x).drains = []) (hp : (s.ctx x).passes = []) :
    (∃ n, (s.dueNow x).1.ctx x = { s.ctx x with
      busy := n, lat := ((s.ctx x).lat.filter (1 < ·.left)).map (fun l => { l with left := l.left - 1 }), adv := false, cc := (s.ctx x).cc + 1 }) ∧
    (s.dueNow x).2 = (s.ctx x).lat.filter (·.left ≤ 1) ∧ MemCur s (s.dueNow x).1 := by
  obtain ⟨⟨n, hn⟩, hm, hc⟩ := ticks_ctx s x hd hp
  have hrows : (if (s.ctx x).sup then (([], (s.ctx x).drains) : List Latch × List Drain) else drainRows (s.ctx x).drains) = ([], []) := by
    rw [hd]
    split
    · rfl
    · rfl
  unfold State.dueNow
  dsimp only
  rw [hn]
  dsimp only
  rw [hrows]
  refine ⟨⟨n, ?_⟩, List.append_nil _, hm, hc⟩
  rw [State.setCtx_ctx_same, ← hd]

theorem dropWakes_facts (s : State) (k x : Nat) : (s.dropWakes k).ctx x = s.ctx x ∧ MemCur s (s.dropWakes k) := by
  unfold State.dropWakes
  dsimp only
  split
  · exact ⟨rfl, rfl, rfl⟩
  · exact ⟨rfl, rfl, rfl⟩

/-- One scalar result lands (R23, R87). -/
theorem landAll_sreg (s : State) (x : Nat) (b : Bank) (r : Fin 64) (v : Word) (n : Nat) (fl : Flags) (sl : Slot) (ba born : Nat) :
    (s.landAll x [⟨.sreg b r v, n, fl, sl, ba, born⟩]).ctx x = { (s.ctx x).setS b r v with fpflags := (s.ctx x).fpflags ||| fl } ∧
    MemCur s (s.landAll x [⟨.sreg b r v, n, fl, sl, ba, born⟩]) := by
  have hy : ∀ ls, Latch.yields ⟨.sreg b r v, n, fl, sl, ba, born⟩ ls = false := fun ls => by cases sl <;> rfl
  have hz : (0 : Flags) ||| fl = fl := by simp
  have hfl : ((s.ctx x).setS b r v).fpflags = (s.ctx x).fpflags := by cases b <;> rfl
  obtain ⟨hctx, hmem, hcur⟩ := dropWakes_facts s (coreOf x) x
  simp only [State.landAll, List.foldr_cons, List.foldr_nil, insertLatch, List.filter_cons, List.filter_nil, hy, Bool.not_false, if_true,
    Write.first, Bool.false_eq_true, if_false, List.foldl_nil, List.foldl_cons, List.map_cons, List.map_nil, Flags.all, State.land,
    State.setCtx_ctx_same, hctx, hfl, hz]
  exact ⟨trivial, hmem, hcur⟩

theorem or_noFlags (f : Flags) : f ||| Flags.all [] = f := by
  simp [Flags.all]

/-- Nothing lands. -/
theorem landAll_nil (s : State) (x : Nat) : (s.landAll x []).ctx x = s.ctx x ∧ MemCur s (s.landAll x []) := by
  obtain ⟨hctx, hmem, hcur⟩ := dropWakes_facts s (coreOf x) x
  simp only [State.landAll, List.foldr_nil, List.filter_nil, List.foldl_nil, List.map_nil, State.setCtx_ctx_same, hctx, or_noFlags]
  exact ⟨trivial, hmem, hcur⟩

/-- A core cycle's pass over without matrix passes. -/
theorem passComplete_nil (s : State) (x : Nat) (hp : (s.ctx x).passes = []) :
    (s.passComplete x).ctx x = s.ctx x ∧ MemCur s (s.passComplete x) := by
  unfold State.passComplete
  dsimp only
  refine ⟨?_, rfl, rfl⟩
  rw [State.setCtx_ctx_same, hp]
  simp only [List.filter_nil, List.map_nil, or_noFlags]
  rw [← hp]

/-- A core cycle of a context over (R23): what was due has landed. -/
theorem passCycle_of {s : State} {x : Nat} {c : Ctx} (hp : c.passes = [])
    (hland : ((s.dueNow x).1.landAll x (s.dueNow x).2).ctx x = c ∧ MemCur s ((s.dueNow x).1.landAll x (s.dueNow x).2)) :
    (s.passCycle x).ctx x = c ∧ MemCur s (s.passCycle x) := by
  obtain ⟨hctx, hmem, hcur⟩ := hland
  unfold State.passCycle
  dsimp only
  split
  · exact ⟨hctx, hmem, hcur⟩
  · obtain ⟨hpctx, hpmem, hpcur⟩ := passComplete_nil _ x ((congrArg Ctx.passes hctx).trans hp)
    exact ⟨hpctx.trans hctx, hpmem.trans hmem, hpcur.trans hcur⟩

/-- A context as the end of its core cycle finds it: no hold of a wake any more. -/
def Ctx.awake (c : Ctx) : Ctx := { c with waking := false, stall := if c.waking then none else c.stall }

theorem endBundle_none {s : State} {x : Nat} (h : (s.ctx x).iss = none) : s.endBundle x = s := by
  simp only [State.endBundle, h]

/-- The end of the core cycle of a context at a bundle boundary that has not been frozen, with no result for a sleeping row. -/
theorem endCycle_of {s : State} {x : Nat} (hadv : (s.ctx x).adv = true) (hrow : ∀ l ∈ (s.dueNow x).2, ∃ b r v, l.w = .sreg b r v) :
    s.endCycle x =
      let v := ((s.setCtx x (s.ctx x).awake).passCycle x).endBundle x
      if (v.ctx x).parked.spent && !(v.ctx x).sup then (v.setCtx x { v.ctx x with parked := { (v.ctx x).parked with spent := false } }).passCycle x
      else v := by
  have hsleep : (s.core (coreOf x)).asleep (s.dueNow x).2 = [] := by
    unfold CoreSt.asleep
    rw [List.filterMap_eq_nil_iff.2]
    · rfl
    · intro l hl
      obtain ⟨b, r, v, hw⟩ := hrow l hl
      rw [hw]
  simp only [State.endCycle, hadv, hsleep, Bool.not_true, Bool.false_eq_true, if_false, Ctx.awake]

section
variable {s : State} {x : Nat} (hadv : (s.ctx x).adv = true) (hd : (s.ctx x).drains = []) (hp : (s.ctx x).passes = [])
include hadv hd hp

/-- The end of a core cycle at a bundle boundary: the context is as the landing leaves it. -/
theorem endCycle_boundary (hrow : ∀ l ∈ (s.ctx x).lat, l.left ≤ 1 → ∃ b r v, l.w = .sreg b r v) {c : Ctx} (hcp : c.passes = [])
    (hci : c.iss = none) (hcs : c.parked.spent = false)
    (hland : (((s.setCtx x (s.ctx x).awake).dueNow x).1.landAll x ((s.setCtx x (s.ctx x).awake).dueNow x).2).ctx x = c ∧
      MemCur s (((s.setCtx x (s.ctx x).awake).dueNow x).1.landAll x ((s.setCtx x (s.ctx x).awake).dueNow x).2)) :
    (s.endCycle x).ctx x = c ∧ MemCur s (s.endCycle x) := by
  have hdue : ∀ l ∈ (s.dueNow x).2, ∃ b r v, l.w = .sreg b r v := fun l hl => by
    rw [(dueNow_facts s x hd hp).2.1] at hl
    obtain ⟨hmem, hleft⟩ := List.mem_filter.1 hl
    exact hrow l hmem (of_decide_eq_true hleft)
  obtain ⟨hctx, hmem, hcur⟩ := passCycle_of hcp hland
  rw [endCycle_of hadv hdue]
  generalize (s.setCtx x (s.ctx x).awake).passCycle x = u at hctx hmem hcur
  rw [endBundle_none (by rw [hctx, hci])]
  simp only [hctx, hcs, Bool.false_and, Bool.false_eq_true, if_false]
  exact ⟨trivial, hmem, hcur⟩

variable (hiss : (s.ctx x).iss = none) (hspent : (s.ctx x).parked.spent = false)
include hiss hspent

/-- A result that is due lands (R23, R41, R87). -/
theorem endCycle_lands {b : Bank} {r : Fin 64} {v : Word} {fl : Flags} {sl : Slot} {ba born : Nat}
    (hl : (s.ctx x).lat = [⟨.sreg b r v, 1, fl, sl, ba, born⟩]) :
    (∃ n, (s.endCycle x).ctx x = { (Ctx.setS { (s.ctx x).awake with busy := n, lat := [], adv := false, cc := (s.ctx x).cc + 1 } b r v) with
      fpflags := (s.ctx x).fpflags ||| fl }) ∧ MemCur s (s.endCycle x) := by
  obtain ⟨⟨n, hn⟩, hdue, hm, hc⟩ := dueNow_facts (s.setCtx x (s.ctx x).awake) x (by rw [State.setCtx_ctx_same]; exact hd)
    (by rw [State.setCtx_ctx_same]; exact hp)
  have hlat : (s.ctx x).awake.lat = [⟨.sreg b r v, 1, fl, sl, ba, born⟩] := hl
  rw [State.setCtx_ctx_same, hlat] at hn hdue
  simp only [List.filter_cons, List.filter_nil, Nat.lt_irrefl, Nat.le_refl, decide_true, decide_false, Bool.false_eq_true, if_true,
    if_false, List.map_nil] at hn hdue
  obtain ⟨hctx, hmem, hcur⟩ := landAll_sreg ((s.setCtx x (s.ctx x).awake).dueNow x).1 x b r v 1 fl sl ba born
  rw [hn] at hctx
  obtain ⟨hpasses, hiss', hparked⟩ := setS_frame { (s.ctx x).awake with busy := n, lat := [], adv := false, cc := (s.ctx x).cc + 1 } b r v
  have hland := endCycle_boundary (s := s) (x := x) hadv hd hp
    (c := { (Ctx.setS { (s.ctx x).awake with busy := n, lat := [], adv := false, cc := (s.ctx x).cc + 1 } b r v) with
      fpflags := (s.ctx x).fpflags ||| fl })
    (fun l hl' hleft => by rw [hl, List.mem_singleton] at hl'; subst hl'; exact ⟨b, r, v, rfl⟩) (hpasses.trans hp) (hiss'.trans hiss)
    ((congrArg Parked.spent hparked).trans hspent)
    (by rw [hdue]; exact ⟨hctx, hmem.trans hm, hcur.trans hc⟩)
  exact ⟨⟨n, hland.1⟩, hland.2⟩

/-- A result that is not due yet is one cycle on (R23). -/
theorem endCycle_counts {w : Write} {k : Nat} {fl : Flags} {sl : Slot} {ba born : Nat} (hk : 1 < k)
    (hl : (s.ctx x).lat = [⟨w, k, fl, sl, ba, born⟩]) :
    (∃ n, (s.endCycle x).ctx x = { (s.ctx x).awake with
      busy := n, lat := [⟨w, k - 1, fl, sl, ba, born⟩], adv := false, cc := (s.ctx x).cc + 1 }) ∧ MemCur s (s.endCycle x) := by
  obtain ⟨⟨n, hn⟩, hdue, hm, hc⟩ := dueNow_facts (s.setCtx x (s.ctx x).awake) x (by rw [State.setCtx_ctx_same]; exact hd)
    (by rw [State.setCtx_ctx_same]; exact hp)
  have hlat : (s.ctx x).awake.lat = [⟨w, k, fl, sl, ba, born⟩] := hl
  rw [State.setCtx_ctx_same, hlat] at hn hdue
  simp only [List.filter_cons, List.filter_nil, hk, decide_true, if_true, List.map_cons, List.map_nil, Nat.not_le.2 hk, decide_false,
    Bool.false_eq_true, if_false] at hn hdue
  obtain ⟨hctx, hmem, hcur⟩ := landAll_nil ((s.setCtx x (s.ctx x).awake).dueNow x).1 x
  have hland := endCycle_boundary (s := s) (x := x) hadv hd hp
    (c := { (s.ctx x).awake with busy := n, lat := [⟨w, k - 1, fl, sl, ba, born⟩], adv := false, cc := (s.ctx x).cc + 1 })
    (fun l hl' hleft => by rw [hl, List.mem_singleton] at hl'; subst hl'; exact absurd hk (Nat.not_lt.2 hleft)) hp hiss hspent
    (by rw [hdue]; exact ⟨hctx.trans hn, hmem.trans hm, hcur.trans hc⟩)
  exact ⟨⟨n, hland.1⟩, hland.2⟩

end

/-! ### Imprecise faults, user interrupts, the link watchdog (R34, R240, R258) -/

section
variable {s : State}

theorem impreciseFaultTake_ok {f : Imprecise} {r : List Imprecise} (hq : s.me.impq = f :: r) : exec .impreciseFaultTake s = .next (
    if s.takesImprecise s.cur then (s.setMe { s.me with impq := r }).takeTrap s.cur ⟨f.cls, f.cause, 0, f.va, f.scale⟩ false f.qix
      f.eng.code s.me.fetch.pc f.ba (s.nextRep s.cur) 0 else s) := by
  have hq' : (s.ctx s.cur).impq = f :: r := hq
  change execImpreciseFaultTake s = _
  simp only [execImpreciseFaultTake, hq']
  rfl

/-- A context whose user interrupt is taken (R31, R34, R351). -/
def Ctx.interrupted (c : Ctx) (w : Word) (r : List Word) : Ctx :=
  { (c.setS .shadow 56 w).setS .shadow 57 (BitVec.ofNat 64 c.fetch.pc) with
    uiq := r, ctxctl := c.ctxctl ||| 8, loops := { c.loops with floor := c.loops.depth }, fetch := ⟨c.uivec.toNat, none, 0⟩ }

theorem userInterruptTake_ok {w : Word} {r : List Word} (hq : s.me.uiq = w :: r) :
    exec .userInterruptTake s =
      .next (if s.takesUser s.cur then (s.dropToken s.cur).setCtx s.cur (s.me.interrupted w r) else s) := by
  have hq' : (s.ctx s.cur).uiq = w :: r := hq
  change execUserInterruptTake s = _
  simp only [execUserInterruptTake, hq']
  rfl

/-- The shadow registers and UIACT of a context that has entered its handler. -/
theorem interrupted_facts (c : Ctx) (w : Word) (r : List Word) : (c.interrupted w r).getS .shadow 56 = w ∧
    (c.interrupted w r).getS .shadow 57 = BitVec.ofNat 64 c.fetch.pc ∧ (c.interrupted w r).uiact = true := by
  have h56 : (56 : Fin 64).val = 56 := rfl
  have h57 : (57 : Fin 64).val = 57 := rfl
  refine ⟨?_, ?_, ?_⟩
  · simp [Ctx.interrupted, Ctx.getS, Ctx.setS, List.getD_eq_getElem?_getD, h56, h57]
  · simp [Ctx.interrupted, Ctx.getS, Ctx.setS, List.getD_eq_getElem?_getD, h56, h57]
  · simp [Ctx.interrupted, Ctx.uiact]

theorem linWatchdog_off (h : s.me.watchdog = false) : exec .linWatchdog s = .next s := by
  have h' : (s.ctx s.cur).watchdog = false := h
  change execLinWatchdog s = _
  simp only [execLinWatchdog, h', Bool.false_and, Bool.false_eq_true, if_false, Bool.not_false, if_true]

/-- A context that may present a bundle holds none. -/
theorem iss_of_mayPresent {x : Nat} (h : s.mayPresent x = true) : (s.ctx x).iss = none := by
  simp only [State.mayPresent, Bool.and_eq_true, Option.isNone_iff_eq_none] at h
  exact h.2

/-- A bundle without a Y slot that has waited too long on an empty lin is split at S (R240). -/
theorem linWatchdog_split {i : Iss} (h : s.me.watchdog = true) (hp : s.mayPresent s.cur = true) (hf : s.fetchBundle s.cur = .ok i)
    (hy : ∀ p ∈ i.slots, p.1 ≠ .Y) : exec .linWatchdog s = .next (({ s.setMe { s.me with
      iss := some i, snap := some (s.capture s.cur), stall := none, linwait := 0 } with slot := .S } : State).slotTrap (TrapInfo.of 11 0)) := by
  have h' : (s.ctx s.cur).watchdog = true := h
  have hres : s.mayResume s.cur = false := by
    simp only [State.mayResume, iss_of_mayPresent hp, Option.any_none, Bool.and_false]
  have hfind : (i.slots.find? fun p => p.1 == .Y) = none := by
    rw [List.find?_eq_none]
    intro p hmem
    simp [hy p hmem]
  change execLinWatchdog s = _
  simp only [execLinWatchdog, h', hres, hp, hf, hfind, Bool.and_false, Bool.and_self, Bool.not_true, Bool.false_eq_true, if_false]
  rfl

end

/-- The end of a core cycle of a context that has been frozen waits. -/
theorem endCycle_frozen {s : State} {x : Nat} (h : (s.ctx x).adv = false) : s.endCycle x = s := by
  rw [State.endCycle, h, Bool.not_false, if_pos rfl]

/-- Settles O48: by what the fetch of each kind of word finds, and one lemma for each event at a bundle boundary. -/
theorem issueEvents : Obligations.IssueEvents := by
  unfold Obligations.IssueEvents
  refine ⟨fun s w ws h b => ?_, fun s n ws h b => ?_, fun s w p => ?_, fun s w e hp hw he hle => ?_, fun s hp => ?_, fun s n => ?_,
    fun s i hf => fetchFillComplete_ok hf, fun s b r v fl sl ba cc hadv hiss hspent hl hd hpass => ?_,
    fun s w n fl sl ba cc hadv hiss hspent hn hl hd hpass => ?_, fun s hadv => congrArg _ (endCycle_frozen hadv),
    fun s f r => impreciseFaultTake_ok, fun s w r hq => ?_, fun s => linWatchdog_off, fun s i => linWatchdog_split⟩
  · intro a hp hw hix hn he hd hz hpast i hbody hbar
    exact present_ok hp hw (decide_eq_true hix) (fetchBundle_index hbody hw hix hpast (entryBundle_ok hn he hd hz) hbar)
  · intro a hp hn hn' hc hd hlen hpast hpast' i hbody hbar
    exact present_ok hp (codeWords_literal hc).1 rfl (fetchBundle_literal hbody hn hn' hc hd hlen hpast hpast' hbar)
  · intro a hp hw hlo hhi hlast hskip hpast i hbody hbar
    exact present_ok hp hw (by simp [isRepeat, hlo, hhi]) (fetchBundle_repeat hbody hw hlo hhi hlast hskip hpast hbar)
  · obtain ⟨kind, hexec, hk⟩ := issueKind_of he hle
    rw [hexec]
    exact ⟨fun t => present_fault hp hw hk, fun pa => present_poison hp hw hk, fun n => present_waits hp hw hk⟩
  · exact ⟨present_off hp, present_off hp, present_off hp⟩
  · exact ⟨fetchFillComplete_line, fetchFillComplete_entry⟩
  · obtain ⟨⟨k, hctx⟩, hmem, hcur⟩ := endCycle_lands hadv hd hpass hiss hspent hl
    refine ⟨_, rfl, ?_⟩
    rw [State.me, hcur, hctx]
    obtain ⟨hlat, hcc, hpred⟩ := setS_counts { (s.ctx s.cur).awake with busy := k, lat := [], adv := false, cc := (s.ctx s.cur).cc + 1 } b r v
    exact ⟨getS_setS _ b r v, hlat, rfl, hcc, fun hb q hq => by subst hb; exact getS_setS_main_ne _ hq v, hpred, hmem⟩
  · obtain ⟨⟨k, hctx⟩, hmem, hcur⟩ := endCycle_counts hadv hd hpass hiss hspent hn hl
    refine ⟨_, rfl, ?_⟩
    rw [State.me, hcur, hctx]
    exact ⟨rfl, rfl, rfl, hmem⟩
  · rw [userInterruptTake_ok hq]
    have hsame := hubSame_dropToken s s.cur
    refine ⟨fun h => by rw [h]; rfl, fun h => ⟨_, congrArg _ (if_pos h), ?_⟩⟩
    have hme : ((s.dropToken s.cur).setCtx s.cur (s.me.interrupted w r)).me = s.me.interrupted w r := by
      rw [State.me, State.setCtx_cur, hsame.cur, State.setCtx_ctx_same]
    rw [hme]
    obtain ⟨h56, h57, hact⟩ := interrupted_facts s.me w r
    exact ⟨h56, h57, rfl, hact, rfl, rfl, rfl, rfl, rfl, hsame.cores, dropToken_mem s s.cur⟩

end Sys2Proof.Machine
end

section
/-! PROOF. No step stops; illegal forms trap; steps without cause leave the state. -/

namespace Sys2Proof.Machine

/-! ### Every step answers a next state -/

/-- An instruction of the code stream is a slot, which always comes to a next state; an event answers one as it is written. -/
theorem exec_next (i : Instr) (s : State) : ∃ t, exec i s = .next t := by
  cases i
  any_goals exact slotDo_next s _
  case linkCrcThreshold l =>
    by_cases h : 64 < (s.link l).crc
    · exact ⟨_, if_pos h⟩
    · exact ⟨_, if_neg h⟩
  case linkReplayLimit l =>
    by_cases h : 8 ≤ (s.link l).replays
    · exact ⟨_, if_pos h⟩
    · exact ⟨_, if_neg h⟩
  case registerWrite a v =>
    by_cases h : a < 0x2000 ∧ a % 8 = 0
    · exact ⟨_, if_pos h⟩
    · exact ⟨_, if_neg h⟩
  all_goals exact ⟨_, rfl⟩

theorem step_next (s : State) : ∃ t, step s = .next t := by
  unfold step stepWith
  split
  · exact exec_next _ _
  · split
    · exact ⟨_, rfl⟩
    · exact ⟨_, rfl⟩

/-! ### Steps whose cause is not there -/

/-- Whether each of these steps leaves a state as it is. -/
def Rests (s : State) (is : List Instr) : Prop := ∀ i ∈ is, exec i s = .next s

theorem rests_nil (s : State) : Rests s [] := fun _ h => absurd h List.not_mem_nil

theorem rests_cons {s : State} {i : Instr} {is : List Instr} (h : exec i s = .next s) (hs : Rests s is) : Rests s (i :: is) :=
  List.forall_mem_cons.2 ⟨h, hs⟩

theorem rests_one {s : State} {i : Instr} (h : exec i s = .next s) : Rests s [i] := rests_cons h (rests_nil s)

section
variable {s : State}

/-! #### Of the acting context -/

theorem noBundle_rests (h : s.mayPresent s.cur = false) :
    Rests s [.dictIssue, .literalIssue, .repeatIssue, .impreciseFaultTake, .userInterruptTake] := by
  have himp : s.takesImprecise s.cur = false := by simp only [State.takesImprecise, h, Bool.false_and]
  have husr : s.takesUser s.cur = false := by simp only [State.takesUser, h, Bool.false_and]
  refine rests_cons (present_off h) (rests_cons (present_off h) (rests_cons (present_off h) (rests_cons ?_ (rests_one ?_))))
  · change execImpreciseFaultTake s = _
    unfold execImpreciseFaultTake
    dsimp only
    split
    · rfl
    · rw [himp]
      rfl
  · change execUserInterruptTake s = _
    unfold execUserInterruptTake
    dsimp only
    split
    · rfl
    · rw [husr]
      rfl

theorem noImprecise_rests (h : s.me.impq = []) : Rests s [.impreciseFaultTake] := by
  have h' : (s.ctx s.cur).impq = [] := h
  refine rests_one ?_
  change execImpreciseFaultTake s = _
  simp only [execImpreciseFaultTake, h']

theorem noInterrupt_rests (h : s.me.uiq = []) : Rests s [.userInterruptTake] := by
  have h' : (s.ctx s.cur).uiq = [] := h
  refine rests_one ?_
  change execUserInterruptTake s = _
  simp only [execUserInterruptTake, h']

theorem noBeat_rests (h : s.arrayCycle s.cur = false ∨ s.me.nextBeat = none) : Rests s [.arrayBeat] := by
  refine rests_one (congrArg Host.Outcome.next (?_ : s.arrayBeat s.cur = s))
  unfold State.arrayBeat
  rcases h with h | h
  · rw [h]
    rfl
  · rw [show (s.ctx s.cur).nextBeat = none from h]
    split
    · rfl
    · rfl

theorem noDrain_rests (h : s.me.drains.find? Drain.due = none) : Rests s [.mstRowLand] := by
  have h' : (s.ctx s.cur).drains.find? Drain.due = none := h
  exact rests_one (congrArg Host.Outcome.next (by simp only [State.landRows, h']))

theorem noAccess_rests {n : Nat} (h : s.me.mops[n]? = none) : Rests s [.accessAtPointOfCoherence n, .loadLand n, .storePerformed n] := by
  have h' : (s.ctx s.cur).mops[n]? = none := h
  exact rests_cons (congrArg Host.Outcome.next (by simp only [State.access, h']))
    (rests_cons (congrArg Host.Outcome.next (by simp only [State.landLoad, h']))
      (rests_one (congrArg Host.Outcome.next (by simp only [State.endStore, h']))))

/-- A context of a frozen pair (R268). -/
theorem frozen_rests (h : (s.pair (pairOf s.cur)).frozen ≠ none) (n : Nat) :
    Rests s [.loadLand n, .storePerformed n, .workerRetire, .leanSave, .graceWindowExpiry] := by
  have hf : (s.pair (pairOf s.cur)).frozen.isSome = true := Option.isSome_iff_ne_none.2 h
  refine rests_cons (congrArg Host.Outcome.next ?_) (rests_cons (congrArg Host.Outcome.next ?_)
    (rests_cons (congrArg Host.Outcome.next ?_) (rests_cons (congrArg Host.Outcome.next ?_) (rests_one (congrArg Host.Outcome.next ?_)))))
  · unfold State.landLoad
    split
    · rfl
    · rw [hf]
      rfl
  · unfold State.endStore
    split
    · rfl
    · rw [hf]
      rfl
  · simp only [State.retire, hf, Bool.true_or, if_true]
  · simp only [State.leanSave, hf, true_or, or_true, if_true]
  · simp only [State.graceExpiry, hf, or_true, if_true]

theorem notRetiring_rests (h : s.me.run ≠ .retiring) (h' : s.me.run ≠ .fatal) : Rests s [.workerRetire] := by
  refine rests_one (congrArg Host.Outcome.next (?_ : s.retire s.cur = s))
  unfold State.retire
  dsimp only
  split
  · rfl
  · split
    next hr => exact absurd hr h
    next hr => exact absurd hr h'
    next => rfl

theorem notSaving_rests (h : s.me.run ≠ .saving) : Rests s [.leanSave] := by
  have h' : (s.ctx s.cur).run ≠ .saving := h
  exact rests_one (congrArg Host.Outcome.next (if_pos (.inl h')))

theorem noGrace_rests (h : s.me.grace ≠ some 0) : Rests s [.graceWindowExpiry] := by
  have h' : (s.ctx s.cur).grace ≠ some 0 := h
  exact rests_one (congrArg Host.Outcome.next (if_pos (.inl h')))

/-! #### Of cores, pairs and dies -/

theorem noFill_rests {p : PairId} {om : Fin 16} (h : ((s.pair p.val).slot om.val).fill = none ∨ (s.pair p.val).frozen ≠ none) :
    Rests s [.mldFillComplete p om] := by
  refine rests_one (congrArg Host.Outcome.next (?_ : s.fillComplete p.val om.val = s))
  unfold State.fillComplete
  rcases h with h | h
  · simp only [h]
  · have hf : (s.pair p.val).frozen.isSome = true := Option.isSome_iff_ne_none.2 h
    dsimp only
    split
    · rfl
    · rw [hf]
      rfl

theorem noSum_rests {c : CoreId} (h : (s.core c.val).sumop = none ∨ (s.pair (c.val / 2)).frozen ≠ none) : Rests s [.summaryOpComplete c] := by
  refine rests_one (congrArg Host.Outcome.next (?_ : s.sumComplete c.val = s))
  unfold State.sumComplete
  rcases h with h | h
  · simp only [h]
  · have hf : (s.pair (c.val / 2)).frozen.isSome = true := Option.isSome_iff_ne_none.2 h
    dsimp only
    split
    · rfl
    · rw [hf, if_pos (by simp)]

theorem noCmd_rests {c : CoreId} {e : Bool} (h : s.headCmd c.val e = none) : Rests s [.copyEngineStart c e, .copyDataLand c e, .copyComplete c e] :=
  rests_cons (congrArg Host.Outcome.next (by simp only [State.copyStart, h]))
    (rests_cons (congrArg Host.Outcome.next (by simp only [State.copyLand, h]))
      (rests_one (congrArg Host.Outcome.next (by simp only [State.copyComplete, h]))))

theorem frozenCore_rests {c : CoreId} (h : (s.pair (c.val / 2)).frozen ≠ none) (e : Bool) :
    Rests s [.copyEngineStart c e, .copyDataLand c e, .copyComplete c e] := by
  have hf : s.stopped c.val = true := Option.isSome_iff_ne_none.2 h
  refine rests_cons (congrArg Host.Outcome.next ?_) (rests_cons (congrArg Host.Outcome.next ?_) (rests_one (congrArg Host.Outcome.next ?_)))
  · unfold State.copyStart
    split
    · rw [hf, if_neg (by simp)]
    · rfl
  · unfold State.copyLand
    split
    · rfl
    · rw [hf, if_pos (by simp)]
  · unfold State.copyComplete
    split
    · rfl
    · rw [hf, if_pos rfl]

theorem noRetention_rests {c : CoreId} {g : Fin 64} (h : s.mayRetain c.val g.val = false) : Rests s [.granuleRetentionEntry c g] :=
  rests_one (congrArg Host.Outcome.next (if_neg (ne_true_of_eq_false h)))

theorem noWake_rests {c : CoreId} {g : Fin 64} (h : Map.find (s.core c.val).gwake g.val ≠ some 0 ∨ s.wakeServed c.val g.val = false) :
    Rests s [.retentionWakeComplete c g] := by
  refine rests_one (congrArg Host.Outcome.next (if_neg ?_))
  rcases h with h | h
  · simp [h]
  · simp [h]

theorem noMulticast_rests {d : Fin 4} {n : Nat} (h : (s.die d.val).mcast[n]? = none) : Rests s [.multicastStoreLand d n] :=
  rests_one (congrArg Host.Outcome.next (by simp only [State.mcastLand, h]))

theorem noWalk_rests {d : Fin 4} {n : Nat} (h : (s.die d.val).walks[n]? = none) : Rests s [.tlbWalkComplete d n] :=
  rests_one (congrArg Host.Outcome.next (by simp only [State.walkDone, h]))

/-! #### Of the hub -/

theorem noMessage_rests {n : Nat} (h : s.hub.msgs[n]? = none) : Rests s [.barrierArrival (.listed n), .barrierSignal (.listed n)] := by
  have hm : s.message n = none := by rw [State.message, h]; rfl
  refine rests_cons ?_ (rests_one ?_)
  · change execBarrierArrival (.listed n) s = _
    simp only [execBarrierArrival, hm]
  · change execBarrierSignal (.listed n) s = _
    simp only [execBarrierSignal, hm]

theorem wstep_rests {n : Nat} (h : s.hub.wnet[n]? = none) (ks : List WKind) (f : State → WMsg → State) : wstep ks f n s = .next s := by
  simp only [wstep, State.wmsg, h]

theorem requestStep_rests {n : Nat} (h : s.hub.wnet[n]? = none) (k : WKind) (own : Bool) : requestStep k own n s = .next s :=
  wstep_rests h _ _

theorem noWindowMessage_rests {n : Nat} (h : s.hub.wnet[n]? = none) : Rests s [.windowRead n, .windowReadForOwnership n,
    .windowUpgrade n, .windowForwardedRequest n, .windowInvalidation n, .windowAcknowledgement n, .windowData n, .windowNotBusy n,
    .windowWriteback n, .windowHomeAck n] := by
  have hWindowRead : execWindowRead n s = .next s := requestStep_rests h _ _
  have hWindowReadForOwnership : execWindowReadForOwnership n s = .next s := requestStep_rests h _ _
  have hWindowUpgrade : execWindowUpgrade n s = .next s := requestStep_rests h _ _
  have hWindowForwardedRequest : execWindowForwardedRequest n s = .next s := wstep_rests h _ _
  have hWindowInvalidation : execWindowInvalidation n s = .next s := wstep_rests h _ _
  have hWindowAcknowledgement : execWindowAcknowledgement n s = .next s := wstep_rests h _ _
  have hWindowData : execWindowData n s = .next s := wstep_rests h _ _
  have hWindowNotBusy : execWindowNotBusy n s = .next s := wstep_rests h _ _
  have hWindowWriteback : execWindowWriteback n s = .next s := wstep_rests h _ _
  have hWindowHomeAck : execWindowHomeAck n s = .next s := wstep_rests h _ _
  exact rests_cons hWindowRead (rests_cons hWindowReadForOwnership (rests_cons hWindowUpgrade (rests_cons hWindowForwardedRequest 
    (rests_cons hWindowInvalidation (rests_cons hWindowAcknowledgement (rests_cons hWindowData 
    (rests_cons hWindowNotBusy (rests_cons hWindowWriteback (rests_one hWindowHomeAck)))))))))

theorem noPacket_rests {n : Nat} (h : s.hub.inq[n]? = none) : Rests s [.remoteRead n, .remoteWrite n, .remoteAtomic n, .readData n,
    .atomicAnswer n, .acknowledgement n, .reduceContribution n, .reduceResult n, .linkFifoWords n, .linkFifoCredit n] := by
  have ha : ∀ t, s.arrived n t = none := fun t => by simp only [State.arrived, h]
  have hserve : ∀ t f, serve n t f s = .next s := fun t f => by simp only [serve, ha]
  have htake : ∀ t, takeResponse n t s = .next s := fun t => by simp only [takeResponse, ha]
  have hread : execRemoteRead n s = .next s := hserve _ _
  have hwrite : execRemoteWrite n s = .next s := hserve _ _
  have hatomic : execRemoteAtomic n s = .next s := hserve _ _
  refine rests_cons hread (rests_cons hwrite (rests_cons hatomic (rests_cons (htake _) (rests_cons (htake _)
    (rests_cons (htake _) (rests_cons ?_ (rests_cons ?_ (rests_cons ?_ (rests_one ?_)))))))))
  · change execReduceContribution n s = _
    simp only [execReduceContribution, ha]
  · change execReduceResult n s = _
    simp only [execReduceResult, ha]
  · change execLinkFifoWords n s = _
    simp only [execLinkFifoWords, ha]
  · change execLinkFifoCredit n s = _
    simp only [execLinkFifoCredit, ha]

theorem noRoute_rests {n : Nat} (h : s.hub.routeq[n]? = none) : Rests s [.routeEntryApply n] :=
  rests_one (congrArg Host.Outcome.next (by simp only [State.routeApply, h]))

/-! #### Of a link -/

theorem linkStep_rests {l : Fin 16} {st : LinkState} (h : (s.link l).st ≠ st) (f : Link → Link) : linkStep l st f s = .next s :=
  congrArg Host.Outcome.next (if_neg h)

theorem notActive_rests {l : Fin 16} (h : (s.link l).st ≠ .active) (f : LinkFlit) (q : BitVec 12) (lanes : BitVec 8) :
    Rests s [.linkFlitReceive l f, .linkReplay l q, .linkCrcThreshold l, .linkLaneLoss l lanes, .linkReplayLimit l] := by
  refine rests_cons ?_ (rests_cons ?_ (rests_cons ?_ (rests_cons (linkStep_rests h _) (rests_one ?_))))
  · change execLinkFlitReceive l f s = _
    unfold execLinkFlitReceive
    dsimp only
    rw [if_pos h]
  · change execLinkReplay l q s = _
    unfold execLinkReplay
    dsimp only
    split
    · rw [if_pos h]
    · rfl
  · change execLinkCrcThreshold l s = _
    unfold execLinkCrcThreshold
    rw [linkStep_rests h, ite_self]
  · change execLinkReplayLimit l s = _
    unfold execLinkReplayLimit
    rw [linkStep_rests h, ite_self]

theorem notTraining_rests {l : Fin 16} (h : (s.link l).st ≠ .train) (v : LinkView) : Rests s [.linkTrainComplete l v, .linkTrainTimeout l] :=
  rests_cons (congrArg Host.Outcome.next (if_pos h)) (rests_one (congrArg Host.Outcome.next (if_neg h)))

theorem notHandshaking_rests {l : Fin 16} (h : (s.link l).st ≠ .handshake) (far : Option LinkView) : Rests s [.linkHandshakeComplete l far] :=
  rests_one (linkStep_rests h _)

theorem lnkctl_rests {l : Fin 16} (hb : s.hub.boot = .done) : ((s.link l).st ≠ .active → Rests s [.lnkctlRetrain l]) ∧
    ((s.link l).st ≠ .down → Rests s [.lnkctlBringUp l]) ∧ ((s.link l).st = .down → Rests s [.lnkctlForceDown l]) :=
  ⟨fun h => rests_one (congrArg Host.Outcome.next ((bar_booted hb _).trans (if_neg h))),
    fun h => rests_one (congrArg Host.Outcome.next ((bar_booted hb _).trans (if_neg h))),
    fun h => rests_one (congrArg Host.Outcome.next ((bar_booted hb _).trans (if_pos h)))⟩

/-! #### Of the front end -/

theorem noLaunch_rests {n : Nat} (h : s.launch n = none) : Rests s [.launchComplete n, .preemptTrigger n] :=
  rests_cons (congrArg Host.Outcome.next (by simp only [State.launchComplete, h]))
    (rests_one (congrArg Host.Outcome.next (by simp only [State.preempt, h])))

theorem noHeld_rests {q : Nat} (h : ∀ k ∈ s.hub.heldc, k.q ≠ q) : Rests s [.heldCompletionWrite q] := by
  refine rests_one (congrArg Host.Outcome.next (?_ : s.writeHeld q = s))
  have hnone : (List.range s.hub.heldc.length).find? (fun i => (s.hub.heldc.getD i ⟨q + 1, 0, 0, 0, 0, 0⟩).q == q) = none := by
    rw [List.find?_eq_none]
    intro i hi
    have hlt := List.mem_range.1 hi
    rw [getD_eq_getElem_of_lt _ _ hlt]
    simp [h _ (List.getElem_mem hlt)]
  simp only [State.writeHeld, hnone]

theorem noCoalescing_rests {q : Nat} (h : s.hub.coal.find? (·.q == q) = none) : Rests s [.msixCoalesceExpiry q] :=
  rests_one (congrArg Host.Outcome.next (by simp only [State.coalesced, h]))

theorem noReplay_rests {n : Nat} (h : s.hub.replays.find? (·.id == n) = none) (m : Nat) : Rests s [.nodeStart n m, .graphEdgeComplete n m] :=
  rests_cons (congrArg Host.Outcome.next (by simp only [State.nodeStart, h]))
    (rests_one (congrArg Host.Outcome.next (by simp only [State.edgeComplete, h])))

theorem noDispatch_rests {x : CtxId} (h : s.dispatch (dieOf x.val) = none) (n : Nat) : Rests s [.workerPlace x, .leanRestore x n] := by
  refine rests_cons ?_ (rests_one ?_)
  · change execWorkerPlace x s = _
    simp only [execWorkerPlace, h]
  · change execLeanRestore x n s = _
    unfold execLeanRestore
    rw [h, if_pos (by simp)]

theorem notFrozen_rests {p : PairId} (h : (s.pair p.val).frozen = none) : Rests s [.imageSeal p] :=
  rests_one (congrArg Host.Outcome.next (by simp only [State.imageSeal, h]))

theorem noRestore_rests {p : PairId} (h : (s.pair p.val).frozen = none) (hd : s.dispatch (p.val / 20) = none) (n : Nat) :
    Rests s [.restoreImage p n] := by
  refine rests_one ?_
  change execRestoreImage p n s = _
  unfold execRestoreImage
  rw [h, hd, if_neg (by simp), if_pos (by simp)]

theorem noImage_rests {p : PairId} (h : s.hub.images.find? (fun i => i.2.pair == p.val && !i.2.final) = none) :
    Rests s [.heldResponseAppend p] :=
  rests_one (congrArg Host.Outcome.next (by simp only [State.appendHeld, h]))

theorem booted_rests (h : s.hub.boot ≠ .rom) : Rests s [.boot] := rests_one (congrArg Host.Outcome.next (if_pos h))

end

/-! ### Illegal and privileged forms (R37, R67, R255, R342) -/

/-- Whether each of these instructions takes the illegal-instruction trap. -/
def Illegal (s : State) (is : List Instr) : Prop := ∀ i ∈ is, exec i s = .next (s.slotTrap (TrapInfo.of 1 2))

/-- A slot whose first check that fails is one for the mode or the place. -/
theorem slotDo_illegal {s : State} {m : Slotwise State} (h : m = .error illegal) : slotDo s m = .next (s.slotTrap (TrapInfo.of 1 2)) := by
  rw [h]
  rfl

section
variable {s : State}

/-- The instructions of the supervisor in user mode (R199, R365). -/
theorem user_privileged (hs : s.me.sup = false) (sa : Fin 64) :
    ∀ i ∈ [Instr.rft, .tlbinvEntry sa, .tlbinvAsid sa, .tlbinvAll sa], exec i s = .next (s.slotTrap (TrapInfo.of 2 0)) := by
  simp only [List.forall_mem_cons]
  exact ⟨execRft_user hs, exec_tlbinv_user sa 0 hs, exec_tlbinv_user sa 1 hs, exec_tlbinv_user sa 2 hs,
    fun _ h => absurd h List.not_mem_nil⟩

/-- A write of a register in user mode that user code may not write (R365). -/
theorem sysWrite_user {n : Nat} (hs : s.me.sup = false) (hn : sysWriteUser n = false) (v : Word) :
    sysWrite s n v = .error privilege := by
  simp only [sysWrite, hs, hn, Bool.or_self, need_false, slotwise_error_bind]

theorem sysw_privileged {sa : Fin 64} {v : Word} (hs : s.me.sup = false) (hv : rdS s sa = .ok v) {n : Fin 4096}
    (hn : sysWriteUser n.val = false) : exec (.sysw sa n) s = .next (s.slotTrap (TrapInfo.of 2 0)) := by
  change execSysw sa n s = _
  simp only [execSysw, hv, slotwise_ok_bind, sysWrite_user hs hn]
  rfl

theorem tbaWrite_privileged {sa : Fin 64} {v : Word} (hs : s.me.sup = false) (hv : rdS s sa = .ok v) :
    exec (.tbaWrite sa) s = .next (s.slotTrap (TrapInfo.of 2 0)) := by
  change execTbaWrite sa s = _
  simp only [execTbaWrite, hv, slotwise_ok_bind, sysWrite_user hs (show sysWriteUser 0x111 = false from rfl)]
  rfl

theorem sysw_readOnly {sa : Fin 64} {v : Word} (hs : s.me.sup = true) (hv : rdS s sa = .ok v) {n : Fin 4096}
    (hn : sysReadOnly n.val = true) : exec (.sysw sa n) s = .next (s.slotTrap (TrapInfo.of 1 2)) := by
  change execSysw sa n s = _
  simp only [execSysw, hv, slotwise_ok_bind, sysWrite, hs, hn, Bool.true_or, need_true, Bool.not_true, need_false, slotwise_error_bind]
  rfl

/-- WAITI and the array's instructions in supervisor mode (R116, R385). -/
theorem supervisor_illegal (hs : s.me.sup = true) (om : Fin 16) (pd : Option (Fin 16)) (sa vw : Fin 64) (bk : BitVec 32) (row : Row8)
    (acc : Fin 4) (cop : Cop) (rm : Rm) (bm : Fin 128) : Illegal s [.waiti, .mclaim om pd, .mrel om, .mldSp om sa bk, .mldView om vw row,
      .mma om om acc cop rm bm, .mzero acc, .mstView acc vw row, .mstSp acc sa bk, .mseq om bk] := by
  have hoff := arrayOk_sup hs
  have hfirst : ∀ f : Unit → Slotwise State, (arrayOk s >>= f) = .error illegal := fun f => by rw [hoff, slotwise_error_bind]
  have hnamed : ∀ row us (f : Unit → Slotwise State), (sumNames s row us >>= fun _ => arrayOk s >>= f) = .error illegal := fun row us f => by
    rw [sumNames_unheld (.inl hs), slotwise_ok_bind, hfirst]
  unfold Illegal
  simp only [List.forall_mem_cons]
  refine ⟨slotDo_illegal ?_, slotDo_illegal (hfirst _), slotDo_illegal (hfirst _), slotDo_illegal (hfirst _), slotDo_illegal (hnamed _ _ _),
    slotDo_illegal (hfirst _), slotDo_illegal (hfirst _), slotDo_illegal (hnamed _ _ _), slotDo_illegal (hfirst _),
    slotDo_illegal (hfirst _), fun _ h => absurd h List.not_mem_nil⟩
  rw [hs]
  rfl

/-- The SK instructions in supervisor mode, where their predicate holds (R67, R143). -/
theorem summaries_illegal (hs : s.me.sup = true) {md : Option Modifier} (hp : predOn s md = true) (vd va vb sb : Fin 64) (kind : SumKind)
    (row : Row8) : Illegal s [.skinit vd kind sb row md, .skq vd va row md, .skh vd va row md, .skd vd va row md, .skmerge vd va vb row md,
      .skqry vd va sb row md, .skest vd va row md, .sktop vd va row md] := by
  intro i hi
  obtain ⟨reads, f, hi⟩ := summary_of_mem hi s
  rw [hi]
  exact summary_sup reads f hs hp

/-- HALT in a communication context (R342). -/
theorem halt_illegal (h : s.isComm s.cur = true) : exec .halt s = .next (s.slotTrap (TrapInfo.of 1 2)) := by
  refine slotDo_illegal ?_
  rw [h]
  rfl

/-- MBTAKE, CHSEND and CHRECV outside one (R242, R244). -/
theorem worker_illegal (h : s.isComm s.cur = false) (sd : Fin 64) (pd : Option (Fin 16)) (ch : Fin 256) (nt : Notif) :
    Illegal s [.mbtake sd pd, .chsend ch nt, .chrecv ch nt] := by
  unfold Illegal
  simp only [List.forall_mem_cons]
  refine ⟨slotDo_illegal ?_, slotDo_illegal ?_, slotDo_illegal ?_, fun _ h => absurd h List.not_mem_nil⟩
  all_goals
    rw [h]
    rfl

/-- The barrier instructions of a context that is no worker (R183). -/
theorem outsider_illegal (h : s.workerOf s.cur = none) (g : Fin 256) : Illegal s [.bara g, .barw g] :=
  barrier_illegal (by simp only [myGroup, h])

end

/-- Settles O49: by the arms of exec, and one lemma for each mode and for each cause that is not there. -/
theorem everyStepGoesOn : Obligations.EveryStepGoesOn := by
  unfold Obligations.EveryStepGoesOn
  refine ⟨exec_next, step_next, fun s sa sb sd vd va vb vw n v pd om acc cop rm bm bk row md kind ch nt => ?_,
    fun s n m c d x p om g e f q lanes v far => ?_⟩
  · exact ⟨fun hs => ⟨user_privileged hs sa, fun hn => execSysr_user hs hn sd, fun hv => ⟨tbaWrite_privileged hs hv, sysw_privileged hs hv⟩⟩,
      fun hs hv hn => sysw_readOnly hs hv hn, fun hs => supervisor_illegal hs om pd sa vw bk row acc cop rm bm,
      fun hs hp => summaries_illegal hs hp vd va vb sb kind row, execRfui_outside, halt_illegal,
      fun h => worker_illegal h sd pd ch nt, fun h => outsider_illegal h ch⟩
  · exact ⟨noBundle_rests, noImprecise_rests, noInterrupt_rests, fun h => rests_one (congrArg _ (endCycle_frozen h)),
      fun h => rests_one (linWatchdog_off h), noBeat_rests, noDrain_rests, noFill_rests, noSum_rests, noAccess_rests,
      fun h => frozen_rests h n, noCmd_rests, fun h => frozenCore_rests h e, noMessage_rests, noWindowMessage_rests, noPacket_rests,
      noRoute_rests, fun h => notActive_rests h f q lanes, fun h => notTraining_rests h v, fun h => notHandshaking_rests h far,
      lnkctl_rests, noRetention_rests, noWake_rests, noMulticast_rests, noWalk_rests, noLaunch_rests, noHeld_rests, noCoalescing_rests,
      fun h => noReplay_rests h m, fun h => noDispatch_rests h n, notFrozen_rests, fun h hd => noRestore_rests h hd n, noImage_rests,
      notRetiring_rests, notSaving_rests, noGrace_rests, booted_rests⟩

end Sys2Proof.Machine
end

section
/-! PROOF. What stands still while a slot commits: the registers and rows that results land in, and the canonical form of device
memory (R23, R41; log entry 1). The operations on the state, the traps, the caches. -/

namespace Sys2Proof.Machine

/-! ### The relation -/

/-- The registers of a context that results land in. -/
@[simp] def Ctx.regFile (c : Ctx) : Vector Word 64 × Vector Word 8 × Vector Word 16 × Vector Bool 16 × Vector Word 64 :=
  (c.s, c.sui, c.ssup, c.p, c.vw)

/-- The second state has the acting context, the registers and the rows of the first, and its memory is canonical if the first's is. -/
structure Quiet (s t : State) : Prop where
  cur : t.cur = s.cur
  regs : ∀ x, (t.ctx x).regFile = (s.ctx x).regFile
  rows : ∀ k, (t.core k).rows = (s.core k).rows
  wf : Memory.wf s.mem = true → Memory.wf t.mem = true

namespace Quiet

@[simp] theorem refl (s : State) : Quiet s s := ⟨rfl, fun _ => rfl, fun _ => rfl, id⟩

section
variable {s t u : State}

theorem trans (h : Quiet s t) (k : Quiet t u) : Quiet s u :=
  ⟨k.cur.trans h.cur, fun x => (k.regs x).trans (h.regs x), fun c => (k.rows c).trans (h.rows c), k.wf ∘ h.wf⟩

@[simp] theorem foldl {α : Type} {f : State → α → State} {xs : List α} (h : Quiet s t) (hf : ∀ u a, Quiet s u → Quiet s (f u a)) :
    Quiet s (xs.foldl f t) :=
  foldl_keeps (P := Quiet s) hf xs t h

@[simp] theorem ite {p : Prop} [Decidable p] (h : Quiet s t) (k : Quiet s u) : Quiet s (if p then t else u) := by
  split
  · exact h
  · exact k

/-! ### The operations on the state -/

/-- A change outside contexts, cores and memory. -/
theorem same (h : Quiet s t) (hcur : u.cur = t.cur) (hctxs : u.ctxs = t.ctxs) (hcores : u.cores = t.cores) (hmem : u.mem = t.mem) :
    Quiet s u :=
  h.trans ⟨hcur, fun x => by simp only [State.ctx, hctxs], fun k => by simp only [State.core, hcores], fun h => by rw [hmem]; exact h⟩

variable (h : Quiet s t)
include h

@[simp] theorem setCtx {x : Nat} {c : Ctx} (hc : c.regFile = (t.ctx x).regFile) : Quiet s (t.setCtx x c) := by
  refine h.trans ⟨rfl, fun y => ?_, fun _ => rfl, id⟩
  rw [State.setCtx_ctx]
  split
  next he => rw [hc, he]
  next => rfl

@[simp] theorem setMe {c : Ctx} (hc : c.regFile = t.me.regFile) : Quiet s (t.setMe c) := h.setCtx hc

@[simp] theorem setCore {n : Nat} {k : CoreSt} (hk : k.rows = (t.core n).rows) : Quiet s (t.setCore n k) := by
  refine h.trans ⟨rfl, fun _ => rfl, fun m => ?_, id⟩
  rw [State.setCore_core]
  split
  next he => rw [hk, he]
  next => rfl

@[simp] theorem setPair {n : Nat} {p : PairSt} : Quiet s (t.setPair n p) := h.same rfl rfl rfl rfl

@[simp] theorem setCluster {n : Nat} {c : ClusterSt} : Quiet s (t.setCluster n c) := h.same rfl rfl rfl rfl

@[simp] theorem setDie {n : Nat} {d : DieSt} : Quiet s (t.setDie n d) := h.same rfl rfl rfl rfl

@[simp] theorem setHub {v : Hub} : Quiet s { t with hub := v } := h.same rfl rfl rfl rfl

@[simp] theorem logged {e : LogEntry} : Quiet s (t.logged e) := h.same rfl rfl rfl rfl

@[simp] theorem useFree {n : Nat} : Quiet s (t.useFree n) := h.same rfl rfl rfl rfl

@[simp] theorem memWrite {cs : List Host.Cell} : Quiet s (t.memWrite cs) :=
  h.trans ⟨rfl, fun _ => rfl, fun _ => rfl, memWrite_wf cs⟩

/-- Caches' operations leave contexts, and of cores all but their L1. -/
theorem cachesOnly (k : CachesOnly t u) (hwf : Memory.wf t.mem = true → Memory.wf u.mem = true) : Quiet s u :=
  h.trans ⟨k.cur, fun x => by simp only [State.ctx, k.ctxs], fun c => by obtain ⟨l, hl⟩ := k.core c; rw [hl], hwf⟩

@[simp] theorem latch {w : Write} {n : Nat} {fl : Flags} : Quiet s (t.latch w n fl) := h.setMe (by rfl)

@[simp] theorem putP {p : Fin 16} {v : Bool} {n : Nat} {fl : Flags} : Quiet s (putP t p v n fl) := h.latch

omit h in
theorem touch_rows (now : Nat) (rs : List Nat) (k : CoreSt) : (rs.foldl (fun c r => c.touch now r) k).rows = k.rows := by
  induction rs generalizing k with
  | nil => rfl
  | cons r rs ih => exact ih (k.touch now r)

@[simp] theorem touched {rs : List Nat} : Quiet s (t.touched rs) := h.setCore (touch_rows _ rs _)

@[simp] theorem faulted {cls cause : Nat} {eng : Eng} {ba : Nat} : Quiet s (t.faulted cls cause eng ba) := h.setMe (by rfl)

@[simp] theorem popT {ty : Ty} {rs : List (Fin 64)} : Quiet s (popT t ty rs) := by
  unfold Machine.popT
  exact .ite h (.setMe h (by rfl))

@[simp] theorem heldBy {c : Stall} : Quiet s (t.heldBy c) := h.setMe (by rfl)

@[simp] theorem askTokens {d n : Nat} {who : TokWho} {key : Nat} : Quiet s (t.askTokens d n who key) := by
  unfold State.askTokens
  exact .ite h (.setDie h)

@[simp] theorem applyNeed {n : Need} : Quiet s (t.applyNeed n) := by
  cases n with
  | walk d root asid va core => exact .setDie h
  | token x => exact .askTokens h
  | wake core g => exact .ite h (.askTokens (.setCore h (by rfl)))

@[simp] theorem useDieTlb {d : Nat} {used : TlbEntry → Bool} : Quiet s (t.useDieTlb d used) := by
  unfold State.useDieTlb
  exact .ite (.setDie h) h

@[simp] theorem useTlb {x : Nat} {used : TlbEntry → Bool} : Quiet s (t.useTlb x used) := by
  unfold State.useTlb
  exact .ite (.setCore h (by rfl)) (.ite (.setCluster h) (.useDieTlb h))

@[simp] theorem placesUsed {x : Nat} {ls : List Loc} : Quiet s (t.placesUsed x ls) := .useTlb h

/-! ### Traces, fatal errors, traps -/

@[simp] theorem trace {x typ ba body : Nat} : Quiet s (t.trace x typ ba body) := by
  unfold State.trace
  exact .ite h (.ite (.setDie h) (.setDie (.setCtx (.memWrite h) (by rfl))))

@[simp] theorem traceOpen {x typ ba : Nat} : Quiet s (t.traceOpen x typ ba) := .useFree (.trace h)

@[simp] theorem dropToken {x : Nat} : Quiet s (t.dropToken x) := by
  unfold State.dropToken
  exact .ite (.setDie h) h

@[simp] theorem failLaunch {l : Nat} : Quiet s (t.failLaunch l) := .setHub h

@[simp] theorem fatalCtx {x : Nat} : Quiet s (t.fatalCtx x) := by
  unfold State.fatalCtx
  dsimp only
  split
  · exact .failLaunch (.logged (.setCtx (.setCore (.dropToken h) (by rfl)) (by rfl)))
  · exact .logged (.setCtx (.setCore (.dropToken h) (by rfl)) (by rfl))

@[simp] theorem takeTrap {x : Nat} {i : TrapInfo} {prec : Bool} {qix eng tba tcba rep resume : Nat} :
    Quiet s (t.takeTrap x i prec qix eng tba tcba rep resume) := by
  have hdrop : Quiet s (t.dropToken x) := .dropToken h
  unfold State.takeTrap
  dsimp only
  split
  · exact .fatalCtx (.logged hdrop)
  · split
    · exact .fatalCtx hdrop
    · split
      · refine .fatalCtx ?_
        cases State.virtPoison _ _ _ with
        | none => exact hdrop
        | some pa => exact .logged hdrop
      · exact .setCtx (.trace hdrop) (by rfl)

@[simp] theorem slotTrap {i : TrapInfo} : Quiet s (t.slotTrap i) := by
  unfold State.slotTrap
  dsimp only
  split
  · exact .takeTrap (.setMe h (by rfl))
  · exact .takeTrap (.setMe h (by rfl))

/-! ### Loops and endings -/

omit h in
theorem setStack_regFile (c : Ctx) (l : Loops) : (c.setStack l).regFile = c.regFile := by
  unfold Ctx.setStack
  split
  · rfl
  · rfl

theorem popLoop {x ba : Nat} : Quiet s (t.popLoop x ba) := .setCtx (.trace h) (setStack_regFile _ _)

omit h in
theorem popFor {x ba a n : Nat} (h : Quiet s t) : Quiet s (t.popFor x ba a n) := by
  induction n generalizing t with
  | zero => exact h
  | succ n ih => exact .ite h (ih (.popLoop h))

omit h in
theorem popAll {x ba n : Nat} (h : Quiet s t) : Quiet s (t.popAll x ba n) := by
  induction n generalizing t with
  | zero => exact h
  | succ n ih => exact .ite h (ih (.popLoop h))

theorem leaveHandler {x ba : Nat} : Quiet s (t.leaveHandler x ba) := .setCtx (.popAll h) (setStack_regFile _ _)

theorem leaveTrap {x ba : Nat} : Quiet s (t.leaveTrap x ba) :=
  .popFor (.setCtx h (by rfl) : Quiet s (t.returnFromTrap x))

@[simp] theorem finish {x ba : Nat} {e : Ending} : Quiet s (t.finish x ba e) := by
  cases e with
  | plain => exact h
  | halt => exact .setCtx h (by rfl)
  | rft => exact .leaveTrap h
  | rfui => exact .leaveHandler h

@[simp] theorem transfer {a : Nat} : Quiet s (t.transfer a) := by
  unfold State.transfer
  dsimp only
  split
  · exact .setMe h (by rfl)
  · exact .setMe h (by rfl)

@[simp] theorem ends {e : Ending} : Quiet s (t.ends e) := by
  unfold State.ends
  dsimp only
  split
  · exact .setMe h (by rfl)
  · exact .finish h

@[simp] theorem trapAfter {i : TrapInfo} : Quiet s (t.trapAfter i) := by
  unfold State.trapAfter
  dsimp only
  split
  · exact .setMe h (by rfl)
  · exact .takeTrap h

/-! ### Caches -/

@[simp] theorem writeBack {l : Line} {n : Nat} : Quiet s (t.writeBack l n) :=
  h.cachesOnly (cachesOnly_writeBack t l n) (writeBack_wf l n)

@[simp] theorem evictAbuf {d n : Nat} : Quiet s (t.evictAbuf d n) := h.cachesOnly (cachesOnly_evictAbuf t d n) (evictAbuf_wf d n)

@[simp] theorem cleanLine {cl n : Nat} : Quiet s (t.cleanLine cl n) :=
  h.cachesOnly (cachesOnly_cleanLine t cl n) (cleanLine_wf cl n)

@[simp] theorem discardLine {cl n : Nat} : Quiet s (t.discardLine cl n) :=
  h.cachesOnly (cachesOnly_discardLine t cl n) (discardLine_wf cl n)

@[simp] theorem releaseCaches {x : Nat} {sc : Scope} : Quiet s (t.releaseCaches x sc) :=
  h.cachesOnly (cachesOnly_releaseCaches t x sc) (releaseCaches_wf x sc)

@[simp] theorem acquireCaches {x : Nat} {sc : Scope} : Quiet s (t.acquireCaches x sc) :=
  h.cachesOnly (cachesOnly_acquireCaches t x sc) (acquireCaches_wf x sc)

@[simp] theorem clusterRoom {cl : Nat} : Quiet s (t.clusterRoom cl) := by
  unfold State.clusterRoom
  split
  · exact .discardLine (.useFree h)
  · exact h

@[simp] theorem abufRoom {d : Nat} : Quiet s (t.abufRoom d) := by
  unfold State.abufRoom
  split
  · exact .evictAbuf (.useFree h)
  · exact h

@[simp] theorem enter {x : Nat} {p : Place} {n : Nat} : Quiet s (t.enter x p n) := by
  unfold State.enter
  cases p with
  | cluster =>
    dsimp only
    split
    · exact h
    · exact .setCluster (.clusterRoom (.evictAbuf h))
  | die =>
    dsimp only
    split
    · exact .discardLine h
    · exact .setDie (.abufRoom (.discardLine h))
  | memory => exact .evictAbuf (.discardLine h)

@[simp] theorem pokeAt {x : Nat} {p : Place} {pa : Nat} {b : Byte} : Quiet s (t.pokeAt x p pa b) := by
  unfold State.pokeAt
  cases p with
  | cluster =>
    dsimp only
    split
    · exact .setCluster h
    · exact .memWrite h
  | die =>
    dsimp only
    split
    · exact .setDie h
    · exact .memWrite h
  | memory => exact .memWrite h

end

end Quiet

end Sys2Proof.Machine
end

section
/-! PROOF. What stands still while a slot commits: packets, the copies of windows and their directories. -/

namespace Sys2Proof.Machine

namespace Quiet

section
variable {s t : State} (h : Quiet s t)
include h

@[simp] theorem drainAbuf {d : Nat} : Quiet s (t.drainAbuf d) := .foldl h fun _ _ h => .evictAbuf h

@[simp] theorem passAbuf {d n : Nat} {l : Line} : Quiet s (t.passAbuf d n l) := by
  unfold State.passAbuf
  dsimp only
  split <;> simp [h]

@[simp] theorem cleanAll {cl : Nat} : Quiet s (t.cleanAll cl) := .foldl h fun _ _ h => .cleanLine h

@[simp] theorem intoHub {p : Packet} : Quiet s (t.intoHub p) := .setHub h

@[simp] theorem outOfHub {p : Packet} : Quiet s (t.outOfHub p) := .setHub h

@[simp] theorem injectResponse {p : Packet} : Quiet s (t.injectResponse p) := .ite (.intoHub h) (.outOfHub h)

@[simp] theorem respond {h' : Hdr} {t' : PType} {ext : Nat} {pay : List (BitVec 512)} : Quiet s (t.respond h' t' ext pay) :=
  .injectResponse h

@[simp] theorem failed {h' : Hdr} : Quiet s (t.failed h') := .respond h

@[simp] theorem undelivered {p : Packet} : Quiet s (t.undelivered p) := .ite (.failed h) h

@[simp] theorem inject {p : Packet} : Quiet s (t.inject p) :=
  .ite (.ite (.intoHub h) (.ite (.outOfHub h) (.ite (.intoHub h) (.undelivered h)))) (.outOfHub h)

@[simp] theorem request {x dpkg dloc : Nat} {t' : PType} {ta ext : Nat} {pay : List (BitVec 512)} {who : ReqWho} {ba : Nat} :
    Quiet s (t.request x dpkg dloc t' ta ext pay who ba).1 := by
  unfold State.request
  split <;> simp [h]

@[simp] theorem takePacket {n : Nat} : Quiet s (t.takePacket n) := .setHub h

@[simp] theorem setCopy {c : WCopy} : Quiet s (t.setCopy c) := .setCore h (by rfl)

@[simp] theorem wsend {m : WMsg} : Quiet s (t.wsend m) := .setHub h

@[simp] theorem evictCopy {c : WCopy} : Quiet s (t.evictCopy c) := by
  unfold State.evictCopy
  split <;> simp [h]

@[simp] theorem askCopy {x : Nat} {wn : Fin 16} {va : Nat} {o : WObj} {own : Bool} {ba : Nat} :
    Quiet s (t.askCopy x wn va o own ba) := by
  unfold State.askCopy
  dsimp only
  repeat' split
  all_goals simp [h]

@[simp] theorem setDir {l : Option Nat} {es : List DirEntry} : Quiet s (t.setDir l es) := by
  unfold State.setDir
  split <;> simp [h]

@[simp] theorem setEntry {l : Option Nat} {e : DirEntry} : Quiet s (t.setEntry l e) := .setDir h

@[simp] theorem exportFault {x ba ta : Nat} : Quiet s (t.exportFault x ba ta) := .fatalCtx (.logged h)

@[simp] theorem unask {o : WObj} {x : Nat} : Quiet s (t.unask o x) := by
  unfold State.unask
  split <;> simp [h]

@[simp] theorem homeRefuses {o : WObj} {x : Nat} : Quiet s (t.homeRefuses o x) := .exportFault (.unask h)

@[simp] theorem enterObj {x : Nat} {as : List Nat} : Quiet s (t.enterObj x as) := .foldl h fun _ _ h => .enter h

@[simp] theorem homeWrite {x : Nat} {o : WObj} {bs : List Byte} : Quiet s (t.homeWrite x o bs) := by
  unfold State.homeWrite
  dsimp only
  repeat' split
  all_goals simp +contextual [h]

@[simp] theorem homeFetch {x : Nat} {o : WObj} {own : Bool} {got : Nat} : Quiet s (t.homeFetch x o own got) := .request h

@[simp] theorem homePoisoned {o : WObj} {x pa : Nat} : Quiet s (t.homePoisoned o x pa) := .fatalCtx (.logged (.unask h))

@[simp] theorem supply {o : WObj} {x : Nat} {bs : List Byte} {acks : Nat} {excl : Bool} : Quiet s (t.supply o x bs acks excl) :=
  .wsend h

@[simp] theorem tellAcks {o : WObj} {x acks : Nat} : Quiet s (t.tellAcks o x acks) := .wsend h

@[simp] theorem fromMemory {u : State} {o : WObj} {x acks : Nat} {excl : Bool} (k : Quiet s u) :
    Quiet s (t.fromMemory u o x acks excl) := by
  unfold State.fromMemory
  repeat' split
  all_goals simp [h, k]

@[simp] theorem joinDie {o : WObj} {x : Nat} {excl : Bool} : Quiet s (t.joinDie o x excl) := by
  unfold State.joinDie
  simp [h]

@[simp] theorem homeRead {o : WObj} {x : Nat} : Quiet s (t.homeRead o x) := by
  unfold State.homeRead
  dsimp only
  split
  · exact .wsend (.joinDie (.setEntry h))
  · exact .ite (.fromMemory h (.joinDie (.setEntry h))) (.homeFetch (.joinDie (.setEntry h)))

@[simp] theorem claimDie {o : WObj} {x : Nat} : Quiet s (t.claimDie o x).1 :=
  .foldl (.foldl (.setEntry h) fun _ _ h => .wsend h) fun _ _ h => .wsend h

@[simp] theorem answerClaim {u : State} {o : WObj} {x acks : Nat} {has : Bool} (k : Quiet s u) :
    Quiet s (t.answerClaim u o x acks has) :=
  .ite (.tellAcks k) (.ite (.fromMemory h k) (.homeFetch (.tellAcks k)))

@[simp] theorem dieOwn {o : WObj} {x : Nat} : Quiet s (t.dieOwn o x) := .answerClaim h (.claimDie h)

@[simp] theorem packageOwn {o : WObj} {x : Nat} : Quiet s (t.packageOwn o x) :=
  .answerClaim h (.foldl (.setEntry (.claimDie h)) fun _ _ h => .wsend h)

@[simp] theorem passUp {o : WObj} {x : Nat} {own : Bool} : Quiet s (t.passUp o x own) := .wsend (.setEntry h)

@[simp] theorem serve {l : Option Nat} {o : WObj} {x : Nat} {own : Bool} : Quiet s (t.serve l o x own) := by
  unfold State.serve
  dsimp only
  repeat' split
  all_goals simp [h]

@[simp] theorem homeArrive {l : Option Nat} {o : WObj} {x : Nat} {own : Bool} : Quiet s (t.homeArrive l o x own) :=
  .ite (.setEntry h) (.serve h)

omit h in
@[simp] theorem homeNext {l : Option Nat} {o : WObj} {n : Nat} (h : Quiet s t) : Quiet s (t.homeNext l o n) := by
  induction n generalizing t with
  | zero => exact h
  | succ n ih =>
    unfold State.homeNext
    dsimp only
    refine .ite h ?_
    split
    · exact h
    · exact ih (.serve (.setEntry h))

@[simp] theorem homeFree {l : Option Nat} {o : WObj} : Quiet s (t.homeFree l o) := .homeNext (.setEntry h)

@[simp] theorem notBusy {l : WLevel} {o : WObj} {x : Nat} : Quiet s (t.notBusy l o x) := by
  unfold State.notBusy
  dsimp only
  repeat' split
  all_goals simp [h]

@[simp] theorem homeBytes {o : WObj} {x : Nat} {own : Bool} {bs : List Byte} : Quiet s (t.homeBytes o x own bs) :=
  .ite (.homeFetch (.setEntry h)) (.ite (.wsend (.setEntry h)) (.homeFree (.supply h)))

@[simp] theorem disown {o : WObj} {d : Nat} : Quiet s (t.disown o d) := .ite (.setEntry h) h

@[simp] theorem collected {o : WObj} {d : Nat} : Quiet s (t.collected o d) := by
  unfold State.collected
  dsimp only
  split
  · split
    · exact .wsend (.setEntry h)
    · refine .ite (.wsend (.setEntry h)) (.ite (.homeFetch (.wsend (.setEntry h))) ?_)
      exact .ite (.notBusy (.fromMemory (.setEntry h) (.wsend (.setEntry h)))) (.fromMemory (.setEntry h) (.wsend (.setEntry h)))
  · exact h

@[simp] theorem collect {o : WObj} {d : Nat} : Quiet s (t.collect o d) := by
  unfold State.collect
  dsimp only
  split <;> simp [h]

@[simp] theorem leaveDir {o : WObj} {x : Nat} : Quiet s (t.leaveDir o x) := by
  have hleft : ∀ e, Quiet s (t.setEntry (some (dieOf x)) e) := fun _ => .setEntry h
  unfold State.leaveDir
  dsimp only
  exact .ite (.setEntry (.ite (.disown (hleft _)) (hleft _))) (.ite (.disown (hleft _)) (hleft _))

@[simp] theorem enterM {c : WCopy} : Quiet s (t.enterM c) := .wsend (.setCopy h)

@[simp] theorem settleCopy {c : WCopy} {excl : Bool} : Quiet s (t.settleCopy c excl) := by
  unfold State.settleCopy
  split <;> simp [h]

@[simp] theorem takeAck {m : WMsg} : Quiet s (t.takeAck m) := by
  unfold State.takeAck
  split <;> simp [h]

@[simp] theorem wtake {n : Nat} : Quiet s (t.wtake n) := .setHub h

@[simp] theorem recallCopies {o : WObj} {xs : List Nat} : Quiet s (t.recallCopies o xs) :=
  .foldl h fun u x h => .leaveDir (by
    split
    · exact h
    · exact .setCopy (.ite (.homeWrite h) h))

end

end Quiet

end Sys2Proof.Machine
end

section
/-! PROOF. What stands still while a slot commits: accesses and where they are performed. -/

namespace Sys2Proof.Machine

namespace Quiet

section
variable {s t : State} (h : Quiet s t)
include h

@[simp] theorem mcastStore {x : Nat} {wn : Fin 16} {cells : List (Nat × Byte)} {taps : List (Fmt × Fmt × Rm × TapBlock)} :
    Quiet s (t.mcastStore x wn cells taps) := .setDie h

@[simp] theorem storeLocal {cells : List (Loc × Byte)} {fl : Flags} : Quiet s (t.storeLocal cells fl) :=
  .foldl (.ite h (.latch h)) fun _ _ h => .ite h (.mcastStore h)

@[simp] theorem sendAtomic {op : AtomOp} {f : Fmt} {a : Attr} {ta : Nat} {b : Word} : Quiet s (t.sendAtomic op f a ta b).1 :=
  .request h

@[simp] theorem memError {x : Nat} {ba : Nat} : Quiet s (t.memError x ba) := .setCtx h (by rfl)

@[simp] theorem zeroLine {sc : Option Scope} {n : Nat} : Quiet s (zeroLine sc t n) := by
  unfold Machine.zeroLine
  refine .ite h ?_
  dsimp only
  split
  · exact .ite (.setCluster (.ite (.evictAbuf h) (.clusterRoom (.evictAbuf h))))
      (.writeBack (.setCluster (.ite (.evictAbuf h) (.clusterRoom (.evictAbuf h)))))
  · exact .setCluster (.ite (.evictAbuf h) (.clusterRoom (.evictAbuf h)))

@[simp] theorem getByte {x : Nat} {p : Place} {l : Loc} : Quiet s (t.getByte x p l).1 := by
  unfold State.getByte
  dsimp only
  repeat' split
  all_goals simp [h]

@[simp] theorem putByte {x : Nat} {p : Place} {l : Loc} {b : Byte} : Quiet s (t.putByte x p l b) := by
  unfold State.putByte
  dsimp only
  repeat' split
  all_goals simp [h]

omit h in
@[simp] theorem getBytes {x : Nat} {p : Place} {ls : List Loc} (h : Quiet s t) : Quiet s (t.getBytes x p ls).1 := by
  induction ls generalizing t with
  | nil => exact h
  | cons l ls ih => exact ih (.getByte h)

@[simp] theorem putBytes {x : Nat} {p : Place} {cs : List (Loc × Byte)} : Quiet s (t.putBytes x p cs) :=
  .foldl h fun _ _ h => .putByte h

@[simp] theorem blockFlags {x : Nat} {b : TapBlock} {fl : Flags} : Quiet s (t.blockFlags x b fl) := .ite h (.setCtx h (by rfl))

@[simp] theorem rewrite {x : Nat} {pl : Place} {p v : Fmt} {rm : Rm} {b : TapBlock} : Quiet s (t.rewrite x pl p v rm b) :=
  .blockFlags (.putBytes (.getBytes h))

@[simp] theorem setOp {x n : Nat} {m : MemOp} : Quiet s (t.setOp x n m) := .setCtx h (by rfl)

@[simp] theorem spendCopies {x : Nat} {os : List (Fin 16 × Nat × WObj)} : Quiet s (t.spendCopies x os) :=
  .foldl h fun _ _ h => by split <;> simp [h]

omit h in
theorem fillL1_rows (k : CoreSt) (ns : List Nat) : (k.fillL1 ns).rows = k.rows := by
  simp only [CoreSt.fillL1]

@[simp] theorem performHere {x n : Nat} {m : MemOp} {got : List Byte} {run : List Loc} : Quiet s (t.performHere x n m got run) := by
  unfold State.performHere
  dsimp only
  split
  · exact .spendCopies (.setOp (.ite (.setCore (.getBytes h) (fillL1_rows _ _)) (.getBytes h)))
  · exact .setOp (.putBytes h)
  · exact .setOp (.putBytes (.getBytes h))
  · exact h
  · exact h

@[simp] theorem dropOp {x n : Nat} : Quiet s (t.dropOp x n) := .setCtx h (by rfl)

@[simp] theorem sendNext {x n : Nat} {m : MemOp} {got : List Byte} {rest : List Loc} : Quiet s (t.sendNext x n m got rest) := by
  unfold State.sendNext
  dsimp only
  repeat' split
  all_goals simp [h]

@[simp] theorem askFor {x n : Nat} {m : MemOp} {own : Bool} {o : Fin 16 × Nat × WObj} : Quiet s (t.askFor x n m own o) := by
  refine .ite (.exportFault (.dropOp h)) ?_
  split
  · exact .fatalCtx (.logged (.dropOp h))
  · exact .askCopy h

@[simp] theorem advance {x n : Nat} {m : MemOp} {got : List Byte} {rest : List Loc} {own : Bool} {perform : List Loc → State}
    (k : ∀ run, Quiet s (perform run)) : Quiet s (t.advance x n m got rest own perform) := by
  unfold State.advance
  refine .ite (.sendNext h) ?_
  split
  · exact .askFor h
  · exact k _

@[simp] theorem splitBlock {x n : Nat} {m : MemOp} {p v : Fmt} {rm : Rm} {b : TapBlock} {bs : List TapBlock} {got : List Byte} :
    Quiet s (t.splitBlock x n m p v rm b bs got) := .blockFlags (.setCtx h (by rfl))

omit h in
@[simp] theorem tapNext {x n : Nat} {m : MemOp} {p v : Fmt} {rm : Rm} {got : List Byte} {bs : List TapBlock} (h : Quiet s t) :
    Quiet s (t.tapNext x n m p v rm got bs) := by
  induction bs generalizing t m got with
  | nil => exact .setOp h
  | cons b bs ih =>
    unfold State.tapNext
    dsimp only
    split
    · split
      · exact .askFor (.setOp h)
      · exact ih (.rewrite h)
    · split
      · exact .setOp (.request h)
      · exact .ite (.splitBlock h) (.advance (.setOp h) fun _ => .spendCopies (.setOp (.getBytes h)))

@[simp] theorem peerAnswer {x n : Nat} {m : MemOp} {got : List Byte} : Quiet s (t.peerAnswer x n m got) := by
  unfold State.peerAnswer
  split <;> simp [h]

@[simp] theorem blockDone {x n : Nat} {m : MemOp} {fl : Flags} : Quiet s (t.blockDone x n m fl) := by
  unfold State.blockDone
  split <;> simp [h]

@[simp] theorem access {x n : Nat} : Quiet s (t.access x n) := by
  unfold State.access
  dsimp only
  split
  · exact h
  · split
    · refine .ite h ?_
      split
      · exact .evictCopy h
      · split
        · exact .fatalCtx (.logged (.dropOp h))
        · refine .ite (.setOp h) ?_
          split
          · exact .tapNext h
          · exact .advance h fun _ => .performHere h
    · exact h

@[simp] theorem sweep {x : Nat} : Quiet s (t.sweep x) := .foldl h fun _ _ h => .access h

@[simp] theorem endStore {x n : Nat} : Quiet s (t.endStore x n) := by
  unfold State.endStore
  split
  · exact h
  · refine .ite h ?_
    split
    · exact .dropOp h
    · exact .memError (.dropOp h)
    · exact h

end

end Quiet

end Sys2Proof.Machine
end

section
/-! PROOF. What stands still while a slot commits: groups, flags, queues, channels. -/

namespace Sys2Proof.Machine

namespace Quiet

section
variable {s t u : State} (h : Quiet s t)
include h

@[simp] theorem setLaunch {n : Launch} : Quiet s (t.setLaunch n) := .setHub h

@[simp] theorem setGroup {l : Launch} {g v : Nat} : Quiet s (t.setGroup l g v) := by
  unfold State.setGroup
  split <;> simp [h]

@[simp] theorem takeMessage {n : Nat} : Quiet s (t.takeMessage n) := .setHub h

@[simp] theorem send {m : Msg} : Quiet s (t.send m) := .setHub h

@[simp] theorem signalMembers {l : Launch} {g : Fin 256} {v : Nat} {phase : BitVec 16} : Quiet s (t.signalMembers l g v phase) :=
  .setHub (.foldl h fun _ _ h => by split <;> simp [h])

@[simp] theorem goesAway {pkg : Nat} {l : Launch} {g : Fin 256} {m : GroupMsg} : Quiet s (t.goesAway pkg l g m) := .setHub h

omit h in
@[simp] theorem settleGroup {l : Launch} {g : Fin 256} {n : Nat} (h : Quiet s t) : Quiet s (t.settleGroup l g n) := by
  induction n generalizing t with
  | zero => exact h
  | succ n ih => exact .ite (ih (.ite (.goesAway (.signalMembers (.setGroup h))) (.signalMembers (.setGroup h)))) h

theorem addPend {l : Launch} {g : Fin 256} {n x : Nat} {e : Bool} {q : Nat} (he : t.addPend l g n x e q = some u) : Quiet s u := by
  unfold State.addPend at he
  dsimp only at he
  split at he
  · exact Option.some.inj he ▸ .goesAway h
  · split at he
    · exact nomatch he
    · exact Option.some.inj he ▸ .setGroup h

theorem subPend {l : Launch} {g : Fin 256} {n x : Nat} {e : Bool} {q : Nat} (he : t.subPend l g n x e q = some u) : Quiet s u := by
  unfold State.subPend at he
  dsimp only at he
  split at he
  · exact Option.some.inj he ▸ .goesAway h
  · split at he
    · exact nomatch he
    · exact Option.some.inj he ▸ .settleGroup (.setGroup h)

omit h in
theorem queue_rows (k : CoreSt) (e : Bool) (q : List Cmd) :
    (if e then { k with c1 := q } else { k with c0 := q } : CoreSt).rows = k.rows := by
  split <;> rfl

@[simp] theorem setQueue {core : Nat} {e : Bool} {q : List Cmd} : Quiet s (t.setQueue core e q) := .setCore h (queue_rows _ e q)

@[simp] theorem setHead {core : Nat} {e : Bool} {c : Cmd} : Quiet s (t.setHead core e c) := .setQueue h

@[simp] theorem setCmd {core : Nat} {e : Bool} {c : Cmd} : Quiet s (t.setCmd core e c) := .setQueue h

theorem unpend {e : Bool} {c : Cmd} {n : Nat} (he : t.unpend e c n = some u) : Quiet s u := by
  unfold State.unpend at he
  split at he
  · split at he
    · exact Option.some.inj he ▸ h
    · exact .subPend h he
  · exact Option.some.inj he ▸ h

@[simp] theorem cmdFault {core : Nat} {e : Bool} {c : Cmd} {cls : Nat} {f : EFault} : Quiet s (t.cmdFault core e c cls f) := by
  refine .setCtx (x := c.ctx) ?_ (by rfl)
  cases hu : State.unpend _ e c c.pend with
  | none => exact .setCmd h
  | some u => exact .unpend (.setCmd h) hu

@[simp] theorem put {c : Cmd} {l : Loc} {b : Byte} : Quiet s (c.put t l b) := by
  unfold Cmd.put
  split
  · exact .setCore h (by rfl)
  · exact .putByte h

@[simp] theorem enterAll {x : Nat} {ls : List Loc} : Quiet s (t.enterAll x ls) := .foldl h fun _ _ h => by split <;> simp [h]

@[simp] theorem setChan {x : Nat} {l : Loc} {hi lo v : Nat} : Quiet s (t.setChan x l hi lo v) := by
  unfold State.setChan
  split <;> simp [h]

@[simp] theorem copyGot {core : Nat} {e : Bool} {tag : Nat} {bs : List Byte} : Quiet s (t.copyGot core e tag bs) := by
  unfold State.copyGot
  split <;> simp [h]

@[simp] theorem copyAcked {core : Nat} {e : Bool} {tag : Nat} : Quiet s (t.copyAcked core e tag) := by
  unfold State.copyAcked
  split <;> simp [h]

@[simp] theorem copyFailed {core : Nat} {e : Bool} {tag : Nat} : Quiet s (t.copyFailed core e tag) := by
  unfold State.copyFailed
  split <;> simp [h]

theorem holdRequest {q : Nat} {k : Held} (he : t.holdRequest q k = some u) : Quiet s u := by
  obtain ⟨f, -, rfl⟩ := Option.map_eq_some_iff.mp he
  exact .setPair h

theorem holdResponse {q : Nat} {r : Packet} (he : t.holdResponse q r = some u) : Quiet s u := by
  obtain ⟨f, -, rfl⟩ := Option.map_eq_some_iff.mp he
  exact .setPair h

@[simp] theorem bumpFlag {y : Nat} {k : Fin 32} {n : Nat} {sc : Scope} : Quiet s (t.bumpFlag y k n sc) := by
  unfold State.bumpFlag
  split
  case h_1 u hu => exact .holdRequest h hu
  case h_2 => exact .ite (.setCtx h (by rfl)) (.logged h)

@[simp] theorem postFlag {x : Nat} {i : Ident} {k : Fin 32} {n : Nat} {sc : Scope} : Quiet s (t.postFlag x i k n sc) :=
  .ite (.send h) (.request h)

@[simp] theorem enqueue {e : Bool} {c : Cmd} : Quiet s (t.enqueue e c) := by
  unfold State.enqueue
  dsimp only
  split
  · split
    case h_1 u hu => exact .setQueue (.addPend h hu)
    case h_2 => exact .setQueue (.setMe h (by rfl))
  · exact .setQueue h

theorem entryHome {x : Nat} {ls : List Loc} (he : t.entryHome x ls = some u) : Quiet s u := by
  unfold State.entryHome at he
  split at he
  · exact nomatch he
  · exact Option.some.inj he ▸ .foldl h fun _ _ h => .evictCopy h

@[simp] theorem flagArrives {n : Nat} : Quiet s (t.flagArrives n) := by
  unfold State.flagArrives
  dsimp only
  split
  · split
    · exact .ite h (.bumpFlag (.takeMessage h))
    · exact h
  · split
    · exact h
    · exact .ite h (.respond (.bumpFlag (.takePacket h)))

end

end Quiet

end Sys2Proof.Machine
end

section
/-! PROOF. Computations of a slot: which of them wait, and what they commit. -/

namespace Sys2Proof.Machine

/-- Whether a stop keeps what came before it. -/
def Stop.waits : Stop → Bool
  | .wait _ => true
  | _ => false

/-- A computation of a slot that, where it waits, waits in a quiet state. -/
def Reads {α : Type} (s : State) (m : Slotwise α) : Prop := ∀ u, m = .error (.wait u) → Quiet s u

namespace Reads

section
variable {α β : Type} {s : State}

theorem ok {a : α} : Reads s (.ok a) := nofun

theorem stop {e : Stop} (he : e.waits = false) : Reads s (.error e : Slotwise α) := by
  rintro u ⟨⟩
  exact nomatch he

theorem wait {u : State} (h : Quiet s u) : Reads s (.error (.wait u) : Slotwise α) := by
  rintro v ⟨⟩
  exact h

theorem bind {m : Slotwise α} {f : α → Slotwise β} (hm : Reads s m) (hf : ∀ a, Reads s (f a)) : Reads s (m >>= f) := by
  cases m with
  | ok a => exact hf a
  | error e => rintro u ⟨⟩; exact hm u rfl

theorem map {m : Slotwise α} {f : α → β} (hm : Reads s m) : Reads s (m.map f) := by
  cases m with
  | ok a => exact nofun
  | error e => rintro u ⟨⟩; exact hm u rfl

theorem ite {p : Prop} [Decidable p] {m n : Slotwise α} (hm : Reads s m) (hn : Reads s n) : Reads s (if p then m else n) := by
  split
  · exact hm
  · exact hn

theorem need {b : Bool} {e : Stop} (he : e.waits = false) : Reads s (need b e) := .ite ok (.stop he)

theorem needWait {b : Bool} {u : State} (h : Quiet s u) : Reads s (Machine.need b (.wait u)) := .ite ok (.wait h)

theorem forM {xs : List α} {f : α → Slotwise Unit} (hf : ∀ a, Reads s (f a)) : Reads s (xs.forM f) := by
  induction xs with
  | nil => exact ok
  | cons x xs ih => exact .bind (hf x) fun _ => ih

theorem mapM {xs : List α} {f : α → Slotwise β} (hf : ∀ a, Reads s (f a)) : Reads s (xs.mapM f) := by
  induction xs with
  | nil => exact ok
  | cons x xs ih =>
    rw [List.mapM_cons]
    exact .bind (hf x) fun _ => .bind ih fun _ => ok

end

/-! ### Registers, rows, views -/

section
variable {s t : State}

theorem rdS {r : Fin 64} : Reads s (rdS t r) := by
  unfold Machine.rdS
  dsimp only
  split
  · exact .ok
  · exact .ite (.stop rfl) .ok

theorem wrS {r : Fin 64} : Reads s (wrS t r) := .need rfl

theorem rdT {ty : Ty} {r : Fin 64} : Reads s (rdT t ty r) := by
  unfold Machine.rdT
  split
  · exact .rdS
  · split
    · exact .stop rfl
    · exact .ok

theorem wrT {ty : Ty} {r : Fin 64} : Reads s (wrT t ty r) := by
  unfold Machine.wrT
  split
  · exact .wrS
  · exact .need rfl

theorem memAddr {ty : Ty} {m : MemArg} : Reads s (memAddr t ty m) :=
  .bind .rdT fun _ => .ite (.bind .rdT fun _ => .ok) (.bind .ok fun _ => .ok)

theorem row8 {r : Row8} : Reads s (row8 t r) := by
  cases r with
  | imm b => exact .ok
  | reg r => exact .map .rdS

theorem row7 {r : Row7} : Reads s (row7 t r) := by
  cases r with
  | imm b => exact .ok
  | reg r => exact .map .rdS

theorem sumHold {rs : List Nat} : Reads s (sumHold t rs) := by
  unfold Machine.sumHold
  split
  · exact .ok
  · exact .need rfl

theorem viewUnit {vw : Fin 64} {kind ix : Nat} : Reads s (viewUnit t vw kind ix) := by
  refine .bind (.need rfl) fun _ => .bind (.need rfl) fun _ => ?_
  split
  · exact .stop rfl
  · exact .bind .sumHold fun _ => .ok

theorem sumNames {row : Slotwise Nat} {us : List (Fin 64 × Nat × Nat)} : Reads s (sumNames t row us) := by
  unfold Machine.sumNames
  split
  · exact .ok
  · refine .forM fun u => ?_
    split
    · exact .stop rfl
    · exact .ok

theorem rdRow {r : Nat} : Reads s (rdRow t r) := by
  have hread : ∀ row : Row, Reads s (if row.dead = true then do
      Machine.need (!deadmode (rdSys t 0x001)) deadRow
      .ok 0
    else .ok row.bits : Slotwise RowBits) := fun _ => .ite (.bind (.need rfl) fun _ => .ok) .ok
  refine .bind .sumHold fun _ => ?_
  dsimp only
  split
  · exact hread _
  · exact .bind (.need rfl) fun _ => .bind (.need rfl) fun _ => hread _

theorem rdRowEng {r : Nat} : Reads s (rdRowEng t r) := by
  unfold Machine.rdRowEng
  split
  · exact .ok
  · exact .ok
  next e he => rintro u ⟨⟩; exact rdRow u he

theorem rdRowsEng {rs : List Nat} : Reads s (rdRowsEng t rs) := by
  induction rs with
  | nil => exact .ok
  | cons r rs ih => exact .bind .rdRowEng fun _ => .bind ih fun _ => .ok

theorem rdRows {rs : List Nat} : Reads s (rdRows t rs) := by
  induction rs with
  | nil => exact .ok
  | cons r rs ih => exact .bind .rdRow fun _ => .bind ih fun _ => .ok

theorem wrRow {r : Nat} : Reads s (wrRow t r) := .bind (.need rfl) fun _ => .need rfl

theorem vecOperand {vw : Fin 64} {ix : Nat} {d : Fmt} : Reads s (vecOperand t vw ix d) :=
  .bind .viewUnit fun _ => .bind (.need rfl) fun _ => .bind .rdRow fun _ => .ok

theorem scalarOperand {r : Fin 64} {d : Fmt} : Reads s (scalarOperand t r d) := .map .rdS

theorem opB {b : OpB} {ix : Nat} {d : Fmt} : Reads s (b.read t ix d) := by
  cases b with
  | view w => exact .map .vecOperand
  | scalar r => exact .map .scalarOperand
  | none => exact .ok

theorem unitsFrom {vw : Fin 64} {ix n : Nat} : Reads s (unitsFrom t vw ix n) := by
  induction n generalizing ix with
  | zero => exact .ok
  | succ n ih => exact .bind .viewUnit fun _ => .bind ih fun _ => .ok

theorem deadRows {vw : Fin 64} {ix n : Nat} : Reads s (deadRows t vw ix n) := by
  induction n generalizing ix with
  | zero => exact .ok
  | succ n ih => exact .bind .viewUnit fun _ => .bind ih fun _ => .ok

theorem indexUnits {vi : Fin 64} {ix n : Nat} : Reads s (indexUnits t vi ix n) := by
  induction n generalizing ix with
  | zero => exact .ok
  | succ n ih => exact .bind .viewUnit fun _ => .bind (.need rfl) fun _ => .bind ih fun _ => .ok

theorem indexList {vi : Fin 64} {ix n : Nat} : Reads s (indexList t vi ix n) :=
  .bind .indexUnits fun _ => .bind .rdRows fun _ => .ok

/-! ### Summaries -/

theorem asSum {α : Type} {m : Slotwise α} (hm : Reads s m) : Reads s (asSum m) := by
  unfold Machine.asSum
  split
  · exact .stop rfl
  · exact hm

theorem sumUnit {vw : Fin 64} {ix : Nat} : Reads s (sumUnit t vw ix) :=
  .bind (.asSum .viewUnit) fun _ => .bind (.need rfl) fun _ => .ok

theorem sumRow {vw : Fin 64} {ix : Nat} {ok : Fmt → Bool} : Reads s (sumRow t vw ix ok) :=
  .bind (.asSum .viewUnit) fun _ => .bind (.need rfl) fun _ => .ok

theorem namedRows {ms : List (Slotwise (List Nat))} (hms : ∀ m ∈ ms, Reads s m) : Reads s (namedRows ms) := by
  induction ms with
  | nil => exact .ok
  | cons m ms ih =>
    rw [List.forall_mem_cons] at hms
    have hrest : ∀ r : List Nat, Reads s (do
        let rs ← Machine.namedRows ms
        .ok (r ++ rs)) := fun _ => .bind (ih hms.2) fun _ => .ok
    unfold Machine.namedRows
    dsimp only
    split
    · exact hrest _
    · exact .bind hms.1 fun _ => hrest _

theorem takeBanks {m : BitVec 32} : Reads s (takeBanks t m) := .need rfl

theorem patternRow {p : Nat} : Reads s (patternRow t p) := .bind (.need rfl) fun _ => .ok

end

/-! ### Translation -/

section
variable {s t : State} (h : Quiet s t)
include h

theorem walkStop {α : Type} {cause va : Nat} {scale : Bool} : Reads s (.error (walkStop t cause va scale) : Slotwise α) := by
  unfold Machine.walkStop
  split
  · exact .stop rfl
  · split
    · exact .stop rfl
    · exact .wait (.fatalCtx (.logged h))

theorem xlate {acc : Acc} {va : Nat} {scale : Bool} : Reads s (xlate t acc va scale) := by
  unfold Machine.xlate
  dsimp only
  split
  · split
    · exact .stop rfl
    · split
      · exact .stop rfl
      · split <;> exact .ok
  · split
    · exact .walkStop h
    · exact .stop rfl
    · split
      · exact .stop rfl
      · split
        · exact .ok
        · split
          · exact .walkStop h
          · exact .stop rfl
          · exact .ok

theorem xlateN {acc : Acc} {va : Word} {n : Nat} : Reads s (xlateN t acc va n) := by
  induction n generalizing va with
  | zero => exact .ok
  | succ n ih => exact .bind (.xlate h) fun _ => .bind ih fun _ => .ok

theorem xlateScale {acc : Acc} {a : Attr} {va : Nat} : Reads s (xlateScale t acc a va) := by
  unfold Machine.xlateScale
  split
  · exact .ok
  · exact .bind (.xlate h) fun _ => .ok

theorem waitSp {offs : List Nat} : Reads s (waitSp t offs) := .bind (.need rfl) fun _ => .needWait h

omit h in
theorem oneAttr {va : Word} {xs : List Xl} : Reads s (oneAttr va xs) := by
  unfold Machine.oneAttr
  split
  · exact .stop rfl
  · split
    · exact .stop rfl
    · exact .ok

omit h in
theorem scopeOk {c : Ctx} {va : Word} {sc : Option Scope} {x : Xl} : Reads s (scopeOk c va sc x) := by
  unfold Machine.scopeOk
  split
  · split
    · exact .need rfl
    · exact .ok
  · exact .need rfl
  · exact .ok

theorem scalarAccess {acc : Acc} {ty : Ty} {sc : Option Scope} {va : Word} : Reads s (scalarAccess t acc ty sc va) := by
  refine .bind (.need rfl) fun _ => .bind (.xlateN h) fun _ => .bind .oneAttr fun _ => ?_
  split
  · exact .bind .scopeOk fun _ => .ok
  · exact .ok

theorem lineRange {acc : Acc} {va n : Nat} : Reads s (lineRange t acc va n) := by
  induction n generalizing va with
  | zero => exact .ok
  | succ n ih => exact .bind (.xlate h) fun _ => .bind ih fun _ => .ok

theorem vecElems {acc : Acc} {x0 : Xl} {es : Nat} {row : Bool} {lix : Option Nat} {vas : List Word} :
    Reads s (vecElems t acc x0 es row lix vas) := by
  induction vas generalizing lix with
  | nil => exact .ok
  | cons v vas ih =>
    exact .bind (.need rfl) fun _ => .bind (.xlate h) fun _ => .bind (.need rfl) fun _ => .bind (.xlateScale h) fun _ => .bind ih fun _ => .ok

theorem tapBlocks {x0 : Xl} {bl : Nat} {vals : List (Word × Word)} {bs : List Nat} : Reads s (tapBlocks t x0 bl vals bs) := by
  induction bs with
  | nil => exact .ok
  | cons b bs ih => exact .bind (.xlate h) fun _ => .bind (.xlateScale h) fun _ => .bind ih fun _ => .ok

end

/-! ### Copy commands and groups -/

section
variable {s t : State}

theorem checkLocal {c : Cmd} {acc : Acc} {r : Nat × Nat} : Reads s (c.checkLocal t acc r) := by
  refine .forM fun _ => ?_
  split
  · exact .ok
  · exact .stop rfl

theorem groupUsed {nt : Notif} : Reads s (groupUsed t nt) := by
  unfold Machine.groupUsed
  split
  · split
    · exact .need rfl
    · exact .stop rfl
  · exact .ok

theorem sizeNow {c : Cmd} {acc : Acc} {va : Word} : Reads s (c.sizeNow t acc va) := by
  unfold Cmd.sizeNow
  split
  · exact .ok
  · exact .ite (.stop rfl) (.ite (.stop rfl) .ok)

theorem sizedNow {c : Cmd} : Reads s (c.sizedNow t) := by
  refine .ite (.bind .ok ?_) (.ite (.bind (.ite .sizeNow .ok) ?_) (.ite (.bind .sizeNow ?_) (.bind .ok ?_))) <;>
    exact fun _ => .ite (.bind .sizeNow fun _ => .ok) (.bind .ok fun _ => .ok)

theorem resultXls {c : Cmd} {is : List Nat} : Reads s (c.resultXls t is) := by
  induction is with
  | nil => exact .ok
  | cons i is ih =>
    unfold Cmd.resultXls
    dsimp only
    split
    · exact .ite (.stop rfl) (.map ih)
    · exact .map ih

theorem resultDst {c : Cmd} {w : RedWord} : Reads s (c.resultDst t w) := .bind .resultXls fun _ => .ok

theorem copyCmd {k : CmdKind} {qix : Nat} {d a b b2 : Word} {nt : Notif} {rw : Option RedWord} {entry : Loc} :
    Reads s (copyCmd t k qix d a b b2 nt rw entry) := by
  refine .ite .ok ?_
  split
  · exact .bind .resultDst fun _ => .ok
  · exact .sizedNow

theorem rangesOk {c : Cmd} : Reads s (c.rangesOk t) := .bind (.forM fun _ => .checkLocal) fun _ => .forM fun _ => .checkLocal

theorem myGroup {g : Fin 256} : Reads s (myGroup t g) := by
  unfold Machine.myGroup
  split
  · exact .ite (.stop rfl) .ok
  · exact .stop rfl

/-! ### The array -/

theorem arrayOk : Reads s (arrayOk t) := .bind (.need rfl) fun _ => .need rfl

theorem physSlot {om : Fin 16} : Reads s (physSlot t om) := .bind (.need rfl) fun _ => .ok

theorem fillable {om : Fin 16} : Reads s (fillable t om) := .bind .physSlot fun _ => .bind (.need rfl) fun _ => .ok

theorem accOk {acc : Fin 4} : Reads s (accOk t acc) := .need rfl

theorem noTail {acc : Fin 4} : Reads s (noTail t acc) := .need rfl

end

section
variable {s t : State} (h : Quiet s t)
include h

theorem localGranule {acc : Acc} {va : Word} : Reads s (localGranule t acc va) := by
  refine .bind (.need rfl) fun _ => .bind (.xlate h) fun _ => ?_
  split
  · exact .ok
  · exact .stop rfl

theorem localRow {acc : Acc} {ok : Attr → Bool} {va : Word} {n : Nat} : Reads s (localRow t acc ok va n) := by
  induction n generalizing va with
  | zero => exact .ok
  | succ n ih => exact .bind (.localGranule h) fun _ => .bind ih fun _ => .bind (.need rfl) fun _ => .bind (.need rfl) fun _ => .ok

theorem localRows {acc : Acc} {ok : Attr → Bool} {n : Nat} {vs : List Word} : Reads s (localRows t acc ok n vs) := by
  induction vs with
  | nil => exact .ok
  | cons v vs ih => exact .bind (.localRow h) fun _ => .bind ih fun _ => .ok

theorem rowScales {a : Attr} {bl : Nat} {va : Word} {n : Nat} : Reads s (rowScales t a bl va n) := by
  induction n generalizing va with
  | zero => exact .ok
  | succ n ih => exact .bind (.xlateScale h) fun _ => .bind ih fun _ => .ok

theorem fillScales {a : Attr} {vs : List Word} : Reads s (fillScales t a vs) := by
  induction vs with
  | nil => exact .ok
  | cons v vs ih =>
    unfold Machine.fillScales
    split
    · exact .ok
    · exact .bind (.rowScales h) fun _ => .bind ih fun _ => .ok

end

end Reads

end Sys2Proof.Machine
end

section
/-! PROOF. What the computations of a slot commit is quiet: results, accesses, vector stores, copies, and the moulds. -/

namespace Sys2Proof.Machine

/-- A computation of a slot whose result has a property, and which waits in a quiet state. -/
def Keeps {α : Type} (s : State) (P : α → Prop) (m : Slotwise α) : Prop := (∀ a, m = .ok a → P a) ∧ Reads s m

/-- An outcome whose next state, if there is one, is quiet. -/
def Calm (s : State) (o : Host.Outcome State Fault Refusal) : Prop := ∀ t, o = .next t → Quiet s t

namespace Quiet

section
variable {s t : State}

theorem onLines {f : State → Nat → State} {xs : List Xl} (h : Quiet s t) (hf : ∀ u n, Quiet s u → Quiet s (f u n)) :
    Quiet s (onLines f t xs) :=
  .foldl h fun _ _ h => by
    split
    · exact hf _ _ h
    · exact h

theorem invalidate_rows (u : State) (sc kind asid va k : Nat) : ((u.invalidate sc kind asid va).core k).rows = (u.core k).rows := by
  refine Map.get_map_of (g := CoreSt.rows) (h := id)
    (f := fun j v => if (invDies u.cur sc).contains (j / 40) then { v with tlb := keepTlb kind asid va v.tlb } else v)
    CoreSt.reset u.cores k (fun v => ?_) rfl
  split <;> rfl

theorem invalidate {sc kind asid va : Nat} (h : Quiet s t) : Quiet s (t.invalidate sc kind asid va) :=
  h.trans ⟨rfl, fun _ => rfl, invalidate_rows t sc kind asid va, id⟩

end

end Quiet

namespace Keeps

section
variable {α β : Type} {s : State} {P : α → Prop} {Q : β → Prop}

theorem ok {a : α} (h : P a) : Keeps s P (.ok a) := ⟨by rintro _ ⟨⟩; exact h, .ok⟩

theorem stop {e : Stop} (he : e.waits = false) : Keeps s P (.error e) := ⟨nofun, .stop he⟩

theorem wait {u : State} (h : Quiet s u) : Keeps s P (.error (.wait u)) := ⟨nofun, .wait h⟩

theorem bind {m : Slotwise β} {f : β → Slotwise α} (hm : Keeps s Q m) (hf : ∀ b, Q b → Keeps s P (f b)) : Keeps s P (m >>= f) := by
  cases m with
  | ok b => exact hf b (hm.1 b rfl)
  | error e => exact ⟨nofun, by rintro u ⟨⟩; exact hm.2 u rfl⟩

theorem read {m : Slotwise β} {f : β → Slotwise α} (hm : Reads s m) (hf : ∀ b, Keeps s P (f b)) : Keeps s P (m >>= f) :=
  bind (Q := fun _ => True) ⟨fun _ _ => trivial, hm⟩ fun b _ => hf b

theorem need {b : Bool} {e : Stop} {f : Unit → Slotwise α} (he : e.waits = false) (hf : Keeps s P (f ())) :
    Keeps s P (Machine.need b e >>= f) :=
  .read (.need he) fun _ => hf

theorem ite {p : Prop} [Decidable p] {m n : Slotwise α} (hm : Keeps s P m) (hn : Keeps s P n) : Keeps s P (if p then m else n) := by
  split
  · exact hm
  · exact hn

end

/-! ### Results -/

section
variable {s t : State} (h : Quiet s t)
include h

theorem putS {r : Fin 64} {v : Word} {lat : Nat} {fl : Flags} : Keeps s (Quiet s) (putS t r v lat fl) :=
  .read .wrS fun _ => .ok (.latch h)

theorem putT {ty : Ty} {r : Fin 64} {v : Word} {lat : Nat} {fl : Flags} : Keeps s (Quiet s) (putT t ty r v lat fl) :=
  .read .wrT fun _ => .ok (.latch h)

theorem putRowT {rs : List Nat} {r : Nat} {v : RowBits} {lat : Nat} {fl : Flags} :
    Keeps s (Quiet s) (putRowT t rs r v lat fl) :=
  .read .wrRow fun _ => .ok (.latch (.touched h))

omit h in
theorem putRows {lat : Nat} {fl : Flags} {rs : List (Nat × RowBits)} (h : Quiet s t) : Keeps s (Quiet s) (putRows t lat fl rs) := by
  induction rs generalizing t fl with
  | nil => exact .ok h
  | cons r rs ih => exact .bind (.putRowT h) fun _ h => ih h

theorem callLink : Keeps s (Quiet s) (callLink t) := .putS h

theorem predicated {md : Option Modifier} {m : Slotwise State} (hm : Keeps s (Quiet s) m) : Keeps s (Quiet s) (predicated t md m) := by
  refine .ite hm ?_
  split
  · exact .stop rfl
  · exact .ok h

theorem noWait {pd : Option (Fin 16)} {ready : Bool} {c : Stall} {m : Slotwise State} (hm : Keeps s (Quiet s) m) :
    Keeps s (Quiet s) (noWait t pd ready c m) := by
  unfold Machine.noWait
  split
  · exact .need rfl hm
  · refine .ite ?_ (.ok (.latch h))
    cases m with
    | ok u => exact .ok (.latch (hm.1 u rfl))
    | error e => exact ⟨nofun, .map hm.2⟩

/-! ### Accesses -/

theorem useBanks {offs : List Nat} : Keeps s (Quiet s) (useBanks t offs) := by
  refine .read (.waitSp h) fun _ => .read .takeBanks fun _ => ?_
  dsimp only
  split
  · exact .ok (.setMe h (by rfl))
  · exact .ok h

theorem pushOp {m : MemOp} : Keeps s (Quiet s) (pushOp t m) := .need rfl (.need rfl (.ok (.placesUsed (.setMe h (by rfl)))))

theorem issueLoad {es : List ElemLoc} {a : Attr} {sc : Option Scope} {d : LoadTo} {lat : Nat} :
    Keeps s (Quiet s) (issueLoad t es a sc d lat) := by
  unfold Machine.issueLoad
  dsimp only
  split
  · exact .bind (.useBanks h) fun _ h => .ok (.latch h)
  · exact .ite (.bind (.ok h) fun _ h => .pushOp h) (.bind (.useBanks h) fun _ h => .pushOp h)

theorem issueStore {es : List ElemLoc} {a : Attr} {sc : Option Scope} {vals : List Byte} {fl : Flags} :
    Keeps s (Quiet s) (issueStore t es a sc vals fl) := by
  unfold Machine.issueStore
  dsimp only
  split
  · exact .bind (.useBanks h) fun _ h => .ok (.storeLocal h)
  · exact .pushOp (.ite h (.latch h))

theorem atomic {op : AtomOp} {ty : Ty} {sc : Scope} {sd : Fin 64} {va b : Word} {pops : List (Fin 64)} :
    Keeps s (Quiet s) (atomic t op ty sc sd va b pops) := by
  unfold Machine.atomic
  dsimp only
  split
  · split
    · exact .putT (.popT (.setMe h (by rfl)))
    · exact .stop rfl
    · exact .stop rfl
    · exact .wait h
  · refine .read .wrT fun _ => .read (.scalarAccess h) fun _ => ?_
    split
    · refine .need rfl (.read (.needWait h) fun _ => ?_)
      split
      · exact .wait (.evictCopy h)
      · exact .wait (.setMe (.request h) (by rfl))
    · split
      · exact .stop rfl
      · split
        · exact .bind (.useBanks (.popT h)) fun _ h => .putT (.latch h)
        · exact .pushOp (.popT h)

theorem lineOp {acc : Acc} {sa sb : Fin 64} {ext : Option (BitVec 32)} {check : Nat → Xl → Slotwise Unit}
    {eff : State → List Xl → Slotwise State} (hcheck : ∀ va x, Reads s (check va x)) (heff : ∀ xs, Keeps s (Quiet s) (eff t xs)) :
    Keeps s (Quiet s) (lineOp t acc sa sb ext check eff) :=
  .read .rdS fun _ => .read .rdS fun _ => .need rfl (.need rfl (.read (.lineRange h) fun _ => .read (.forM fun _ => hcheck _ _) fun _ =>
    .need rfl (heff _)))

theorem zeroPeers {xs : List Xl} : Keeps s (Quiet s) (zeroPeers t xs) := by
  unfold Machine.zeroPeers
  split
  · exact .ok h
  · exact .wait (.setMe h (by rfl))

theorem zeroWait {m : MemOp} : Keeps s (Quiet s) (zeroWait t m) := by
  unfold Machine.zeroWait
  dsimp only
  split
  · exact .ok (.setMe h (by rfl))
  · exact .ok (.memError (.setMe h (by rfl)))
  · exact .wait h

theorem release {sc : Scope} : Keeps s (Quiet s) (release t sc) := .need rfl (.need rfl (.ok (.releaseCaches h)))

theorem acquire {sc : Scope} : Keeps s (Quiet s) (acquire t sc) := .need rfl (.need rfl (.ok (.acquireCaches h)))

/-! ### Vector stores -/

omit h in
theorem issueBlock {a : Attr} {v : Fmt} {rm : Rm} {q : State × TapLeft} {b : TapBlock} (h : Quiet s q.1) :
    Keeps s (fun r : State × TapLeft => Quiet s r.1) (issueBlock a v rm q b) := by
  refine .bind (.useBanks h) fun u h => ?_
  dsimp only
  split
  · exact .ok (.storeLocal h)
  · exact .ok (.mcastStore (.ite h (.latch h)))
  · exact .ok (.ite (.ite h (.latch h)) h)

omit h in
theorem issueBlocks {a : Attr} {v : Fmt} {rm : Rm} {bs : List TapBlock} {q : State × TapLeft} (h : Quiet s q.1) :
    Keeps s (fun r : State × TapLeft => Quiet s r.1) (bs.foldlM (Machine.issueBlock a v rm) q) := by
  induction bs generalizing q with
  | nil => exact .ok h
  | cons b bs ih => exact .bind (.issueBlock h) fun _ h => ih h

theorem postLeft {a : Attr} {v : Fmt} {rm : Rm} {q : TapLeft} : Keeps s (Quiet s) (t.postLeft a v rm q) :=
  .ite (.bind (.ok h) fun _ h => .ite (.ok h) (.pushOp h)) (.bind (.pushOp h) fun _ h => .ite (.ok h) (.pushOp h))

theorem issueTap {a : Attr} {v : Fmt} {rm : Rm} {bs : List TapBlock} : Keeps s (Quiet s) (issueTap t a v rm bs) :=
  .bind (.issueBlocks (.sweep h)) fun _ h => .postLeft h

theorem storeElems {x0 : Xl} {es : List ElemLoc} {v : Fmt} {rm : Rm} {vals : List (Word × Nat)} :
    Keeps s (Quiet s) (storeElems t x0 es v rm vals) := by
  unfold Machine.storeElems
  dsimp only
  split
  · exact .read (.tapBlocks h) fun _ => .issueTap h
  · exact .issueStore h

theorem loadElems {d : Fmt × Nat} {base : Word} {addrs : Nat → List Word} {row : Bool} {md : Option Modifier} {lat : Nat} :
    Keeps s (Quiet s) (loadElems t d base addrs row md lat) :=
  .read (.xlate h) fun _ => .need rfl (.read .wrRow fun _ => .read (.vecElems h) fun _ => .issueLoad (.touched h))

theorem storeRow {d : Fmt × Nat} {base : Word} {addrs : Nat → List Word} {row : Bool} {md : Option Modifier} :
    Keeps s (Quiet s) (storeRow t d base addrs row md) :=
  .read .rdRow fun _ => .read (.xlate h) fun _ => .need rfl (.read (.vecElems h) fun _ => .storeElems (.touched h))

/-! ### The array, summaries, system registers -/

theorem scaleLoad {n : Nat} {a : Attr} {ls : List Loc} :
    Keeps s (fun r : State × List Byte => Quiet s r.1) (scaleLoad t n a ls) :=
  .read (.waitSp h) fun _ => .ite (.ok h) (.bind (.pushOp h) fun _ h => .ok h)

theorem startSum {rs : List Nat} {o : SumOut} : Keeps s (Quiet s) (startSum t rs o) :=
  .read (.forM fun _ => .wrRow) fun _ => .putRows (.touched (.setCore h (by rfl)))

theorem tlbinv {v : Word} {kind : Nat} : Keeps s (Quiet s) (tlbinv t v kind) := by
  refine .need rfl (.need rfl (.read (.needWait ?_) fun _ => .ok (.setMe ?_ (by rfl)))) <;>
  exact .ite h (.invalidate (.setMe h (by rfl)))

theorem sysWrite {n : Nat} {v : Word} : Keeps s (Quiet s) (sysWrite t n v) :=
  .need rfl (.need rfl (.ite (.tlbinv h) (.need rfl (.need rfl (.ok (.latch h))))))

/-! ### Copies -/

theorem copyIssue {k : CmdKind} {d a b b2 : Word} {nt : Notif} {rw : Option RedWord} {entry : Loc} :
    Keeps s (Quiet s) (copyIssue t k d a b b2 nt rw entry) := by
  unfold Machine.copyIssue
  dsimp only
  split
  · exact .stop rfl
  · exact .read .groupUsed fun _ => .read .copyCmd fun _ => .read .rangesOk fun _ => .need rfl (.read .takeBanks fun _ =>
      .read (.needWait (.sweep h)) fun _ => .ok (.enqueue (.sweep h)))

end

end Keeps

namespace Calm

section
variable {s : State}

/-- What a slot does is quiet, if what it computes is. -/
theorem slot {m : Slotwise State} (hm : Keeps s (Quiet s) m) : Calm s (slotDo s m) := by
  rintro t ht
  rcases m with (i | ⟨c, ns⟩ | u) | u
  · exact Host.Outcome.next.inj ht ▸ .slotTrap (.refl s)
  · exact Host.Outcome.next.inj ht ▸ .heldBy (.foldl (.refl s) fun _ _ h => .applyNeed h)
  · exact Host.Outcome.next.inj ht ▸ .heldBy (hm.2 u rfl)
  · exact Host.Outcome.next.inj ht ▸ hm.1 u rfl

/-! ### The moulds -/

theorem aluReg {op : Fmt → Nat → Nat → Nat} {lat : Nat} {ty : Ty} {sd sa sb : Fin 64} : Calm s (aluReg op lat ty sd sa sb s) :=
  .slot (.read .rdT fun _ => .read .rdT fun _ => .putT (.popT (.refl s)))

theorem aluImm {op : Fmt → Nat → Nat → Nat} {lat : Nat} {ty : Ty} {sd sa : Fin 64} {imm : Imm9} :
    Calm s (aluImm op lat ty sd sa imm s) :=
  .slot (.read .rdT fun _ => .putT (.popT (.refl s)))

theorem aluCount {op : Fmt → Nat → Nat} {ty : Ty} {sd sa : Fin 64} : Calm s (aluCount op ty sd sa s) :=
  .slot (.read .rdT fun _ => .putT (.popT (.refl s)))

theorem fpReg {op : FpFmt → Rm → Val → Val → Val → Nat × Flags} {ty : Ty} {rm : Rm} {sd sa sb : Fin 64} {useD : Bool} {lat : Nat} :
    Calm s (fpReg op ty rm sd sa sb useD lat s) :=
  .slot (.read .rdS fun _ => .read .rdS fun _ =>
    .ite (.read .rdS fun _ => .putS (.refl s)) (.read .ok fun _ => .putS (.refl s)))

theorem vmould {ok : Fmt → Fin 4 → Bool} {useD : Bool} {lat : Fmt → Nat} {f : Fmt → Fin 4 → Nat → Nat → Nat → Nat × Flags}
    {vd va : Fin 64} {b : OpB} {row : Row8} {md : Option Modifier} : Calm s (vmould ok useD lat f vd va b row md s) :=
  .slot (.predicated (.refl s) (.read .sumNames fun _ => .read .row8 fun _ => .read .viewUnit fun _ => .need rfl (.read .vecOperand fun _ =>
    .read .opB fun _ => .ite (.read (.map .rdRow) fun _ => .putRowT (.refl s)) (.read .ok fun _ => .putRowT (.refl s)))))

theorem vred {ok : Fmt → Fin 4 → Bool} {op : Fmt → Fin 4 → Nat → Nat → Nat × Flags} {vd va : Fin 64} {row : Row8}
    {md : Option Modifier} : Calm s (vred ok op vd va row md s) :=
  .slot (.predicated (.refl s) (.read .sumNames fun _ => .read .row8 fun _ => .read .viewUnit fun _ => .need rfl
    (.read .vecOperand fun _ => .putRowT (.refl s))))

theorem special {f : Nat → Nat × Flags} {lat : Nat} {vd va : Fin 64} {row : Row8} {md : Option Modifier} :
    Calm s (special f lat vd va row md s) :=
  .slot (.predicated (.refl s) (.read .sumNames fun _ => .read .row8 fun _ => .read .viewUnit fun _ => .need rfl
    (.read .viewUnit fun _ => .need rfl (.read .rdRow fun _ => .putRowT (.refl s)))))

theorem xbar {f : List Nat → Slotwise (List Nat × List Nat)} {vd va : Fin 64} {row : Row7} {md : Option Modifier}
    (hf : ∀ a, Reads s (f a)) : Calm s (xbar f vd va row md s) :=
  .slot (.predicated (.refl s) (.read .sumNames fun _ => .read .row7 fun _ => .read .viewUnit fun _ => .read .viewUnit fun _ =>
    .read .rdRow fun _ => .read (hf _) fun _ => .putRowT (.refl s)))

theorem xsv {vw sn : Fin 64} {row : Row8} {el : Slotwise Nat} (hel : Reads s el) : Calm s (xsv vw sn row el s) :=
  .slot (.read .row8 fun _ => .read .viewUnit fun _ => .read hel fun _ => .need rfl (.read .rdS fun _ => .read .wrRow fun _ =>
    .ok (.latch (.touched (.refl s)))))

theorem xvs {vw sd : Fin 64} {row : Row8} {el : Slotwise Nat} (hel : Reads s el) : Calm s (xvs vw sd row el s) :=
  .slot (.read .row8 fun _ => .read .viewUnit fun _ => .read hel fun _ => .need rfl (.read .rdRow fun _ => .putS (.touched (.refl s))))

theorem atomOp {op : AtomOp} {ty : Ty} {sc : Scope} {sd sa sb : Fin 64} {ext : Option (BitVec 32)} :
    Calm s (atomOp op ty sc sd sa sb ext s) :=
  .slot (.read .rdT fun _ => .read .rdT fun _ => .atomic (.refl s))

theorem copyRegs {k : CmdKind} {sd sa sb : Fin 64} {nt : Notif} {rw : Option RedWord} : Calm s (copyRegs k sd sa sb nt rw s) :=
  .slot (.read .rdS fun _ => .read .rdS fun _ => .read .rdS fun _ => .copyIssue (.refl s))

theorem entryHome {x : Nat} {ls : List Loc} {u : State} (h : Quiet s u) : Quiet s ((u.entryHome x ls).getD u) := by
  cases hv : u.entryHome x ls with
  | none => exact h
  | some v => exact .entryHome h hv

theorem chanIssue {k : CmdKind} {ch : Fin 256} {nt : Notif} : Calm s (chanIssue k ch nt s) := by
  refine .slot (.need rfl (.read (.xlateN (.refl s)) fun _ => ?_))
  dsimp only
  split
  · refine .read (.needWait (.sweep (.refl s))) fun _ => .read (.needWait (entryHome (.sweep (.refl s)))) fun _ => ?_
    split
    · exact .ok (.fatalCtx (.logged (.sweep (.refl s))))
    · exact .need rfl (.copyIssue (.enterAll (.sweep (.refl s))))
  · exact .stop rfl

theorem summary {md : Option Modifier} {reads : List (Slotwise (List Nat))} {f : List RowBits → Slotwise (SumOut × Nat)}
    (hr : ∀ m ∈ reads, Reads s m) (hf : ∀ bs, Reads s (f bs)) : Calm s (summary md s reads f) := by
  refine .slot (.need rfl (.need rfl (.predicated (.refl s) (.read (.namedRows hr) fun _ => .read .rdRowsEng fun _ => ?_))))
  split
  · exact .ok (.faulted (.refl s))
  · exact .read (hf _) fun _ => .startSum (.useFree (.refl s))

theorem ingest {k : SumKind} {ok : Fmt → Bool} {f : SumObj → Fmt → RowBits → SumObj × Nat} {vd va : Fin 64} {row : Row8}
    {md : Option Modifier} : Calm s (ingest k ok f vd va row md s) := by
  have hobj : Reads s (do let i ← row8 s row; sumUnit s vd (i + doff md)) := .bind .row8 fun _ => .sumUnit
  have hkeys : Reads s (do let i ← row8 s row; sumRow s va (i + aoff md) ok) := .bind .row8 fun _ => .sumRow
  refine .summary ?_ fun _ => .bind hobj fun _ => .bind hkeys fun _ => .bind (.need rfl) fun _ => .bind (.need rfl) fun _ => .ok
  rw [List.forall_mem_cons, List.forall_mem_singleton]
  exact ⟨.map hobj, .map hkeys⟩

theorem examine {k : SumKind} {ok : Fmt → Bool} {n : Nat} {f : SumObj → Slotwise ((List RowBits × Nat × Flags) × Nat)} {vd va : Fin 64}
    {row : Row8} {md : Option Modifier} (hf : ∀ o, Reads s (f o)) : Calm s (examine k ok n f vd va row md s) := by
  have hsrc : Reads s (do let i ← row8 s row; sumUnit s va (i + aoff md)) := .bind .row8 fun _ => .sumUnit
  refine .summary ?_ fun _ => .bind (.bind .row8 fun _ => .bind (.mapM fun _ => .sumRow) fun _ => .ok) fun _ => .bind hsrc fun _ =>
    .bind (.need rfl) fun _ => .bind (.need rfl) fun _ => .bind (hf _) fun _ => .ok
  rw [List.forall_mem_singleton]
  exact .map hsrc

end

end Calm

end Sys2Proof.Machine
end

section
/-! PROOF. O60: every instruction of the code stream is quiet as it issues (R23, R41). -/

namespace Sys2Proof.Machine

namespace Calm

section
variable {s : State} {ty : Ty} {sc : Scope} {osc : Option Scope} {c : Cond} {p : Fin 16} {op : Option (Fin 16)} {rm : Rm}
  {a b d e k : Fin 64} {w : Fin 16} {o o' : Fin 16} {acc : Fin 4} {row : Row8} {md : Option Modifier} {x : Option (BitVec 32)}

/-! ### Scalar instructions -/

theorem cmp : Calm s (execCmp ty c p a b s) := .slot (.read .rdT fun _ => .read .rdT fun _ => .ok (.putP (.popT (.refl s))))

theorem fcmp : Calm s (execFcmp ty c p a b s) := .slot (.read .rdS fun _ => .read .rdS fun _ => .ok (.putP (.refl s)))

theorem sel : Calm s (execSel p d a b s) := .slot (.read .rdS fun _ => .read .rdS fun _ => .putS (.refl s))

theorem bfx {sx : Bool} : Calm s (execBfx sx d a b e s) := .slot (.read .rdS fun _ => .putS (.refl s))

theorem bfi : Calm s (execBfi d a b e s) := .slot (.read .rdS fun _ => .read .rdS fun _ => .putS (.refl s))

theorem clz : Calm s (execClz ty d a s) := .aluCount

theorem popc : Calm s (execPopc ty d a s) := .aluCount

theorem fadd : Calm s (execFadd ty rm d a b s) := .fpReg

theorem fmul : Calm s (execFmul ty rm d a b s) := .fpReg

theorem fma : Calm s (execFma ty rm d a b s) := .fpReg

theorem fcvt {f g : Fmt} : Calm s (execFcvt f g rm d a s) := .slot (.read .rdS fun _ => .putS (.refl s))

theorem movi {v : Imm19} : Calm s (execMovi d v s) := .slot (.putS (.refl s))

theorem movhi {v : BitVec 32} : Calm s (execMovhi d v s) := .slot (.read .rdS fun _ => .putS (.refl s))

theorem sysr {n : Fin 4096} : Calm s (execSysr d n s) := .slot (.need rfl (.need rfl (.putS (.refl s))))

theorem sysw {n : Fin 4096} : Calm s (execSysw a n s) := .slot (.read .rdS fun _ => .sysWrite (.refl s))

theorem viewset : Calm s (execViewset d a s) :=
  .slot (.read .rdS fun _ => .need rfl (.need rfl (.need rfl (.ok (.latch (.refl s))))))

/-! ### Control -/

theorem br {n : Bool} {off : BitVec 20} : Calm s (execBr n p off s) := .slot (.ok (.ite (.transfer (.refl s)) (.refl s)))

theorem jmp {off : BitVec 20} : Calm s (execJmp off s) := .slot (.ok (.transfer (.refl s)))

theorem jmpReg : Calm s (execJmpReg a s) := .slot (.read .rdS fun _ => .ok (.transfer (.refl s)))

theorem call {off : BitVec 20} : Calm s (execCall off s) := .slot (.bind (.callLink (.refl s)) fun _ h => .ok (.transfer h))

theorem callReg : Calm s (execCallReg a s) :=
  .slot (.read .rdS fun _ => .bind (.callLink (.refl s)) fun _ h => .ok (.transfer h))

theorem ret : Calm s (execRet s) := .slot (.read .rdS fun _ => .ok (.transfer (.refl s)))

theorem loop {pin : Bool} {n : BitVec 10} : Calm s (execLoop pin a n s) := by
  refine .slot (.read .rdS fun v => .need rfl (.ite ?_ (.ok (.setMe (.refl s) (Quiet.setStack_regFile _ _)))))
  split
  · exact .ok (.setMe (.refl s) (by rfl))
  · exact .ok (.setMe (.refl s) (by rfl))

theorem trap {n : BitVec 16} : Calm s (execTrap n s) := .slot (.ok (.trapAfter (.refl s)))

theorem brk {n : BitVec 16} : Calm s (execBrk n s) := .slot (.ok (.trapAfter (.refl s)))

theorem halt : Calm s (execHalt s) := .slot (.need rfl (.ok (.ends (.refl s))))

theorem rft : Calm s (execRft s) := .slot (.need rfl (.need rfl (.ok (.ends (.refl s)))))

theorem rfui : Calm s (execRfui s) :=
  .slot (.need rfl (.need rfl (.ite (.read .ok fun _ => .ok (.ends (.transfer (.refl s))))
    (.read .rdS fun _ => .ok (.ends (.transfer (.refl s)))))))

theorem live {n : Fin 256} : Calm s (execLive n s) := by
  refine .slot (.ok (.ite ?_ (.refl s)))
  split
  · exact .setMe (.refl s) (by rfl)
  · exact .setMe (.refl s) (by rfl)

theorem waiti : Calm s (execWaiti s) := .slot (.need rfl (.need rfl (.ok (.refl s))))

/-! ### Memory -/

theorem ld {m : MemArg} : Calm s (execLd ty osc d m s) :=
  .slot (.read .memAddr fun _ => .read .wrT fun _ => .read (.scalarAccess (.refl s)) fun _ => .issueLoad (.popT (.refl s)))

theorem st {m : MemArg} : Calm s (execSt ty osc d m s) :=
  .slot (.read .memAddr fun _ => .read .rdT fun _ => .read (.scalarAccess (.refl s)) fun _ => .issueStore (.popT (.refl s)))

theorem acas : Calm s (execAcas ty sc d a b x s) :=
  .slot (.read .rdT fun _ => .read .rdT fun _ => .read .rdT fun _ => .atomic (.refl s))

theorem flush : Calm s (execFlush sc a b x s) :=
  .slot (.lineOp (.refl s) (fun _ _ => .ok) fun _ => .ok (.onLines (.refl s) fun _ _ h => .ite h (.cleanLine h)))

theorem inval : Calm s (execInval sc a b x s) :=
  .slot (.lineOp (.refl s) (fun _ _ => .ok) fun _ => .ok (.onLines (.refl s) fun _ _ h => .ite (.setCore h (by rfl)) (.discardLine h)))

theorem zline : Calm s (execZline osc a b x s) := by
  unfold execZline
  split
  · exact .slot (.zeroWait (.refl s))
  · have hzero : ∀ xs, Quiet s (onLines (zeroLine osc) s xs) := fun _ => .onLines (.refl s) fun _ _ h => .zeroLine h
    exact .slot (.lineOp (.refl s) (fun _ _ => .scopeOk) fun _ => .zeroPeers (.ite (hzero _) (.memError (hzero _))))

theorem wdecl : Calm s (execWdecl w a b e s) :=
  .slot (.read .rdS fun _ => .read .rdS fun _ => .read .rdS fun _ => .need rfl (.ok (.latch (.setMe (.refl s) (by rfl)))))

theorem wdrop : Calm s (execWdrop w s) := by
  refine .slot ?_
  dsimp only
  split
  · exact .need rfl (.ok (.setMe (.refl s) (by rfl)))
  · exact .stop rfl

/-! ### Synchronization -/

theorem mbreq : Calm s (execMbreq a op s) :=
  .slot (.read .rdS fun _ => .need rfl (.noWait (.refl s) (.bind (.release (.refl s)) fun _ h => .ok (.latch h))))

theorem mbtake : Calm s (execMbtake d op s) :=
  .slot (.need rfl (.read .wrS fun _ => .need rfl (.noWait (.refl s) (.bind (.acquire (.setCluster (.refl s))) fun _ h => .putS h))))

theorem acq : Calm s (execAcq sc s) := .slot (.need rfl (.need rfl (.acquire (.refl s))))

theorem rel : Calm s (execRel sc s) := .slot (.release (.refl s))

theorem fence {l t u : Bool} : Calm s (execFence sc l t u s) :=
  .slot (.need rfl (.need rfl (.need rfl (.ok (.ite (.releaseCaches (.refl s)) (.refl s))))))

theorem fpost {k : Fin 32} {n : BitVec 16} {g : Option PostTarget} : Calm s (execFpost k n g s) := by
  refine .slot ?_
  split
  · exact .bind (.release (.refl s)) fun _ h => .ok (.ite h (.latch h))
  · exact .need rfl (.bind (.release (.refl s)) fun _ h => .ok (.ite h (.postFlag h)))

theorem fwait {k : Fin 32} {n : BitVec 16} : Calm s (execFwait k n s) :=
  .slot (.need rfl (.bind (.acquire (.refl s)) fun _ h => .ok (.setMe (.ite h (.latch h)) (by rfl))))

theorem bara {g : Fin 256} : Calm s (execBara g s) :=
  .slot (.read .myGroup fun _ => .bind (.release (.refl s)) fun _ h => .ok (.send (.setMe h (by rfl))))

theorem barw {g : Fin 256} : Calm s (execBarw g s) := .slot (.read .myGroup fun _ => .need rfl (.acquire (.refl s)))

/-! ### Vectors -/

theorem dead {f n : Fin 512} : Calm s (execDead d f n s) := .slot (.read .deadRows fun _ => .ok (.latch (.refl s)))

theorem xsvBcast : Calm s (execXsvBcast d a row s) :=
  .slot (.read .row8 fun _ => .read .viewUnit fun _ => .read .rdS fun _ => .putRowT (.refl s))

theorem vmov : Calm s (execVmov d a row md s) :=
  .slot (.predicated (.refl s) (.read .sumNames fun _ => .read .row8 fun _ => .read .viewUnit fun _ => .read .viewUnit fun _ =>
    .read .rdRow fun _ => .putRowT (.refl s)))

theorem viota : Calm s (execViota d row md s) :=
  .slot (.predicated (.refl s) (.read .row8 fun _ => .read .viewUnit fun _ => .putRowT (.refl s)))

theorem vcvt : Calm s (execVcvt d a row md s) :=
  .slot (.predicated (.refl s) (.read .sumNames fun _ => .read .row8 fun _ => .read .viewUnit fun _ => .read .viewUnit fun _ =>
    .need rfl (.read .sumNames fun _ => .read .unitsFrom fun _ => .read .unitsFrom fun _ => .read .rdRows fun _ =>
      .putRows (.touched (.refl s)))))

theorem vld {off : BitVec 6} : Calm s (execVld d row a off md s) :=
  .slot (.predicated (.refl s) (.read .row8 fun _ => .read .viewUnit fun _ => .read .rdS fun _ => .loadElems (.refl s)))

theorem vst {off : BitVec 6} : Calm s (execVst d row a off md s) :=
  .slot (.predicated (.refl s) (.read .row8 fun _ => .read .viewUnit fun _ => .read .rdS fun _ => .storeRow (.refl s)))

theorem vldx : Calm s (execVldx d b a row md s) :=
  .slot (.predicated (.refl s) (.read .sumNames fun _ => .read .row8 fun _ => .read .viewUnit fun _ => .read .rdS fun _ =>
    .read .indexList fun _ => .loadElems (.touched (.refl s))))

theorem vstx : Calm s (execVstx d b a row md s) :=
  .slot (.predicated (.refl s) (.read .sumNames fun _ => .read .row8 fun _ => .read .viewUnit fun _ => .read .rdS fun _ =>
    .read .indexList fun _ => .storeRow (.touched (.refl s))))

theorem xperm {row : Row7} : Calm s (execXperm d a b row md s) :=
  .xbar fun _ => .bind .patternRow fun _ => .bind .rdRow fun _ => .bind (.need rfl) fun _ => .ok

/-! ### Summaries -/

theorem skinit {n : SumKind} : Calm s (execSkinit d n b row md s) :=
  .summary (fun _ h => nomatch h) fun _ => .bind .row8 fun _ => .bind .sumUnit fun _ => .bind .rdS fun _ => .ok

theorem skmerge : Calm s (execSkmerge d a b row md s) := by
  have hunit : ∀ v off, Reads s (do let i ← row8 s row; sumUnit s v (i + off)) := fun _ _ => .bind .row8 fun _ => .sumUnit
  refine .summary ?_ fun _ => .bind (hunit _ _) fun _ => .bind (hunit _ _) fun _ => .bind (hunit _ _) fun _ => ?_
  · rw [List.forall_mem_cons, List.forall_mem_singleton]
    exact ⟨.map (hunit _ _), .map (hunit _ _)⟩
  · split
    · exact .ok
    · exact .stop rfl

theorem skqry : Calm s (execSkqry d a b row md s) :=
  .examine fun _ => .bind .rdS fun _ => by
    dsimp only
    split
    · exact .ok
    · exact .ok

/-! ### The array -/

theorem mclaim : Calm s (execMclaim o op s) := by
  refine .slot (.read .arrayOk fun _ => .read .physSlot fun _ => ?_)
  dsimp only
  split
  · exact .need rfl (.ok (.setPair (.refl s)))
  · exact .ok (.putP (.ite (.setPair (.refl s)) (.refl s)))

theorem mrel : Calm s (execMrel o s) :=
  .slot (.read .arrayOk fun _ => .read .physSlot fun _ => .need rfl (.ok (.setPair (.refl s))))

theorem mldSp {m : BitVec 32} : Calm s (execMldSp o a m s) :=
  .slot (.read .arrayOk fun _ => .read .fillable fun _ => .read .rdS fun _ => .need rfl (.read (.localGranule (.refl s)) fun _ =>
    .read (.localRows (.refl s)) fun _ => .need rfl (.read .takeBanks fun _ => .read (.waitSp (.refl s)) fun _ =>
      .read (.fillScales (.refl s)) fun _ => .bind (.scaleLoad (.refl s)) fun _ h => .ok (.setPair h))))

theorem mldView : Calm s (execMldView o d row s) :=
  .slot (.read .sumNames fun _ => .read .arrayOk fun _ => .read .fillable fun _ => .read .row8 fun _ => .read .viewUnit fun _ =>
    .read .rdRows fun _ => .ok (.setPair (.touched (.refl s))))

theorem mma {q : Cop} {n : Fin 128} : Calm s (execMma o o' acc q rm n s) :=
  .slot (.read .arrayOk fun _ => .read .physSlot fun _ => .read .physSlot fun _ => .need rfl (.read .accOk fun _ => .need rfl (.need rfl (.need rfl
    (.ok (.setMe (.dropToken (.refl s)) (by rfl)))))))

theorem mstView : Calm s (execMstView acc d row s) :=
  .slot (.read .sumNames fun _ => .read .arrayOk fun _ => .read .accOk fun _ => .read .noTail fun _ => .read .row8 fun _ =>
    .read .viewUnit fun _ => .need rfl (.read (.forM fun _ => .wrRow) fun _ => .ok (.setMe (.refl s) (by rfl))))

theorem mstSp {m : BitVec 32} : Calm s (execMstSp acc a m s) :=
  .slot (.read .arrayOk fun _ => .read .accOk fun _ => .read .noTail fun _ => .read .rdS fun _ => .need rfl
    (.read (.localRows (.refl s)) fun _ => .need rfl (.read .takeBanks fun _ => .ok (.setMe (.refl s) (by rfl)))))

theorem mzero : Calm s (execMzero acc s) :=
  .slot (.read .arrayOk fun _ => .read .accOk fun _ => .read .noTail fun _ => .ok (.setMe (.refl s) (by rfl)))

theorem mseq {n : BitVec 32} : Calm s (execMseq o n s) := .slot (.read .arrayOk fun _ => .ok (.latch (.refl s)))

theorem tlbinvs {n : Nat} : Calm s (slotDo s do
    need s.me.sup privilege
    let v ← rdS s a
    tlbinv s v n) :=
  .slot (.need rfl (.read .rdS fun _ => .tlbinv (.refl s)))

theorem tba : Calm s (execTbaWrite a s) := .slot (.read .rdS fun _ => .sysWrite (.refl s))

theorem cgather {nt : Notif} : Calm s (execCgather d a b nt s) :=
  .slot (.read .rdS fun _ => .read .rdS fun _ => .read .rdS fun _ => .read .rdS fun _ => .copyIssue (.refl s))

end

/-- No instruction of the code stream changes, as it issues, the registers and rows that results land in. -/
theorem exec {i : Instr} {e : Enc} {s : State} (he : encode i = some e) : Calm s (exec i s) := by
  cases i
  all_goals dsimp only [Machine.exec]
  case add | sub | mul | min | max | and | or | xor | shl | shr | shra | mulh | div | rem => exact .aluReg
  case addImm | subImm | mulImm | minImm | maxImm | andImm | orImm | xorImm | shlImm | shrImm | shraImm => exact .aluImm
  case clz => exact .clz
  case popc => exact .popc
  case fadd => exact .fadd
  case fmul => exact .fmul
  case fma => exact .fma
  case atomAdd | atomMax | atomMin | atomAnd | atomOr | atomXor | atomSwap => exact .atomOp
  case vadd | vaddS | vsub | vsubS | vmul | vmulS | vmax | vmaxS | vmin | vminS | vand | vandS | vor | vorS | vxor | vxorS | vshl |
    vshlS | vshr | vshrS | vfma | vfmaS | vcmp | vcmpS | vclamp | vclampS | vneg | vabs | vsel => exact .vmould
  case vredAdd | vredMax | vredMin => exact .vred
  case vrcp | vrsq | vexp2 | vlog2 | vtanh => exact .special
  case skq | skh | skd => exact .ingest
  case cpy | cpy2d | cfill | cmcast | cred => exact .copyRegs
  case chsend | chrecv => exact .chanIssue
  case xsvImm => exact .xsv .ok
  case xsvScalar => exact .xsv (.map .rdS)
  case xvsImm => exact .xvs .ok
  case xvsScalar => exact .xvs (.map .rdS)
  case xbcast | xrot => exact .xbar fun _ => .ok
  case skest | sktop => exact .examine fun _ => .ok
  case cmp => exact .cmp
  case fcmp => exact .fcmp
  case sel => exact .sel
  case bfx => exact .bfx
  case bfi => exact .bfi
  case fcvt => exact .fcvt
  case movi => exact .movi
  case movhi => exact .movhi
  case ld => exact .ld
  case st => exact .st
  case acas => exact .acas
  case flush => exact .flush
  case inval => exact .inval
  case zline => exact .zline
  case wdecl => exact .wdecl
  case wdrop => exact .wdrop
  case br => exact .br
  case jmp => exact .jmp
  case jmpReg => exact .jmpReg
  case call => exact .call
  case callReg => exact .callReg
  case ret => exact .ret
  case loop => exact .loop
  case trap => exact .trap
  case brk => exact .brk
  case halt => exact .halt
  case rft => exact .rft
  case rfui => exact .rfui
  case sysr => exact .sysr
  case sysw => exact .sysw
  case viewset => exact .viewset
  case mbreq => exact .mbreq
  case mbtake => exact .mbtake
  case acq => exact .acq
  case rel => exact .rel
  case fence => exact .fence
  case fpost => exact .fpost
  case fwait => exact .fwait
  case bara => exact .bara
  case barw => exact .barw
  case live => exact .live
  case dead => exact .dead
  case waiti => exact .waiti
  case xsvBcast => exact .xsvBcast
  case vmov => exact .vmov
  case vcvt => exact .vcvt
  case viota => exact .viota
  case vld => exact .vld
  case vst => exact .vst
  case vldx => exact .vldx
  case vstx => exact .vstx
  case skinit => exact .skinit
  case skmerge => exact .skmerge
  case skqry => exact .skqry
  case xperm => exact .xperm
  case mclaim => exact .mclaim
  case mrel => exact .mrel
  case mldSp => exact .mldSp
  case mldView => exact .mldView
  case mma => exact .mma
  case mstView => exact .mstView
  case mstSp => exact .mstSp
  case mzero => exact .mzero
  case mseq => exact .mseq
  case cgather => exact .cgather
  all_goals exact nomatch he

end Calm

/-- Settles O60: a slot's computation latches its results, holds, waits or traps, and none of these writes a register or a row. -/
theorem registersWaitForWriteback : Obligations.RegistersWaitForWriteback := by
  intro i e s t he hexec _ _ _ _
  have h := Calm.exec he t hexec
  refine ⟨fun x => ?_, h.rows⟩
  have hx := h.regs x
  simp only [Ctx.regFile, Prod.mk.injEq] at hx
  exact hx

end Sys2Proof.Machine
end

section
/-! PROOF. O34: what the copy and channel instructions append to their queues (R159, R244). -/

namespace Sys2Proof.Machine

/-! ### The command -/

/-- A command that differs from another in what its issue finds out of its operands alone. -/
def Cmd.found (c n : Cmd) : Prop :=
  ∃ (src : SrcView) (dst : List DstLoc) (es ed : Nat) (afar : Bool), n = { c with src := src, dst := dst, es := es, ed := ed, afar := afar }

theorem sizedNow_found {s : State} {c : Cmd} : Keeps s c.found (c.sizedNow s) := by
  refine .ite (.read .ok ?_) (.ite (.read (.ite .sizeNow .ok) ?_) (.ite (.read .sizeNow ?_) (.read .ok ?_))) <;>
    exact fun _ => .ite (.read .sizeNow fun _ => .ok ⟨_, _, _, _, _, rfl⟩) (.read .ok fun _ => .ok ⟨_, _, _, _, _, rfl⟩)

theorem found_trans {c n m : Cmd} (h : c.found n) (k : n.found m) : c.found m := by
  obtain ⟨src, dst, es, ed, afar, rfl⟩ := h
  obtain ⟨src', dst', es', ed', afar', rfl⟩ := k
  exact ⟨_, _, _, _, _, rfl⟩

theorem copyCmd_found {s : State} {k : CmdKind} {qix : Nat} {d a b b2 : Word} {nt : Notif} {rw : Option RedWord} {entry : Loc} :
    Keeps s (newCmd s k qix d a b b2 nt rw entry).found (copyCmd s k qix d a b b2 nt rw entry) := by
  refine .ite (.ok ⟨_, _, _, _, _, rfl⟩) ?_
  split
  · exact .read .resultDst fun _ => .ok ⟨_, _, _, _, _, rfl⟩
  · exact ⟨fun n hn => found_trans ⟨_, _, _, _, _, rfl⟩ (sizedNow_found.1 n hn), .sizedNow⟩

/-! ### The queue -/

theorem setQueue_queue (s : State) (core : Nat) (e : Bool) (q : List Cmd) : ((s.setQueue core e q).core core).queue e = q := by
  cases e <;> simp [State.setQueue, CoreSt.queue]

theorem memWrite_core (s : State) (cs : List Host.Cell) (c : Nat) : (s.memWrite cs).core c = s.core c ∧ (s.memWrite cs).cur = s.cur :=
  ⟨rfl, rfl⟩

theorem setGroup_core (s : State) (l : Launch) (g v c : Nat) : (s.setGroup l g v).core c = s.core c ∧ (s.setGroup l g v).cur = s.cur := by
  unfold State.setGroup
  split
  · exact memWrite_core s _ c
  · exact ⟨rfl, rfl⟩

theorem addPend_core {s t : State} {l : Launch} {g : Fin 256} {n x : Nat} {e : Bool} {q : Nat} (h : s.addPend l g n x e q = some t)
    (c : Nat) : t.core c = s.core c ∧ t.cur = s.cur := by
  unfold State.addPend at h
  dsimp only at h
  split at h
  · obtain rfl := Option.some.inj h
    exact ⟨rfl, rfl⟩
  · split at h
    · exact nomatch h
    · obtain rfl := Option.some.inj h
      exact setGroup_core s l _ _ c

/-- A command as it enters its queue: with the bytes it owes, or faulted. -/
def Cmd.entered (c n : Cmd) : Prop :=
  ∃ (pend : Nat) (phase : CmdPhase) (banks : BitVec 32), n = { c with pend := pend, phase := phase, banks := banks }

theorem put_queue {s t : State} (hcore : t.core (coreOf s.cur) = s.core (coreOf s.cur)) (hcur : t.cur = s.cur) (e : Bool) (n : Cmd) :
    (t.setQueue (coreOf s.cur) e ((t.core (coreOf s.cur)).queue e ++ [n])).myCore.queue e = s.myCore.queue e ++ [n] := by
  rw [State.myCore, show (t.setQueue _ e _).cur = s.cur from hcur, setQueue_queue, hcore]
  rfl

theorem enqueue_queue (s : State) (e : Bool) (c : Cmd) :
    ∃ n, (s.enqueue e c).myCore.queue e = s.myCore.queue e ++ [n] ∧ c.entered n ∧
      (c.nt.gv = false → n = c ∧ (s.enqueue e c).me = s.me ∧ (s.enqueue e c).mem = s.mem) := by
  unfold State.enqueue
  dsimp only
  split
  case h_1 hgv _ _ =>
    rw [hgv]
    split
    case h_1 t ht =>
      obtain ⟨hcore, hcur⟩ := addPend_core ht (coreOf s.cur)
      exact ⟨_, put_queue hcore hcur e _, ⟨_, _, _, rfl⟩, nofun⟩
    case h_2 => exact ⟨_, put_queue (t := s.setMe _) rfl rfl e _, ⟨_, _, _, rfl⟩, nofun⟩
  case h_2 => exact ⟨_, put_queue rfl rfl e _, ⟨_, _, _, rfl⟩, fun _ => ⟨rfl, rfl, rfl⟩⟩

/-! ### The instructions -/

section
variable {s u : State} {i : Instr} {k : CmdKind} {d a b b2 : Word} {nt : Notif} {rw : Option RedWord} {entry : Loc}

/-- What the issue of a copy does, whichever instruction it is of. -/
theorem issues_of (hi : exec i s = slotDo s (copyIssue u k d a b b2 nt rw entry)) : issues s u i k d a b b2 nt rw entry := by
  refine ⟨fun hfree => ?_, fun qix hfree hgroup n hn hstores hranges hcast hbanks => ?_⟩
  · rw [hi]
    simp only [copyIssue, hfree]
    rfl
  · have hcast' : (k != .cmcast || inMcast n) = true := by
      cases k <;> simp_all
    have hrun : exec i s = .next ((u.sweep u.cur).enqueue (engineOf u.slot) { n with
        banks := (n.probe (u.sweep u.cur) ((u.sweep u.cur).myCore.queue (engineOf u.slot))).allBanks (u.sweep u.cur) }) := by
      rw [hi]
      simp only [copyIssue, hfree, hgroup, slotwise_ok_bind, hn, hranges, hcast', need_true, hbanks, hstores, Bool.not_false, slotDo_ok]
    obtain ⟨src, dst, es, ed, afar, hfound⟩ := copyCmd_found.1 n hn
    obtain ⟨m, hm, ⟨pend, phase, banks, hent⟩, hplain⟩ := enqueue_queue (u.sweep u.cur) (engineOf u.slot) { n with
        banks := (n.probe (u.sweep u.cur) ((u.sweep u.cur).myCore.queue (engineOf u.slot))).allBanks (u.sweep u.cur) }
    refine ⟨_, m, hrun, hm, ?_⟩
    subst hfound
    refine ⟨?_, ?_, ?_, ?_, ?_, ?_, ?_, ?_, ?_, ?_, ?_, ?_, ?_, fun hgv => ?_⟩
    case refine_14 =>
      obtain ⟨rfl, hme, hmem⟩ := hplain hgv
      exact ⟨rfl, rfl, hme, hmem⟩
    all_goals subst hent; rfl

/-! #### Of three registers -/

theorem copyRegs_exec {sd sa sb : Fin 64} (hd : rdS s sd = .ok d) (ha : rdS s sa = .ok a) (hb : rdS s sb = .ok b) :
    copyRegs k sd sa sb nt rw s = slotDo s (copyIssue s k d a b 0 nt rw (.sp 0)) := by
  simp only [copyRegs, hd, ha, hb, slotwise_ok_bind]

theorem cgather_exec {sd sa sb : Fin 64} {n : Word} (hd : rdS s sd = .ok d) (ha : rdS s sa = .ok a) (hb : rdS s sb = .ok b)
    (hn : rdS s (sb + 1) = .ok n) : exec (.cgather sd sa sb nt) s = slotDo s (copyIssue s .cgather d a b n nt none (.sp 0)) := by
  change execCgather sd sa sb nt s = _
  simp only [execCgather, hd, ha, hb, hn, slotwise_ok_bind]

/-! #### Of a channel -/

theorem chanIssue_outside {ch : Fin 256} (h : s.isComm s.cur = false) : chanIssue k ch nt s = .next (s.slotTrap (TrapInfo.of 1 2)) := by
  simp only [chanIssue, h, need_false, slotwise_error_bind]
  rfl

variable {ch : Fin 256} {xs : List Xl} {l : Loc}

/-- An entry that the context reaches, in its own package, with its stores to it performed: the entry is looked at. -/
theorem chanIssue_entry (hcomm : s.isComm s.cur = true)
    (hxs : xlateN s .load (s.me.chtab + BitVec.ofNat 64 (64 * ch.val)) 64 = .ok xs) (hl : s.chanPlace (xs.map (·.loc)) = some l)
    (hbefore : (s.sweep s.cur).storesBefore = false) (hto : (s.sweep s.cur).storesTo (xs.map (·.loc)) = false)
    (hhome : (s.sweep s.cur).entryHome s.cur (xs.map (·.loc)) = none) :
    chanIssue k ch nt s = slotDo s (match ((s.sweep s.cur).enterAll s.cur [l]).poisonOf (xs.map (·.loc)) with
      | some pa => .ok (((s.sweep s.cur).logged (.poison pa)).fatalCtx s.cur)
      | none => do
        need ((xs.map (·.loc)).all (s.sweep s.cur).locInStack && (((s.sweep s.cur).enterAll s.cur [l]).chan s.cur l).ok &&
          (((s.sweep s.cur).enterAll s.cur [l]).chan s.cur l).dir == (k == .chrecv)) channelFault
        copyIssue ((s.sweep s.cur).enterAll s.cur [l]) k 0 0 0 0 nt none l) := by
  have hcur : (s.sweep s.cur).cur = s.cur := (Quiet.sweep (.refl s)).cur
  simp only [chanIssue, hcomm, hxs, hl, hcur, hbefore, hto, hhome, need_true, slotwise_ok_bind, Bool.or_false, Bool.not_false,
    Option.isNone_none] <;> rfl

/-- What a channel instruction finds in an entry that it may look at. -/
theorem chanIssue_cases (hcomm : s.isComm s.cur = true)
    (hxs : xlateN s .load (s.me.chtab + BitVec.ofNat 64 (64 * ch.val)) 64 = .ok xs) (hl : s.chanPlace (xs.map (·.loc)) = some l)
    (hbefore : (s.sweep s.cur).storesBefore = false) (hto : (s.sweep s.cur).storesTo (xs.map (·.loc)) = false)
    (hhome : (s.sweep s.cur).entryHome s.cur (xs.map (·.loc)) = none) :
    let w := s.sweep s.cur
    let v := (w.enterAll s.cur [l]).chan s.cur l
    (∀ pa, (w.enterAll s.cur [l]).poisonOf (xs.map (·.loc)) = some pa →
      chanIssue k ch nt s = .next ((w.logged (.poison pa)).fatalCtx s.cur)) ∧
    ((w.enterAll s.cur [l]).poisonOf (xs.map (·.loc)) = none →
      (((xs.map (·.loc)).all w.locInStack && v.ok && v.dir == (k == .chrecv)) = false →
        chanIssue k ch nt s = .next (s.slotTrap (TrapInfo.of 10 0))) ∧
      (((xs.map (·.loc)).all w.locInStack && v.ok && v.dir == (k == .chrecv)) = true →
        chanIssue k ch nt s = slotDo s (copyIssue (w.enterAll s.cur [l]) k 0 0 0 0 nt none l))) := by
  have h := chanIssue_entry (k := k) (nt := nt) hcomm hxs hl hbefore hto hhome
  refine ⟨fun pa hp => ?_, fun hp => ⟨fun hbad => ?_, fun hok => ?_⟩⟩
  · rw [h, hp]
    rfl
  · rw [h, hp]
    simp only [hbad, need_false, slotwise_error_bind]
    rfl
  · rw [h, hp]
    simp only [hok, need_true, slotwise_ok_bind]

end

theorem forall_mem_chan {P : Instr → Prop} {ch : Fin 256} {nt : Notif} (hs : P (.chsend ch nt)) (hr : P (.chrecv ch nt)) :
    ∀ i ∈ [Instr.chsend ch nt, .chrecv ch nt], P i := by
  rw [List.forall_mem_cons, List.forall_mem_singleton]
  exact ⟨hs, hr⟩

/-- Settles O34: one lemma for the issue of any copy, and what a channel instruction finds in its entry before it. -/
theorem copyCommands : Obligations.CopyCommands := by
  refine ⟨fun s sd sa sb nt rw d a b hd ha hb => ?_, fun s ch nt => ⟨fun h => ?_, fun hcomm xs l => ?_⟩⟩
  · exact ⟨issues_of (copyRegs_exec hd ha hb), issues_of (copyRegs_exec hd ha hb), issues_of (copyRegs_exec hd ha hb),
      issues_of (copyRegs_exec hd ha hb), issues_of (copyRegs_exec hd ha hb), fun n hn => issues_of (cgather_exec hd ha hb hn)⟩
  · exact forall_mem_chan (chanIssue_outside h) (chanIssue_outside h)
  · intro ls w hxs hl hbefore hto hhome u v
    have hcases := fun k => chanIssue_cases (k := k) (nt := nt) hcomm hxs hl hbefore hto hhome
    refine ⟨fun pa hp => forall_mem_chan ((hcases _).1 pa hp) ((hcases _).1 pa hp), fun hp ⟨x, hx, hout⟩ => ?_, fun hp hin => ?_⟩
    · have hall : ls.all w.locInStack = false := by
        rw [Bool.eq_false_iff, ne_eq, List.all_eq_true]
        exact fun h => absurd (h x hx) (by rw [hout]; decide)
      have hbad : ∀ k : CmdKind, (ls.all w.locInStack && v.ok && v.dir == (k == .chrecv)) = false := fun k => by rw [hall]; rfl
      exact forall_mem_chan (((hcases _).2 hp).1 (hbad _)) (((hcases _).2 hp).1 (hbad _))
    · have hall : ls.all w.locInStack = true := List.all_eq_true.2 hin
      have hcond : ∀ k : CmdKind, (ls.all w.locInStack && v.ok && v.dir == (k == .chrecv)) = (v.ok && v.dir == (k == .chrecv)) :=
        fun k => by rw [hall, Bool.true_and]
      refine ⟨fun hok => ?_, fun hok => ⟨fun hdir => ⟨?_, ?_⟩, fun hdir => ⟨?_, ?_⟩⟩⟩
      · have hbad : ∀ k : CmdKind, (ls.all w.locInStack && v.ok && v.dir == (k == .chrecv)) = false := fun k => by
          rw [hcond, hok, Bool.false_and]
        exact forall_mem_chan (((hcases _).2 hp).1 (hbad _)) (((hcases _).2 hp).1 (hbad _))
      · exact issues_of (((hcases _).2 hp).2 (by rw [hcond, hok, hdir]; rfl))
      · exact ((hcases _).2 hp).1 (by rw [hcond, hok, hdir]; rfl)
      · exact issues_of (((hcases _).2 hp).2 (by rw [hcond, hok, hdir]; rfl))
      · exact ((hcases _).2 hp).1 (by rw [hcond, hok, hdir]; rfl)

end Sys2Proof.Machine
end

section
/-! PROOF. What the registers, the rows and the form of memory keep as the machine runs on: windows, barrier groups, the copy engines and
what the fabric answers. -/

namespace Sys2Proof.Machine

namespace Quiet

section
variable {s t u : State} (h : Quiet s t)
include h

@[simp] theorem dropWakes {core : Nat} : Quiet s (t.dropWakes core) := by
  unfold State.dropWakes
  simp [h]

@[simp] theorem bundleTrap {x : Nat} {t' : TrapInfo} {ba rep : Nat} : Quiet s (t.bundleTrap x t' ba rep) := .takeTrap h

@[simp] theorem wakeNext {x g : Nat} : Quiet s (t.wakeNext x g) := by
  have hneed : Quiet { t with cur := x, clock := t.clock + 1 } (({ t with cur := x, clock := t.clock + 1 } : State).applyNeed
      (.wake (coreOf x) g)) := .applyNeed (.refl _)
  exact h.trans ⟨rfl, hneed.regs, hneed.rows, hneed.wf⟩

@[simp] theorem fillTlb {d : Nat} {cores : List Nat} {e : TlbEntry} : Quiet s (t.fillTlb d cores e) :=
  .foldl (.setDie h) fun _ _ h => .setCluster (.setCore h (by rfl))

@[simp] theorem bar {f : State → State} (hf : Quiet s (f t)) : Quiet s (t.bar f) := .ite hf (.same h rfl rfl rfl rfl)

@[simp] theorem edgeSend {q : Nat} : Quiet s (t.edgeSend q) := by
  unfold State.edgeSend
  dsimp only
  repeat' split
  all_goals simp +contextual [h]

@[simp] theorem fillCopy {c : WCopy} {bs : List Byte} : Quiet s (t.fillCopy c bs) := .setCore h (by rfl)

@[simp] theorem dieForward {o : WObj} {d req : Nat} : Quiet s (t.dieForward o d req) := by
  unfold State.dieForward
  dsimp only
  split
  · exact .wsend (.setEntry h)
  · split
    · exact .wsend (.disown (.setEntry h))
    · exact .fromMemory (.disown (.setEntry h)) (.disown (.setEntry h))

@[simp] theorem dieYield {o : WObj} {d req : Nat} {owes : Bool} : Quiet s (t.dieYield o d req owes) :=
  .collected (.foldl (.setEntry h) fun _ _ h => .wsend h)

@[simp] theorem takeData {m : WMsg} : Quiet s (t.takeData m) := by
  unfold State.takeData
  dsimp only
  repeat' split
  all_goals simp [h]

@[simp] theorem yieldCopy {c : WCopy} : Quiet s (t.yieldCopy c) := .setCopy h

@[simp] theorem invalidateCopy {m : WMsg} : Quiet s (t.invalidateCopy m) := by
  unfold State.invalidateCopy
  dsimp only
  repeat' split
  all_goals simp [h]

theorem takeInv {m : WMsg} (he : t.takeInv m = some u) : Quiet s u := by
  unfold State.takeInv at he
  split at he
  · exact Option.some.inj he ▸ .dieYield h
  · split at he
    · exact nomatch he
    · exact Option.some.inj he ▸ .invalidateCopy h

@[simp] theorem noOwner {m : WMsg} : Quiet s (t.noOwner m) := .ite (.ite (.setEntry h) h) (.disown (.ite (.setEntry h) h))

theorem takeForward {m : WMsg} (he : t.takeForward m = some u) : Quiet s u := by
  unfold State.takeForward at he
  dsimp only at he
  split at he
  · exact Option.some.inj he ▸ .ite (.dieYield h) (.dieForward h)
  · split at he
    · exact nomatch he
    · split at he
      · exact nomatch he
      · split at he
        · refine Option.some.inj he ▸ .wsend ?_
          split <;> simp [h]
        · refine Option.some.inj he ▸ .wsend ?_
          split <;> simp [h]

@[simp] theorem takeWriteBack {m : WMsg} : Quiet s (t.takeWriteBack m) := by
  refine .wsend (.leaveDir ?_)
  split
  · exact .ite (.homeWrite h) h
  · exact h

@[simp] theorem takeHomeAck {m : WMsg} : Quiet s (t.takeHomeAck m) := by
  unfold State.takeHomeAck
  split
  · exact h
  · split <;> simp [h]

@[simp] theorem arrive {l : Launch} {g : Fin 256} : Quiet s (t.arrive l g) :=
  .ite (.goesAway h) (.ite (.logged h) (.settleGroup (.setGroup h)))

@[simp] theorem groupFrom {pkg : Nat} {l : Launch} {g : Fin 256} {m : GroupMsg} : Quiet s (t.groupFrom pkg l g m) := by
  refine .ite h ?_
  split
  · exact .arrive h
  next n x e q =>
    split
    · cases hp : t.addPend l g n.toNat x e q with
      | none => exact .goesAway h
      | some u => exact .addPend h hp
    · cases hp : t.subPend l g (-n).toNat x e q with
      | none => exact .goesAway h
      | some u => exact .subPend h hp
  · exact h

@[simp] theorem phaseFrom {l : Launch} {g : Fin 256} {ph : BitVec 16} : Quiet s (t.phaseFrom l g ph) :=
  .ite h (.signalMembers (.setGroup h))

@[simp] theorem cmdPoison {core : Nat} {e : Bool} {c : Cmd} {pa : Nat} : Quiet s (t.cmdPoison core e c pa) :=
  .fatalCtx (.logged (.cmdFault h))

@[simp] theorem mcastOut {x : Nat} {e : Bool} {ws : List (Loc × Byte)} : Quiet s (t.mcastOut x e ws) := .setDie h

@[simp] theorem pieceDone {core : Nat} {e : Bool} {c : Cmd} {n : Nat} : Quiet s (t.pieceDone core e c n) := by
  unfold State.pieceDone
  dsimp only
  split
  case h_1 u hu => exact .unpend (.setHead h) hu
  case h_2 => exact .cmdFault (.setHead h)

@[simp] theorem engineWalk {c : Cmd} {va : Nat} : Quiet s (t.engineWalk c va) := .setDie h

@[simp] theorem engineStop {core : Nat} {e : Bool} {c : Cmd} {f : EFault} : Quiet s (t.engineStop core e c f) :=
  .ite (.engineWalk h) (.ite (.cmdFault h) (.cmdPoison h))

@[simp] theorem askForCmd {core : Nat} {e : Bool} {c : Cmd} {own : Bool} {o : Fin 16 × Nat × WObj} :
    Quiet s (t.askForCmd core e c own o) := by
  refine .ite (.exportFault (.cmdFault h)) (.ite (.cmdFault h) ?_)
  split
  · exact .cmdPoison h
  · exact .askCopy h

@[simp] theorem pushOut {core : Nat} {e : Bool} {c : Cmd} {ws : List (Loc × Byte)} {n : Nat} :
    Quiet s (t.pushOut core e c ws n) := by
  unfold State.pushOut
  dsimp only
  split
  · exact .pieceDone h
  · split
    · exact .setHead (.request h)
    · split
      · exact .askForCmd (.setHead h)
      · exact .ite (.setHead (.foldl h fun _ _ h => .put h)) (.pieceDone (.foldl h fun _ _ h => .put h))

@[simp] theorem landPiece {core : Nat} {e : Bool} {c : Cmd} {n : Nat} {ws : List (Loc × Byte)} {fl : Flags} :
    Quiet s (t.landPiece core e c n ws fl) :=
  .ite (.setHead (.foldl (.mcastOut (.useDieTlb h)) fun _ _ h => .put h)) (.pushOut (.foldl (.useDieTlb h) fun _ _ h => .put h))

@[simp] theorem landApart {core : Nat} {e : Bool} {c : Cmd} {n : Nat} {ws : List (Loc × Byte)} {fl : Flags} :
    Quiet s (t.landApart core e c n ws fl) := by
  unfold State.landApart
  simp [h]

@[simp] theorem fetchPeer {core : Nat} {e : Bool} {c : Cmd} {ls : List Loc} {source : Bool} :
    Quiet s (t.fetchPeer core e c ls source) := by
  unfold State.fetchPeer
  split <;> simp [h]

@[simp] theorem fetchOld {core : Nat} {e : Bool} {c : Cmd} {ls : List Loc} : Quiet s (t.fetchOld core e c ls) := by
  unfold State.fetchOld
  split <;> simp [h]

@[simp] theorem runPlan {core : Nat} {e : Bool} {c : Cmd} {n : Nat} {ixs : List Loc} {p : Plan} :
    Quiet s (t.runPlan core e c n ixs p) := by
  unfold State.runPlan
  dsimp only
  repeat' split
  all_goals simp [h]

@[simp] theorem tellPeer {x : Nat} {k : Chan} {arrival : Bool} : Quiet s (t.tellPeer x k arrival) := .ite (.send h) (.request h)

@[simp] theorem chanStep {core : Nat} {e : Bool} {c : Cmd} : Quiet s (t.chanStep core e c) := by
  unfold State.chanStep
  dsimp only
  split
  · exact .cmdPoison (.enterAll h)
  · exact .ite (.setHead (.enterAll h)) (.enterAll h)
  · exact .ite (.setHead (.setChan (.setChan (.enterAll h)))) (.enterAll h)

@[simp] theorem chanSent {c : Cmd} : Quiet s (t.chanSent c) := .tellPeer (.setChan (.setChan (.enterAll h)))

@[simp] theorem startCmd {core : Nat} {e : Bool} {c : Cmd} : Quiet s (t.startCmd core e c) := by
  unfold State.startCmd
  dsimp only
  split
  · exact .ite h (.setHead h)
  · exact .chanStep (.setHead h)
  · split
    · exact .cmdPoison (.enterAll h)
    · exact .ite (.enterAll h) (.setHead (.ite (.tellPeer (.enterAll h)) (.setChan (.enterAll h))))
  · refine .ite (.setHead h) ?_
    split
    · exact .engineWalk h
    · exact .setHead h

@[simp] theorem copyStart {core : Nat} {e : Bool} : Quiet s (t.copyStart core e) := by
  unfold State.copyStart
  split <;> simp [h]

@[simp] theorem settleDrops {x : Nat} : Quiet s (t.settleDrops x) :=
  .foldl h fun _ _ h => .ite h (.ite (.setCtx h (by rfl)) (.ite h (.ite (.setCtx h (by rfl)) (.foldl h fun _ _ h => .evictCopy h))))

@[simp] theorem contribute {core : Nat} {e : Bool} {c : Cmd} {w : RedWord} {bs : List Byte} :
    Quiet s (t.contribute core e c w bs) :=
  .setHead (.foldl h fun _ _ h => .request h)

@[simp] theorem credRead {core : Nat} {e : Bool} {c : Cmd} {w : RedWord} : Quiet s (t.credRead core e c w) := by
  unfold State.credRead
  dsimp only
  split
  · exact .engineStop h
  · refine .ite (.cmdFault h) (.ite (.setHead h) ?_)
    split
    · exact .cmdPoison h
    · exact .ite (.contribute h) (.cmdFault h)

@[simp] theorem doPiece {core : Nat} {e : Bool} {k : Cmd} : Quiet s (t.doPiece core e k) := by
  have hgo : ∀ (c : Cmd) (n : Nat) (ixs : List Loc) (p : Except EFault Plan), Quiet s (match p with
      | .error f => t.engineStop core e c f
      | .ok p => t.runPlan core e c n ixs p) := fun c n ixs p => by
    cases p with
    | error f => exact .engineStop h
    | ok p => exact .runPlan h
  unfold State.doPiece
  dsimp only
  split
  · split
    · exact .engineStop h
    · exact .ite (.setHead h) (hgo _ _ _ _)
  · exact hgo _ _ _ _
  · exact hgo _ _ _ _
  · exact hgo _ _ _ _

@[simp] theorem nextPiece {core : Nat} {e : Bool} {c : Cmd} : Quiet s (t.nextPiece core e c) := by
  unfold State.nextPiece
  split <;> simp [h]

omit h in
@[simp] theorem gather {core : Nat} {e : Bool} {c : Cmd} {n : Nat} (h : Quiet s t) : Quiet s (t.gather core e c n) := by
  induction n generalizing t c with
  | zero => exact .setCmd h
  | succ n ih =>
    unfold State.gather
    dsimp only
    refine .ite (.setCmd h) ?_
    split
    · exact .ite (.engineWalk (.setCmd h)) (ih h)
    · split
      · exact ih h
      · refine .ite (.fetchPeer h) ?_
        split
        · exact ih h
        · exact .ite (ih (.spendCopies h)) (.askForCmd (.setCmd h))

@[simp] theorem copyGather {core : Nat} {e : Bool} : Quiet s (t.copyGather core e) := by
  unfold State.copyGather
  split
  · exact h
  · refine .ite h ?_
    split
    · exact .engineWalk h
    · exact .gather h

@[simp] theorem copyLand {core : Nat} {e : Bool} : Quiet s (t.copyLand core e) := by
  unfold State.copyLand
  split
  · exact h
  · refine .ite h ?_
    split
    · refine .ite (.copyGather h) ?_
      split
      · exact .credRead h
      · refine .ite (.setHead h) ?_
        split
        · exact .pushOut h
        · exact .nextPiece h
    · split
      · exact h
      · exact .ite (.pushOut h) h
      · exact .chanStep h
    · exact h

@[simp] theorem notify {e : Bool} {c : Cmd} : Quiet s (t.notify e c) := by
  unfold State.notify
  extract_lets sent x flagged told y
  have hsent : Quiet s sent := .ite (.chanSent h) h
  have hflagged : Quiet s flagged := .setCtx hsent (by rfl)
  have htold : Quiet s told := .ite hflagged (by
    split
    · exact .postFlag hflagged
    · exact .bumpFlag hflagged)
  exact .ite (.ite (.setCtx htold (by rfl)) htold) htold

@[simp] theorem copyComplete {core : Nat} {e : Bool} : Quiet s (t.copyComplete core e) := by
  unfold State.copyComplete
  split
  · exact h
  · refine .ite h ?_
    split
    · split
      · exact .cmdPoison h
      · exact .notify (.setQueue h)
    · exact .setQueue h
    · exact h

@[simp] theorem tellPhase {x : Nat} {g : Fin 256} {ph : BitVec 16} : Quiet s (t.tellPhase x g ph) := by
  unfold State.tellPhase
  split
  case h_1 u hu => exact .holdRequest h hu
  case h_2 => exact .setCtx h (by rfl)

@[simp] theorem pendRefused {x : Nat} {e : Bool} {qix : Nat} : Quiet s (t.pendRefused x e qix) := by
  unfold State.pendRefused
  split <;> simp [h]

@[simp] theorem fillExport {ta : Nat} : Quiet s (t.fillExport ta) := by
  unfold State.fillExport
  dsimp only
  repeat' split
  all_goals simp [h]

@[simp] theorem noteMiss {h' : Hdr} {st : Nat} : Quiet s (t.noteMiss h' st) := .ite (.logged h) h

@[simp] theorem atSource {h' : Hdr} {as : List Nat} : Quiet s (t.atSource h' as) := .ite (.enterObj h) h

@[simp] theorem remoteBlock {k : Hdr} {p : Packet} : Quiet s (t.remoteBlock k p) := by
  unfold State.remoteBlock
  dsimp only
  split
  · exact .respond (.memWrite (.atSource h))
  · exact .respond (.noteMiss h)
  · exact .respond (.noteMiss h)
  · exact .respond (.noteMiss h)
  · exact .respond (.noteMiss h)
  · exact .respond h

@[simp] theorem closeReq {tag : Nat} : Quiet s (t.closeReq tag) := .setHub h

@[simp] theorem failRound {rid : Nat} : Quiet s (t.failRound rid) := by
  unfold State.failRound
  simp +contextual [h]

@[simp] theorem endAsk {o : WObj} {x : Nat} : Quiet s (t.endAsk o x) :=
  .leaveDir (.homeFree (.ite (.homeFree (.setEntry h)) (.setEntry h)))

@[simp] theorem windowFailed {o : WObj} {x : Nat} : Quiet s (t.windowFailed o x) := by
  refine .endAsk (.setCtx ?_ (by rfl))
  split
  · refine .foldl (.setCopy h) fun _ _ h => ?_
    split
    · exact .ite (.cmdFault h) h
    · exact h
  · exact h

@[simp] theorem opAnswer {x : Nat} {r : Req} {k : Hdr} {p : Packet} : Quiet s (t.opAnswer x r k p) := by
  unfold State.opAnswer
  dsimp only
  split
  · exact h
  · refine .ite (.exportFault (.dropOp h)) (.ite (.fatalCtx (.logged (.dropOp h))) (.ite (.setOp h) (.ite (.setOp h) ?_)))
    split
    · exact .setOp h
    · exact .peerAnswer h
    · exact .peerAnswer h
    · exact .ite (.blockDone h) (.peerAnswer h)
    · exact .peerAnswer h

@[simp] theorem copyAnswer {core : Nat} {e : Bool} {r : Req} {k : Hdr} {p : Packet} : Quiet s (t.copyAnswer core e r k p) := by
  unfold State.copyAnswer
  dsimp only
  split
  · split
    · exact .copyGot h
    · exact .copyAcked h
  · split
    · exact .ite (.copyFailed h) (.ite (.fatalCtx (.logged (.copyFailed h))) (.exportFault (.copyFailed h)))
    · exact h

@[simp] theorem answered {k : Hdr} {p : Packet} : Quiet s (t.answered k p) := by
  unfold State.answered
  dsimp only
  split
  · exact h
  · split
    · split
      case h_1 u hu => exact .holdResponse h hu
      case h_2 =>
        split
        · exact .opAnswer (.closeReq h)
        · exact .copyAnswer (.closeReq h)
        · exact .copyAnswer (.closeReq h)
        · exact .closeReq h
    · split
      · refine .ite (.homeBytes (.closeReq h)) (.ite (.windowFailed (.closeReq h)) ?_)
        refine .ite (.fatalCtx (.logged (.windowFailed (.closeReq h)))) ?_
        exact .exportFault (.windowFailed (.closeReq h))
      · exact .ite (.closeReq h) (.failRound (.closeReq h))
      · exact .ite (.exportFault (.closeReq h)) (.closeReq h)

end

end Quiet

end Sys2Proof.Machine
end

section
/-! PROOF. What the registers, the rows and the form of memory keep as the machine runs on: links, routes, channels, the matrix array,
reductions, tokens, walks and the slots that launches take. -/

namespace Sys2Proof.Machine

namespace Quiet

section
variable {s t u : State} (h : Quiet s t)
include h

@[simp] theorem discard {p : Packet} : Quiet s (t.discard p) := .undelivered (.logged h)

@[simp] theorem setLink {l : Fin 16} {k : Link} : Quiet s (t.setLink l k) := .setHub h

@[simp] theorem leave {l : Fin 16} {p : Packet} : Quiet s (t.leave l p) := .setLink h

@[simp] theorem loseContrib {p : Packet} : Quiet s (t.loseContrib p) := .failRound (.closeReq h)

@[simp] theorem stranded {p : Packet} : Quiet s (t.stranded p) := .ite (.outOfHub h) (.ite (.loseContrib h) (.undelivered h))

@[simp] theorem forward {n : Nat} : Quiet s (t.forward n) := by
  unfold State.forward
  dsimp only
  split
  · refine .ite h ?_
    split
    · exact .ite (.leave (.setHub h)) (.ite h (.stranded (.setHub h)))
    · refine .ite (.ite h (.inject (.setHub h))) ?_
      split
      · exact h
      · exact .ite h (.stranded (.setHub h))
      · exact .leave (.setHub h)
  · split
    · exact h
    · refine .ite h (.ite (.discard (.takePacket h)) ?_)
      split
      · exact h
      · exact .ite h (.stranded (.takePacket h))
      · exact .leave (.takePacket h)

@[simp] theorem routeWrite {i : Nat} {v : BitVec 32} : Quiet s (t.routeWrite i v) := .ite (.logged h) (.ite (.logged h) (.setHub h))

@[simp] theorem routeApply {n : Nat} : Quiet s (t.routeApply n) := by
  unfold State.routeApply
  split <;> simp [h]

omit h in
@[simp] theorem codeRead {x pa n : Nat} {fill : State → State} (hf : Quiet s (fill t)) : Quiet s (t.codeRead x pa n fill) :=
  .ite hf (.memError hf)

@[simp] theorem fetchFill {x : Nat} : Quiet s (t.fetchFill x) := by
  unfold State.fetchFill
  dsimp only
  split
  · refine .codeRead ?_
    exact .setCore h (by rfl)
  · refine .codeRead ?_
    exact .setCore h (by rfl)
  · exact h

@[simp] theorem endBundle {x : Nat} : Quiet s (t.endBundle x) := by
  unfold State.endBundle
  dsimp only
  split
  · refine .ite h ?_
    split
    · exact .ite (.traceOpen (.setCtx (.setCtx h (by rfl)) (by rfl))) (.takeTrap (.setCtx h (by rfl)))
    · exact .ite (.leaveTrap (.setCtx h (by rfl))) (.setCtx h (by rfl))
  · exact h

@[simp] theorem losePacket {l : Fin 16} {p : Packet} : Quiet s (t.losePacket l p) := by
  refine .ite ?_ (.stranded h)
  dsimp only
  split
  · exact .setLink (.setCtx (.closeReq h) (by rfl))
  · exact .closeReq h

@[simp] theorem linkDown {l : Fin 16} : Quiet s (t.linkDown l) := by
  unfold State.linkDown
  extract_lets k reset lost hub requeued emptied told
  have hlost : Quiet s lost := .foldl (.setLink h) fun _ _ h => .losePacket h
  have hemptied : Quiet s emptied := by
    refine .foldl (.setHub hlost) fun _ _ h => ?_
    exact .ite (.setCtx (.setLink h) (by rfl)) h
  have htold : Quiet s told := .logged hemptied
  exact .same htold rfl rfl rfl rfl

@[simp] theorem receivePacket {p : Packet} : Quiet s (t.receivePacket p) := .ite (.discard h) (.setHub h)

@[simp] theorem takeFlit {l : Fin 16} {f : BitVec 512} : Quiet s (t.takeFlit l f) := by
  unfold State.takeFlit
  dsimp only
  split
  · exact h
  · exact .ite (.setLink h) (.receivePacket (.setLink h))

@[simp] theorem linkMove {l : Fin 16} {st : LinkState} {f : Link → Link} : Quiet s (t.linkMove l st f) := .ite (.setLink h) h

@[simp] theorem settleDispute {l : Fin 16} : Quiet s (t.settleDispute l) := .ite h (.ite (.setLink h) (.linkDown h))

@[simp] theorem requestOn {l : Fin 16} {loc : Nat} {ty : PType} {ext : Nat} {pay : List (BitVec 512)} {bank : Nat} {who : ReqWho} :
    Quiet s (t.requestOn l loc ty ext pay bank who).1 := .setHub h

@[simp] theorem sendFifo {x : Nat} {l : Fin 16} {ws : List Word} {credits : Nat} : Quiet s (t.sendFifo x l ws credits) := by
  unfold State.sendFifo
  simp [h]

@[simp] theorem sendWords {x : Nat} {l : Fin 16} : Quiet s (t.sendWords x l) := by
  have hregs : ∀ ws n, (t.ctx x).regFile = ((t.sendFifo x l ws n).ctx x).regFile := fun _ _ => ((sendFifo (.refl t)).regs x).symm
  exact .ite h (.ite (.setCtx (.sendFifo h) (hregs _ _)) (.ite (.setCtx (.sendFifo h) (hregs _ _)) h))

@[simp] theorem stepChannel {x ch : Nat} {arrival : Bool} : Quiet s (t.stepChannel x ch arrival) := by
  unfold State.stepChannel
  dsimp only
  split
  · split
    · exact .fatalCtx (.logged (.enterAll h))
    · exact .ite (.logged (.enterAll h)) (.ite (.setChan (.enterAll h)) (.setChan (.enterAll h)))
  · exact .logged h

@[simp] theorem setSlot {p n : Nat} {o : OSlot} : Quiet s (t.setSlot p n o) := .setPair h

@[simp] theorem fill {n : Nat} {o : OSlot} {f : Fill} : Quiet s (t.fill n o f) := .setSlot h

@[simp] theorem fillComplete {p n : Nat} : Quiet s (t.fillComplete p n) := by
  unfold State.fillComplete
  dsimp only
  split
  · exact h
  · exact .ite h (.ite (.setSlot (.useFree h)) (.setSlot (.useFree h)))

@[simp] theorem beat {x n : Nat} {p : Pass} : Quiet s (t.beat x n p) := .setCtx (.setPair h) (by rfl)

@[simp] theorem arrayBeat {x : Nat} : Quiet s (t.arrayBeat x) := by
  refine .ite ?_ h
  split
  · exact .beat h
  · exact h

@[simp] theorem passComplete {x : Nat} : Quiet s (t.passComplete x) := .setCtx h (by rfl)

@[simp] theorem setRed {i : Nat} {e : RedEntry} : Quiet s (t.setRed i e) := .setHub h

omit h in
@[simp] theorem endContrib {hs : List (BitVec 512)} {st : Nat} (h : Quiet s t) : Quiet s (t.endContrib hs st) := by
  induction hs generalizing t with
  | nil => exact h
  | cons k ks ih =>
    cases ks with
    | nil => exact .respond h
    | cons k' ks => exact ih (.respond h)

@[simp] theorem answerContrib {hs : List (BitVec 512)} {bs : List Byte} : Quiet s (t.answerContrib hs bs) := by
  unfold State.answerContrib
  simp +contextual [h]

@[simp] theorem sendUp {l : Fin 16} {i w q : Nat} {bs : List Byte} : Quiet s (t.sendUp l i w q bs) :=
  .foldl h fun _ _ h => .outOfHub (.requestOn h)

@[simp] theorem sendDown {l : Fin 16} {hdr : BitVec 512} {w seq : Nat} {bs : List Byte} : Quiet s (t.sendDown l hdr w seq bs) :=
  .outOfHub h

@[simp] theorem roundDone {i : Nat} {e : RedEntry} {bs : List Byte} : Quiet s (t.roundDone i e bs) :=
  .setRed (.answerContrib (.foldl h fun _ _ h => .sendDown h))

@[simp] theorem settleRound {i : Nat} {was : Bool} {e : RedEntry} : Quiet s (t.settleRound i was e) := by
  refine .ite ?_ (.setRed h)
  dsimp only
  split
  · exact .roundDone h
  · exact .sendUp (.setRed h)

@[simp] theorem localContrib {i : Nat} {e : RedEntry} {x : Nat} {c : Contrib} {ps : List Packet} :
    Quiet s (t.localContrib i e x c ps) := by
  have hset : Quiet s (t.setRed i e) := .setRed h
  have hend : ∀ st, Quiet s ((t.setRed i e).endContrib (ps.map (·.hdr)) st) := fun _ => .endContrib hset
  obtain ⟨fate, hfate⟩ : ∃ fate, seqFate = fate := ⟨_, rfl⟩
  unfold State.localContrib
  rw [hfate]
  dsimp only
  refine .ite (hend _) (.ite (hend _) ?_)
  split
  · exact hend _
  · split
    · exact .settleRound hset
    · exact .ite (.setRed hset) (.answerContrib hset)
    · exact hend _
    · exact hend _

@[simp] theorem childContrib {i : Nat} {e : RedEntry} {l : Fin 16} {c : Contrib} {ps : List Packet} :
    Quiet s (t.childContrib i e l c ps) := by
  have hset : Quiet s (t.setRed i e) := .setRed h
  have hbad : Quiet s (ps.foldl (fun s p => (s.logged (.packet p.hdr)).respond (Hdr.of p.hdr) .ack (respExt stFabric 0) [])
    (t.setRed i e)) := .foldl hset fun _ _ h => .respond (.logged h)
  refine .ite hbad ?_
  split
  · exact .settleRound hset
  · exact .ite (.setRed hset) (.foldl hset fun _ _ h => .sendDown h)
  · exact .foldl hset fun _ _ h => .respond h
  · exact hbad

@[simp] theorem credAnswer {core : Nat} {e : Bool} {k : Hdr} {p : Packet} : Quiet s (t.credAnswer core e k p) := by
  unfold State.credAnswer
  dsimp only
  split
  · exact h
  next c _ =>
    refine .ite h (.ite (.ite (.setHead h) (.setHead h)) (.ite h (.ite (.cmdFault h) (.ite ?_ (.cmdFault h)))))
    cases hu : State.unpend _ e c c.pend with
    | none => exact .setHead h
    | some u => exact .unpend (.setHead h) hu

@[simp] theorem resultHere {k : Hdr} {p : Packet} : Quiet s (t.resultHere k p) := by
  unfold State.resultHere
  split
  · split
    · split
      case h_1 u hu => exact .holdResponse h hu
      case h_2 => exact .credAnswer (.closeReq h)
    · exact h
  · exact h

@[simp] theorem resultDown {l : Fin 16} {k : Hdr} {p : Packet} : Quiet s (t.resultDown l k p) :=
  .ite (.failRound (.closeReq h)) (.ite (.ite (.roundDone (.closeReq h)) (.logged (.setRed (.closeReq h)))) (.setRed (.closeReq h)))

@[simp] theorem redEntryWrite {i : Nat} {v : BitVec 128} : Quiet s (t.redEntryWrite i v) := by
  have hanswered : Quiet s (if (t.red i).waiters.isEmpty then t
    else (t.answerContrib (t.red i).waiters (leBytes 4096 (t.freeNat 512))).useFree 512) := .ite h (.useFree (.answerContrib h))
  exact .ite (.setRed (.foldl hanswered fun _ _ h => .respond h)) (.setRed (.foldl hanswered fun _ _ h => .respond h))

@[simp] theorem prioritySwap {core : Nat} : Quiet s (t.prioritySwap core) := by
  unfold State.prioritySwap
  split
  · exact .ite (.same h rfl rfl rfl rfl) h
  · exact h

@[simp] theorem retain {core g : Nat} : Quiet s (t.retain core g) := .ite (.setCore h (by rfl)) h

@[simp] theorem wakeDone {core g : Nat} : Quiet s (t.wakeDone core g) := .ite (.setCore (.setDie h) (by rfl)) h

@[simp] theorem wakeTick {core : Nat} : Quiet s (t.wakeTick core) := .ite h (.setCore h (by rfl))

@[simp] theorem refill {d : Nat} : Quiet s (t.refill d) := .ite (.setDie h) h

@[simp] theorem serveTokens {d : Nat} : Quiet s (t.serveTokens d) := .setDie h

@[simp] theorem serveAll {d : Nat} : Quiet s (t.serveAll d) := .foldl h fun _ _ h => .serveTokens h

@[simp] theorem spadIn {core : Nat} {cs : List Host.Cell} {src : Option (Nat × Bool)} : Quiet s (t.spadIn core cs src) := by
  unfold State.spadIn
  split
  case h_1 u hu => exact .holdRequest h hu
  case h_2 => exact .setCore h (by rfl)

@[simp] theorem mcastLand {d n : Nat} : Quiet s (t.mcastLand d n) := by
  unfold State.mcastLand
  dsimp only
  split
  · exact h
  · refine .ite h ?_
    split
    · exact .ite h (.spadIn (.setDie h))
    · exact .foldl (.setDie h) fun _ _ h => .ite (.setDie h) (.spadIn h)

@[simp] theorem walkDone {d n : Nat} : Quiet s (t.walkDone d n) := by
  unfold State.walkDone
  dsimp only
  split
  · exact h
  · refine .ite h ?_
    split
    · exact .fillTlb (.setDie h)
    · exact .setDie h

@[simp] theorem forgetWalkFaults {d : Nat} : Quiet s (t.forgetWalkFaults d) := .ite h (.setDie h)

@[simp] theorem setQ {q hi lo v : Nat} : Quiet s (t.setQ q hi lo v) := .memWrite h

@[simp] theorem queueError {q : Nat} : Quiet s (t.queueError q) := .logged (.setQ h)

@[simp] theorem reserve {x : Nat} {l : Launch} {i : Nat} {f : Fit} : Quiet s (t.reserve x l i f) := .setLaunch (.setCtx h (by rfl))

@[simp] theorem takePairs {ids : List Nat} : Quiet s (t.takePairs ids) := .foldl h fun _ _ h => by split <;> simp [h]

@[simp] theorem markMembers {l : Launch} {i x : Nat} : Quiet s (t.markMembers l i x) :=
  .foldl h fun _ _ h => .ite (.setGroup h) h

@[simp] theorem freed {x : Nat} : Quiet s (t.freed x) := .setHub h

@[simp] theorem enterRerun {x cause : Nat} : Quiet s (t.enterRerun x cause) := .takeTrap h

@[simp] theorem dropSaved {n : Nat} : Quiet s (t.dropSaved n) := .setHub h

@[simp] theorem freeWorker {x : Nat} : Quiet s (t.freeWorker x) := .setCtx (.setPair h) (by rfl)

end

end Quiet

end Sys2Proof.Machine
end

section
/-! PROOF. Device memory stays in its canonical form as the machine changes registers, rows and contexts: results land, workers start and
retire, pairs are frozen, saved and restored, registers are written, and the units that run with the clock go on. -/

namespace Sys2Proof.Machine

/-- Device memory is in its canonical form. -/
def Tidy (s : State) : Prop := Memory.wf s.mem = true

namespace Tidy

section
variable {s t u : State}

theorem of (q : Quiet s t) (h : Tidy s) : Tidy t := q.wf h

theorem same (h : Tidy t) (hm : u.mem = t.mem) : Tidy u := by
  unfold Tidy
  rw [hm]
  exact h

theorem foldl {α : Type} {f : State → α → State} {xs : List α} (h :
    Tidy t) (hf : ∀ u a, Tidy u → Tidy (f u a)) : Tidy (xs.foldl f t) :=
  foldl_keeps (P := Tidy) hf xs t h

theorem ite {p : Prop} [Decidable p] (h : Tidy t) (k : Tidy u) : Tidy (if p then t else u) := by
  split
  · exact h
  · exact k

theorem getD {o : Option State} (h : Tidy t) (ho : ∀ u, o = some u → Tidy u) : Tidy (o.getD t) := by
  cases o with
  | none => exact h
  | some u => exact ho u rfl

variable (h : Tidy t)
include h

theorem setCtx {x : Nat} {c : Ctx} : Tidy (t.setCtx x c) := h

theorem setMe {c : Ctx} : Tidy (t.setMe c) := h

theorem setCore {n : Nat} {k : CoreSt} : Tidy (t.setCore n k) := h

theorem setPair {n : Nat} {p : PairSt} : Tidy (t.setPair n p) := h

theorem setCluster {n : Nat} {c : ClusterSt} : Tidy (t.setCluster n c) := h

theorem setDie {n : Nat} {d : DieSt} : Tidy (t.setDie n d) := h

theorem setHub {v : Hub} : Tidy { t with hub := v } := h

theorem land {x : Nat} {w : Write} : Tidy (t.land x w) := by
  cases w with
  | window wn =>
    dsimp only [State.land]
    split
    · exact .setCtx h
    · exact h
  | _ => exact h

theorem landAll {x : Nat} {entries : List Latch} : Tidy (t.landAll x entries) :=
  .setCtx (.foldl (.of (.dropWakes (.refl _)) (.foldl h fun _ _ h => .land h)) fun _ _ h => .land h)

theorem deliver {x : Nat} {r : Write × Flags} : Tidy (t.deliver x r) := .setCtx (.land h)

theorem landLoad {x n : Nat} : Tidy (t.landLoad x n) := by
  unfold State.landLoad
  split
  · exact h
  · refine .ite h (.ite (.of (.wakeNext (.refl _)) h) ?_)
    split
    · split
      · exact .deliver (.of (.dropOp (.refl _)) h)
      · exact h
    · split
      · exact .of (.memError (.refl _)) (.deliver (.of (.dropOp (.refl _)) h))
      · exact h
    · exact h

theorem landRows {x : Nat} : Tidy (t.landRows x) := by
  unfold State.landRows
  dsimp only
  split
  · exact h
  · exact .landAll (.setCtx h)

theorem startWorker {x : Nat} {l : Launch} {i : Nat} {f : Fit} : Tidy (t.startWorker x l i f) :=
  .setCtx (.setPair (.setCore (.of (.markMembers (.refl _)) (.of (.reserve (.refl _)) h))))

theorem startRerun {x : Nat} {l : Launch} {w : SavedW} {f : Fit} : Tidy (t.startRerun x l w f) :=
  .of (.enterRerun (.refl _)) (.startWorker h)

theorem placeFresh {x : Nat} {l : Launch} : Tidy (t.placeFresh x l) := by
  unfold State.placeFresh
  refine .ite ?_ ?_
  · split
    · exact .foldl (.of (.setLaunch (.refl _)) h) fun _ _ h => .startWorker h
    · exact h
  · dsimp only
    split
    · exact .startWorker (.of (.setLaunch (.refl _)) h)
    · exact h

theorem retire {x : Nat} : Tidy (t.retire x) := by
  have hfree : Tidy (t.freeWorker x) := .of (.freeWorker (.refl _)) h
  have hfreed : Tidy ((t.freeWorker x).freed x) := .of (.freed (.refl _)) hfree
  unfold State.retire
  dsimp only
  refine .ite h ?_
  split
  · refine .ite (.of (.fatalCtx (.refl _)) h) (.ite h (.ite (.ite h (.setCtx h)) ?_))
    split
    · split
      · refine .ite ?_ hfreed
        split
        · exact .startWorker (.of (.setLaunch (.refl _)) hfree)
        · exact hfreed
      · exact hfreed
    · exact hfreed
  · split
    · exact .ite hfreed h
    · exact h
  · exact h

theorem signalEntry {q v : Nat} : Tidy (t.signalEntry q v) := .ite (.same h rfl) (.ite h (.setHub h))

theorem writeEntry {c : Completion} : Tidy (t.writeEntry c) :=
  .signalEntry (.of (.setQ (.refl _)) (.of (.memWrite (.refl _)) h))

theorem complete {c : Completion} : Tidy (t.complete c) := .ite (.setHub h) (.writeEntry h)

theorem writeHeld {q : Nat} : Tidy (t.writeHeld q) := by
  unfold State.writeHeld
  split
  · exact h
  · split
    · exact .ite (.writeEntry (.setHub h)) h
    · exact h

theorem coalesced {q : Nat} : Tidy (t.coalesced q) := by
  unfold State.coalesced
  split
  · exact .ite (.same h rfl) h
  · exact h

theorem cleanDies {on : Nat → Bool} : Tidy (t.cleanDies on) :=
  .foldl h fun _ _ h => .ite (.of (.drainAbuf (.refl _)) (.foldl h fun _ _ h => .of (.cleanAll (.refl _)) h)) h

theorem settleReplay {i : Nat} : Tidy (t.settleReplay i) := by
  unfold State.settleReplay
  split
  · exact h
  · exact .ite h (.complete (.setHub (.cleanDies h)))

theorem launchComplete {i : Nat} : Tidy (t.launchComplete i) := by
  unfold State.launchComplete
  split
  · exact h
  · refine .ite h ?_
    extract_lets u hub v
    have hv : Tidy v := .setHub (.ite (.cleanDies h) h)
    split
    · exact .complete hv
    · exact .settleReplay (.setHub hv)

theorem emptyPart {l : Launch} : Tidy (t.emptyPart l) := .same h rfl

theorem startGroups {l : Launch} : Tidy (t.startGroups l) := .foldl h fun _ _ h => .of (.setGroup (.refl _)) h

theorem enterLaunch {l : Launch} : Tidy (t.enterLaunch l) := .setHub (.startGroups h)

theorem cleanRegion {d sc : Nat} {rs : List (Nat × Nat)} : Tidy (t.cleanRegion d sc rs) := by
  unfold State.cleanRegion
  extract_lets u
  have hu : Tidy u := .ite h (.foldl h fun _ _ h => .foldl h fun _ _ h => .ite (.of (.cleanLine (.refl _)) h) h)
  exact .ite hu (.foldl hu fun _ _ h => .ite (.of (.evictAbuf (.refl _)) h) h)

theorem discardRegion {d sc : Nat} {rs : List (Nat × Nat)} : Tidy (t.discardRegion d sc rs) := by
  unfold State.discardRegion
  extract_lets u
  have hu : Tidy u := .ite h (.foldl h fun _ _ h => .foldl h fun _ _ h => .ite (.of (.discardLine (.refl _)) h) h)
  exact .ite hu (.foldl hu fun _ _ h => .ite (.of (.evictAbuf (.refl _)) h) h)

theorem overRegions {f : State → Nat → Nat → List (Nat × Nat) → State} {r : Replay} {a : Task} {rs : List Region}
    (hf : ∀ u d sc l, Tidy u → Tidy (f u d sc l)) : Tidy (t.overRegions f r a rs) :=
  .foldl h fun _ _ h => .ite h (.foldl h fun _ _ h => hf _ _ _ _ h)

theorem edgeComplete {i e : Nat} : Tidy (t.edgeComplete i e) := by
  unfold State.edgeComplete
  dsimp only
  split
  · exact h
  · refine .ite h ?_
    split
    · split
      · exact h
      · exact .setHub (.overRegions h fun _ _ _ _ h => .cleanRegion h)
    · exact h

theorem nodeStart {i n : Nat} : Tidy (t.nodeStart i n) := by
  unfold State.nodeStart
  split
  · exact h
  · refine .ite h ?_
    dsimp only
    split
    · exact .settleReplay (.setHub h)
    · split
      · exact .settleReplay (.setHub h)
      · exact .setHub (.enterLaunch (.foldl h fun _ _ h => .overRegions h fun _ _ _ _ h => .discardRegion h))

theorem takePkt {q : Nat} {p : Fin 4} : Tidy (t.takePkt q p) := by
  unfold State.takePkt
  extract_lets v a u turn used ptroot tvec ok no
  have hu : Tidy u := .of (.setQ (.refl _)) h
  have hok : ∀ w, Tidy w → Tidy (ok w) := fun _ h => .setHub h
  have hno : ∀ st dt, Tidy (no st dt) := fun _ _ => .complete hu
  split
  · refine .ite (hno _ _) ?_
    split
    · exact hno _ _
    · exact hok _ (.setHub hu)
  · exact .ite (hno _ _) (hok _ (.setHub hu))
  · split
    · exact hno _ _
    · exact hok _ (.enterLaunch hu)

theorem admitNext : Tidy t.admitNext := by
  unfold State.admitNext
  split
  · exact .of (.queueError (.refl _)) h
  · refine .ite h ?_
    split
    · exact .takePkt h
    · exact h

theorem freezePair {p : Nat} : Tidy (t.freezePair p) := by
  unfold State.freezePair
  refine .ite h (.foldl (.setPair h) fun _ _ h => .ite h ?_)
  exact .setCtx (.of (.traceOpen (.refl _)) (.of (.dropToken (.refl _)) h))

theorem askRelease {p : Nat} : Tidy (t.askRelease p) := by
  unfold State.askRelease
  dsimp only
  split
  · exact .of (.askTokens (.refl _)) (.setPair h)
  · exact h

theorem deliverHeld {a : Held} : Tidy (t.deliverHeld a) := by
  cases a with
  | flag x k n sc => exact .of (.bumpFlag (.refl _)) h
  | cells core cs src => exact .of (.spadIn (.refl _)) h
  | signal x g ph => exact .of (.tellPhase (.refl _)) h

theorem deliverPacket {p : Packet} : Tidy (t.deliverPacket p) := .ite (.of (.resultHere (.refl _)) h) (.of (.answered (.refl _)) h)

theorem thaw {p : Nat} : Tidy (t.thaw p) := by
  unfold State.thaw
  dsimp only
  split
  · exact h
  · refine .ite h (.foldl (.foldl (.foldl (.foldl (.foldl (.setPair (.setDie h)) ?_) ?_) ?_) ?_) ?_)
    · exact fun _ _ h => .setCore h
    · exact fun _ _ h => .setCtx h
    · exact fun _ _ h => .deliverPacket h
    · exact fun _ _ h => .deliverHeld h
    · exact fun _ _ h => .deliverPacket h

theorem without {xs : List Nat} : Tidy (t.without xs) := .foldl h fun _ _ h => .setCtx (.setPair h)

theorem requestSave {xs : List Nat} : Tidy (t.requestSave xs) := .foldl h fun _ _ h => .setCtx h

theorem trigger {l : Launch} {d : Nat} {avoid : Nat → Bool} (he : t.trigger l d avoid = some u) : Tidy u := by
  unfold State.trigger at he
  obtain ⟨xs, -, rfl⟩ := Option.map_eq_some_iff.mp he
  exact .requestSave (.of (.setLaunch (.refl _)) h)

theorem preempt {i : Nat} : Tidy (t.preempt i) := by
  unfold State.preempt
  split
  · exact h
  · refine .getD h fun u hu => ?_
    obtain ⟨d, -, hd⟩ := List.exists_of_findSome?_eq_some hu
    split at hd
    · exact .trigger h hd
    · cases hd

theorem waitTick : Tidy t.waitTick := .setHub h

theorem releaseVictims {xs : List Nat} : Tidy (t.releaseVictims xs) := .foldl h fun _ _ h => .askRelease (.setCtx h)

theorem nextVictims {ds : List Nat} {avoid : Nat → Bool} : Tidy (t.nextVictims ds avoid) := by
  unfold State.nextVictims
  refine .getD h fun u hu => ?_
  obtain ⟨l, -, hl⟩ := List.exists_of_findSome?_eq_some hu
  obtain ⟨d, -, hd⟩ := List.exists_of_findSome?_eq_some hl
  split at hd
  · exact .trigger h hd
  · cases hd

theorem graceExpiry {x : Nat} : Tidy (t.graceExpiry x) :=
  .ite h (.ite (.nextVictims (.releaseVictims h)) (.requestSave (.freezePair h)))

theorem takeMail {x : Nat} : Tidy (t.takeMail x).1 := .setHub h

theorem leanSave {x : Nat} : Tidy (t.leanSave x) := by
  unfold State.leanSave
  refine .ite h (.ite (.ite h (.setCtx h)) ?_)
  split
  · split
    · have hmail := Tidy.takeMail (x := x) (Tidy.of (.traceOpen (x := x) (typ := 5) (ba := (t.ctx x).fetch.pc) (.refl t)) h)
      exact .of (.freed (.refl _)) (.of (.freeWorker (.refl _)) (.setHub hmail))
    · exact .of (.fatalCtx (.refl _)) h
  · exact h

theorem leanRestore {x : Nat} {l : Launch} {w : SavedW} {r : LeanRec} {f : Fit} : Tidy (t.leanRestore x l w r f) :=
  .setCtx (.setPair (.setCore (.of (.markMembers (.refl _)) (.of (.reserve (.refl _)) h))))

theorem sealPair {p : Nat} {f : Frozen} : Tidy (t.sealPair p f) := by
  unfold State.sealPair
  extract_lets q ws tags id img m u1 hub u2 u3 u4 u5 d u6 pair u7
  have himage : Tidy u2 := .setHub (.of (.useFree (.refl _)) h)
  have hmail : Tidy u3 := .foldl himage fun _ _ h => .setHub (.takeMail h)
  have hctxs : Tidy u4 := .foldl hmail fun _ _ h => .setCtx h
  have hpair : Tidy u7 := .setPair (.setDie (.setCore (.setCore hctxs)))
  exact .foldl hpair fun _ _ h => .of (.freed (.refl _)) h

theorem imageSeal {p : Nat} : Tidy (t.imageSeal p) := by
  unfold State.imageSeal
  split
  · exact h
  · exact .ite h (.ite (.sealPair h) (.foldl h fun _ _ h => .of (.evictCopy (.refl _)) h))

theorem appendHeld {p : Nat} : Tidy (t.appendHeld p) := by
  unfold State.appendHeld
  split
  · exact h
  · split
    · exact h
    · split
      · exact h
      · exact .setHub (.of (.takePacket (.refl _)) h)

theorem discardImages {ids : List Nat} {cause : Nat} : Tidy (t.discardImages ids cause) := by
  unfold State.discardImages
  refine .setHub (.foldl (.foldl h fun _ _ h => ?_) fun _ _ h => .foldl h fun _ _ h => .of (.setGroup (.refl _)) h)
  split
  · exact .setPair h
  · exact h

theorem streamImage {n : Nat} : Tidy (t.streamImage n) := by
  unfold State.streamImage
  split
  · exact h
  · refine .askRelease (.setHub (.setPair (.setCore (.setCore (.foldl h fun _ _ h => ?_)))))
    split
    · exact .ite h (.setCtx h)
    · exact h

theorem restoreTogether {a : List Launch × List Nat} : Tidy (t.restoreTogether a) := by
  unfold State.restoreTogether
  split
  · exact h
  · split
    · exact .discardImages h
    · refine .foldl (.foldl (.foldl h fun _ _ h => .streamImage h) fun _ _ h => .setHub h) fun _ _ h => ?_
      split
      · split
        · exact .leanRestore h
        · exact .startRerun h
      · exact h

theorem stopCtx {x why : Nat} : Tidy (t.stopCtx x why) := .of (.traceOpen (.refl _)) (.setCtx (.of (.dropToken (.refl _)) h))

theorem dbgHalt {x : Nat} {b : Bool} : Tidy (t.dbgHalt x b) :=
  .ite h (.ite (.setCtx h) (.ite (.setCtx h) (.stopCtx (.setCtx h))))

theorem dbgStep {x : Nat} : Tidy (t.dbgStep x) := .ite (.setCtx h) h

theorem dbgWrite {x : Nat} {r : DbgDest} {v : BitVec 4096} : Tidy (t.dbgWrite x r v) := by
  unfold State.dbgWrite
  refine .ite h ?_
  cases r with
  | row r => exact .ite h (.ite (.of (.wakeNext (.refl _)) (.setCore (.setCtx h))) (.setCore (.setCtx h)))
  | _ => exact .setCtx h

theorem dbgEdit {x n : Nat} {v : BitVec 4096} : Tidy (t.dbgEdit x n v) := .ite h (.setCtx h)

theorem entryWrite {a x o : Nat} {v : Word} : Tidy (t.entryWrite a x o v) := by
  unfold State.entryWrite
  refine .ite (.setCtx h) (.ite ?_ (.of (.logged (.refl _)) h))
  split
  · exact .dbgEdit h
  · exact .of (.logged (.refl _)) h

theorem dbgctlWrite {a x : Nat} {v : BitVec 32} : Tidy (t.dbgctlWrite a x v) := by
  unfold State.dbgctlWrite
  refine .ite (.of (.logged (.refl _)) h) ?_
  extract_lets c u
  have hu : Tidy u := .ite (.setCtx h) h
  exact .ite (.dbgStep hu) (.dbgHalt hu)

theorem debugPort {a off : Nat} {v : Word} : Tidy (t.debugPort a off v) :=
  .ite (.of (.logged (.refl _)) h) (.ite (.dbgctlWrite h) (.ite (.setCtx h) (.ite (.setCtx h) (.ite (.ite (.of (.logged (.refl _))
    h) (.setCtx h)) (.ite (.entryWrite h) (.of (.logged (.refl _)) h))))))

theorem traceSample {d : Nat} : Tidy (t.traceSample d) := by
  unfold State.traceSample
  exact .ite h (.foldl (.setDie h) fun _ _ h => .ite (.of (.trace (.refl _)) h) h)

theorem appoint : Tidy t.appoint := .foldl h fun _ _ h => .setCtx h

theorem bootDidt {d : Nat} : Tidy (t.bootDidt d) := .ite (.of (.logged (.refl _)) (.setDie h)) (.setDie h)

theorem bootChain : Tidy t.bootChain := by
  unfold State.bootChain
  exact .ite h (.ite (.setHub h) (.foldl (.appoint (.setHub h)) fun _ _ h => .bootDidt h))

theorem ignore {a : Nat} {v : Word} : Tidy (t.ignore a v) := .of (.logged (.refl _)) h

theorem didtWrite {d : Nat} {v : Word} : Tidy (t.didtWrite d v) := .ite (.ignore h) (.setDie h)

theorem didtTick {d : Nat} : Tidy (t.didtTick d) := by
  unfold State.didtTick
  split
  · exact .setDie h
  · exact h

theorem pkgidWrite {v : Word} : Tidy (t.pkgidWrite v) := .ite (.ignore h) (.setHub h)

theorem startComm {x : Nat} {k : Code} {vw : Vector Word 64} : Tidy (t.startComm x k vw) := .setCtx (.setCore h)

theorem commStart {v : Word} : Tidy (t.commStart v) := by
  unfold State.commStart
  refine .ite (.ignore h) (.ite h ?_)
  split
  · exact .ite (.of (.logged (.refl _)) h) (.foldl h fun _ _ h => .startComm h)
  · exact .of (.logged (.refl _)) h

theorem trcctlWrite {d : Nat} {v : Word} : Tidy (t.trcctlWrite d v) := .ite (.ignore h) (.setDie h)

theorem lnkctlWrite {l : Fin 16} {a : Nat} {v : Word} : Tidy (t.lnkctlWrite l a v) := by
  unfold State.lnkctlWrite
  refine .ite (.ignore h) ?_
  split
  · exact .of (.bar (.refl _) (.linkMove (.refl _))) h
  · exact .of (.bar (.refl _) (.linkMove (.refl _))) h
  · exact .of (.bar (.refl _) (.ite (.refl _) (.linkDown (.refl _)))) h
  · exact h

theorem trcWrite {d o a : Nat} {v : Word} : Tidy (t.trcWrite d o a v) :=
  .ite (.ite (.ignore h) (.setDie h)) (.ite (.ite (.setDie h) (.ignore h)) (.setDie h))

theorem redWrite {o : Nat} {v : Word} : Tidy (t.redWrite o v) := by
  unfold State.redWrite
  exact .of (.bar (.refl _) (.redEntryWrite (.refl _))) h

theorem registerWrite {a : Nat} {v : Word} : Tidy (t.registerWrite a v) :=
  .ite (.setHub h) <| .ite (.setHub h) <| .ite (.pkgidWrite h) <| .ite (.didtWrite h) <| .ite (.setHub h) <| .ite (.setHub h) <|
  .ite (.ite (.trcctlWrite h) (.trcWrite h)) <|
  .ite (.setHub h) <| .ite (.setHub h) <| .ite (.setHub h) <| .ite (.setHub h) <| .ite (.commStart h) <|
  .ite (.lnkctlWrite h) <| .ite (.of (.routeWrite (.refl _)) h) <| .ite (.redWrite h) <| .ite (.debugPort h) (.ignore h)

theorem peerWrite {fn off : Nat} {bs : List Byte} : Tidy (t.peerWrite fn off bs) :=
  .ite (.of (.logged (.refl _)) h) (.of (.memWrite (.refl _)) h)

theorem attest {nonce : BitVec 256} : Tidy (t.attest nonce) := .same h rfl

theorem telemetry {d : Nat} {v : Sensors} : Tidy (t.telemetry d v) := .setDie (.ite h (.of (.memWrite (.refl _)) h))

theorem throttle {watts : Nat} : Tidy (t.throttle watts) := .setHub h

theorem softError {e : ErrSite} : Tidy (t.softError e) := by
  cases e with
  | context x => exact .ite h (.of (.fatalCtx (.refl _)) h)
  | line a => exact .ite h (.same h rfl)
  | corrected d => exact .setDie h

theorem arrayTick {x : Nat} : Tidy (t.arrayTick x) := .ite h (.setCtx h)

theorem sumTick {x : Nat} : Tidy (t.sumTick x) := by
  unfold State.sumTick
  dsimp only
  split
  · exact .ite h (.setCore h)
  · exact h

theorem dueNow {x : Nat} : Tidy (t.dueNow x).1 := .setCtx (.sumTick (.arrayTick h))

theorem wakesNext {x : Nat} {gs : List Nat} : Tidy (t.wakesNext x gs) := .foldl h fun _ _ h => .of (.wakeNext (.refl _)) h

theorem passCycle {x : Nat} : Tidy (t.passCycle x) := by
  have hland : Tidy ((t.dueNow x).1.landAll x (t.dueNow x).2) := .landAll (.dueNow h)
  exact .ite hland (.of (.passComplete (.refl _)) hland)

theorem endCycle {x : Nat} : Tidy (t.endCycle x) := by
  unfold State.endCycle
  refine .ite h ?_
  split
  · have hend (u : State) (k : Tidy u) : Tidy ((u.passCycle x).endBundle x) := .of (.endBundle (.refl _)) (.passCycle k)
    exact .ite (.passCycle (.setCtx (hend _ (.setCtx h)))) (hend _ (.setCtx h))
  · exact .wakesNext (.setCtx h)

theorem sumComplete {k : Nat} : Tidy (t.sumComplete k) := by
  unfold State.sumComplete
  dsimp only
  split
  · exact h
  · exact .ite h (.ite h (.setCore (.landAll (.setCtx h))))

theorem lift {x : Nat} {c : Stall} (he : t.lift x c = some u) : Tidy u := by
  unfold State.lift at he
  dsimp only at he
  split at he
  case h_3 =>
    split at he
    · cases he
    · cases he
      exact .setCtx h
  case h_5 | h_6 =>
    cases he
    exact .setCtx (.setCore h)
  case h_7 => cases he
  all_goals
    cases he
    exact .setCore h

theorem unlift {old : State} {x : Nat} : Tidy (t.unlift old x) := .setCtx (.setCore h)

theorem holdBundle {x : Nat} {fresh : Bool} {waited : Nat} {cs : List Stall} : Tidy (t.holdBundle x fresh waited cs) := .setCtx h

theorem eachCtx {f : State → Nat → State} (hf : ∀ u x, Tidy u → Tidy (f u x)) : Tidy (t.eachCtx f) := by
  exact .foldl h fun u _ k => hf u _ k

theorem eachCore {f : State → Nat → State} (hf : ∀ u x, Tidy u → Tidy (f u x)) : Tidy (t.eachCore f) := by
  exact .foldl h fun u _ k => hf u _ k

theorem eachPair {f : State → Nat → State} (hf : ∀ u x, Tidy u → Tidy (f u x)) : Tidy (t.eachPair f) := by
  exact .foldl h fun u _ k => hf u _ k

theorem eachDie {f : State → Nat → State} (hf : ∀ u x, Tidy u → Tidy (f u x)) : Tidy (t.eachDie f) := by
  exact .foldl h fun u _ k => hf u _ k

omit h in
theorem overList {len : State → Nat} {f : State → Nat → State} (hf : ∀ u x, Tidy u → Tidy (f u x)) (k i : Nat) (h : Tidy t) :
    Tidy (overList len f k i t) := by
  induction k generalizing i t with
  | zero => exact h
  | succ k ih => exact .ite (ih _ (hf _ _ h)) (ih _ (hf _ _ h))

theorem eachOf {len : State → Nat} {f : State → Nat → State} (hf : ∀ u x, Tidy u → Tidy (f u x)) : Tidy (t.eachOf len f) :=
  .overList hf _ _ h

theorem arrays : Tidy t.arrays := .eachCtx h fun _ _ h => .ite h (.of (.arrayBeat (.refl _)) h)

theorem wallTick {x : Nat} : Tidy (t.wallTick x) := .ite h (.setCtx h)

theorem fillTick {p : Nat} : Tidy (t.fillTick p) := by
  unfold State.fillTick
  refine .ite h (.foldl h fun _ _ h => ?_)
  split
  · exact .ite (.of (.fillComplete (.refl _)) h) (.setPair h)
  · exact h

theorem granuleTick {k : Nat} : Tidy (t.granuleTick k) := by
  have hwake : Tidy (t.wakeTick k) := .of (.wakeTick (.refl _)) h
  exact .foldl (.foldl hwake fun _ _ h => .of (.wakeDone (.refl _)) h) fun _ _ h => .of (.retain (.refl _)) h

theorem bucketTick {d : Nat} : Tidy (t.bucketTick d) := by
  unfold State.bucketTick
  extract_lets u b v w b'
  have hw : Tidy w := .of (.serveAll (.refill (.refl _))) (.setDie (.didtTick h))
  exact .ite (.setDie hw) hw

theorem mcastTick {d : Nat} : Tidy (t.mcastTick d) := .ite h (.setDie h)

theorem mcastLands {d : Nat} : Tidy (t.mcastLands d) :=
  .foldl h fun _ _ h => .foldl h fun _ _ h => .ite h (.of (.mcastLand (.refl _)) h)

theorem holdAccess {x n : Nat} : Tidy (t.holdAccess x n) := by
  have hacc : Tidy (t.access x n) := .of (.access (.refl _)) h
  unfold State.holdAccess
  split
  · exact h
  · exact .ite h (.ite h (.setPair hacc))

theorem memTick {x : Nat} : Tidy (t.memTick x) := by
  unfold State.memTick
  refine .ite (.foldl h fun _ _ h => .holdAccess h) (.eachOf (.foldl h fun _ _ h => .of (.access (.refl _)) h) fun _ _ h => ?_)
  exact .ite (.landLoad h) (.of (.endStore (.refl _)) h)

theorem engines {k : Nat} : Tidy (t.engines k) :=
  .foldl h fun _ _ h => .of (.copyLand (.copyGather (.copyStart (.refl _)))) h

theorem graph {i : Nat} : Tidy (t.graph i) := by
  unfold State.graph
  split
  · exact h
  · exact .foldl (.foldl h fun _ _ h => .foldl h fun _ _ h => .edgeComplete h) fun _ _ h => .nodeStart h

theorem traceTick {d : Nat} : Tidy (t.traceTick d) := .traceSample (.setDie h)

theorem lineUp : Tidy t.lineUp := .foldl (.same h rfl) fun _ _ h => .of (.prioritySwap (.refl _)) h

theorem nextCycle : Tidy t.nextCycle := .same h rfl

end

end Tidy

end Sys2Proof.Machine
end

section
/-! PROOF. The events of the machine keep device memory in canonical form: each is an outcome whose next state, if it has one, does. -/

namespace Sys2Proof.Machine

/-- A next state, if the outcome has one, has device memory in canonical form. -/
def EndsTidy (o : Host.Outcome State Fault Refusal) : Prop := ∀ t, o = .next t → Tidy t

namespace EndsTidy

section
variable {s t : State} {o p : Host.Outcome State Fault Refusal}

theorem next (h : Tidy t) : EndsTidy (.next t) := by
  rintro _ ⟨⟩
  exact h

theorem quiet (q : Quiet s t) (h : Tidy s) : EndsTidy (.next t) := .next (.of q h)

theorem calm (c : Calm s o) (h : Tidy s) : EndsTidy o := fun t e => (c t e).wf h

theorem ite {c : Prop} [Decidable c] (h : EndsTidy o) (k : EndsTidy p) : EndsTidy (if c then o else p) := by
  split
  · exact h
  · exact k

variable (h : Tidy s)
include h

/-! ### Shared windows -/

theorem wstep {ks : List WKind} {f : State → WMsg → State} {n : Nat} (hf : ∀ m, Quiet s (f (s.wtake n) m)) :
    EndsTidy (wstep ks f n s) := by
  unfold Machine.wstep
  refine .next ?_
  split
  · exact .of (hf _) h
  · exact h

theorem requestStep {k : WKind} {own : Bool} {n : Nat} : EndsTidy (requestStep k own n s) :=
  .wstep h fun _ => .ite (.homeArrive (.wtake (.refl s))) (.refl s)

theorem windowForwardedRequest {n : Nat} : EndsTidy (execWindowForwardedRequest n s) := by
  refine .wstep h fun m => ?_
  cases he : (s.wtake n).takeForward m with
  | none => exact .refl s
  | some u => exact .takeForward (.wtake (.refl s)) he

theorem windowInvalidation {n : Nat} : EndsTidy (execWindowInvalidation n s) := by
  refine .wstep h fun m => ?_
  cases he : (s.wtake n).takeInv m with
  | none => exact .refl s
  | some u => exact .takeInv (.wtake (.refl s)) he

theorem windowAcknowledgement {n : Nat} : EndsTidy (execWindowAcknowledgement n s) :=
  .wstep h fun _ => .ite (.collect (.wtake (.refl s))) (.takeAck (.wtake (.refl s)))

theorem windowData {n : Nat} : EndsTidy (execWindowData n s) := .wstep h fun _ => .takeData (.wtake (.refl s))

theorem windowNotBusy {n : Nat} : EndsTidy (execWindowNotBusy n s) := .wstep h fun _ => .notBusy (.wtake (.refl s))

theorem windowWriteback {n : Nat} : EndsTidy (execWindowWriteback n s) := .wstep h fun _ => .takeWriteBack (.wtake (.refl s))

theorem windowHomeAck {n : Nat} : EndsTidy (execWindowHomeAck n s) := .wstep h fun _ => .takeHomeAck (.wtake (.refl s))

theorem directoryRecall {d : Fin 12} : EndsTidy (execDirectoryRecall d s) := by
  refine .next (.ite h ?_)
  split
  · exact h
  · exact .of (.recallCopies (.refl s)) h

/-! ### Messages and packets -/

theorem barrierArrival {m : BarrierMsg} : EndsTidy (execBarrierArrival m s) := by
  unfold execBarrierArrival
  refine .next (.of ?_ h)
  cases m with
  | listed n =>
    dsimp only
    split
    · split
      · exact .arrive (.takeMessage (.refl s))
      · exact .takeMessage (.refl s)
    · exact .refl s
  | outside pkg l g m =>
    dsimp only
    split
    · exact .groupFrom (.refl s)
    · exact .refl s

theorem barrierSignal {m : BarrierMsg} : EndsTidy (execBarrierSignal m s) := by
  unfold execBarrierSignal
  refine .next (.of ?_ h)
  cases m with
  | listed n =>
    dsimp only
    split
    · exact .ite (.refl s) (.tellPhase (.takeMessage (.refl s)))
    · exact .refl s
  | outside pkg l g m =>
    dsimp only
    split
    · exact .phaseFrom (.refl s)
    · exact .pendRefused (.refl s)
    · exact .refl s

theorem serve {n : Nat} {k : PType} {f : State → Hdr → Packet → State} (hf : ∀ u a p, Quiet s u → Quiet s (f u a p)) :
    EndsTidy (serve n k f s) := by
  unfold Machine.serve
  refine .next (.of ?_ h)
  split
  · exact hf _ _ _ (.fillExport (.fillExport (.takePacket (.refl s))))
  · exact .refl s

theorem remoteRead {n : Nat} : EndsTidy (execRemoteRead n s) := by
  refine .serve h fun u a p k => ?_
  split
  · exact .respond (.noteMiss k)
  · exact .respond (.atSource k)

theorem remoteWrite {n : Nat} : EndsTidy (execRemoteWrite n s) := by
  refine .serve h fun u a p k => .ite (.remoteBlock (.fillExport k)) ?_
  split
  case h_1 => exact .respond (.noteMiss k)
  case h_2 as _ =>
    have hset (cs : List Host.Cell) : Quiet s ((u.atSource a as).memWrite cs) := .memWrite (.atSource k)
    refine .respond (.ite ?_ (hset _))
    exact .same (hset _) rfl rfl rfl rfl

theorem remoteAtomic {n : Nat} : EndsTidy (execRemoteAtomic n s) := by
  refine .serve h fun u a p k => ?_
  dsimp only
  split
  · exact .respond k
  · split
    · exact .respond (.noteMiss k)
    · exact .ite (.respond k) (.respond (.memWrite (.atSource k)))

theorem takeResponse {n : Nat} {k : PType} : EndsTidy (takeResponse n k s) := by
  unfold Machine.takeResponse
  refine .next (.of ?_ h)
  split
  · exact .ite (.refl s) (.answered (.takePacket (.refl s)))
  · exact .refl s

theorem channelEvent {n : Nat} {arrival : Bool} : EndsTidy (channelEvent n arrival s) := by
  unfold Machine.channelEvent
  refine .next (.of (.ite ?_ ?_) h)
  · split
    · exact .ite (.stepChannel (.takeMessage (.refl s))) (.refl s)
    · exact .ite (.refl s) (.stepChannel (.takeMessage (.refl s)))
    · exact .refl s
  · dsimp only
    split
    · exact .refl s
    · exact .ite (.refl s) (.respond (.stepChannel (.takePacket (.refl s))))

theorem reduceContribution {n : Nat} : EndsTidy (execReduceContribution n s) := by
  unfold execReduceContribution
  refine .next (.of ?_ h)
  split
  · exact .refl s
  · refine .ite ?_ (.setRed (.takePacket (.refl s)))
    dsimp only
    split
    · exact .localContrib (.takePacket (.refl s))
    · exact .childContrib (.takePacket (.refl s))

theorem reduceResult {n : Nat} : EndsTidy (execReduceResult n s) := by
  unfold execReduceResult
  refine .next (.of ?_ h)
  split
  · exact .refl s
  · split
    · exact .ite (.refl s) (.resultHere (.takePacket (.refl s)))
    · exact .resultDown (.takePacket (.refl s))

/-! ### Links -/

theorem linkStep {l : Fin 16} {st : LinkState} {f : Link → Link} : EndsTidy (linkStep l st f s) := .quiet (.linkMove (.refl s)) h

theorem linkFlitReceive {l : Fin 16} {f : LinkFlit} : EndsTidy (execLinkFlitReceive l f s) := by
  unfold execLinkFlitReceive
  refine .next (.of (.ite (.refl s) (.ite (.setLink (.refl s)) ?_)) h)
  dsimp only
  split
  · exact .setLink (.refl s)
  · exact .ite (.takeFlit (.setLink (.refl s))) (.setLink (.refl s))

theorem linkReplay {l : Fin 16} {seq : BitVec 12} : EndsTidy (execLinkReplay l seq s) := by
  unfold execLinkReplay
  refine .next (.of ?_ h)
  dsimp only
  split
  · exact .ite (.refl s) (.setLink (.refl s))
  · exact .refl s

theorem linkTrainComplete {l : Fin 16} {v : LinkView} : EndsTidy (execLinkTrainComplete l v s) :=
  .quiet (.ite (.refl s) (.ite (.linkDown (.refl s)) (.setLink (.refl s)))) h

theorem linkFifoWords {n : Nat} : EndsTidy (execLinkFifoWords n s) := by
  have hack (a : Hdr) (e : Nat) : Tidy ((s.takePacket n).respond a .ack e []) := .of (.respond (.takePacket (.refl s))) h
  unfold execLinkFifoWords
  refine .next ?_
  split
  · exact h
  · extract_lets
    split
    · exact h
    · refine .ite h ?_
      extract_lets
      split
      · exact .setCtx (hack _ _)
      · exact .of (.setLink (.refl _)) (hack _ _)

theorem linkFifoCredit {n : Nat} : EndsTidy (execLinkFifoCredit n s) := by
  have hack (a : Hdr) (e : Nat) : Tidy ((s.takePacket n).respond a .ack e []) := .of (.respond (.takePacket (.refl s))) h
  unfold execLinkFifoCredit
  refine .next ?_
  split
  · exact h
  · extract_lets
    split
    · exact h
    · refine .ite h ?_
      extract_lets
      split
      · exact .setCtx (hack _ _)
      · exact hack _ _

/-! ### Issue, traps and the watchdog -/

theorem present {kind : Nat → Bool} : EndsTidy (present kind s) := by
  unfold Machine.present
  refine .next (.ite h (.ite ?_ h))
  dsimp only
  split
  · exact .setCtx (.of (.useTlb (.refl s)) h)
  · exact .of (.bundleTrap (.refl s)) h
  · exact .of (.fatalCtx (.logged (.refl s))) h
  · exact .of (.heldBy (.applyNeed (.refl s))) h
  · exact .of (.heldBy (.refl s)) h

theorem impreciseFaultTake : EndsTidy (execImpreciseFaultTake s) := by
  unfold execImpreciseFaultTake
  refine .next ?_
  dsimp only
  split
  · exact h
  · exact .ite (.of (.takeTrap (.refl _)) (.setCtx h)) h

theorem userInterruptTake : EndsTidy (execUserInterruptTake s) := by
  unfold execUserInterruptTake
  refine .next ?_
  dsimp only
  split
  · exact h
  · have hdrop : Tidy (s.dropToken s.cur) := .of (.dropToken (.refl s)) h
    exact .ite (.setCtx hdrop) h

theorem execY {i : Instr} : EndsTidy (execY i s) := by
  cases i
  case acq => exact .calm .acq h
  case rel => exact .calm .rel h
  case fence => exact .calm .fence h
  case fpost => exact .calm .fpost h
  case fwait => exact .calm .fwait h
  case bara => exact .calm .bara h
  case barw => exact .calm .barw h
  case live => exact .calm .live h
  case dead => exact .calm .dead h
  case waiti => exact .calm .waiti h
  all_goals exact .next h

theorem linWatchdog : EndsTidy (execLinWatchdog s) := by
  have htrap (u : State) (i : TrapInfo) (k : Tidy u) : Tidy (({ u with slot := .S } : State).slotTrap i) :=
    .of (.slotTrap (.refl _)) (.same k rfl)
  unfold execLinWatchdog
  refine .next (.ite (htrap _ _ (.setCtx h)) (.ite h ?_))
  split
  · exact h
  · dsimp only
    split
    · exact htrap _ _ (.setCtx h)
    · split
      case h_1 u hu =>
        have hy : Tidy u := by
          refine EndsTidy.execY ?_ u hu
          exact h
        refine .ite h ?_
        split
        · exact htrap _ _ (.setCtx hy)
        · exact hy
      · exact h

/-! ### Workers, images and registers -/

theorem doorbell {fn q : Nat} {v : BitVec 32} : EndsTidy (execDoorbell fn q v s) := by
  have hq : Quiet s (s.setQ q 159 128 v.toNat) := .setQ (.refl s)
  exact .quiet (.ite (.same (.refl s) rfl rfl rfl rfl) (.ite (.logged (.refl s)) (.ite (.queueError hq) hq))) h

theorem workerPlace {x : CtxId} : EndsTidy (execWorkerPlace x s) := by
  unfold execWorkerPlace
  refine .next ?_
  split
  · split
    · exact .ite (.placeFresh h) h
    · exact h
  · split
    · split
      · refine .ite h (.ite (.restoreTogether h) ?_)
        split
        · exact .startRerun (.of (.dropSaved (.refl s)) h)
        · exact h
      · exact h
    · exact h
  · exact h

theorem leanRestore {x : CtxId} {n : Nat} : EndsTidy (execLeanRestore x n s) := by
  unfold execLeanRestore
  refine .next (.ite h ?_)
  split
  · exact h
  · split
    · refine .ite (.restoreTogether h) ?_
      split
      · exact .leanRestore (.of (.dropSaved (.refl s)) h)
      · exact h
    · exact h

theorem restoreImage {p : PairId} {n : Nat} : EndsTidy (execRestoreImage p n s) := by
  unfold execRestoreImage
  refine .next (.ite (.thaw h) (.ite h ?_))
  split
  · exact h
  · exact .restoreTogether h

theorem barred {f : State → State} (hf : Tidy (f s)) : EndsTidy (.next (s.bar f)) := .next (.ite hf (.same h rfl))

theorem registerWrite {a : Nat} {v : BitVec 64} : EndsTidy (execRegisterWrite a v s) :=
  .ite (.doorbell h) (.barred h (.registerWrite h))

end

end EndsTidy

end Sys2Proof.Machine
end

section
/-! PROOF. O52: every instruction and event, every turn of a context and every tick of the clock keep device memory in canonical form. -/

namespace Sys2Proof.Machine

/-! ### One instruction or event -/

namespace EndsTidy

/-- What the step takes from `todo` keeps the canonical form: an instruction of the code stream through `Calm.exec`, an event by its own
lemma. -/
theorem exec {i : Instr} {s : State} (h : Tidy s) : EndsTidy (exec i s) := by
  cases he : encode i with
  | some e => exact .calm (.exec he) h
  | none =>
    cases i
    all_goals dsimp only [Machine.exec]
    case addImm | subImm | mulImm | minImm | maxImm | andImm | orImm | xorImm | shlImm | shrImm | shraImm => exact .calm .aluImm h
    case movi => exact .calm .movi h
    case mbreq => exact .calm .mbreq h
    case mbtake => exact .calm .mbtake h
    case fpost => exact .calm .fpost h
    case mclaim => exact .calm .mclaim h
    case xsvImm => exact .calm (.xsv .ok) h
    case xvsImm => exact .calm (.xvs .ok) h
    case tlbinvEntry | tlbinvAsid | tlbinvAll => exact .calm .tlbinvs h
    case tbaWrite => exact .calm .tba h
    case doorbell => exact .doorbell h
    case workerPlace => exact .workerPlace h
    case launchComplete => exact .next (.launchComplete h)
    case heldCompletionWrite => exact .next (.writeHeld h)
    case msixCoalesceExpiry => exact .next (.coalesced h)
    case graphEdgeComplete => exact .next (.edgeComplete h)
    case nodeStart => exact .next (.nodeStart h)
    case preemptTrigger => exact .next (.preempt h)
    case imageSeal => exact .next (.imageSeal h)
    case heldResponseAppend => exact .next (.appendHeld h)
    case leanRestore => exact .leanRestore h
    case restoreImage => exact .restoreImage h
    case collisionPrioritySwap => exact .quiet (.prioritySwap (.refl s)) h
    case granuleRetentionEntry => exact .quiet (.retain (.refl s)) h
    case retentionWakeComplete => exact .quiet (.wakeDone (.refl s)) h
    case tokenRefill => exact .quiet (.refill (.refl s)) h
    case tokenRequestServed => exact .quiet (.serveTokens (.refl s)) h
    case mldFillComplete => exact .quiet (.fillComplete (.refl s)) h
    case summaryOpComplete => exact .next (.sumComplete h)
    case loadLand => exact .next (.landLoad h)
    case multicastStoreLand => exact .quiet (.mcastLand (.refl s)) h
    case tlbWalkComplete => exact .quiet (.walkDone (.refl s)) h
    case copyEngineStart => exact .quiet (.copyStart (.refl s)) h
    case copyDataLand => exact .quiet (.copyLand (.refl s)) h
    case copyComplete => exact .quiet (.copyComplete (.refl s)) h
    case barrierArrival => exact .barrierArrival h
    case flagIncrement => exact .quiet (.flagArrives (.refl s)) h
    case windowRead | windowReadForOwnership | windowUpgrade => exact .requestStep h
    case windowForwardedRequest => exact .windowForwardedRequest h
    case windowInvalidation => exact .windowInvalidation h
    case windowAcknowledgement => exact .windowAcknowledgement h
    case windowData => exact .windowData h
    case windowNotBusy => exact .windowNotBusy h
    case windowWriteback => exact .windowWriteback h
    case windowHomeAck => exact .windowHomeAck h
    case directoryRecall => exact .directoryRecall h
    case remoteRead => exact .remoteRead h
    case remoteWrite => exact .remoteWrite h
    case remoteAtomic => exact .remoteAtomic h
    case readData | atomicAnswer | acknowledgement => exact .takeResponse h
    case fabricForward => exact .quiet (.forward (.refl s)) h
    case linkFlitReceive => exact .linkFlitReceive h
    case linkReplay => exact .linkReplay h
    case linkCrcThreshold => exact .ite (.linkStep h) (.next h)
    case linkLaneLoss => exact .linkStep h
    case linkReplayLimit => exact .ite (.linkStep h) (.next h)
    case linkTrainComplete => exact .linkTrainComplete h
    case linkTrainTimeout => exact .quiet (.ite (.linkDown (.refl s)) (.refl s)) h
    case linkHandshakeComplete => exact .linkStep h
    case lnkctlRetrain => exact .quiet (.bar (.refl s) (.linkMove (.refl s))) h
    case lnkctlBringUp => exact .quiet (.bar (.refl s) (.linkMove (.refl s))) h
    case lnkctlForceDown => exact .quiet (.bar (.refl s) (.ite (.refl s) (.linkDown (.refl s)))) h
    case linkFifoWords => exact .linkFifoWords h
    case channelArrival | channelCredit => exact .channelEvent h
    case reduceContribution => exact .reduceContribution h
    case reduceResult => exact .reduceResult h
    case reductionTableWrite => exact .quiet (.bar (.refl s) (.redEntryWrite (.refl s))) h
    case routeTableWrite => exact .quiet (.bar (.refl s) (.routeWrite (.refl s))) h
    case routeEntryApply => exact .quiet (.routeApply (.refl s)) h
    case didtWrite => exact .barred h (.didtWrite h)
    case pkgidWrite => exact .barred h (.pkgidWrite h)
    case commctlStart => exact .barred h (.commStart h)
    case trcctlWrite => exact .barred h (.trcctlWrite h)
    case registerWrite => exact .registerWrite h
    case peerWrite => exact .barred h (.peerWrite h)
    case peerRead => exact .next (.same h rfl)
    case attestationRequest => exact .barred h (.attest h)
    case telemetryRecord => exact .next (.telemetry h)
    case powerThrottle => exact .next (.throttle h)
    case traceSample => exact .next (.traceSample h)
    case uncorrectableError => exact .next (.softError h)
    case dbgHalt => exact .barred h (.dbgHalt h)
    case dbgStep => exact .barred h (.dbgStep h)
    case dbgRegisterWrite => exact .barred h (.dbgWrite h)
    case dbgLatchEdit => exact .barred h (.dbgEdit h)
    case accessAtPointOfCoherence => exact .quiet (.access (.refl s)) h
    case storePerformed => exact .quiet (.endStore (.refl s)) h
    case lineEvictionWriteBack => exact .quiet (.discardLine (.refl s)) h
    case linkFifoCredit => exact .linkFifoCredit h
    case barrierSignal => exact .barrierSignal h
    case admitLaunch => exact .next (.admitNext h)
    case workerRetire => exact .next (.retire h)
    case graceWindowExpiry => exact .next (.graceExpiry h)
    case leanSave => exact .next (.leanSave h)
    case dictIssue | repeatIssue | literalIssue => exact .present h
    case fetchFillComplete => exact .quiet (.fetchFill (.refl s)) h
    case resultWriteback => exact .next (.endCycle h)
    case impreciseFaultTake => exact .impreciseFaultTake h
    case userInterruptTake => exact .userInterruptTake h
    case arrayBeat => exact .quiet (.arrayBeat (.refl s)) h
    case matrixPassComplete => exact .quiet (.passComplete (.refl s)) h
    case mstRowLand => exact .next (.landRows h)
    case linWatchdog => exact .linWatchdog h
    case boot => exact .next (.bootChain h)
    all_goals exact nomatch he

end EndsTidy

/-! ### A context's turn -/

namespace Tidy

theorem goes {o : Host.Outcome State Fault Refusal} {t : State} (h : Tidy t) (ho : EndsTidy o) : Tidy (goes o t) := by
  cases o with
  | next u => exact ho u rfl
  | _ => exact h

theorem doFor {f : State → Host.Outcome State Fault Refusal} {t : State} {x : Nat} (h : Tidy t) (hf : ∀ u, Tidy u → EndsTidy (f u)) :
    Tidy (t.doFor x f) := by
  have hcur : Tidy ({ t with cur := x } : State) := .same h rfl
  exact .goes hcur (hf _ hcur)

/-- Every event of a list keeps the canonical form. -/
def EachEndsTidy : List (State → Host.Outcome State Fault Refusal) → Prop
  | [] => True
  | f :: fs => (∀ u, Tidy u → EndsTidy (f u)) ∧ EachEndsTidy fs

/-- One after another, of a list of events at most one is taken: what comes after it sees the count changed. -/
theorem foldl_firstOf {len : State → Nat} {n : Nat} {fs : List (State → Host.Outcome State Fault Refusal)} {t : State} (h : Tidy t)
    (hfs : EachEndsTidy fs) : Tidy (fs.foldl (fun t f => if len t < n then t else Machine.goes (f t) t) t) := by
  induction fs generalizing t with
  | nil => exact h
  | cons f fs ih =>
    obtain ⟨hf, hrest⟩ := hfs
    exact ih (.ite h (.goes h (hf t h))) hrest

theorem firstOf {len : State → Nat} {fs : List (State → Host.Outcome State Fault Refusal)} {t : State} (h : Tidy t)
    (hfs : EachEndsTidy fs) : Tidy (t.firstOf len fs) :=
  .foldl_firstOf h hfs

section
variable {s t u : State} (h : Tidy t)
include h

theorem presentWord {x : Nat} : Tidy (t.presentWord x) := by
  unfold State.presentWord
  split
  · refine .doFor h fun u hu => ?_
    split
    · exact .present hu
    · split
      · exact .present hu
      · exact .present hu
  · exact .doFor h fun _ hu => .present hu

theorem opened {x : Nat} (he : t.opened x = some u) : Tidy u := by
  unfold State.opened at he
  dsimp only at he
  split at he
  · cases he
  · split at he
    · split at he
      · cases he
      · cases he
        exact .setCtx h
    · split at he
      · cases he
      · split at he
        · cases he
          exact .presentWord h
        · cases he

end

/-! ### A bundle's end -/

theorem loopEnd {t : State} {x ba a n : Nat} (h : Tidy t) : Tidy (t.loopEnd x ba a n).1 := by
  induction n generalizing t with
  | zero => exact h
  | succ n ih =>
    unfold State.loopEnd
    dsimp only
    split
    · exact h
    · split
      · exact .setCtx h
      · exact ih (.of (.popLoop (.refl _)) h)

theorem fillBuffer {t : State} {x : Nat} (h : Tidy t) : Tidy (t.fillBuffer x) := .ite h (.setCtx (.setCtx h))

theorem goOn {t : State} {x : Nat} {i : Iss} (h : Tidy t) : Tidy (t.goOn x i) := by
  unfold State.goOn
  extract_lets c
  split
  · exact .setCtx (.of (.popFor (.refl _)) h)
  · exact .ite (.setCtx h) (.setCtx (.ite (.fillBuffer (.loopEnd h)) (.loopEnd h)))

theorem finishBundle {t : State} {x : Nat} (h : Tidy t) : Tidy (t.finishBundle x) := by
  unfold State.finishBundle
  extract_lets c
  split
  · exact h
  · extract_lets k u late c' v left gone done c''
    have hleft : Tidy left := .ite (.of (.leaveHandler (.refl _)) (.setCtx (.setCore h))) (.setCtx (.setCore h))
    have hgone : Tidy gone := .ite hleft (.goOn hleft)
    have hdone : Tidy done := .ite (.of (.finish (.refl _)) hgone) hgone
    split
    · exact .ite (.setCtx hdone) hdone
    · exact hdone

section
variable {ex : Exec} (hex : ∀ i s, Tidy s → EndsTidy (ex i s)) {s t : State}
include hex

theorem slotHolds {x : Nat} {i : Instr} (n : Nat) (h : Tidy s) : Tidy (State.slotHolds ex x i n s).1 := by
  induction n generalizing s with
  | zero => exact h
  | succ n ih =>
    have hrun : Tidy (Machine.goes (ex i s) s) := .goes h (hex i s h)
    unfold State.slotHolds
    dsimp only
    split
    · exact h
    · split
      · exact .setCtx hrun
      · next he => exact .unlift (ih (.lift (.setCtx hrun) he))
    · exact h

theorem holds {x : Nat} (b : Bundle) (h : Tidy s) : Tidy (State.holds ex x b s).1 := by
  induction b generalizing s with
  | nil => exact h
  | cons p b ih => exact ih (.slotHolds hex _ (.same h rfl))

theorem runSlots {x : Nat} (b : Bundle) (h : Tidy s) : Tidy (State.runSlots ex x b s).1 := by
  induction b generalizing s with
  | nil => exact .finishBundle h
  | cons p b ih =>
    unfold State.runSlots
    extract_lets c
    split
    · exact h
    · extract_lets u v
      have hv : Tidy v := h
      clear_value v
      split
      · exact .stopCtx (.setCtx hv)
      · split
        · exact .of (.slotTrap (.refl v)) hv
        · have hrun : Tidy (Machine.goes (ex p.2 v) v) := .goes hv (hex p.2 v hv)
          split
          · exact hrun
          · exact hrun
          · split
            · exact hrun
            · exact ih hrun

theorem presentBundle {x : Nat} {fresh : Bool} (h : Tidy s) : Tidy (s.presentBundle ex x fresh).1 := by
  unfold State.presentBundle
  split
  · exact h
  · extract_lets waited m u ask q r m' v k c w e k'
    have hu : Tidy u := .setCtx h
    have hq : Tidy q.1 := .holds hex _ hu
    have hr : Tidy r.1 := by
      unfold r
      split
      · exact .holds hex _ (.of (.serveAll (.refl _)) hq)
      · exact hq
    split
    · exact .setCtx hu
    · split
      · exact .holdBundle hr
      · have he : Tidy e.1 := .runSlots hex _ (.setCtx hr)
        split
        · exact .holdBundle hr
        · split
          · exact .holdBundle hr
          · exact .setCore he

theorem runTurn {x : Nat} (h : Tidy s) : Tidy (s.runTurn ex x).1 := by
  have hwatch : Tidy (s.doFor x execLinWatchdog) := .doFor h fun _ k => .linWatchdog k
  unfold State.runTurn
  dsimp only
  split
  · split
    · exact hwatch
    · exact .presentBundle hex (.setCtx h)
  · split
    · exact h
    · split
      · exact hwatch
      · split
        · exact .doFor h fun _ k => .impreciseFaultTake k
        · split
          · exact .doFor h fun _ k => .userInterruptTake k
          · split
            · exact .presentBundle hex (.presentWord h)
            · exact .presentWord h

theorem turn {x : Nat} (h : Tidy s) : Tidy (s.turn ex x) := by
  unfold State.turn
  refine .ite h (.ite (.setCtx h) (.ite (.setCtx h) ?_))
  split
  · exact .setCtx h
  · exact .setCtx h
  · exact .ite (.stopCtx (.runTurn hex h)) (.runTurn hex h)
  · exact h

end

/-! ### A tick of the clock -/

section
variable {ex : Exec} {s : State} (h : Tidy s)
include h

theorem foresee {x : Nat} : Tidy (s.foresee ex x) := by
  unfold State.foresee
  split
  · exact h
  · split
    · exact h
    · refine .foldl h fun u a hu => ?_
      split
      · exact .of (.askTokens (.refl u)) hu
      · refine .same (.of (.applyNeed (.refl _)) ?_) rfl
        exact .same hu rfl
      · exact hu

theorem foreseeAll : Tidy (s.foreseeAll ex) := .foldl h fun _ _ k => .ite k (.foresee k)

theorem windowNet : Tidy s.windowNet :=
  .eachOf h fun _ _ h => .firstOf h
    ⟨fun _ h => .requestStep h, fun _ h => .requestStep h, fun _ h => .requestStep h, fun _ h => .windowForwardedRequest h,
      fun _ h => .windowInvalidation h, fun _ h => .windowAcknowledgement h, fun _ h => .windowData h, fun _ h => .windowNotBusy h,
      fun _ h => .windowWriteback h, fun _ h => .windowHomeAck h, trivial⟩

theorem recalls : Tidy s.recalls := .foldl h fun _ _ h => .goes h (.directoryRecall h)

theorem messages : Tidy s.messages :=
  .eachOf h fun _ _ h => .firstOf h
    ⟨fun _ h => .barrierArrival h, fun _ h => .barrierSignal h, fun u h => .quiet (.flagArrives (.refl u)) h, fun _ h => .channelEvent h,
      fun _ h => .channelEvent h, trivial⟩

theorem packets : Tidy s.packets :=
  .eachOf h fun _ _ h => .firstOf h
    ⟨fun _ h => .remoteRead h, fun _ h => .remoteWrite h, fun _ h => .remoteAtomic h, fun _ h => .takeResponse h,
      fun _ h => .takeResponse h, fun _ h => .takeResponse h, fun u h => .quiet (.flagArrives (.refl u)) h,
      fun _ h => .channelEvent h, fun _ h => .channelEvent h, fun _ h => .reduceContribution h, fun _ h => .reduceResult h,
      fun _ h => .linkFifoWords h, fun _ h => .linkFifoCredit h, trivial⟩

theorem fabric : Tidy s.fabric := by
  refine .foldl (.eachOf (.eachOf h ?_) ?_) fun u l hu => ?_
  · exact fun u _ h => .of (.forward (.refl u)) h
  · exact fun u _ h => .of (.routeApply (.refl u)) h
  · extract_lets sent crc replay
    have hsent : Tidy sent := .eachCtx hu fun v _ h => .ite (.of (.sendWords (.refl v)) h) h
    have hcrc : Tidy crc := .goes hsent (.ite (.linkStep hsent) (.next hsent))
    have hreplay : Tidy replay := .goes hcrc (.ite (.linkStep hcrc) (.next hcrc))
    exact .of (.settleDispute (.refl replay)) hreplay

theorem dispatchOne {d : Nat} : Tidy (s.dispatchOne d) := by
  unfold State.dispatchOne
  split
  · exact .goes h (.workerPlace h)
  · exact .goes h (.workerPlace h)
  · exact .goes h (.leanRestore h)
  · exact .goes h (.restoreImage h)
  · exact h

theorem schedule : Tidy s.schedule := by
  unfold State.schedule
  extract_lets s1 s2 s3 s4 s5 s6 s7 s8 s9 s10 s11 s12 s13
  have h1 : Tidy s1 := .eachCtx h fun _ _ h => .retire h
  have h2 : Tidy s2 := .eachCtx h1 fun _ _ h => .leanSave h
  have h3 : Tidy s3 := .eachPair h2 fun _ _ h => .appendHeld h
  have h4 : Tidy s4 := .eachPair h3 fun _ _ h => .imageSeal h
  have h5 : Tidy s5 := .eachPair h4 fun _ _ h => .thaw h
  have h6 : Tidy s6 := .eachCtx h5 fun _ _ h => .graceExpiry h
  have h7 : Tidy s7 := .admitNext h6
  have h8 : Tidy s8 := .foldl h7 fun _ _ h => .graph h
  have h9 : Tidy s9 := .eachDie h8 fun _ _ h => .dispatchOne h
  have h10 : Tidy s10 := .waitTick h9
  have h11 : Tidy s11 := .foldl h10 fun _ _ h => .preempt h
  have h12 : Tidy s12 := .foldl h11 fun _ _ h => .launchComplete h
  have h13 : Tidy s13 := .foldl h12 fun _ _ h => .writeHeld h
  exact .foldl h13 fun _ _ h => .coalesced h

theorem tick : Tidy (s.tick ex) := by
  unfold State.tick
  refine .ite (.bootChain h) ?_
  extract_lets s1 s2 s3 s4 s5 s6 s7 s8 s9 s10 s11 s12 s13 s14 s15 s16 s17 s18 s19 s20 s21 s22 s23
  have h1 : Tidy s1 := .eachDie h fun _ _ h => .traceTick h
  have h2 : Tidy s2 := .eachCtx h1 fun _ _ h => .wallTick h
  have h3 : Tidy s3 := .eachCtx h2 fun _ _ h => .endCycle h
  have h4 : Tidy s4 := .arrays h3
  have h5 : Tidy s5 := .eachPair h4 fun _ _ h => .fillTick h
  have h6 : Tidy s6 := .eachCore h5 fun _ _ h => .granuleTick h
  have h7 : Tidy s7 := .eachCtx h6 fun _ _ h => .ite (.endCycle h) h
  have h8 : Tidy s8 := .eachCtx h7 fun u _ h => .ite (.of (.fetchFill (.refl u)) h) h
  have h9 : Tidy s9 := .eachDie h8 fun u _ h =>
    .eachOf (.of (.forgetWalkFaults (.refl u)) h) fun v _ h => .of (.walkDone (.refl v)) h
  have h10 : Tidy s10 := .eachCtx h9 fun _ _ h => .memTick h
  have h11 : Tidy s11 := .eachDie h10 fun _ _ h => .mcastTick h
  have h12 : Tidy s12 := .eachCore h11 fun _ _ h => .engines h
  have h13 : Tidy s13 := .eachDie h12 fun _ _ h => .mcastLands h
  have h14 : Tidy s14 := .eachCore h13 fun u _ h => .of (.copyComplete (.copyComplete (.refl u))) h
  have h15 : Tidy s15 := .windowNet h14
  have h16 : Tidy s16 := .recalls h15
  have h17 : Tidy s17 := .eachCtx h16 fun u _ h => .of (.settleDrops (.refl u)) h
  have h18 : Tidy s18 := .messages h17
  have h19 : Tidy s19 := .eachPair h18 fun u _ h => .of (.edgeSend (.refl u)) h
  have h20 : Tidy s20 := .packets h19
  have h21 : Tidy s21 := .fabric h20
  have h22 : Tidy s22 := .schedule h21
  have h23 : Tidy s23 := .foreseeAll (.lineUp (.nextCycle h22))
  exact .eachDie h23 fun _ _ h => .bucketTick h

end
end Tidy

/-! ### A step -/

theorem EndsTidy.step {s : State} (h : Tidy s) : EndsTidy (step s) := by
  unfold Machine.step stepWith
  split
  · exact .exec (.same h rfl)
  · split
    · exact .next (.turn (fun _ _ => .exec) (.same h rfl))
    · exact .next (.tick h)

/-- Settles O52: the canonical form is kept by whatever a step runs, a line of `todo`, a context's turn or a tick of the clock. -/
theorem memoryStaysCanonical : Obligations.MemoryStaysCanonical := by
  unfold Obligations.MemoryStaysCanonical
  exact fun _ t h hs => EndsTidy.step h t hs

end Sys2Proof.Machine
end
